-- ==== Sys2Proof/Word.lean ====
section
/-!
DEFINITION. The word types of the ZZ-960 and the plainest facts about them (R3, R5): little-endian bytes, words of 32,
64 and 128 bits. Everything a test could show wrong lives elsewhere.
-/
namespace Sys2Proof

/-- One byte of memory. -/
abbrev Byte := BitVec 8
/-- A 32-bit word: a v register, a code address (R186). -/
abbrev W32 := BitVec 32
/-- A 64-bit word: an s register, an effective address of .g. -/
abbrev W64 := BitVec 64
/-- A 128-bit operand (R203, R209). -/
abbrev W128 := BitVec 128

/-- The name of one thread: the number of its team and its tid. The team number is the model's own (teams are numbered in
the order in which launches form them); the program sees tix and tid. -/
structure TRef where
  team : Nat
  tid  : Nat
  deriving DecidableEq, Repr

end Sys2Proof
end

