-- ==== Sys2Proof/Syntax.lean ====
section
/-!
DEFINITION. The syntax of Jostan (R129-R149) and of the module's other steps: one constructor of `Instr` for each row of
the opcode table. An instruction row carries the fields of its words under the manual's own names (R131, R133); an event
row carries what the outside world, or the state, says about that event.
-/
namespace Sys2Proof

/-- R94, R138: the rounding modes, coded as the rnd field. -/
inductive Rnd where
  | rne | rz | rd | ru
  deriving DecidableEq, Repr

/-- R131: the fields of a base word besides L and the opcode. -/
structure Base where
  /-- stall count S -/
  s : BitVec 3
  /-- guard code (R132) -/
  g : BitVec 2
  d : BitVec 6
  a : BitVec 6
  b : BitVec 6
  deriving DecidableEq, Repr

/-- R133: the fields of an extended instruction besides L and the opcode, with the literal of L = 11 where there is one
(R137). D, A, B and C hold register codes of R134, or numbers where R200 and R243 say so. -/
structure Ext where
  /-- stall count S -/
  s     : BitVec 3
  fn    : BitVec 5
  ty    : BitVec 5
  /-- R135: none when G = 0; else (neg, pidx) -/
  guard : Option (Bool × BitVec 4)
  rnd   : Rnd
  sat   : Bool
  d     : BitVec 11
  a     : BitVec 11
  space : BitVec 3
  size  : BitVec 3
  scope : BitVec 2
  hint  : BitVec 2
  b     : BitVec 11
  c     : BitVec 11
  x     : BitVec 10
  lit   : Option W64
  deriving DecidableEq, Repr

/-- The words of a row that is not a base-form row: the extended form with or without a literal (L = 01, 11), or the
base form with a literal (L = 10), which R129 counts among the literal-bearing forms. -/
inductive Words where
  | ext     (e : Ext)
  | baseLit (b : Base) (lit : W64)
  deriving DecidableEq, Repr

/-- R380, R381: what one kiln read found. Physical: the outside world says it. -/
inductive KilnRead where
  /-- the LDPC decode failed -/
  | failed
  /-- decoded: 16 KiB of data and the first two words of the header (R379) -/
  | decoded (data : List Byte) (word0 word1 : W64)
  /-- decoded, and the header reads as erased -/
  | erased
  /-- the block has been retired, or firmware has marked the channel failed (R381) -/
  | lost
  deriving DecidableEq, Repr

/-- R76, R119: whose request misses: a thread's, that of the engine operation with a number, a service core's, firmware's, the host's, or
that of a core's code store for a refill (R360). -/
inductive Requester where
  | thread (t : TRef)
  | op (id : Nat)
  | hart (h : Nat)
  | firmware
  | host
  | code (core : Nat)
  deriving DecidableEq, Repr

/-- R289, R290: whose request to a slice or to a walker has been refused. -/
inductive Asking where
  | thread (t : TRef)
  | op (id : Nat)
  /-- the invocation at work on a slice -/
  | hod (slice : Nat)
  /-- a service-core hart -/
  | service (h : Nat)
  /-- a core of itself: the refill of its code store; and firmware, on its own core -/
  | code (core : Nat)
  deriving DecidableEq, Repr

/-- R76, R119: the agent behind a request that misses, where one waits for it, and the timestamp of its access; the bay charged, where it is not that
of the line's ASID (R25, R322); and (R300) whether the invocation for the miss is over. -/
structure Asker where
  who : Option Requester
  pts : Nat
  bay : Option Nat := none
  missed : Bool := false
  deriving DecidableEq, Repr

/-- R217: one close of a region: the region, and the thread that closes it. -/
structure Closing where
  region : Nat
  closer : TRef
  deriving DecidableEq, Repr

/-- R115, R116: an agent with a pts of its own that may stay without an access. -/
inductive AgentId where
  | thread (t : TRef)
  | op (id : Nat)
  /-- the invocation at work on a slice -/
  | hod (slice : Nat)
  /-- a wave, which is one agent, by its team -/
  | wave (team : Nat)
  /-- a service-core hart -/
  | hart (h : Nat)
  deriving DecidableEq, Repr

/-- R371: where a bit error arose and whether it could be corrected. -/
inductive SoftError where
  | registerFile (t : TRef) (fatal : Bool)
  | laneStore (t : TRef) (off : Nat) (fatal : Bool)
  | scratchpad (team off : Nat) (fatal : Bool)
  | chipScratchpad (launch die off : Nat) (fatal : Bool)
  | atomicBuffer (core part index : Nat) (fatal : Bool)
  | l1 (core line : Nat)
  | l2 (pa : Nat) (fatal : Bool)
  | l3 (pa : Nat) (fatal : Bool)
  | hbm (pa : Nat) (fatal : Bool)
  | lineTimestamp (pa : Nat)
  | granuleTimestamp (team granule : Nat)
  | unitTimestamp (launch die unit : Nat)
  | hodMemory (slice : Nat) (fatal : Bool)
  /-- R360: a bit error of a code-store block that is corrected on read -/
  | codeStore (core block : Nat)
  deriving DecidableEq, Repr

/-- R314, R211, R311: a request that another module sends to a home of this one. -/
inductive FabricRequest where
  | load (pa n : Nat)
  | atom (pa n : Nat) (fn : BitVec 5) (ty : BitVec 5) (rnd : Rnd) (b c : W128)
  | monitor (source : Nat) (pa n : Nat) (fn : BitVec 5) (signed : Bool) (value : W64)
  deriving DecidableEq, Repr

/-- One constructor for each row of spec/opcode_table.json, in its order. -/
inductive Instr where
  /-- R154: Base-form integer add: D := A + B with type n32, or n64 for an s destination. -/
  | addBase (b : Base)
  /-- R154: Integer add in the extended or literal-bearing forms, with optional saturation and an immediate. -/
  | add (w : Words)
  /-- R154: Base-form integer subtract: D := A - B. -/
  | subBase (b : Base)
  /-- R154: Integer subtract in the extended or literal-bearing forms. -/
  | sub (w : Words)
  /-- R154: Base-form integer multiply, low half of the product. -/
  | mulBase (b : Base)
  /-- R154: Integer multiply in the extended or literal-bearing forms. -/
  | mul (w : Words)
  /-- R154: High half of the 2n-bit integer product. -/
  | mulh (w : Words)
  /-- R154: Integer multiply-add a*b+c computed in one exact step. -/
  | mad (w : Words)
  /-- R155: Integer division that never traps, with fixed results for zero divisors and overflow. -/
  | div (w : Words)
  /-- R155: Integer remainder with the sign of the dividend, giving a when b is 0. -/
  | rem (w : Words)
  /-- R157: Base-form bitwise and. -/
  | andBase (b : Base)
  /-- R157: Bitwise and in the extended or literal-bearing forms. -/
  | and (w : Words)
  /-- R157: Base-form bitwise or. -/
  | orBase (b : Base)
  /-- R157: Bitwise or in the extended or literal-bearing forms. -/
  | or (w : Words)
  /-- R157: Base-form bitwise exclusive or. -/
  | xorBase (b : Base)
  /-- R157: Bitwise exclusive or in the extended or literal-bearing forms. -/
  | xor (w : Words)
  /-- R157: Base-form a and not b. -/
  | andnBase (b : Base)
  /-- R157: a and not b in the extended or literal-bearing forms. -/
  | andn (w : Words)
  /-- R157: Base-form shift left, with the amount taken modulo n. -/
  | shlBase (b : Base)
  /-- R157: Shift left in the extended or literal-bearing forms. -/
  | shl (w : Words)
  /-- R157: Base-form logical shift right. -/
  | shrBase (b : Base)
  /-- R157: Logical shift right in the extended or literal-bearing forms. -/
  | shr (w : Words)
  /-- R157: Base-form arithmetic shift right. -/
  | sarBase (b : Base)
  /-- R157: Arithmetic shift right in the extended or literal-bearing forms. -/
  | sar (w : Words)
  /-- R157: Rotate left by an amount taken modulo n. -/
  | rot (w : Words)
  /-- R157: Count of 1 bits. -/
  | popc (w : Words)
  /-- R157: Count of leading zero bits, n for zero. -/
  | clz (w : Words)
  /-- R157: Bit reversal. -/
  | brev (w : Words)
  /-- R158: Extracts a bit field, sign- or zero-extended by type. -/
  | bfx (w : Words)
  /-- R158: Inserts a bit field into the destination. -/
  | bfi (w : Words)
  /-- R154: Base-form signed minimum, i32 or i64. -/
  | minBase (b : Base)
  /-- R154: Integer minimum in the extended or literal-bearing forms. -/
  | min (w : Words)
  /-- R154: Base-form signed maximum, i32 or i64. -/
  | maxBase (b : Base)
  /-- R154: Integer maximum in the extended or literal-bearing forms. -/
  | max (w : Words)
  /-- R154: Integer absolute value, optionally saturated. -/
  | abs (w : Words)
  /-- R160: Selects A or B by a predicate. -/
  | sel (w : Words)
  /-- R160: Writes a predicate with an integer comparison under the type's signedness. -/
  | cmp (w : Words)
  /-- R161: Computes an effective address without access, translation or fault. -/
  | lea (w : Words)
  /-- R162: Base-form register move D := A. -/
  | movBase (b : Base)
  /-- R162: Register move in the extended form. -/
  | mov (w : Words)
  /-- R162: Base-form move of a signed 12-bit immediate. -/
  | moviBase (b : Base)
  /-- R162: Move of an immediate in the extended or literal-bearing forms. -/
  | movi (w : Words)
  /-- R163: Reads a special register into a v or s destination. -/
  | movs (w : Words)
  /-- R164: Writes sigmask, or trap state inside a handler. -/
  | movt (w : Words)
  /-- R165: Predicate and. -/
  | pand (w : Words)
  /-- R165: Predicate or. -/
  | por (w : Words)
  /-- R165: Predicate exclusive or. -/
  | pxor (w : Words)
  /-- R165: Predicate negation. -/
  | pnot (w : Words)
  /-- R180: Course collective giving the mask of live lanes whose predicate is set. -/
  | ballot (w : Words)
  /-- R181: Course collective taking a value from a source lane. -/
  | shfl (w : Words)
  /-- R182: Course reduction over the live threads, with a single rounding for f32 add. -/
  | cred (w : Words)
  /-- R183: Exclusive course scan over the live threads of lower lane. -/
  | cscan (w : Words)
  /-- R184: Course rendezvous with no other effect. -/
  | cbar (w : Words)
  /-- R175: Rounds two f32 values into a bf16x2 or f16x2 pair. -/
  | fpk (w : Words)
  /-- R168: Base-form f32 add under RNE. -/
  | faddBase (b : Base)
  /-- R168: Floating add in the extended or literal-bearing forms. -/
  | fadd (w : Words)
  /-- R168: Base-form f32 subtract under RNE. -/
  | fsubBase (b : Base)
  /-- R168: Floating subtract in the extended or literal-bearing forms. -/
  | fsub (w : Words)
  /-- R168: Base-form f32 multiply under RNE. -/
  | fmulBase (b : Base)
  /-- R168: Floating multiply in the extended or literal-bearing forms. -/
  | fmul (w : Words)
  /-- R168: Fused multiply-add with one rounding. -/
  | ffma (w : Words)
  /-- R169: Dot product of two bf16 or f16 pairs plus an f32 addend, rounded once. -/
  | ffma2 (w : Words)
  /-- R170: Base-form f32 minimum. -/
  | fminBase (b : Base)
  /-- R170: Floating minimum in the extended or literal-bearing forms. -/
  | fmin (w : Words)
  /-- R170: Base-form f32 maximum. -/
  | fmaxBase (b : Base)
  /-- R170: Floating maximum in the extended or literal-bearing forms. -/
  | fmax (w : Words)
  /-- R170: Writes a predicate with a floating comparison. -/
  | fcmp (w : Words)
  /-- R171: Correctly rounded reciprocal. -/
  | frcp (w : Words)
  /-- R171: Correctly rounded reciprocal square root. -/
  | frsq (w : Words)
  /-- R171: Correctly rounded square root. -/
  | fsqrt (w : Words)
  /-- R171: Correctly rounded 2^x. -/
  | fex2 (w : Words)
  /-- R171: Correctly rounded log2 x. -/
  | flg2 (w : Words)
  /-- R171: Correctly rounded tanh x. -/
  | ftanh (w : Words)
  /-- R173: Converts between numeric types with rounding and saturation. -/
  | fcvt (w : Words)
  /-- R174: Writes a one-hot class mask of a floating value. -/
  | fcla (w : Words)
  /-- R188: Base-form branch by an 18-bit signed word offset. -/
  | braBase (b : Base)
  /-- R188: Branch in the extended or literal-bearing forms. -/
  | bra (w : Words)
  /-- R189: Base-form call pushing an 8-byte frame on the lane-slice stack. -/
  | callBase (b : Base)
  /-- R189: Call in the extended or literal-bearing forms. -/
  | call (w : Words)
  /-- R189: Base-form return popping the call frame. -/
  | retBase (b : Base)
  /-- R189: Return in the extended form. -/
  | ret (w : Words)
  /-- R190: Indirect jump to a code address that is uniform over the issue group. -/
  | jmpi (w : Words)
  /-- R189: Indirect call pushing a frame. -/
  | calli (w : Words)
  /-- R192: Jumps into an overlay slot, waiting while the slot is fetching. -/
  | jmpf (w : Words)
  /-- R191: Team-uniform start of a code fetch into an overlay slot. -/
  | cfetch (w : Words)
  /-- R191: Every byte of a cfetch is in the code store and the slot becomes landed. -/
  | cfetchLanded (team slot : Nat)
  /-- R359: A cfetch source that cannot be read leaves the slot empty with its failed mark. -/
  | cfetchFailed (team slot : Nat)
  /-- R193: Base-form thread exit, which is a flush point. -/
  | exitBase (b : Base)
  /-- R193: Thread exit in the extended form. -/
  | exit (w : Words)
  /-- R193: Base-form no operation. -/
  | nopBase (b : Base)
  /-- R193: No operation in the extended form. -/
  | nop (w : Words)
  /-- R193: Base-form yield, which marks the team's quantum expired. -/
  | yieldBase (b : Base)
  /-- R286: Yield in the extended form: the quantum expires and the core is offered at once. -/
  | yield (w : Words)
  /-- R194: Base-form team barrier. -/
  | barBase (b : Base)
  /-- R194: Team barrier in the extended form. -/
  | bar (w : Words)
  /-- R195: Arrival at one of 16 named counted barriers. -/
  | barn (w : Words)
  /-- R196: Waits until dtime reaches the deadline. -/
  | sleep (w : Words)
  /-- R196: A sleeping thread's deadline passes and it continues. -/
  | sleepDeadline (t : TRef)
  /-- R197: Tests a word and registers a condition monitor if the test is false. -/
  | waitc (w : Words)
  /-- R204: Base-form 32-bit .c load at base + 4 x offset. -/
  | ldBase (b : Base)
  /-- R204: Load of any space and size in the extended or literal-bearing forms. -/
  | ld (w : Words)
  /-- R204: Base-form 32-bit .c store at base + 4 x offset. -/
  | stBase (b : Base)
  /-- R204: Store of any space and size in the extended or literal-bearing forms. -/
  | st (w : Words)
  /-- R208: Engine operation copying a tensor tile into an on-chip space. -/
  | ldt (w : Words)
  /-- R208: Engine operation copying a tile back into a tensor. -/
  | stt (w : Words)
  /-- R210: Indivisible read-modify-write at the home, scratchpad or unit, or at the host or fabric. -/
  | atom (w : Words)
  /-- R212: Places a reduction contribution in the partition's atomic buffer. -/
  | red (w : Words)
  /-- R216: Flush point draining the partition's atomic buffer. -/
  | rflush (w : Words)
  /-- R217: Closes a reduction region at every home and joins the applied writes. -/
  | rclose (w : Words)
  /-- R215: A home applies a region's pending contributions in ascending key order. -/
  | regionCloseAtHome (slice asid : Nat) (close : Closing)
  /-- R123: Fence of scope dev, fab or sys. -/
  | fence (w : Words)
  /-- R315: A destination answers a fence.fab marker, which may complete the fence or report lost stores. -/
  | fenceMarkerAnswer (marker : Nat) (lost : Bool)
  /-- R125: The root complex completes the relaxed-channel flush read of a fence.sys. -/
  | fenceSysFlushComplete (port : Nat)
  /-- R237: Sends a grout method request to an object's home slice. -/
  | gcall (w : Words)
  /-- R239: Ends a method lane with its reply, or traps outside method code. -/
  | gret (w : Words)
  /-- R240: Sends a message to the hod core of an address's home slice. -/
  | hmsg (w : Words)
  /-- R220: Releases the reader's previous slot and takes the next filled slot or end-of-stream. -/
  | rget (w : Words)
  /-- R221: Reserves a ring slot and copies one slot of data into it. -/
  | rput (w : Words)
  /-- R81: A waiting ring reservation is granted once slot res is free. -/
  | ringReservation (team ring : Nat)
  /-- R222: Places the producer's end-of-stream token. -/
  | reos (w : Words)
  /-- R223: Registers the thread as a ring producer owing a token. -/
  | rjoin (w : Words)
  /-- R226: Resolves a future and discharges its registrations. -/
  | fres (w : Words)
  /-- R226: Poisons a future and discharges its registrations with the poisoned mark. -/
  | fresPoison (w : Words)
  /-- R227: Registers a task record on its futures. -/
  | treg (w : Words)
  /-- R230: Starts a task record at once. -/
  | tspawn (w : Words)
  /-- R394: Firmware checks and runs a started task's launch body, or reports refusal. -/
  | taskLaunch (asid rec : Nat)
  /-- R231: Starts a copy-engine operation between spaces. -/
  | cpy (w : Words)
  /-- R232: Starts a copy whose destination is a ring, slot by slot. -/
  | cpyRing (w : Words)
  /-- R233: Starts an indexed gather. -/
  | gath (w : Words)
  /-- R233: Starts an indexed scatter. -/
  | scat (w : Words)
  /-- R235: Starts a fabric collective among member modules. -/
  | coll (w : Words)
  /-- R392: A collective that finds no matching group for 1 s ends with a fault. -/
  | collMatchTimeout (op : Nat)
  /-- R236: Waits until a completion word reaches its target. -/
  | waito (w : Words)
  /-- R202: An engine operation completes and adds 1 to its completion word. -/
  | engineOpComplete (op : Nat)
  /-- R370: An engine element access faults, so the operation stops and adds the fault count. -/
  | engineElementFault (op : Nat)
  /-- R250: Loads the shadow plane from a handle. -/
  | mwld (w : Words)
  /-- R251: Exchanges the active and shadow planes in matrix order. -/
  | mflip (w : Words)
  /-- R254: Runs a matrix operation into accumulator tiles. -/
  | mop (w : Words)
  /-- R246: Registers the thread in the trowel list. -/
  | mjoin (w : Words)
  /-- R247: Waits until the thread holds the trowel. -/
  | mtake (w : Words)
  /-- R248: Passes the trowel to the next participant. -/
  | mpass (w : Words)
  /-- R255: Converts an accumulator tile and writes it through a handle. -/
  | mrd (w : Words)
  /-- R256: Forward circulant transform. -/
  | xfwd (w : Words)
  /-- R257: Inverse circulant transform. -/
  | xinv (w : Words)
  /-- R258: Quantises into bx8 or bx4 blocks. -/
  | qbx (w : Words)
  /-- R259: Dequantises bx8 or bx4 blocks. -/
  | dqbx (w : Words)
  /-- R261: Checks a handle record and writes it, with a status. -/
  | thset (w : Words)
  /-- R262: Writes a handle record to memory. -/
  | thget (w : Words)
  /-- R264: Takes a software trap. -/
  | trap (w : Words)
  /-- R267: Replays valid log entries and leaves the trap handler. -/
  | tret (w : Words)
  /-- R266: Reads a word of an operand-log entry. -/
  | tlog (w : Words)
  /-- R266: Drops a logged access and releases its destination. -/
  | tskip (w : Words)
  /-- R266: Drops a logged access and writes a given value to its destination. -/
  | tskipValue (w : Words)
  /-- R268: Privileged read of a privileged register. -/
  | csrr (w : Words)
  /-- R268: Privileged write of a privileged register. -/
  | csrw (w : Words)
  /-- R269: Posts a user event record after the thread's earlier accesses. -/
  | evsig (w : Words)
  /-- R270: Reads dtime, ordered after the thread's earlier accesses. -/
  | time (w : Words)
  /-- R271: Sends a signal to a team of the launch, with a status. -/
  | sig (w : Words)
  /-- R272: Returns from a signal handler through its frame. -/
  | sigret (w : Words)
  /-- R273: Invalidates cached code or translations of a chosen kind. -/
  | cinval (w : Words)
  /-- R272: A pending signal is delivered to an eligible thread at an instruction boundary. -/
  | signalDelivery (team : Nat)
  /-- R264: A thread takes a trap, sets the trap registers and enters its handler. -/
  | trapEntry (t : TRef)
  /-- R142: A variable-latency access or result completes and writes its scoreboarded destination. -/
  | varResultReturn (t : TRef) (entry : Nat)
  /-- R39: Each partition's picker selects a launch and forms issue groups by the lowest-PC rule. -/
  | pickerCycle
  /-- R42: A PC bin reaching age 64 becomes ripe and overrides the lowest-PC rule. -/
  | binAgeRipe (core part bin : Nat)
  /-- R43: A ready thread that has not issued for 64 cycles is parked in the continuation pool. -/
  | parkThread (t : TRef)
  /-- R116: An agent's pts rises by 1 for each 256 resident cycles without access. -/
  | ptsIdleTick (a : AgentId)
  /-- R49: The distributor places a runnable team on a mask core with room. -/
  | teamPlacement (team : Nat)
  /-- R56: A team whose threads have all waited for one quantum is saved out. -/
  | allWaitingQuantum (team : Nat)
  /-- R54: A team's quantum expires, making it eligible to be saved for a waiting team. -/
  | quantumExpiry (team : Nat)
  /-- R55: A team is saved once its results and engine operations are complete, and rser is incremented. -/
  | teamSave (team : Nat)
  /-- R57: A saved runnable team is restored onto a core. -/
  | teamRestore (team : Nat)
  /-- R62: An idempotent team is released and later placed again from its first instruction. -/
  | teamRestart (team : Nat)
  /-- R67: A team retires once all threads have exited and its engine operations are complete. -/
  | teamRetire (team : Nat)
  /-- R127: A launch completes and its release scope and completion effects follow. -/
  | launchComplete (launch : Nat)
  /-- R88: A walker translates a virtual address and updates the a and d bits. -/
  | translationWalk (core asid va : Nat) (store : Bool)
  /-- R76: A missed line is filled into its home slice, claiming a frame and writing back evictions. -/
  | l2MissFill (pa va : Nat) (store : Bool) (hint : BitVec 2) (asid coreid : Nat) (asker : Asker)
  /-- R76: A .strm line is evicted alone once its leases have ended. -/
  | streamLineEvict (pa : Nat)
  /-- R301: The hod core starts the next queued handler invocation. -/
  | hodInvocationStart (slice : Nat)
  /-- R301: A handler ends at ECALL with a7 = 0, giving its reply and releasing the triggering request. -/
  | hodInvocationEnd (slice asid kind : Nat)
  /-- R397: An invocation reaching 4,096 hod cycles is stopped and takes the default action. -/
  | hodCycleLimit (slice : Nat)
  /-- R397: A handler fault ends the invocation and writes a kind 10 record. -/
  | hodHandlerFault (slice reason pc : Nat)
  /-- R299: A handler write to pref prefetches a line into its home L2. -/
  | slicePortPref (slice : Nat) (v : W64)
  /-- R299: A handler write to keep sets or clears a frame's kept mark. -/
  | slicePortKeep (slice : Nat) (v : W64)
  /-- R299: A handler write to evict evicts one line of this slice. -/
  | slicePortEvict (slice : Nat) (v : W64)
  /-- R295: Writing start checks a slice program descriptor and begins installation. -/
  | sliceProgramInstall
  /-- R295: All 192 slices have copied the program and start clears. -/
  | sliceProgramCopied
  /-- R238: A home slice packs pending requests into a wave and runs the method. -/
  | groutWaveStart (slice : Nat)
  /-- R304: A wave not ended after 2,048 cycles is stopped with a method trap. -/
  | methodCycleLimit (team : Nat)
  /-- R277: A registration-block operation that checks and registers a queue descriptor. -/
  | queueRegister (die : Nat)
  /-- R277: A registration-block operation that unregisters a queue. -/
  | queueUnregister (die : Nat)
  /-- R278: The fetcher reads a slot on a header change and accepts it if the sequence and CRC match. -/
  | packetFetch (queue : Nat)
  /-- R400: A rejected slot is read again at least every 10 us. -/
  | slotReread (queue : Nat)
  /-- R400: A slot rejected for 100 ms is reported once as a queue fault. -/
  | slotRejectTimeout (queue : Nat)
  /-- R282: A counted launch is checked and becomes job slices. -/
  | launchPacket (queue : Nat)
  /-- R288: A page launch starts and the kilns take their page-list entries. -/
  | pageLaunchPacket (queue : Nat)
  /-- R282: An indirect launch reads its count word and starts as a counted or page launch. -/
  | indirectLaunchPacket (queue : Nat)
  /-- R280: Reads the next n packets once and runs them k times. -/
  | loopPacket (queue : Nat)
  /-- R280: Tests a word and skips n packets if the test is false. -/
  | conditionalPacket (queue : Nat)
  /-- R280: Waits by a monitor until a word meets a condition. -/
  | waitValuePacket (queue : Nat)
  /-- R280: A wait-value condition holds and later packets may start. -/
  | waitValueSatisfied (queue : Nat)
  /-- R280: Makes an ordinary store after the earlier packets. -/
  | writeValuePacket (queue : Nat)
  /-- R280: Writes an event record of kind 2. -/
  | signalPacket (queue : Nat)
  /-- R280: Applies its release scope to the earlier packets. -/
  | fencePacket (queue : Nat)
  /-- R317: Runs this module's stage of a relay chain. -/
  | relayPacket (queue : Nat)
  /-- R317: An arriving chunk is matched to a relay, landed and forwarded. -/
  | relayChunkArrival (pred buffer chunk : Nat) (bytes : List Byte)
  /-- R378: A lost or refused chunk is offered again every 10 us. -/
  | relayResend (queue : Nat) (chunk : Nat) (accepted : Bool)
  /-- R378: A chunk undelivered for 1 s ends the relay with a kind 7 record. -/
  | relayChunkGiveUp (queue chunk : Nat)
  /-- R280: Closes a gate word and waits for the users word to reach 0. -/
  | gatePacket (queue : Nat)
  /-- R280: The users word reads 0 and the guarded packets run. -/
  | gateUsersZero (queue : Nat)
  /-- R280: After the guarded packets complete, 0 is stored to the gate word. -/
  | gateReopen (queue : Nat)
  /-- R291: Starts the drain of a context. -/
  | preEmptPacket (queue : Nat)
  /-- R291: A drain ends, the meters are checkpointed and a kind 3 record is written. -/
  | drainComplete (asid : Nat)
  /-- R411: An unfinished drain at its deadline escalates to a forced reset. -/
  | drainDeadline (asid : Nat)
  /-- R291: Restarts a pre-empted context's queues and slices. -/
  | resumePacket (queue : Nat)
  /-- R399: Adds budget to, or cancels, an exhausted slice. -/
  | grantPacket (queue : Nat)
  /-- R411: Forces a reset of a context. -/
  | resetPacket (queue : Nat)
  /-- R411: No agent of a reset context runs and a kind 16 record is written. -/
  | forcedResetComplete (asid : Nat)
  /-- R284: A new 1 ms QoS window starts the per-bay core-cycle counts afresh. -/
  | qosWindow
  /-- R286: A slice's budget reaches 0, its teams are saved and a kind 11 record is written. -/
  | budgetExhausted (launch slice : Nat)
  /-- R380: A kiln read decodes or fails and leads to a retry, a delivery or a page fault. -/
  | kilnReadComplete (chan : Nat) (read : KilnRead)
  /-- R381: A page not settled 200 ms after its first read is missing by timeout. -/
  | pageMissingTimeout (chan : Nat)
  /-- R288: The kiln has written a placed team's window, the threads start and the hold is released. -/
  | windowFillComplete (team : Nat)
  /-- R290: After its back-off, a sender resends the refused entry and the later entries of its window. -/
  | replayBackoffExpiry (sender : Nat) (accepted : Bool)
  /-- R402: A thread held 1 ms by a refused entry counts as waiting for R56. -/
  | refusalHoldTimeout (sender : Nat)
  /-- R292: An event ring's vector is raised again at the end of the microsecond. -/
  | vectorHoldoffExpiry (ring : Nat)
  /-- R405: When the host frees ring room, firmware writes any kind 15 record and then the held records. -/
  | heldRecordsFlush (asid : Nat)
  /-- R403: The plumb unit scans blocked threads every 1 ms and reports lasting wait cycles. -/
  | plumbScan
  /-- R309: A host write to HBM4E is performed at its home as a store with pts 0. -/
  | hostWrite (pa : Nat) (bytes : List Byte)
  /-- R309: A host load from HBM4E is performed at its home without granting a lease. -/
  | hostLoad (pa n : Nat)
  /-- R310: The home slice answers a host snoop of a type 2 line and re-evaluates its monitors. -/
  | hostSnoop (pa : Nat) (takes : Bool) (line : List Byte)
  /-- R311: A type 3 host monitor's word is re-read every microsecond. -/
  | hostMonitorPoll (t : TRef) (word : W64)
  /-- R376: A late host completion or flush faults with code 0x47. -/
  | hostCompletionTimeout (t : TRef) (flush : Bool)
  /-- R124: An arriving fabric store is performed at its home as an ordinary write. -/
  | fabricStoreArrival (source pa : Nat) (bytes : List Byte)
  /-- R365: A fabric load, atomic or marker unanswered in 20 ms faults with code 0x47. -/
  | fabricTimeout (t : TRef) (marker : Bool)
  /-- R418: A host, fabric or Ethernet port loses its link and a kind 19 record is written. The port is named by its feature and its number there. -/
  | linkLoss (port : Nat × Nat)
  /-- R320: Setting en enables a bay if its cores and vectors are disjoint, and zeroes its meter. -/
  | bayEnable (bay : Nat)
  /-- R320: Clearing en disables a bay that has no context. -/
  | bayDisable (bay : Nat)
  /-- R413: Writing rst forces a reset of every context of the bay. -/
  | bayReset (bay : Nat)
  /-- R320: Writes to cores, vectors, l2w, qos or hbmw take effect under the bay's rules. -/
  | baySettingsWrite (bay offset : Nat) (v : W64)
  /-- R322: Each 1 ms, energy is measured and split among the bays. -/
  | meterWindow (sources : List (Nat × Nat × List (Nat × Nat)))
  /-- R324: A meter request with src 0 reads a bay's live meter for signing. -/
  | meterReadLive
  /-- R324: A meter request with src 1 reads a bay's latest flash checkpoint for signing. -/
  | meterReadCheckpoint
  /-- R324: The record and signature are written and start clears. -/
  | meterReadingSigned (signature : List Byte)
  /-- R325: Every 100 ms, firmware signs every enabled bay's record to the checkpoint store. -/
  | meterCheckpoint (written : Bool)
  /-- R326: Every 10 minutes, firmware updates the wear registers. -/
  | wearUpdate (life : W64) (pemax pemean : W32) (age : W64)
  /-- R328: The driver writes its accepted feature word, ANDed with the offer. -/
  | featureAcceptWrite (v : W128)
  /-- R327: Power-on starts reduced service and training. -/
  | powerOn
  /-- R327: Training completes and firmware moves to full service. -/
  | trainingComplete
  /-- R417: A stack, link, slice or channel fails training and is recorded. -/
  | trainingFailed (kind index : Nat)
  /-- R414: A module reset resumes meters from checkpoints and raises the gap bounds. -/
  | moduleReset
  /-- R419: Firmware retires a failing user core and saves its teams. -/
  | coreRetire (core reason : Nat)
  /-- R419: A failed firmware core halts its die's queues and retires the die's cores. -/
  | firmwareCoreFailed (die : Nat)
  /-- R27: A write to a device register with no behaviour of its own stores the value, or is ignored where nothing is mapped. -/
  | deviceRegisterWrite (pa n : Nat) (v : W64)
  /-- R371: A bit error arises of itself in a register file, scratchpad, cache, HBM4E, timestamp, atomic buffer or hod local memory, and is corrected, counted or marks the storage poisoned. -/
  | softError (e : SoftError)
  /-- R414: The module loses power, ending firmware and every running agent, and leaving the meters unmeasured until the next checkpoint is read at reset. -/
  | powerLoss
  /-- R312: A service-core load or store request arrives over its request ring at a home slice and is performed there as an ordinary access followed by a full fence. -/
  | serviceCoreAccess (hart pa n : Nat) (store : Option W64)
  /-- R314: A fabric load, atomic or monitor registration from another module arrives and is performed or registered at this module's destination home. -/
  | fabricRequestArrival (r : FabricRequest)
  /-- R315: A fence.fab marker from another module reaches this module, which answers it once the counted stores have been performed at their homes. -/
  | fenceMarkerArrival (source count : Nat)
  /-- R311: A wake returned across the fabric from a destination module's monitor arrives and releases the local thread waiting in waitc on a fabric-window word. -/
  | fabricMonitorWake (t : TRef) (word : W64)
  /-- R360: A code-store block refill from its .g source completes and either repairs the block or marks it bad. -/
  | codeStoreRefill (core owner slot block : Nat) (good : Bool)
  deriving DecidableEq, Repr

end Sys2Proof
end

