-- ==== Sys2Proof/Machine/Legal.lean ====
section
/-!
DEFINITION. Which words are instructions (R129-R149, R198, R200, R201, R241, R243, R274): how each opcode uses each
field, as one table, and the check that an encoding keeps to it. R147 calls every other encoding illegal.
-/
namespace Sys2Proof

/-- R131, R134: what a register code names. -/
inductive Reg where
  | v (n : Nat) | s (n : Nat) | p (n : Nat) | const (k : Nat) | zero | reserved
  deriving DecidableEq, Repr

/-- R134. -/
def regOf (c : BitVec 11) : Reg :=
  let n := c.toNat
  if n < 1536 then .v n else if n < 1600 then .s (n - 1536) else if n < 1616 then .p (n - 1600)
  else if n < 2040 then .reserved else if n < 2047 then .const (n - 2040) else .zero

/-- Where the width of an operand comes from. -/
inductive Wd where
  | w32 | w64
  /-- the type field: 64 bits for i64 and n64 (R154) -/
  | byTy
  /-- the size field (R203): 8 to 32 bits take one register, 64 two, 128 four -/
  | bySz
  /-- the source type that fn names (fcvt, R145) -/
  | byFn
  deriving DecidableEq, Repr

/-- Which space field governs a base register (R69, R136). -/
inductive SpSel where
  | own | src | comp
  /-- the team's scratchpad, whatever the fields say (R243) -/
  | scratch
  deriving DecidableEq, Repr

/-- How an instruction uses one of the fields D, A, B, C. -/
inductive Role where
  | unused
  | dst (w : Wd)            -- v or s, or 2047 to discard
  | dstV (w : Wd)           -- never an s register (R151, R274)
  | rw (w : Wd)             -- read and written (bfi, R158)
  | src (w : Wd)
  | srcImm (w : Wd)         -- "reg or imm" (R149)
  | sreg (w : Wd)           -- an s register (cfetch, R191)
  | sregImm (w : Wd)        -- an s register or an immediate, constants among these (cfetch, R331)
  | pdst
  | psrc
  | num (bound : Nat)       -- a number below bound (R200)
  | special                 -- a special register number (R140)
  | csr                     -- a privileged register number (R268)
  | base (sp : SpSel)
  | immC                    -- part of I21 (R136)
  deriving DecidableEq, Repr

/-- How the field x is used. -/
inductive XUse where
  | none | immB | off | comp | srcComp | cpy | method | bit0
  deriving DecidableEq, Repr

/-- What the literal of L = 10 or L = 11 replaces (R137, R201). -/
inductive LitUse where
  | no | b | off | target | q (mask : Nat)
  deriving DecidableEq, Repr

/-- One row of the field-use tables of the three instruction chapters. -/
structure Shape where
  d : Role := .unused
  a : Role := .unused
  b : Role := .unused
  c : Role := .unused
  x : XUse := .none
  types  : List Nat := [0]
  fns    : List Nat := [0]
  spaces : List Nat := [0]
  sizes  : List Nat := [0]
  rnd   : Bool := false
  sat   : Bool := false
  scope : Bool := false
  hint  : Bool := false
  lit   : LitUse := .no
  guardOk : Bool := true
  /-- a dagger in R144 -/
  base  : Bool := false
  deriving DecidableEq, Repr

namespace Shape

def ints : List Nat := [5, 9, 6, 10]
def f3 : List Nat := [0, 1, 2]
def f5 : List Nat := [0, 1, 2, 16, 17]
def to6 : List Nat := [0, 1, 2, 3, 4, 5]

/-- R153, R156: D, A, B(reg or imm). -/
def alu (base sat : Bool) : Shape :=
  { d := .dst .byTy, a := .src .byTy, b := .srcImm .byTy, c := .immC, x := .immB, types := ints, sat, lit := .b, base }
/-- D, A. -/
def unary (types : List Nat) (rnd sat : Bool) : Shape := { d := .dst .byTy, a := .src .byTy, types, rnd, sat }
/-- R167: D, A, B. -/
def fp (base rnd : Bool) : Shape :=
  { d := .dst .byTy, a := .src .byTy, b := .src .byTy, types := f5, rnd, sat := rnd, lit := .b, base }
def bare (base : Bool) : Shape := { base }
def memOff : Shape := { a := .base .own, c := .immC, x := .off, lit := .off }
def engine (mask : Nat) : Shape := { c := .base .comp, x := .comp, lit := .q mask }

/-- The field-use tables of R132, R153, R156, R159, R164, R165, R167, R176, R188-R197, R200 and R243. -/
def ofOpcode : Nat → Option Shape
  | 0x01 | 0x02 | 0x03 => some (alu true true)
  | 0x04 | 0x06 | 0x07 => some (alu false false)
  | 0x05 => some { alu false true with c := .src .byTy }
  | 0x08 | 0x09 | 0x0A | 0x0B | 0x0C | 0x0D | 0x0E => some (alu true false)
  | 0x0F => some (alu false false)
  | 0x10 | 0x11 | 0x12 => some (unary ints false false)
  | 0x13 => some { alu false false with b := .srcImm .w32 }
  | 0x14 => some { alu false false with d := .rw .byTy, b := .srcImm .w32 }
  | 0x15 | 0x16 => some (alu true false)
  | 0x17 => some (unary [5, 6] false true)
  | 0x18 => some { alu false false with c := .psrc, types := [9, 10] }
  | 0x19 => some { alu false false with d := .pdst, fns := to6 }
  | 0x1A => some { memOff with d := .dst .w32, spaces := [0, 1, 2, 3, 4] }
  | 0x1B => some { unary [9, 10] false false with base := true }
  | 0x1C => some { d := .dst .byTy, c := .immC, x := .off, types := [9, 10], lit := .off, base := true }
  | 0x1D => some { d := .dst .byTy, a := .special, types := [9, 10] }
  | 0x1E => some { d := .special, a := .src .w32 }
  | 0x20 | 0x21 | 0x22 => some { d := .pdst, a := .psrc, b := .psrc }
  | 0x23 => some { d := .pdst, a := .psrc }
  | 0x24 => some { d := .dstV .w32, a := .psrc }
  | 0x25 => some { alu false false with d := .dstV .byTy, b := .srcImm .w32, types := [9, 10], fns := [0, 1, 2, 3] }
  | 0x26 | 0x27 => some { d := .dstV .byTy, a := .src .byTy, types := ints ++ [0], fns := to6, rnd := true }
  | 0x28 => some (bare false)
  | 0x29 => some { fp false true with a := .src .w32, b := .src .w32, types := [16, 17] }
  | 0x30 | 0x31 | 0x32 => some (fp true true)
  | 0x33 => some { fp false true with c := .src .byTy }
  | 0x34 => some { fp false true with c := .src .w32, types := [16, 17] }
  | 0x35 | 0x36 => some (fp true false)
  | 0x37 => some { fp false false with d := .pdst, types := f3, fns := [0, 1, 2, 3, 4, 5, 6, 7] }
  | 0x38 | 0x3A => some (unary f3 true false)
  | 0x39 | 0x3B | 0x3C | 0x3D => some (unary f3 false false)
  | 0x3E => some { unary [0, 1, 2, 3, 4, 5, 6, 7, 8, 9, 10] true true with a := .src .byFn, fns := [0, 1, 2, 3, 4, 5, 6, 7, 8, 9, 10] }
  | 0x3F => some (unary f3 false false)
  | 0x40 | 0x41 => some { c := .immC, x := .off, lit := .target, base := true }
  | 0x42 | 0x47 | 0x48 | 0x49 | 0x4A => some (bare true)
  | 0x43 | 0x44 => some { a := .src .w32 }
  | 0x45 => some { a := .num 16, c := .immC, x := .off, lit := .target }
  | 0x46 => some { a := .sreg .w64, b := .sregImm .w32, c := .immC, x := .immB, spaces := [4], lit := .b, guardOk := false }
  | 0x4B => some { a := .num 16, b := .srcImm .w32, c := .immC, x := .immB, lit := .b }
  | 0x4C => some { b := .srcImm .w32, c := .immC, x := .immB, lit := .b }
  | 0x4D => some { memOff with d := .dstV .byTy, b := .src .byTy, types := ints, fns := to6, spaces := [1, 2, 3, 4], sizes := [2, 3] }
  | 0x50 => some { memOff with d := .dst .bySz, types := [0, 3, 4], spaces := [0, 1, 2, 3, 4], sizes := [0, 1, 2, 3, 4], hint := true, base := true }
  | 0x51 => some { memOff with d := .src .bySz, spaces := [0, 1, 2, 3, 4], sizes := [0, 1, 2, 3, 4], hint := true, base := true }
  | 0x52 | 0x53 => some { engine 0xFFFFFFFFFFFF with d := .base .own, a := .num 256, b := .src .w32, spaces := [1, 2, 3] }
  | 0x54 => some { memOff with d := .dst .bySz, b := .src .bySz, types := ints ++ [0], fns := [0, 1, 2, 3, 4, 5, 6, 7], spaces := [1, 2, 3, 4], sizes := [2, 3, 4], scope := true, rnd := true }
  | 0x55 => some { a := .base .own, b := .src .bySz, c := .num 16, x := .off, types := ints ++ [0], fns := to6, spaces := [4], sizes := [2, 3], rnd := true, lit := .off }
  | 0x56 => some (bare false)
  | 0x57 => some { a := .num 16 }
  | 0x58 => some { scope := true }
  | 0x59 => some { d := .dst .w64, a := .base .own, b := .src .w64, c := .src .w64, x := .method, spaces := [4] }
  | 0x5A => some { b := .src .w64 }
  | 0x5B => some { d := .dst .w64, a := .base .own, b := .src .w64, c := .src .w64, x := .off, spaces := [4], lit := .off }
  | 0x5C => some { d := .dst .w32, a := .num 16 }
  | 0x5D => some { memOff with d := .num 16, spaces := [0, 1, 2, 3, 4] }
  | 0x5E | 0x5F => some { a := .num 16 }
  | 0x60 => some { memOff with b := .src .w64, spaces := [4], sizes := [3], sat := true }
  | 0x61 | 0x62 => some { memOff with spaces := [4] }
  | 0x63 => some { engine 0xFFFFFFFFFFFF with d := .base .own, a := .base .src, b := .src .w32, x := .cpy, spaces := [1, 2, 3, 4], hint := true }
  | 0x64 | 0x65 => some { engine 0xFFFFFFFFFFFF with d := .base .own, a := .base .src, b := .src .w32, x := .srcComp, spaces := [1, 2, 3, 4], sizes := [0, 1, 2, 3, 4], hint := true }
  | 0x66 => some { engine 0xFFFFFFFF0000 with a := .base .own, spaces := [4], fns := [0, 1, 2, 3] }
  | 0x67 => some { memOff with d := .dst .w64, b := .src .w64, spaces := [1, 2, 3, 4], sizes := [3] }
  | 0x68 => some { engine 0xFFFFFFFF0000 with a := .num 256, b := .base .scratch }
  | 0x69 | 0x6B | 0x6C | 0x6D => some (bare false)
  | 0x6A => some { engine 0xFFFFFFFF0000 with a := .base .scratch }
  | 0x6E => some { engine 0xFFFFFFFF0000 with d := .num 16, a := .num 256, b := .base .scratch, rnd := true, sat := true }
  | 0x6F | 0x70 => some { engine 0xFFFF00000000 with d := .num 256, a := .num 256 }
  | 0x71 => some { engine 0xFFFF00000000 with d := .num 256, a := .num 256, rnd := true }
  | 0x72 => some { engine 0xFFFF00000000 with d := .num 256, a := .num 256, rnd := true, sat := true }
  | 0x73 => some { memOff with d := .dst .w32, b := .num 256, spaces := [1, 4] }
  | 0x74 => some { memOff with b := .num 256, spaces := [1, 4] }
  | 0x75 => some { b := .srcImm .w32, c := .immC, x := .immB, lit := .b }
  | 0x76 | 0x7E => some (bare false)
  | 0x77 => some { d := .dstV .w32, a := .num 4, b := .num 12 }
  | 0x78 => some { a := .num 4, x := .bit0 }
  | 0x79 => some { d := .dst .w64, a := .csr }
  | 0x7A => some { a := .csr, b := .src .w64 }
  | 0x7B => some { b := .srcImm .w64, c := .immC, x := .immB, lit := .b }
  | 0x7C => some { d := .dst .w64 }
  | 0x7D => some { d := .dst .w32, a := .num 16, b := .srcImm .w32, c := .immC, x := .immB, lit := .b }
  | 0x7F => some { a := .num 5, b := .srcImm .w64, c := .immC, x := .immB, lit := .b }
  | _ => none

/-- The two rows of one opcode that differ by a bit: atom.cas names its new value in C (R200), cpy.ring a ring in D
(R232), tskip with a value a source in B (R266). -/
def of (op : Nat) (e : Ext) : Option Shape :=
  (ofOpcode op).map fun sh =>
    if op = 0x54 ∧ e.fn = 7 then { sh with c := .src .bySz }
    else if op = 0x63 ∧ e.x.getLsbD 3 then { sh with d := .num 16, spaces := [1] }
    else if op = 0x78 ∧ e.x.getLsbD 0 then { sh with b := .src .w32 }
    else if op = 0x1A ∧ e.space = 4 then { sh with d := .dst .w64 }
    else sh

end Shape

/-- R148, R203: how many bits an operand of that width holds. -/
def Wd.bits (e : Ext) : Wd → Nat
  | .w32 => 32
  | .w64 => 64
  | .byTy => if e.ty = 6 ∨ e.ty = 10 then 64 else 32
  | .bySz => if e.size = 3 then 64 else if e.size = 4 then 128 else 32
  | .byFn => if e.fn = 6 ∨ e.fn = 10 then 64 else 32

/-- R133: x[9:7] of the engine instructions, the source space (R136). -/
def Ext.srcSpace (e : Ext) : BitVec 3 := e.x.extractLsb' 7 3
/-- x[6:4], the completion space (R200). -/
def Ext.compSpace (e : Ext) : BitVec 3 := e.x.extractLsb' 4 3

def SpSel.of (e : Ext) : SpSel → BitVec 3
  | .own => e.space
  | .src => e.srcSpace
  | .comp => e.compSpace
  | .scratch => 1

namespace Legal

/-- R148, R203: 64 bits take an even v, 128 bits a v that is a multiple of 4 or an even s. -/
def aligned (bits : Nat) : Reg → Bool
  | .v n => n % (bits / 32) = 0
  | .s n => bits ≤ 64 || n % 2 = 0
  | _ => true

def srcReg (bits : Nat) (r : Reg) : Bool :=
  aligned bits r && match r with
  | .v _ | .s _ | .const _ | .zero => true
  | _ => false

def dstReg (bits : Nat) (r : Reg) : Bool :=
  aligned bits r && match r with
  | .v _ | .s _ | .zero => true
  | _ => false

/-- R69. DESIGN CHOICE (log entry 82): zero is a base in every space; R69 names for .g an s register or an even v register only, and R161
shows zero there in lea. -/
def baseReg (space : BitVec 3) : Reg → Bool
  | .v n => if space = 4 then n % 2 = 0 else true
  | .s _ | .zero => true
  | _ => false

/-- R268. -/
def csrNumbers : List Nat := [0x000, 0x001, 0x002, 0x003, 0x008, 0x009, 0x00A, 0x00B]

/-- Whether field code `k` keeps to its role. -/
def role (e : Ext) (k : BitVec 11) : Role → Bool
  | .unused => k = 0
  | .dst w => dstReg (w.bits e) (regOf k)
  | .dstV w => dstReg (w.bits e) (regOf k) && match regOf k with | .s _ => false | _ => true
  | .rw w => dstReg (w.bits e) (regOf k)
  | .src w | .srcImm w => srcReg (w.bits e) (regOf k)
  | .sreg _ => match regOf k with | .s _ => true | _ => false
  | .sregImm _ => match regOf k with | .s _ | .const _ | .zero => true | _ => false
  | .pdst => match regOf k with | .p _ | .zero => true | _ => false
  | .psrc => match regOf k with | .p _ | .zero => true | .const j => j = 0 | _ => false
  | .num bound => k.toNat < bound
  | .special => k.toNat ≤ 13
  | .csr => csrNumbers.contains k.toNat
  | .base sp => baseReg (sp.of e) (regOf k)
  | .immC => true

/-- R15, R198: a source of a team-uniform instruction is never a v register or a predicate register; the constant 1 and zero of a predicate
position are neither. -/
def uniformSource (k : BitVec 11) : Role → Bool
  | .src _ | .srcImm _ | .base _ | .rw _ => match regOf k with | .v _ => false | _ => true
  | .psrc => match regOf k with | .p _ => false | _ => true
  | _ => true

/-- The D field names an s register as a destination (R15). -/
def sDest (sh : Shape) (e : Ext) : Bool :=
  match sh.d, regOf e.d with
  | .dst _, .s _ | .rw _, .s _ => true
  | _, _ => false

/-- R15, R147, R151, R198. -/
def uniform (op : Nat) (sh : Shape) (e : Ext) : Bool :=
  if sDest sh e then
    e.guard.isNone && uniformSource e.a sh.a && uniformSource e.b sh.b && uniformSource e.c sh.c
      && (op != 0x1D || (1 ≤ e.a.toNat && e.a.toNat ≤ 9))
      && (op != 0x50 || e.space != 0)
  else true

/-- R136, R137, R149, R201: the fields C, x and the literal. DESIGN CHOICE (log entry 83): a jmpf literal is a branch literal, which is a multiple
of 4 or the encoding is illegal. -/
def immediates (sh : Shape) (e : Ext) : Bool :=
  (match sh.x with
   | .none => e.x = 0
   | .immB => if e.b = 2047 then true else e.x = 0 && (sh.c != .immC || e.c = 0)
   | .off => true
   | .comp => e.x &&& 0x38F = 0
   | .srcComp => e.x &&& 0x00F = 0
   | .cpy => e.x &&& 0x007 = 0
   | .method => e.x &&& 0x300 = 0
   | .bit0 => e.x &&& 0x3FE = 0)
  && (match sh.x with
      | .comp | .srcComp | .cpy => 1 ≤ e.compSpace.toNat && e.compSpace.toNat ≤ 4
      | _ => true)
  && (match sh.x with
      | .srcComp | .cpy => 1 ≤ e.srcSpace.toNat && e.srcSpace.toNat ≤ 4
      | _ => true)
  && (match e.lit, sh.lit with
      | none, _ => true
      | some _, .no => false
      | some _, .b => e.b = 2047 && (sh.x != .immB || (e.x = 0 && (sh.c != .immC || e.c = 0)))
      | some _, .off => e.x = 0 && (sh.c != .immC || e.c = 0)
      | some l, .target => e.x = 0 && e.c = 0 && l.toNat % 4 = 0
      | some q, .q mask => q.toNat &&& mask = q.toNat || (sh.x = .cpy && e.b = 2047))

/-- R198, R241, R274: what a single instruction adds. -/
def extra (op : Nat) (e : Ext) : Bool :=
  match op with
  | 0x26 | 0x27 => (e.ty != 0 || e.fn.toNat ≤ 2) && (e.rnd = .rne || (e.ty = 0 && e.fn = 0))
  | 0x1E => 10 ≤ e.d.toNat
  | 0x4D => if e.ty = 6 ∨ e.ty = 10 then e.size = 3 else e.size = 2
  | 0x50 => (e.ty = 0 || (e.ty = 3 && e.size = 0) || (e.ty = 4 && e.size = 1)) && (e.hint = 0 || e.space = 4)
  | 0x51 => e.hint = 0 || e.space = 4
  | 0x54 =>
      (if e.size = 4 then e.ty = 0 && 6 ≤ e.fn.toNat
       else if e.size = 3 then e.ty = 6 || e.ty = 10
       else e.ty = 5 || e.ty = 9 || (e.ty = 0 && (e.fn.toNat ≤ 2 || 6 ≤ e.fn.toNat)))
      && (e.rnd = .rne || (e.ty = 0 && e.fn = 0 && e.size = 2)) && e.scope != 3
  | 0x55 =>
      (if e.size = 3 then e.ty = 6 || e.ty = 10 else e.ty = 5 || e.ty = 9 || (e.ty = 0 && e.fn.toNat ≤ 2))
      && (e.rnd = .rne || (e.ty = 0 && e.fn = 0))
  | 0x58 => e.scope != 3
  | 0x63 => (!e.x.getLsbD 3 || (e.lit.getD 0).toNat % 65536 = 0) && (e.hint = 0 || e.space = 4)
  | 0x64 | 0x65 => e.hint = 0 || e.space = 4
  | _ => true

/-- R147 with R198, R241 and R274: the extended forms of opcode `op` that are instructions. -/
def ext (op : Nat) (e : Ext) : Bool :=
  match Shape.of op e with
  | none => false
  | some sh =>
    role e e.d sh.d && role e e.a sh.a && role e e.b sh.b && role e e.c sh.c
    && sh.types.contains e.ty.toNat && sh.fns.contains e.fn.toNat
    && sh.spaces.contains e.space.toNat && sh.sizes.contains e.size.toNat
    && (sh.rnd || e.rnd = .rne) && (sh.sat || !e.sat) && (sh.scope || e.scope = 0) && (sh.hint || e.hint = 0)
    && (sh.guardOk || e.guard.isNone)
    && uniform op sh e && immediates sh e && extra op e

end Legal

/-! ## The base form as the extended form it stands for (R131, R132) -/

/-- R131 to R134. -/
def baseCode (k : BitVec 6) : BitVec 11 :=
  let n := k.toNat
  BitVec.ofNat 11 (if n < 48 then n else if n < 56 then 1536 + (n - 48) else if n < 63 then 2040 + (n - 56) else 2047)

/-- R132: 00 no guard, 01 (p0), 10 (p1), 11 (!p0). -/
def baseGuard (g : BitVec 2) : Option (Bool × BitVec 4) :=
  match g.toNat with
  | 0 => none
  | 1 => some (false, 0)
  | 2 => some (false, 1)
  | _ => some (true, 0)

/-- The signed offset of a branch or the immediate of movi, as the bits of I21 in C and x. -/
def splitImm (i : BitVec 21) : BitVec 11 × BitVec 10 := (i.extractLsb' 10 11, i.extractLsb' 0 10)

/-- R132: the type a base word implies. -/
def baseType (op : Nat) (d : BitVec 6) : BitVec 5 :=
  let sd := 48 ≤ d.toNat && d.toNat < 56
  if 0x30 ≤ op then 0 else if op = 0x15 ∨ op = 0x16 then (if sd then 6 else 5) else if sd then 10 else 9

/-- R132: which base words use the fields in which way. -/
inductive BaseUse where
  | dab | da | imm12 | mem | rel | none
  deriving DecidableEq, Repr

def baseUse (op : Nat) : BaseUse :=
  if op = 0x1B then .da else if op = 0x1C then .imm12 else if op = 0x50 ∨ op = 0x51 then .mem
  else if op = 0x40 ∨ op = 0x41 then .rel
  else if op = 0x42 ∨ op = 0x47 ∨ op = 0x48 ∨ op = 0x49 ∨ op = 0x4A then .none else .dab

/-- The extended fields of a base word of opcode `op`, with its literal when L = 10. -/
def Base.toExt (op : Nat) (b : Base) (lit : Option W64) : Ext :=
  let e : Ext := { s := b.s, fn := 0, ty := 0, guard := baseGuard b.g, rnd := .rne, sat := false, d := 0, a := 0, space := 0, size := 0, scope := 0, hint := 0, b := 0, c := 0, x := 0, lit := lit }
  match baseUse op with
  | .dab => { e with ty := baseType op b.d, d := baseCode b.d, a := baseCode b.a, b := baseCode b.b }
  | .da => { e with ty := baseType op b.d, d := baseCode b.d, a := baseCode b.a }
  | .imm12 =>
      let cx := splitImm ((b.a ++ b.b).signExtend 21)
      { e with ty := baseType op b.d, d := baseCode b.d, c := cx.1, x := cx.2 }
  | .mem =>
      let cx := splitImm ((b.b.zeroExtend 21) <<< 2)
      { e with d := baseCode b.d, a := baseCode b.a, space := 1, size := 2, c := cx.1, x := cx.2 }
  | .rel =>
      let cx := splitImm ((b.d ++ b.a ++ b.b).signExtend 21)
      { e with c := cx.1, x := cx.2 }
  | .none => e

namespace Legal

/-- R132, R137, R147: the base words of opcode `op` that are instructions; `lit` when L = 10. -/
def base (op : Nat) (b : Base) (lit : Option W64) : Bool :=
  match Shape.ofOpcode op with
  | none => false
  | some sh =>
    sh.base
    && (match baseUse op with
        | .dab => lit.isNone || b.b = 63
        | .da => b.b = 0
        | .imm12 => lit.isNone || (b.a = 0 && b.b = 0)
        | .mem => lit.isNone || b.b = 0
        | .rel => lit.isNone || (b.d = 0 && b.a = 0 && b.b = 0)
        | .none => b.d = 0 && b.a = 0 && b.b = 0)
    && ext op (b.toExt op lit)

end Legal

/-- The fields of an instruction row's words, as extended fields. -/
def Words.toExt (op : Nat) : Words → Ext
  | .ext e => e
  | .baseLit b l => b.toExt op (some l)

/-- R129: the length in bytes. -/
def Words.len : Words → Nat
  | .ext e => if e.lit.isSome then 20 else 12
  | .baseLit _ _ => 12

end Sys2Proof
end

