-- ==== Sys2Proof/Machine/Encoding.lean ====
section
/-!
DEFINITION. Which constructor of `Instr` stands for which opcode (R144) and the words each is written with (R129-R137):
the encoder's and the decoder's shared tables.
-/
namespace Sys2Proof

/-- What an instruction row is made of: its opcode and its base word, or its opcode and its other words. -/
inductive View where
  | base  (op : Nat) (b : Base)
  | words (op : Nat) (w : Words)
  | event
  deriving DecidableEq, Repr

/-- R144: the opcode of each instruction row; an event row has no words. -/
def Instr.view : Instr → View
  | .addBase b => .base 0x01 b
  | .subBase b => .base 0x02 b
  | .mulBase b => .base 0x03 b
  | .andBase b => .base 0x08 b
  | .orBase b => .base 0x09 b
  | .xorBase b => .base 0x0a b
  | .andnBase b => .base 0x0b b
  | .shlBase b => .base 0x0c b
  | .shrBase b => .base 0x0d b
  | .sarBase b => .base 0x0e b
  | .minBase b => .base 0x15 b
  | .maxBase b => .base 0x16 b
  | .movBase b => .base 0x1b b
  | .moviBase b => .base 0x1c b
  | .faddBase b => .base 0x30 b
  | .fsubBase b => .base 0x31 b
  | .fmulBase b => .base 0x32 b
  | .fminBase b => .base 0x35 b
  | .fmaxBase b => .base 0x36 b
  | .braBase b => .base 0x40 b
  | .callBase b => .base 0x41 b
  | .retBase b => .base 0x42 b
  | .exitBase b => .base 0x47 b
  | .nopBase b => .base 0x48 b
  | .yieldBase b => .base 0x49 b
  | .barBase b => .base 0x4a b
  | .ldBase b => .base 0x50 b
  | .stBase b => .base 0x51 b
  | .add w => .words 0x01 w
  | .sub w => .words 0x02 w
  | .mul w => .words 0x03 w
  | .mulh w => .words 0x04 w
  | .mad w => .words 0x05 w
  | .div w => .words 0x06 w
  | .rem w => .words 0x07 w
  | .and w => .words 0x08 w
  | .or w => .words 0x09 w
  | .xor w => .words 0x0a w
  | .andn w => .words 0x0b w
  | .shl w => .words 0x0c w
  | .shr w => .words 0x0d w
  | .sar w => .words 0x0e w
  | .rot w => .words 0x0f w
  | .popc w => .words 0x10 w
  | .clz w => .words 0x11 w
  | .brev w => .words 0x12 w
  | .bfx w => .words 0x13 w
  | .bfi w => .words 0x14 w
  | .min w => .words 0x15 w
  | .max w => .words 0x16 w
  | .abs w => .words 0x17 w
  | .sel w => .words 0x18 w
  | .cmp w => .words 0x19 w
  | .lea w => .words 0x1a w
  | .mov w => .words 0x1b w
  | .movi w => .words 0x1c w
  | .movs w => .words 0x1d w
  | .movt w => .words 0x1e w
  | .pand w => .words 0x20 w
  | .por w => .words 0x21 w
  | .pxor w => .words 0x22 w
  | .pnot w => .words 0x23 w
  | .ballot w => .words 0x24 w
  | .shfl w => .words 0x25 w
  | .cred w => .words 0x26 w
  | .cscan w => .words 0x27 w
  | .cbar w => .words 0x28 w
  | .fpk w => .words 0x29 w
  | .fadd w => .words 0x30 w
  | .fsub w => .words 0x31 w
  | .fmul w => .words 0x32 w
  | .ffma w => .words 0x33 w
  | .ffma2 w => .words 0x34 w
  | .fmin w => .words 0x35 w
  | .fmax w => .words 0x36 w
  | .fcmp w => .words 0x37 w
  | .frcp w => .words 0x38 w
  | .frsq w => .words 0x39 w
  | .fsqrt w => .words 0x3a w
  | .fex2 w => .words 0x3b w
  | .flg2 w => .words 0x3c w
  | .ftanh w => .words 0x3d w
  | .fcvt w => .words 0x3e w
  | .fcla w => .words 0x3f w
  | .bra w => .words 0x40 w
  | .call w => .words 0x41 w
  | .ret w => .words 0x42 w
  | .jmpi w => .words 0x43 w
  | .calli w => .words 0x44 w
  | .jmpf w => .words 0x45 w
  | .cfetch w => .words 0x46 w
  | .exit w => .words 0x47 w
  | .nop w => .words 0x48 w
  | .yield w => .words 0x49 w
  | .bar w => .words 0x4a w
  | .barn w => .words 0x4b w
  | .sleep w => .words 0x4c w
  | .waitc w => .words 0x4d w
  | .ld w => .words 0x50 w
  | .st w => .words 0x51 w
  | .ldt w => .words 0x52 w
  | .stt w => .words 0x53 w
  | .atom w => .words 0x54 w
  | .red w => .words 0x55 w
  | .rflush w => .words 0x56 w
  | .rclose w => .words 0x57 w
  | .fence w => .words 0x58 w
  | .gcall w => .words 0x59 w
  | .gret w => .words 0x5a w
  | .hmsg w => .words 0x5b w
  | .rget w => .words 0x5c w
  | .rput w => .words 0x5d w
  | .reos w => .words 0x5e w
  | .rjoin w => .words 0x5f w
  | .fres w => .words 0x60 w
  | .fresPoison w => .words 0x60 w
  | .treg w => .words 0x61 w
  | .tspawn w => .words 0x62 w
  | .cpy w => .words 0x63 w
  | .cpyRing w => .words 0x63 w
  | .gath w => .words 0x64 w
  | .scat w => .words 0x65 w
  | .coll w => .words 0x66 w
  | .waito w => .words 0x67 w
  | .mwld w => .words 0x68 w
  | .mflip w => .words 0x69 w
  | .mop w => .words 0x6a w
  | .mjoin w => .words 0x6b w
  | .mtake w => .words 0x6c w
  | .mpass w => .words 0x6d w
  | .mrd w => .words 0x6e w
  | .xfwd w => .words 0x6f w
  | .xinv w => .words 0x70 w
  | .qbx w => .words 0x71 w
  | .dqbx w => .words 0x72 w
  | .thset w => .words 0x73 w
  | .thget w => .words 0x74 w
  | .trap w => .words 0x75 w
  | .tret w => .words 0x76 w
  | .tlog w => .words 0x77 w
  | .tskip w => .words 0x78 w
  | .tskipValue w => .words 0x78 w
  | .csrr w => .words 0x79 w
  | .csrw w => .words 0x7a w
  | .evsig w => .words 0x7b w
  | .time w => .words 0x7c w
  | .sig w => .words 0x7d w
  | .sigret w => .words 0x7e w
  | .cinval w => .words 0x7f w
  | _ => .event

/-- R144 with a dagger: the base-form rows (L = 00). -/
def mkBase (op : Nat) (b : Base) : Option Instr :=
  match op with
  | 0x01 => some (.addBase b)
  | 0x02 => some (.subBase b)
  | 0x03 => some (.mulBase b)
  | 0x08 => some (.andBase b)
  | 0x09 => some (.orBase b)
  | 0x0a => some (.xorBase b)
  | 0x0b => some (.andnBase b)
  | 0x0c => some (.shlBase b)
  | 0x0d => some (.shrBase b)
  | 0x0e => some (.sarBase b)
  | 0x15 => some (.minBase b)
  | 0x16 => some (.maxBase b)
  | 0x1b => some (.movBase b)
  | 0x1c => some (.moviBase b)
  | 0x30 => some (.faddBase b)
  | 0x31 => some (.fsubBase b)
  | 0x32 => some (.fmulBase b)
  | 0x35 => some (.fminBase b)
  | 0x36 => some (.fmaxBase b)
  | 0x40 => some (.braBase b)
  | 0x41 => some (.callBase b)
  | 0x42 => some (.retBase b)
  | 0x47 => some (.exitBase b)
  | 0x48 => some (.nopBase b)
  | 0x49 => some (.yieldBase b)
  | 0x4a => some (.barBase b)
  | 0x50 => some (.ldBase b)
  | 0x51 => some (.stBase b)
  | _ => none

/-- R144: the other rows. fres and fres.poison differ by sat (R226), cpy and cpy.ring by x[3] (R232), tskip with and
without a value by x[0] (R266). -/
def mkWords (op : Nat) (w : Words) : Option Instr :=
  match op with
  | 0x01 => some (.add w)
  | 0x02 => some (.sub w)
  | 0x03 => some (.mul w)
  | 0x04 => some (.mulh w)
  | 0x05 => some (.mad w)
  | 0x06 => some (.div w)
  | 0x07 => some (.rem w)
  | 0x08 => some (.and w)
  | 0x09 => some (.or w)
  | 0x0a => some (.xor w)
  | 0x0b => some (.andn w)
  | 0x0c => some (.shl w)
  | 0x0d => some (.shr w)
  | 0x0e => some (.sar w)
  | 0x0f => some (.rot w)
  | 0x10 => some (.popc w)
  | 0x11 => some (.clz w)
  | 0x12 => some (.brev w)
  | 0x13 => some (.bfx w)
  | 0x14 => some (.bfi w)
  | 0x15 => some (.min w)
  | 0x16 => some (.max w)
  | 0x17 => some (.abs w)
  | 0x18 => some (.sel w)
  | 0x19 => some (.cmp w)
  | 0x1a => some (.lea w)
  | 0x1b => some (.mov w)
  | 0x1c => some (.movi w)
  | 0x1d => some (.movs w)
  | 0x1e => some (.movt w)
  | 0x20 => some (.pand w)
  | 0x21 => some (.por w)
  | 0x22 => some (.pxor w)
  | 0x23 => some (.pnot w)
  | 0x24 => some (.ballot w)
  | 0x25 => some (.shfl w)
  | 0x26 => some (.cred w)
  | 0x27 => some (.cscan w)
  | 0x28 => some (.cbar w)
  | 0x29 => some (.fpk w)
  | 0x30 => some (.fadd w)
  | 0x31 => some (.fsub w)
  | 0x32 => some (.fmul w)
  | 0x33 => some (.ffma w)
  | 0x34 => some (.ffma2 w)
  | 0x35 => some (.fmin w)
  | 0x36 => some (.fmax w)
  | 0x37 => some (.fcmp w)
  | 0x38 => some (.frcp w)
  | 0x39 => some (.frsq w)
  | 0x3a => some (.fsqrt w)
  | 0x3b => some (.fex2 w)
  | 0x3c => some (.flg2 w)
  | 0x3d => some (.ftanh w)
  | 0x3e => some (.fcvt w)
  | 0x3f => some (.fcla w)
  | 0x40 => some (.bra w)
  | 0x41 => some (.call w)
  | 0x42 => some (.ret w)
  | 0x43 => some (.jmpi w)
  | 0x44 => some (.calli w)
  | 0x45 => some (.jmpf w)
  | 0x46 => some (.cfetch w)
  | 0x47 => some (.exit w)
  | 0x48 => some (.nop w)
  | 0x49 => some (.yield w)
  | 0x4a => some (.bar w)
  | 0x4b => some (.barn w)
  | 0x4c => some (.sleep w)
  | 0x4d => some (.waitc w)
  | 0x50 => some (.ld w)
  | 0x51 => some (.st w)
  | 0x52 => some (.ldt w)
  | 0x53 => some (.stt w)
  | 0x54 => some (.atom w)
  | 0x55 => some (.red w)
  | 0x56 => some (.rflush w)
  | 0x57 => some (.rclose w)
  | 0x58 => some (.fence w)
  | 0x59 => some (.gcall w)
  | 0x5a => some (.gret w)
  | 0x5b => some (.hmsg w)
  | 0x5c => some (.rget w)
  | 0x5d => some (.rput w)
  | 0x5e => some (.reos w)
  | 0x5f => some (.rjoin w)
  | 0x60 => some (if (w.toExt 0x60).sat then .fresPoison w else .fres w)
  | 0x61 => some (.treg w)
  | 0x62 => some (.tspawn w)
  | 0x63 => some (if (w.toExt 0x63).x.getLsbD 3 then .cpyRing w else .cpy w)
  | 0x64 => some (.gath w)
  | 0x65 => some (.scat w)
  | 0x66 => some (.coll w)
  | 0x67 => some (.waito w)
  | 0x68 => some (.mwld w)
  | 0x69 => some (.mflip w)
  | 0x6a => some (.mop w)
  | 0x6b => some (.mjoin w)
  | 0x6c => some (.mtake w)
  | 0x6d => some (.mpass w)
  | 0x6e => some (.mrd w)
  | 0x6f => some (.xfwd w)
  | 0x70 => some (.xinv w)
  | 0x71 => some (.qbx w)
  | 0x72 => some (.dqbx w)
  | 0x73 => some (.thset w)
  | 0x74 => some (.thget w)
  | 0x75 => some (.trap w)
  | 0x76 => some (.tret w)
  | 0x77 => some (.tlog w)
  | 0x78 => some (if (w.toExt 0x78).x.getLsbD 0 then .tskipValue w else .tskip w)
  | 0x79 => some (.csrr w)
  | 0x7a => some (.csrw w)
  | 0x7b => some (.evsig w)
  | 0x7c => some (.time w)
  | 0x7d => some (.sig w)
  | 0x7e => some (.sigret w)
  | 0x7f => some (.cinval w)
  | _ => none

/-! ## Fields and words -/

def rndCode : Rnd → BitVec 2
  | .rne => 0 | .rz => 1 | .rd => 2 | .ru => 3
def rndOf (k : BitVec 2) : Rnd :=
  match k.toNat with
  | 0 => .rne | 1 => .rz | 2 => .rd | _ => .ru

/-- R131: the base word. -/
def baseWord (l : BitVec 2) (op : Nat) (b : Base) : W32 :=
  l ++ b.s ++ BitVec.ofNat 7 op ++ b.g ++ b.d ++ b.a ++ b.b

/-- R131. -/
def baseOf (w : W32) : Base :=
  { s := w.extractLsb' 27 3, g := w.extractLsb' 18 2, d := w.extractLsb' 12 6, a := w.extractLsb' 6 6, b := w.extractLsb' 0 6 }

/-- R135: neg, pidx and G. -/
def guardBits : Option (Bool × BitVec 4) → BitVec 6
  | none => 0
  | some (neg, p) => BitVec.ofBool neg ++ p ++ (1 : BitVec 1)

/-- R133, word 0. -/
def extWord0 (l : BitVec 2) (op : Nat) (e : Ext) : W32 :=
  l ++ e.s ++ BitVec.ofNat 7 op ++ e.fn ++ e.ty ++ guardBits e.guard ++ rndCode e.rnd ++ BitVec.ofBool e.sat ++ (0 : BitVec 1)
/-- R133, word 1. -/
def extWord1 (e : Ext) : W32 := e.d ++ e.a ++ e.space ++ e.size ++ e.scope ++ e.hint
/-- R133, word 2. -/
def extWord2 (e : Ext) : W32 := e.b ++ e.c ++ e.x

/-- R133, R135. -/
def extOf (w0 w1 w2 : W32) (lit : Option W64) : Ext :=
  { s := w0.extractLsb' 27 3, fn := w0.extractLsb' 15 5, ty := w0.extractLsb' 10 5,
    guard := if w0.getLsbD 4 then some (w0.getLsbD 9, w0.extractLsb' 5 4) else none,
    rnd := rndOf (w0.extractLsb' 2 2), sat := w0.getLsbD 1,
    d := w1.extractLsb' 21 11, a := w1.extractLsb' 10 11, space := w1.extractLsb' 7 3, size := w1.extractLsb' 4 3,
    scope := w1.extractLsb' 2 2, hint := w1.extractLsb' 0 2,
    b := w2.extractLsb' 21 11, c := w2.extractLsb' 10 11, x := w2.extractLsb' 0 10, lit }

/-- R129: bits [31:30] of a first word. -/
def lengthCode (w : W32) : Nat := (w.extractLsb' 30 2).toNat
/-- R130: the 7-bit major opcode. -/
def opcodeOf (w : W32) : Nat := (w.extractLsb' 20 7).toNat
/-- R129: words of an instruction by its length code. -/
def wordsOfLength : Nat → Nat
  | 0 => 1 | 1 => 3 | 2 => 3 | _ => 5

/-- R129, R137: the words of an instruction row; none for an event row. -/
def Instr.words (i : Instr) : Option (List W32) :=
  match i.view with
  | .base op b => some [baseWord 0 op b]
  | .words op (.ext e) =>
      match e.lit with
      | none => some [extWord0 1 op e, extWord1 e, extWord2 e]
      | some l => some [extWord0 3 op e, extWord1 e, extWord2 e, l.extractLsb' 0 32, l.extractLsb' 32 32]
  | .words op (.baseLit b l) => some [baseWord 2 op b, l.extractLsb' 0 32, l.extractLsb' 32 32]
  | .event => none

/-- R3: the bytes of a word, lowest first. -/
def wordBytes (w : W32) : List Byte :=
  [w.extractLsb' 0 8, w.extractLsb' 8 8, w.extractLsb' 16 8, w.extractLsb' 24 8]

/-- R3: the first word of a list of bytes, and the rest. -/
def takeWord : List Byte → Option (W32 × List Byte)
  | b0 :: b1 :: b2 :: b3 :: rest => some (b3 ++ b2 ++ b1 ++ b0, rest)
  | _ => none

end Sys2Proof
end

