-- ==== Sys2Proof/WellFormed.lean ====
section
/-!
DEFINITION. Well-formed instructions: the encodings R147, R198, R241 and R274 do not call illegal, each with the one bit
that tells two rows of an opcode apart.
-/
namespace Sys2Proof

/-- The bit that tells the two rows of opcodes 0x60, 0x63 and 0x78 apart (R226, R232, R266). -/
def Instr.variantOk : Instr → Bool
  | .fres w => !(w.toExt 0x60).sat
  | .fresPoison w => (w.toExt 0x60).sat
  | .cpy w => !(w.toExt 0x63).x.getLsbD 3
  | .cpyRing w => (w.toExt 0x63).x.getLsbD 3
  | .tskip w => !(w.toExt 0x78).x.getLsbD 0
  | .tskipValue w => (w.toExt 0x78).x.getLsbD 0
  | _ => true

/-- R147. An event row has no words; its operands are checked by the step that takes it. -/
def Instr.wf (i : Instr) : Bool :=
  match i.view with
  | .base op b => Legal.base op b none
  | .words op (.ext e) => Legal.ext op e && i.variantOk
  | .words op (.baseLit b l) => Legal.base op b (some l) && i.variantOk
  | .event => true

end Sys2Proof
end

