-- ==== Sys2Proof/Decode.lean ====
section
/-!
DEFINITION. The decoder (R129-R147), total on any bytes and rejecting by name, and the encoder after it.
-/
namespace Sys2Proof

/-- Why bytes are not an instruction (R147). -/
inductive DecodeError where
  /-- fewer bytes than the instruction's length (R129) -/
  | truncated
  /-- an opcode that R144 leaves unassigned -/
  | unassigned (op : Nat)
  /-- L = 00 or L = 10 of an opcode without a dagger -/
  | noBaseForm (op : Nat)
  /-- bit 0 of an extended first word -/
  | reservedBit
  /-- G = 0 with a non-zero neg or pidx (R135) -/
  | guardWithoutG
  /-- a form, field, type or code that the instruction does not admit -/
  | illegalField (op : Nat)
  deriving DecidableEq, Repr

/-- R133: an extended first word's reserved bit and R135's rule for G = 0. -/
def extWordCheck (w0 : W32) : Option DecodeError :=
  if w0.getLsbD 0 then some .reservedBit
  else if !w0.getLsbD 4 && w0.extractLsb' 5 5 != 0 then some .guardWithoutG
  else none

/-- R147: an assembled row if it keeps to every rule. -/
def accept (op : Nat) (i : Option Instr) (len : Nat) : Except DecodeError (Instr × Nat) :=
  match i with
  | none => .error (.noBaseForm op)
  | some i => if i.wf then .ok (i, len) else .error (.illegalField op)

/-- R129: the instruction that stands at the head of the bytes, and its length in bytes. -/
def decode (bytes : List Byte) : Except DecodeError (Instr × Nat) :=
  match takeWord bytes with
  | none => .error .truncated
  | some (w0, r0) =>
    let op := opcodeOf w0
    if (Shape.ofOpcode op).isNone then .error (.unassigned op)
    else if lengthCode w0 = 0 then accept op (mkBase op (baseOf w0)) 4
    else
      match takeWord r0 with
      | none => .error .truncated
      | some (w1, r1) =>
        match takeWord r1 with
        | none => .error .truncated
        | some (w2, r2) =>
          if lengthCode w0 = 2 then
            match mkBase op (baseOf w0) with
            | none => .error (.noBaseForm op)
            | some _ => accept op (mkWords op (.baseLit (baseOf w0) (w2 ++ w1))) 12
          else
            match extWordCheck w0 with
            | some err => .error err
            | none =>
              if lengthCode w0 = 1 then accept op (mkWords op (.ext (extOf w0 w1 w2 none))) 12
              else
                match takeWord r2 with
                | none => .error .truncated
                | some (w3, r3) =>
                  match takeWord r3 with
                  | none => .error .truncated
                  | some (w4, _) => accept op (mkWords op (.ext (extOf w0 w1 w2 (some (w4 ++ w3))))) 20

/-- The bytes of a well-formed instruction, from the same encoding tables; none for an event row. -/
def encode (i : Instr) : Option (List Byte) :=
  if i.wf then i.words.map (fun ws => ws.flatMap wordBytes) else none

/-- `n` little-endian bytes of a number (R3). -/
def natBytes : Nat → Nat → List Byte
  | 0, _ => []
  | n + 1, w => BitVec.ofNat 8 w :: natBytes n (w / 256)

/-- The decoder's answer for an instruction whose bits, numbered from the first word's bit 0 upward, are `w`; the bits above
`nbits` are 0 up to the longest instruction (20 bytes, R129). -/
def decodeTableWord (nbits w : Nat) : Option Instr :=
  match decode (natBytes 20 (w % 2 ^ nbits)) with
  | .ok (i, _) => some i
  | .error _ => none

end Sys2Proof
end

