-- ==== Sys2Proof/Config.lean ====
section
/-!
DEFINITION. What the manual leaves open: free values. Each is an opaque constant applied to the plain counter
`State.free`, so no proof can know its value and a claim about it holds for every value (log entry 6).
-/
namespace Sys2Proof.Config

/-- Which step of the agenda comes next, when no thread is being issued (log entry 1). -/
opaque pickStep : Nat → Nat
/-- R143: a fixed-latency result read early with the checking flag clear is the new value (true) or the old one: by cycle, team, tid and the
number of the early read in the instruction. -/
opaque earlyIsNew : Nat → Nat → Nat → Nat → Bool
/-- R112: which element access of an engine operation is performed next; also which one meets its fault first (R370). -/
opaque nextElement : Nat → Nat
/-- R62: whether a team that holds its idempotent flag is restarted (true) or saved. -/
opaque restarts : Nat → Bool
/-- R122: the value a fabric load or atomic returns, byte by byte held at the destination. -/
opaque fabricValue : Nat → W64
/-- R122, R315: the port that the switch hash gives a 128-byte line of the fabric window. -/
opaque fabricPort : Nat → Nat
/-- R75: which copy a full L1 drops. -/
opaque l1Victim : Nat → Nat
/-- R125: whether a relaxed host store that has not landed lands now. -/
opaque relaxedLands : Nat → Bool
/-- R289: how many of the requests that stand in a slice's queue for a port it serves in a cycle; R91: how many walks of a die end. -/
opaque served : Nat → Nat → Nat → Nat
opaque walksEnd : Nat → Nat → Nat
/-- R307, R365: whether a host load is answered with Unsupported Request or Completer Abort; R376, R377: whether the answer to an engine's
load comes in time. -/
opaque loadRefused : Nat → Bool
opaque answerLate : Nat → Bool
/-- R377: whether a Colgaig switch cannot deliver a fabric store. -/
opaque storeLost : Nat → Bool
/-- R376: whether the host rejects a posted store, which is then dropped. -/
opaque hostRejects : Nat → Bool
/-- R307: whether the root complex answers an AtomicOp with Unsupported Request or Completer Abort. -/
opaque rootRefused : Nat → Bool
/-- R365, R372: whether the answer of another module carries the poisoned mark. -/
opaque answerMarked : Nat → Bool
/-- R418: what a service core's load returns by a port that has lost its link. -/
opaque lostAnswer : Nat → W64
/-- R376: whether a host operation that timed out was performed. -/
opaque hostPerformed : Nat → Bool
/-- R296: whether a hod core retires an instruction in a cycle of its. -/
opaque hodRetires : Nat → Bool
/-- R295: which slice, if any, copies an installed program now. -/
opaque sliceCopies : Nat → Nat
/-- R91: which cached translation, if any, is dropped for room. -/
opaque tlbDrops : Nat → Nat
/-- R322: the dynamic energy of a source in a window, in micro-joules, as firmware measures it; and its idle power and leakage. -/
opaque energy : Nat → Nat → Nat
opaque idleEnergy : Nat → Nat → Nat
/-- R322: the activity counters of a user core for a bay, in a window. -/
opaque coreActivity : Nat → Nat → Nat → Nat
/-- R326: the wear words that firmware finds, by moment and word. -/
opaque wearWord : Nat → Nat → W64
/-- R325: whether a checkpoint reaches the store. -/
opaque checkpointWritten : Nat → Bool
/-- R324: the module serial number of a reading record. -/
opaque moduleSerial : W64
/-- R314: the module's own number in the domain. -/
opaque moduleNumber : Nat
/-- R317: whether this module is the first of a relay's chain, which its packet does not say. -/
opaque relayFirst : Nat → Bool
/-- R317, R378: whether the next module of a chain takes a chunk that is offered to it. -/
opaque chunkTaken : Nat → Bool
/-- R415: whether the write of a reservation of signing indices fails. -/
opaque reservationFails : Nat → Bool
/-- R415: how many checkpoints the meter checkpoint store holds. -/
opaque storeCapacity : Nat
/-- R416: how many flash blocks there are; a threshold is 2 % of them. -/
opaque flashBlocks : Nat
/-- R381, R416: the flash block of a page, by page-list entry; and the block with the highest program and erase count. -/
opaque pageBlock : Nat → Nat
opaque wornBlock : Nat → Nat
/-- R318, R325: the kiln whose flash holds the meter checkpoint store. -/
opaque storeKiln : Nat
/-- R414: whether the signature of the checkpoint with an index verifies, as the store holds it. -/
opaque signatureVerifies : Nat → Bool
/-- R306, R309: the port by which a host load comes. -/
opaque readPort : Nat → Nat

end Sys2Proof.Config
end

