-- ==== Sys2Proof/Machine/State.lean ====
section
/-!
DEFINITION. The state of one ZZ-960 module as plain data, and the state right after a module reset. INVENTORY.md lists
each piece with the rule that names it. A map from numbers is a list of pairs in rising order of the number that lists no
entry equal to the default (`Machine/Sparse.lean` has its operations).
-/
namespace Sys2Proof.Machine

/-- Why the machine stops. -/
inductive Fault where
  /-- Raised by an instruction row that is executed while no thread is being issued (`State.groups` is empty, or names a
  thread that does not exist). Safe: the hardware has no such case, since an instruction is always some thread's. -/
  | noIssuingThread
  deriving DecidableEq, Repr

/-- Why a step has no meaning. -/
inductive Refusal where
  /-- Raised by the arm of an instruction that has no meaning yet. Safe. -/
  | notModelled (mnemonic : String)
  deriving DecidableEq, Repr

/-- Memory as cells in rising order of address; an unlisted address reads as 0 (log entry 2). -/
abbrev Memory := List Host.Cell
/-- A map from numbers with a default that is not listed. -/
abbrev SMap (α : Type) := List (Nat × α)

/-- R70, R72-R74, R87: the place an access reaches. -/
inductive Loc where
  /-- a byte of a thread's lane slice -/
  | lane (t : TRef) (off : Nat)
  /-- a byte of a team's scratchpad -/
  | scr (team off : Nat)
  /-- a byte of a launch's chip scratchpad on one die -/
  | dscr (launch die off : Nat)
  /-- a physical address, with the page type of R89 -/
  | phys (pa type : Nat)
  deriving DecidableEq, Repr

/-- A cause code of R349 and its taux word. -/
structure TrapInfo where
  code : Nat
  aux  : W64
  deriving DecidableEq, Repr

/-- R265, R354: one entry of the operand log. Its twelve words are computed from these fields by tlog. -/
structure LogEntry where
  /-- from issue until the access completes -/
  busy   : Bool := false
  /-- the access faulted -/
  valid  : Bool := false
  /-- program order among the thread's logged accesses -/
  order  : Nat := 0
  opcode : Nat := 0
  fn     : BitVec 5 := 0
  ty     : BitVec 5 := 0
  rnd    : Rnd := .rne
  space  : BitVec 3 := 0
  size   : BitVec 3 := 0
  scope  : BitVec 2 := 0
  hint   : BitVec 2 := 0
  /-- destination register code; 2047 for none -/
  dest   : BitVec 11 := 2047
  ea     : W64 := 0
  opb    : W128 := 0
  opc    : W128 := 0
  /-- what the access met when it was performed -/
  fault  : Option TrapInfo := none
  /-- the value the access returns to its destination -/
  value  : W128 := 0
  /-- R211, R308: an atom to a target that is not of type 0, or a store of type 2 to a line that its home does not hold: the thread waits for it -/
  outside : Bool := false
  /-- R37: the core's L1 returned it -/
  fromL1 : Bool := false
  /-- R328, R365, R376: the port by which its answer comes: its feature (0 and 1 the host's, 3 the fabric) and its number there -/
  link : Option (Nat × Nat) := none
  /-- R307, R308: the place of a store or atom of type 2 that is performed once its home holds the line -/
  place : Option Loc := none
  deriving DecidableEq, Repr

/-- R141, R143: a fixed-latency result that a later instruction could still read too early. -/
structure LateResult where
  /-- register code (R134) -/
  code : Nat
  /-- the value from before the instruction -/
  old  : W64
  /-- cycles of stall counts still to come -/
  left : Nat
  deriving DecidableEq, Repr

/-- R37, R66: what a thread waits for. -/
inductive Wait where
  | bar
  | barn (id : Nat)
  /-- joined to the open record of that PC -/
  | coll (pc : W32)
  /-- R177, step 6: until the record it has joined closes -/
  | collAgain (pc : W32)
  /-- waitc or waito; the monitor is in `State.monitors` -/
  | monitor
  | rget (ring : Nat) (dest : BitVec 11)
  /-- an rput whose reservation is queued -/
  | ringSlot (ring : Nat)
  /-- a reos that waits for its ring copies -/
  | reos (ring : Nat)
  | mtake
  | sleep (deadline : Nat)
  | jmpf (target : W32)
  /-- a cfetch into a slot that is fetching -/
  | cfetch (slot : Nat)
  /-- the homes (slice numbers) that have not yet applied the close of the region -/
  | rclose (region : Nat) (homes : List Nat)
  /-- R123, R315: markers, and host ports whose flush, that have not been answered -/
  | fence (fab sys : List Nat)
  /-- the reply of a gcall or hmsg -/
  | reply (dest : BitVec 11)
  /-- R227, R240: entries that their receiver has not accepted; and the refusal (future, reason) that a treg has met -/
  | accepted (ids : List Nat) (fault : Option (Nat × Nat))
  /-- an evsig whose ring is full -/
  | evsig (value : W64)
  /-- R119, R301, R366: the answer of a request that the instruction has made: hod events, or an answer of the fabric or of a host port, for the
  effective address; the instruction is issued again -/
  | answer (fab host : Bool) (ea : W64)
  /-- R289, R290: a request of the instruction has been refused: until that entry is accepted; the instruction is issued again -/
  | refused (id : Nat)
  /-- R290: until a sender's window for a receiver's queue has room; the instruction is issued again -/
  | room (sender receiver queue : Nat)
  deriving DecidableEq, Repr

/-- A wait and the code address after the waiting instruction. -/
structure Waiting where
  why  : Wait
  next : W32
  /-- R113, R220: the cycle, and in it the issue group, in which the wait began -/
  group : Nat × Nat := (0, 0)
  deriving DecidableEq, Repr

/-- R31-R37, R263-R267, R348: one thread. -/
structure Thread where
  pc      : W32 := 0
  v       : SMap W32 := []
  p       : BitVec 16 := 0
  exited  : Bool := false
  lane    : Memory := []
  /-- R372: poisoned 8-byte words of the lane slice -/
  lanePoison : List Nat := []
  depth   : Nat := 0
  sigmask : W32 := 0
  tcause  : W32 := 0
  tepc    : W32 := 0
  taux    : W64 := 0
  inTrap  : Bool := false
  inSignal : Bool := false
  /-- R265: entries 0 to 3 -/
  log     : List LogEntry := [{}, {}, {}, {}]
  late    : List LateResult := []
  wait    : Option Waiting := none
  pts     : Nat := 0
  /-- R116: cycles of residency without an access -/
  quiet   : Nat := 0
  /-- R212: the count n of the key -/
  reds    : Nat := 0
  /-- R44: occurrences issued, by PC -/
  occ     : SMap W32 := []
  /-- R83 -/
  owes    : List Nat := []
  /-- R120, R220: ring and slot held -/
  holds   : List (Nat × Nat) := []
  /-- R141: cycles before the next issue -/
  stall   : Nat := 0
  /-- R43: cycles since the last issue -/
  idle    : Nat := 0
  /-- R37: it awaited, in the last cycle, a result that the L1 had not returned -/
  awaits  : Bool := false
  /-- R303, R239: in a grout wave, the reply of the ended lane -/
  reply   : Option W64 := none
  /-- R290: the place in a queue (receiver, port) that an accepted request holds for the instruction to be issued again -/
  granted : Option (Nat × Nat) := none
  /-- R366: the answer from the fabric or a host port has returned to the instruction to be issued again -/
  answered : Bool := false
  /-- R357: cycle and target of its last indirect transfer -/
  target  : Option (Nat × W32) := none
  deriving DecidableEq, Repr

/-- R177: what a live thread presents to a collective. -/
structure Joiner where
  tid  : Nat
  value : W64
  /-- the lane operand of shfl -/
  sel  : W32
  dest : BitVec 11
  next : W32
  deriving DecidableEq, Repr

/-- R177: an open rendezvous record. -/
structure CollRec where
  course : Nat
  pc     : W32
  opcode : Nat
  fn     : BitVec 5
  ty     : BitVec 5
  rnd    : Rnd
  joined : List Nat
  live   : List Joiner
  deriving DecidableEq, Repr

/-- R186, R359: an overlay slot. -/
structure Overlay where
  source : W64 := 0
  len    : Nat := 0
  /-- 0 empty, 1 fetching, 2 landed -/
  state  : Nat := 0
  failed : Bool := false
  /-- the code as landed, against which R360 compares a refill -/
  bytes  : List Byte := []
  deriving DecidableEq, Repr

/-- R81: an element of a ring's fill order. -/
inductive FillItem where
  | slot (j : Nat) (complete : Bool)
  | token
  deriving DecidableEq, Repr

/-- R81: a request that a ring's descriptor has accepted and not yet served. -/
inductive RingReq where
  | put (t : TRef) (space : BitVec 3) (ea : W64)
  | copy (op : Nat)
  | token
  deriving DecidableEq, Repr

/-- R79, R80: a ring of a team. -/
structure Ring where
  base   : Nat
  size   : Nat
  count  : Nat
  res    : Nat
  head   : Nat
  free   : Nat
  filled : Nat
  prod   : Nat
  tok    : Nat
  eos    : Bool
  fill   : List FillItem
  /-- slots given to readers and not released -/
  held   : List Nat
  reqs   : List RingReq
  deriving DecidableEq, Repr

/-- R244: a plane. Position (r, c) is key 256 r + c; fmt 15 stands for none. -/
structure Plane where
  fmt  : Nat := 15
  rows : Nat := 0
  cols : Nat := 0
  data : SMap W32 := []
  /-- scale entry of row r, block k: key 8 r + k -/
  scale : SMap W32 := []
  dom  : Bool := false
  blk  : Nat := 0
  /-- positions whose bitmap bit is 0 -/
  zeros : List Nat := []
  deriving DecidableEq, Repr

/-- R244, R246: the matrix context. Tile t position (r, c) is key 4096 t + 64 r + c. -/
structure Matrix where
  tiles  : SMap W32 := []
  active : Plane := {}
  shadow : Plane := {}
  members : List Nat := []
  holder : Option Nat := none
  /-- R245: engine operations, in matrix order, not yet complete -/
  order  : List Nat := []
  deriving DecidableEq, Repr

/-- R49-R57: where a team stands. -/
inductive TeamStatus where
  /-- a page team whose page has not been delivered or faulted -/
  | awaitingPage
  | unplaced | placed | saved | retired
  deriving DecidableEq, Repr

/-- R302: an installed grout method, with its code as copied at installation (R295). -/
structure Method where
  valid  : Bool
  serial : Bool
  code   : List Byte
  deriving DecidableEq, Repr

/-- R238, R303: a requester of a grout wave. -/
structure GroutReq where
  asid   : Nat
  object : W64
  method : Nat
  arg0   : W64
  arg1   : W64
  pts    : Nat
  t      : TRef
  /-- the destination code, none when the caller does not wait -/
  dest   : Option (BitVec 11)
  /-- R295: the method in force when the slice accepted the request -/
  meth   : Method
  deriving DecidableEq, Repr

/-- R303: what makes a team a grout wave. -/
structure Wave where
  asid   : Nat
  slice  : Nat
  object : W64
  method : Nat
  serial : Bool
  code   : List Byte
  reqs   : List GroutReq
  started : Nat
  deriving DecidableEq, Repr

/-- R31-R62: one team. -/
structure Team where
  launch  : Nat
  tix     : Nat
  slice   : Nat := 0
  wave    : Option Wave := none
  status  : TeamStatus := .unplaced
  threads : List Thread := []
  s       : SMap W64 := []
  scratch : Memory := []
  scratchPoison : List Nat := []
  /-- R115: gts of each granule, by offset -/
  gts     : SMap Nat := []
  /-- R46: the granule table: 128 core + granule, in offset order -/
  grans   : List Nat := []
  core    : Nat := 0
  /-- R45: partition of each course; 6 and above lie on the second core of a pair -/
  parts   : List Nat := []
  /-- R39: the cycle of its first placement; of teams placed in one cycle the lower index is the older -/
  age     : Option Nat := none
  rser    : W32 := 0
  pstat   : W32 := 0
  idem    : Bool := false
  signals : BitVec 16 := 0
  /-- R271: pts of the senders of pending signals -/
  sigPts  : Nat := 0
  /-- R127: the latest pts of its engine operations that are over -/
  opPts   : Nat := 0
  /-- R44: occurrences performed, by PC -/
  uni     : SMap W32 := []
  /-- R44: s registers a variable-latency uniform instruction will write -/
  sPending : List Nat := []
  colls   : List CollRec := []
  /-- R195: count of the open generation, by barrier id -/
  barns   : SMap Nat := []
  slots   : SMap Overlay := []
  rings   : List Ring := []
  mat     : Matrix := {}
  /-- R53: device time of placement or restoration -/
  since   : Nat := 0
  /-- R53, R193: device time at which its quantum expired, by its length or by yield -/
  expired : Option Nat := none
  yielded : Bool := false
  /-- R54-R56: chosen to be saved; its threads stop at instruction boundaries -/
  saving  : Bool := false
  /-- R51: the channel of the kiln that delivered its page, or its set's last -/
  kiln    : Option Nat := none
  /-- R56: device time since which every thread waits -/
  waitSince : Option Nat := none
  /-- R51, R57: the cycle in which it became runnable, while it awaits room -/
  runnable : Option Nat := none
  deriving DecidableEq, Repr

/-- R281: a launch body, decoded. -/
structure LaunchBody where
  kernel : Nat := 0
  seglen : Nat := 0
  woff   : Nat := 0
  kind   : Nat := 0
  rof    : Bool := false
  chk    : Bool := false
  idem   : Bool := false
  pair   : Bool := false
  quantum : Nat := 0
  nring  : Nat := 0
  cset   : Nat := 0
  acc    : Nat := 0
  dscr   : Nat := 0
  scr    : Nat := 0
  lane   : Nat := 0
  regs   : Nat := 0
  wcode  : Nat := 0
  tsize  : Nat := 0
  grid   : Nat := 0
  plist  : Nat := 0
  rings  : Nat := 0
  sentry : W32 := 0
  tentry : W32 := 0
  deadline : Nat := 0
  budget : Nat := 0
  mask   : BitVec 256 := 0
  portion : Nat := 0
  args   : List W64 := []
  deriving DecidableEq, Repr

/-- R74: a launch's copy of the chip scratchpad on one die. -/
structure DCopy where
  mem    : Memory := []
  poison : List Nat := []
  /-- R115: gts of each 64 KiB unit; and the units of the die that it takes, in offset order -/
  gts    : SMap Nat := []
  units  : List Nat := []
  deriving DecidableEq, Repr

/-- R285, R399: what is left of a slice's budget. -/
structure Budget where
  left      : Nat
  exhausted : Bool := false
  cancelled : Bool := false
  /-- R399: the kind 11 record has been written -/
  told : Bool := false
  deriving DecidableEq, Repr

/-- R280, R281: one launch. -/
structure Launch where
  asid    : Nat := 0
  /-- the queue it came from (index), and its release scope (R127) -/
  queue   : Option Nat := none
  rel     : Nat := 0
  tag     : Nat := 0
  body    : LaunchBody := {}
  /-- R263: firmware's own launch -/
  priv    : Bool := false
  /-- R321: the effective mask -/
  mask    : BitVec 256 := 0
  /-- R126: least pts of its threads -/
  start   : Nat := 0
  lastCore : Option Nat := none
  /-- R50: cores freed by its teams and not yet offered -/
  freed   : List Nat := []
  /-- R74: dies on which it holds a copy of its chip scratchpad -/
  dies    : List Nat := []
  dcopies : SMap DCopy := []
  budgets : SMap Budget := []
  teams   : List Nat := []
  complete : Bool := false
  /-- R127: its teams are retired, and its release waits for these markers and these ports' flushes -/
  closing : Option (List Nat × List Nat) := none
  /-- R127: the latest write of the closes of its regions -/
  closePts : Nat := 0
  /-- R225: the task record that started it -/
  task    : Option Nat := none
  deriving DecidableEq, Repr

/-- R212: a contribution. -/
structure Contribution where
  pa     : Nat
  /-- its target -/
  va     : Nat
  op     : BitVec 5
  ty     : BitVec 5
  rnd    : Rnd
  value  : W64
  region : Nat
  /-- coreid, partition, tid, tix, n -/
  key    : List Nat
  asid   : Nat
  launch : Nat
  pts    : Nat
  /-- R371: lost to an uncorrectable error in its buffer -/
  bad    : Bool
  deriving DecidableEq, Repr

/-- R226, R227: a registration of a task record on a future: their physical addresses, and the record's effective address. -/
structure Registration where
  future : Nat
  record : Nat
  va     : Nat
  f      : Nat
  /-- R226: its place in the order of registration -/
  seq    : Nat := 0
  deriving DecidableEq, Repr

/-- R292: an event record, less its number and time. -/
structure Event where
  kind   : Nat
  asid   : Nat
  coreid : Nat
  tix    : Nat
  tid    : Nat
  value  : W64
  deriving DecidableEq, Repr

/-- R293, R295: an installed slice program. -/
structure SliceProgram where
  ilen   : Nat
  /-- R296: the first KiB of its region of hod local memory, counted from byte 8,192 -/
  base   : Nat := 0
  image  : List Byte
  emiss  : Nat
  efill  : Nat
  eevict : Nat
  emsg   : Nat
  methods : List Method
  deriving DecidableEq, Repr

/-- R277, R291, R411: where a context stands. -/
inductive CtxState where
  | active
  | draining (since deadline : Nat)
  | preempted
  | resetting (reason : Nat)
  deriving DecidableEq, Repr

/-- R277: one context. -/
structure Context where
  asid    : Nat
  bay     : Nat
  state   : CtxState := .active
  /-- R103: handle records as 512-bit numbers, word 0 lowest -/
  handles : SMap Nat := []
  /-- R260: the timestamp of each handle record, which is one location -/
  hts     : SMap Nat := []
  pending : List Contribution := []
  regs    : List Registration := []
  /-- R405: records held, ring first -/
  held    : List (Nat × Event) := []
  dropped : Nat := 0
  /-- R399 -/
  nextTag : Nat := 1
  /-- R411: launches ended by the reset in progress -/
  ended   : Nat := 0
  /-- R277, R411: its last queue has been unregistered while it is reset: it exists no more, but its reset goes on -/
  gone    : Bool := false
  deriving DecidableEq, Repr

/-- R279: an accepted packet. -/
structure Packet where
  type : Nat
  acq  : Nat
  rel  : Nat
  dep  : Bool
  seq  : Nat
  len  : Nat
  body : List W64
  /-- R126: the fetcher's pts at its read of the header -/
  pts  : Nat
  /-- R126: stores that had come to the module's ports at that read, for which the acquire scope makes a launch wait -/
  due  : List Instr := []
  deriving DecidableEq, Repr

/-- R280: a gate packet at work: its gate word, the packets still guarded, whether the users word has read 0, and whether
it was read from a loop's kept packets. -/
structure Gate where
  word   : Nat
  va     : Nat
  left   : Nat
  zero   : Bool
  inLoop : Bool
  deriving DecidableEq, Repr

/-- R317: a relay packet at work. -/
structure Relay where
  buffer : Nat
  next   : Nat
  chunk  : Nat
  count  : Nat
  word   : Nat
  /-- chunks landed here, and forwarded -/
  landed : List Nat
  forwarded : Nat
  /-- the module is the first of its chain: its buffer held all the chunks, and it takes none -/
  first : Bool
  /-- the module whose chunks it takes, from its first chunk on -/
  pred   : Option Nat
  /-- device time at which it started, and order among equals -/
  started : Nat
  /-- R378: device time of the last landing, and since which the next chunk has been on offer -/
  heard  : Nat
  since  : Nat
  deriving DecidableEq, Repr

/-- R84, R280: the monitor of a wait-value packet, and the timestamp of the write that met its condition. -/
structure QueueWatch where
  pa     : Nat
  n      : Nat
  fn     : Nat
  signed : Bool
  value  : Nat
  met    : Option Nat := none
  deriving DecidableEq, Repr

/-- R276-R280: one command queue. -/
structure Queue where
  desc    : Nat
  die     : Nat
  asid    : Nat
  bay     : Nat
  ctl     : Bool
  base    : Nat
  nblk    : Nat
  evring  : Nat
  rdix    : Nat
  seq     : Nat
  registered : Bool := true
  halted  : Bool := false
  /-- R400: device time since which the slot has been rejected, whether reported, and the reason -/
  rejected : Option (Nat × Bool × Nat) := none
  /-- R400: the header word at rdix when it was last looked at; 0 where the fetcher has not looked yet -/
  seen    : Nat := 0
  /-- R128, R278: by block, the first word of each accepted packet's blocks, which the host may rewrite but need not -/
  passed  : SMap Nat := []
  /-- accepted packets that have not started -/
  ready   : List Packet := []
  /-- R280: packets still to skip -/
  skip    : Nat := 0
  /-- R280: the loop being read (packets still to read, iterations, packets kept) -/
  loop    : Option (Nat × Nat × List Packet) := none
  /-- R280: a wait-value packet that waits, and its monitor -/
  waiting : Option Packet := none
  watch   : Option QueueWatch := none
  /-- R127: a fence packet's release waits for these markers and these ports' flushes -/
  closing : Option (List Nat × List Nat) := none
  /-- R280: gates at work, the innermost first -/
  gates   : List Gate := []
  relay   : Option Relay := none
  /-- R126, R127: the pts of the queue as an agent: its fetches and the launches that have completed -/
  pts     : Nat := 0
  /-- R277, R280: contexts whose drain or forced reset one of its packets has started, and which is not over -/
  effects : List Nat := []
  deriving DecidableEq, Repr

/-- R287: a page-list entry given to a kiln. -/
structure PageReq where
  launch : Nat
  index  : Nat
  entry  : W64
  deriving DecidableEq, Repr

/-- R380: a page being read. -/
structure PageRead where
  req     : PageReq
  retries : Nat
  since   : Nat
  deriving DecidableEq, Repr

/-- R51, R383: a page whose team awaits its window. -/
structure HeldPage where
  team    : Nat
  status  : Nat
  retries : Nat
  data    : List Byte
  /-- counts toward the kiln's four (R51, R382) -/
  counts  : Bool
  /-- R287, R291: the page-list entry it was sensed for -/
  entry   : W64 := 0
  deriving DecidableEq, Repr

structure Kiln where
  todo : List PageReq := []
  cur  : Option PageRead := none
  held : List HeldPage := []
  deriving DecidableEq, Repr

/-- R76, R119: a request that missed in its home slice, and the timestamp of its access. -/
structure FillReq where
  pa     : Nat
  va     : Nat
  store  : Bool
  hint   : BitVec 2
  asid   : Nat
  coreid : Nat
  who    : Option Requester
  pts    : Nat
  /-- R25, R322: the bay charged, where it is not that of the ASID -/
  bay    : Option Nat := none
  deriving DecidableEq, Repr

/-- R300: an event for a hod core. -/
structure HodEvent where
  /-- 1 miss, 2 fill, 3 eviction, 4 message -/
  kind : Nat
  asid : Nat
  va   : W64
  a2   : W64
  a3   : W64
  a4   : W64
  pts  : Nat
  who  : Option Requester
  dest : Option (BitVec 11)
  /-- R295: the entry offset and the top of the image in force when the slice accepted the event -/
  entry : Nat
  top  : Nat
  /-- of a miss, the request whose fill follows the invocation -/
  fill : Option FillReq
  deriving DecidableEq, Repr

/-- R296, R301: an invocation at work. -/
structure HodRun where
  event : HodEvent
  /-- the cycle at which it began -/
  started : Nat
  /-- x1 to x31; and the address of the next instruction -/
  regs  : SMap W64
  pc    : W64 := 0
  pts   : Nat := 0
  /-- what LR has reserved: the place, a physical address or (true) an offset of local memory, its bytes, and the line's wts -/
  resv  : Option (Bool × Nat × Nat × Nat) := none
  /-- R299: a write of the slice port that has not been performed -/
  port  : Option (Nat × W64) := none
  /-- R301: ECALL has ended it -/
  ended : Bool := false
  /-- R397: the reason of the handler fault that it has met -/
  fault : Option Nat := none
  /-- R116: cycles without an access -/
  quiet : Nat := 0
  /-- R290: the place in a queue that an accepted request holds -/
  granted : Option (Nat × Nat) := none
  deriving DecidableEq, Repr

/-- R76: a superblock frame, most recently used first in `Slice.frames`. -/
structure Frame where
  sb    : Nat
  /-- the .g address of the superblock in the ASID that owns the frame -/
  va    : Nat
  valid : BitVec 4
  dirty : BitVec 4
  strm  : BitVec 4
  kept  : Bool
  asid  : Nat
  bay   : Nat
  deriving DecidableEq, Repr

/-- R28, R76, R289: one L2 slice. -/
structure Slice where
  frames : List Frame := []
  hodq   : List HodEvent := []
  hod    : Option HodRun := none
  groutq : List GroutReq := []
  /-- R296: the hod local memory -/
  hodMem : Memory := []
  /-- R289: requests accepted and not yet served, by source port -/
  queued : SMap Nat := []
  deriving DecidableEq, Repr

/-- R289: what a sender sends: a request to a slice (or to the walkers of a die, R368), or an entry for a slice's hod core, grout unit or
registration table, or for a ring's descriptor. -/
inductive Sent where
  | request (receiver port : Nat) (who : Asking)
  | hod (slice : Nat) (e : HodEvent)
  | grout (slice : Nat) (r : GroutReq)
  | treg (slice : Nat) (t : TRef) (asid pts : Nat) (r : Registration)
  | ring (t : TRef) (ring : Nat) (q : RingReq)
  deriving DecidableEq, Repr

/-- R290, R402: an entry of a window, the device time of its first refusal, and whether 1 ms has passed since. -/
structure Entry where
  id   : Nat
  what : Sent
  since : Nat
  held : Bool := false
  deriving DecidableEq, Repr

/-- R295: an installation that slices have still to copy: its ASID, the program that they use until then, and the slices. -/
structure Installing where
  asid : Nat
  old  : Option SliceProgram
  left : List Nat
  deriving DecidableEq, Repr

/-- R290, R402: a sender's replay window for one receiver. -/
structure Sender where
  coreid   : Nat
  receiver : Nat
  queue    : Nat
  window   : List Entry
  backoff  : Nat
  /-- the cycle at which the window is sent again -/
  resend   : Nat
  /-- R402: refusals at the largest back-off -/
  atMax    : Nat
  deriving DecidableEq, Repr

/-- R84, R374: a registered monitor. -/
structure Monitor where
  t      : TRef
  asid   : Nat
  va     : Nat
  loc    : Loc
  n      : Nat
  fn     : BitVec 5
  signed : Bool
  value  : W64
  dest   : BitVec 11
  /-- R85: in the slice's overflow list -/
  overflow : Bool
  deriving DecidableEq, Repr

/-- R311: a monitor that another module registered at a home of this one. -/
structure RemoteMonitor where
  source : Nat
  pa     : Nat
  n      : Nat
  fn     : BitVec 5
  signed : Bool
  value  : W64
  deriving DecidableEq, Repr

/-- R207: a tile descriptor, decoded. -/
structure TileDesc where
  i0 : Nat
  i1 : Nat
  i2 : Nat
  i3 : Nat
  rows : Nat
  cols : Nat
  deriving DecidableEq, Repr

/-- R252: a matrix parameter block, decoded. -/
structure MopBlock where
  mode  : Nat
  shape : Nat
  md    : Rnd
  acc   : Bool
  t0    : Nat
  i0 : Nat
  i1 : Nat
  i2 : Nat
  i3 : Nat
  abm   : Nat
  deriving DecidableEq, Repr

/-- R234: a collective descriptor, decoded. -/
structure CollDesc where
  send : Nat
  recv : Nat
  count : Nat
  ty : Nat
  op : Nat
  members : Nat
  list : Nat
  rank : Nat
  root : Nat
  seq : Nat
  deriving DecidableEq, Repr

/-- What an engine operation does, with everything it captured at issue (R202). Spaces are codes of R138. -/
inductive EngKind where
  | cpy (ds : BitVec 3) (dst : W64) (ss : BitVec 3) (src : W64) (count : Nat)
  | ring (ring : Nat) (ss : BitVec 3) (src : W64) (count : Nat) (slots : List Nat)
  | gath (ds : BitVec 3) (dst : W64) (ss : BitVec 3) (src : W64) (z : Nat) (idx : List Nat)
  | scat (ds : BitVec 3) (dst : W64) (ss : BitVec 3) (src : W64) (z : Nat) (idx : List Nat)
  | ldt (h : Nat) (space : BitVec 3) (tile : W64) (d : TileDesc)
  | stt (h : Nat) (space : BitVec 3) (tile : W64) (d : TileDesc)
  | coll (kind : Nat) (d : CollDesc)
  | mwld (h : Nat) (d : TileDesc) (bmap : Nat)
  | mflip
  | mop (b : MopBlock) (h : Nat)
  | mrd (tile : Nat) (h : Nat) (d : TileDesc) (rnd : Rnd) (sat : Bool)
  | xfwd (hd hs : Nat)
  | xinv (hd hs : Nat)
  | qbx (hn hd hs : Nat) (rnd : Rnd)
  | dqbx (hd hs : Nat) (rnd : Rnd) (sat : Bool)
  | cfetch (slot : Nat) (src : W64) (len : Nat)
  deriving DecidableEq, Repr

/-- R119, R202: an engine operation in flight. -/
structure EngOp where
  id    : Nat
  t     : TRef
  asid  : Nat
  core  : Nat
  kind  : EngKind
  /-- completion space and effective address -/
  word  : Option (BitVec 3 × W64)
  /-- elements still to perform -/
  todo  : List Nat
  pts   : Nat
  /-- R107: counts written by a qbx -/
  counts : Nat := 0
  /-- R245: what an operation has read before its turn in the matrix order, by element; and what it met there -/
  ahead : SMap (List Nat) := []
  bad   : Option TrapInfo := none
  /-- R245: the tiles that an mrd found in its turn -/
  tiles : SMap W32 := []
  /-- R116: cycles without an access -/
  quiet : Nat := 0
  /-- R392: device time of its issue -/
  issued : Nat := 0
  /-- R290: the place in a queue that an accepted request holds -/
  granted : Option (Nat × Nat) := none
  deriving DecidableEq, Repr

/-- R75, R115: an L1 copy of a 128-byte line. -/
structure L1Copy where
  line : Nat
  bytes : List Byte
  wts  : Nat
  rts  : Nat
  /-- R372: the 16-byte chunks that were marked when the home answered -/
  poison : List Nat := []
  deriving DecidableEq, Repr

/-- R360: a code-store block of 64 bytes; owner is the launch for slot 0, the team for an overlay slot. -/
structure CodeBlock where
  owner : Nat
  slot  : Nat
  block : Nat
  bytes : List Byte
  bad   : Bool
  /-- R361: it was marked bad while no thread was at it, and is fetched again at issue -/
  ahead : Bool := false
  deriving DecidableEq, Repr

/-- R40: a bin of the continuation pool. -/
structure Bin where
  launch : Nat
  pc     : W32
  age    : Nat
  members : List TRef
  deriving DecidableEq, Repr

/-- R26, R38, R40, R213: one partition. -/
structure Part where
  reds : List Contribution := []
  bins : List Bin := []
  waitq : List TRef := []
  last : Option Nat := none
  /-- R39: cycles for which each slot is still held by a group of more than 32 threads -/
  busy0 : Nat := 0
  busy1 : Nat := 0
  deriving DecidableEq, Repr

/-- R30, R115, R116: a service core as an agent: its pts, and cycles without an access. -/
structure Hart where
  pts : Nat := 0
  quiet : Nat := 0
  /-- R290: the place in a queue that an accepted request holds -/
  granted : Option (Nat × Nat) := none
  /-- R290, R312: accesses that wait for the first of them to be accepted: address, bytes, and what a store stores -/
  asked : List (Nat × Nat × Option W64) := []
  deriving DecidableEq, Repr

/-- R26: one core. -/
structure Core where
  l1    : List L1Copy := []
  code  : List CodeBlock := []
  parts : SMap Part := []
  /-- R115: gts of each granule of the scratchpad; that of one which a team holds is in the team -/
  gts   : SMap Nat := []
  /-- R284: launch and slice that hold the core -/
  holder : Option (Nat × Nat) := none
  /-- R290, R360: the place in a queue that an accepted request of a refill, or of firmware, holds -/
  granted : Option (Nat × Nat) := none
  /-- R419: device time at which an issue group last formed -/
  issued : Nat := 0
  /-- R419: device times, plus 1, of the last two uncorrectable register-file or lane-store errors -/
  errors : Nat × Nat := (0, 0)
  deriving DecidableEq, Repr

/-- R91: a translation cached by a core, or by a die. -/
structure Tlb where
  core : Option Nat := none
  die  : Nat
  asid : Nat
  page : Nat
  bits : Nat
  pa   : Nat
  type : Nat
  u : Bool
  x : Bool
  w : Bool
  d : Bool
  deriving DecidableEq, Repr

/-- R125: a relaxed host store that has not landed. -/
structure Posted where
  port  : Nat
  pa    : Nat
  bytes : List Byte
  deriving DecidableEq, Repr

/-- R123, R317: who stores by the fabric: a thread, an engine operation of a thread, or the relay packet of a queue. -/
inductive Storer where
  | thread (t : TRef)
  | op (t : TRef) (id : Nat)
  | relay (queue : Option Nat)
  deriving DecidableEq, Repr

/-- R315: a fence marker that has not been answered: its port and the port's count, who had stored by that port since its last marker,
and the module's stores to itself that it follows. -/
structure Marker where
  id     : Nat
  port   : Nat
  count  : W32
  who    : List Storer
  covers : List Nat
  /-- R377: threads whose fence has faulted while the marker was not answered -/
  expired : List TRef := []
  deriving DecidableEq, Repr

/-- R314: a fabric store to the module's own number that has not been performed at its home. -/
structure OwnStore where
  id    : Nat
  pa    : Nat
  bytes : List Byte
  deriving DecidableEq, Repr

/-- R366, R376: loads and atomics that have gone out by the fabric or a host port: their number, and of the last one whether the fabric carries
it, and its effective address. -/
structure Asks where
  count : Nat := 0
  fab   : Bool := false
  ea    : Nat := 0
  deriving DecidableEq, Repr

/-- R322-R325, R414: the meter of one bay, in micro-joules by kind of source. -/
structure Meter where
  acc  : Nat := 0
  core : Nat := 0
  mem  : Nat := 0
  link : Nat := 0
  flash : Nat := 0
  idle : Nat := 0
  gaplo : W64 := 0
  gaphi : W64 := 0
  deriving DecidableEq, Repr

/-- R325: a checkpoint of one bay. -/
structure Checkpoint where
  bay   : Nat
  meter : Meter
  cores : Nat
  time  : Nat
  sidx  : Option Nat
  /-- R325: past the last index, the check of the record -/
  crc   : Option W32 := none
  /-- R324, R325: the words of its record -/
  words : List Nat := []
  deriving DecidableEq, Repr

/-- R327, R417: bring-up. -/
inductive Phase where
  | off | training | full | reducedKept
  deriving DecidableEq, Repr

/-- The whole module. -/
structure State where
  /-- R5, R34: core cycles since power-on; dtime is derived from it -/
  clk    : Nat
  mem    : Memory
  poison : List Nat
  /-- R115: wts and rts of each 128-byte line -/
  lines  : SMap (Nat × Nat)
  slices : SMap Slice
  cores  : SMap Core
  /-- R115: gts of each 64 KiB unit of the dies' chip scratchpads, key 1024 d + u; that of a unit which a launch holds is in its copy -/
  units  : SMap Nat
  /-- R115: pts of firmware's own accesses -/
  fwPts  : Nat
  /-- R30: the harts of the service cores -/
  harts  : SMap Hart
  tlb    : List Tlb
  /-- R268: key 16 d + n, register n of die d's firmware core -/
  csr    : SMap W64
  /-- device registers by 8-byte-aligned physical address; unlisted ones hold their reset value -/
  dev    : SMap W64
  teams  : List Team
  launches : List Launch
  contexts : List Context
  queues : List Queue
  ops    : List EngOp
  nextOp : Nat
  monitors : List Monitor
  kilns  : SMap Kiln
  senders : List Sender
  relaxed : List Posted
  /-- R315: fabric stores sent, by port; and who has stored by each port since its last marker -/
  fabSent  : SMap W32
  fabSince : List (Nat × Storer)
  /-- R123: of engine operations that have stored by the fabric and are complete: number and timestamp of the completion -/
  fabDone  : List (Nat × Nat)
  /-- R377: ports by which a store has been lost since their last marker -/
  fabLost  : List Nat
  markers  : List Marker
  ownStores : List OwnStore
  /-- the number of the next marker or own store -/
  nextFab  : Nat
  /-- R315: markers that have come here and await stores that came before them: source and count -/
  fabIn  : List (Nat × W32)
  /-- R292: device time at which each event ring raised its vector, and rings that raise it once more -/
  raised : SMap Nat
  holdoff : List Nat
  /-- MSI-X vectors raised and not taken by the host; and, while the module is self-hosted (R313), by the service cores' controller -/
  msix   : List Nat
  svcMsi : List Nat
  /-- R284: core-cycles used in this window, key 64 d + b -/
  qosUse : SMap Nat
  /-- R320: settings that take effect at the next window -/
  qosNext : List (Nat × W64)
  /-- R293, R295: the slice program of each ASID, and the installation that slices are copying -/
  programs : SMap (Option SliceProgram)
  installing : Option Installing
  /-- R289, R290: the number of the next entry or registration -/
  nextSent : Nat
  /-- R402: device time, plus 1, of the last kind 14 record about each receiver -/
  toldRefusals : SMap Nat
  /-- R368: walk requests that wait for a walker, by die -/
  walks : SMap Nat
  /-- R366: what has gone out by the fabric and the host ports -/
  asks : Asks
  /-- R398: slices that have disabled an ASID's handlers; and slice and device time of its recent handler faults -/
  hodOff : SMap (List Nat)
  hodFaults : SMap (List (Nat × Nat))
  meters : SMap Meter
  /-- R322: what each source has done for each bay in this window, key 64 · source + bay -/
  activity : SMap Nat
  /-- R324: enablings of each bay since manufacture -/
  enablings : SMap Nat
  checkpoints : List Checkpoint
  sidx   : Nat
  reserved : Nat
  resets : Nat
  /-- R324: the reading being signed: record and destination -/
  reading : Option (List Byte × Nat)
  /-- R416: indicators beyond their threshold -/
  warned : List Nat
  /-- R325, R415: kind 21 reason 3 written -/
  sigGone : Bool
  phase  : Phase
  /-- R417: attempts at training, by part -/
  tries  : SMap Nat
  accepted : W128
  /-- R419 -/
  retired : BitVec 256
  fwfail : BitVec 4
  /-- R419: the L2 slice that has failed and is not repaired -/
  sliceGone : Option Nat
  /-- R413: of each bay whose reset is at work, the contexts that it resets -/
  bayResets : SMap Nat
  /-- R326: pages that kilns have sensed, and their retries, between the last updates of the wear registers, newest first, for 24 h -/
  sensed : List (Nat × Nat)
  /-- R416: device times of the last soft-decision reads of each flash page, by page-list entry, newest first; and the blocks retired -/
  softReads : SMap (List Nat)
  blocksGone : List Nat
  /-- R418: ports that have lost their link: feature, and number among the ports of the feature -/
  lost   : List (Nat × Nat)
  /-- R403: cycles seen in the last scan, and those reported: of each thread, the wait by the cycle and group in which it began -/
  cycles : List (List (TRef × Nat × Nat))
  cyclesTold : List (List (TRef × Nat × Nat))
  /-- what a host load, or a fabric load or atomic of another module, was last answered -/
  hostAnswer : W64
  fabAnswer : W128
  /-- R372: the last such answer carried the poisoned mark -/
  answerMarked : Bool
  /-- R309: lines of HBM4E that the host holds under HDM-DB, with the host port; and the lines for which a back-invalidation snoop has been sent and answered -/
  hostHeld : List (Nat × Nat)
  snooped  : List Nat
  /-- R310: the line that the last host snoop was answered with -/
  hostLine : List Byte
  /-- R315: modules whose markers have been answered -/
  fabAnswered : List Nat
  /-- R311: monitors that other modules registered here -/
  remote : List RemoteMonitor
  /-- wakes sent to other modules: module and word -/
  fabOut : List (Nat × W64)
  /-- R39: issue groups formed and not yet issued; the first is being issued, from thread `at` on -/
  groups : List (List TRef)
  pos    : Nat
  /-- steps that may come next (log entry 1) -/
  agenda : List Instr
  /-- the model's own counter of free values (log entry 6) -/
  free   : Nat
  deriving DecidableEq, Repr

/-- R327, R33: right after a module reset: training, the reduced service of die 0, no context, no launch, memory with
nothing listed. The accepted feature word, the clock and the counters are log entries 3 and 5. -/
def State.reset : State where
  clk := 0
  mem := []
  poison := []
  lines := []
  slices := []
  cores := []
  units := []
  fwPts := 0
  harts := []
  tlb := []
  csr := []
  dev := []
  teams := []
  launches := []
  contexts := []
  queues := []
  ops := []
  nextOp := 0
  monitors := []
  kilns := []
  senders := []
  relaxed := []
  fabSent := []
  fabSince := []
  fabDone := []
  fabLost := []
  markers := []
  ownStores := []
  nextFab := 0
  fabIn := []
  raised := []
  holdoff := []
  msix := []
  svcMsi := []
  qosUse := []
  qosNext := []
  programs := []
  installing := none
  nextSent := 0
  toldRefusals := []
  walks := []
  asks := {}
  hodOff := []
  hodFaults := []
  meters := []
  activity := []
  enablings := []
  checkpoints := []
  sidx := 0
  reserved := 0
  resets := 0
  reading := none
  warned := []
  sigGone := false
  phase := .training
  tries := []
  accepted := 0
  retired := 0
  fwfail := 0
  sliceGone := none
  bayResets := []
  sensed := []
  softReads := []
  blocksGone := []
  lost := []
  cycles := []
  cyclesTold := []
  hostAnswer := 0
  fabAnswer := 0
  answerMarked := false
  hostHeld := []
  snooped := []
  hostLine := []
  fabAnswered := []
  remote := []
  fabOut := []
  groups := []
  pos := 0
  agenda := []
  free := 0

end Sys2Proof.Machine
end

