-- ==== Sys2Proof/Machine/Sparse.lean ====
section
/-!
DEFINITION. Maps from numbers as lists in one canonical form: keys strictly rising, and no entry equal to the default, so
that equal maps are equal lists. Memory is the map from addresses to bytes with default 0.
-/
namespace Sys2Proof.Machine

/-- The value at `k`, `d` where nothing is listed. -/
def SMap.get {α : Type} (d : α) : SMap α → Nat → α
  | [], _ => d
  | (j, x) :: m, k => if j = k then x else SMap.get d m k

/-- The entries without `k`. -/
def SMap.drop {α : Type} : SMap α → Nat → SMap α
  | [], _ => []
  | (j, x) :: m, k => if j = k then SMap.drop m k else (j, x) :: SMap.drop m k

/-- The entries with `x` at `k`. -/
def SMap.put {α : Type} : SMap α → Nat → α → SMap α
  | [], k, x => [(k, x)]
  | (j, y) :: m, k, x =>
      if j = k then (k, x) :: m else if k < j then (k, x) :: (j, y) :: m else (j, y) :: SMap.put m k x

/-- Write `x` at `k`, keeping the canonical form. -/
def SMap.set {α : Type} [DecidableEq α] (d : α) (m : SMap α) (k : Nat) (x : α) : SMap α :=
  if x = d then m.drop k else m.put k x

/-- Change the value at `k`. -/
def SMap.modify {α : Type} [DecidableEq α] (d : α) (m : SMap α) (k : Nat) (f : α → α) : SMap α :=
  m.set d k (f (m.get d k))

/-- Every key of the list is above `lo`, the keys rise, and nothing equals the default. -/
def SMap.wfAbove {α : Type} [DecidableEq α] (d : α) : Option Nat → SMap α → Bool
  | _, [] => true
  | lo, (k, x) :: m => (match lo with | none => true | some l => l < k) && x != d && SMap.wfAbove d (some k) m

/-- The canonical form. -/
def SMap.wf {α : Type} [DecidableEq α] (d : α) (m : SMap α) : Bool := SMap.wfAbove d none m

namespace Memory

/-- What an unlisted address reads as (log entry 2). -/
def blank : Byte := 0

def get (m : Memory) (a : Nat) : Byte := SMap.get blank m a
def set (m : Memory) (a : Nat) (b : Byte) : Memory := SMap.set blank m a b
/-- The canonical form of memory. -/
def wf (m : Memory) : Bool := SMap.wf blank m

/-- R3: `n` bytes from `a` on as a number, lowest address least significant. -/
def read (m : Memory) : Nat → Nat → Nat
  | _, 0 => 0
  | a, n + 1 => (get m a).toNat + 256 * read m (a + 1) n

/-- R3: the low `n` bytes of a number to `a` on. -/
def write (m : Memory) : Nat → Nat → Nat → Memory
  | _, 0, _ => m
  | a, n + 1, w => write (set m a (BitVec.ofNat 8 w)) (a + 1) n (w / 256)

/-- The bytes themselves. -/
def bytes (m : Memory) : Nat → Nat → List Byte
  | _, 0 => []
  | a, n + 1 => get m a :: bytes m (a + 1) n

def writeBytes (m : Memory) : Nat → List Byte → Memory
  | _, [] => m
  | a, b :: bs => writeBytes (set m a b) (a + 1) bs

end Memory

/-- R3: a list of bytes as a number. -/
def bytesNat : List Byte → Nat
  | [] => 0
  | b :: bs => b.toNat + 256 * bytesNat bs

/-- A sorted list of numbers with no repeats: adding one. -/
def addNat : List Nat → Nat → List Nat
  | [], k => [k]
  | j :: m, k => if j = k then j :: m else if k < j then k :: j :: m else j :: addNat m k

/-- Insertion sort by a Boolean order, structural so that it evaluates. -/
def insertBy {α : Type} (le : α → α → Bool) (x : α) : List α → List α
  | [] => [x]
  | y :: ys => if le x y then x :: y :: ys else y :: insertBy le x ys

def sortBy {α : Type} (le : α → α → Bool) : List α → List α
  | [] => []
  | x :: xs => insertBy le x (sortBy le xs)

/-- The numbers from `a` on, `n` of them. -/
def numbers : Nat → Nat → List Nat
  | _, 0 => []
  | a, n + 1 => a :: numbers (a + 1) n

/-- R212: lexicographic order of keys. -/
def keyLe : List Nat → List Nat → Bool
  | [], _ => true
  | _ :: _, [] => false
  | a :: as, b :: bs => a < b || (a = b && keyLe as bs)

end Sys2Proof.Machine
end

