-- ==== Sys2Proof/Machine/Access.lean ====
section
/-!
DEFINITION. Reaching and changing the parts of the state: teams, threads, launches, contexts, cores, partitions, slices,
kilns; the identity of a thread (R23, R31-R36), device time, and how a thread leaves a wait (R40).
-/
namespace Sys2Proof.Machine

/-- R5: 2.4 GHz core cycles as device time in ns. -/
def State.ns (s : State) : Nat := s.clk * 5 / 12
/-- R34: dtime. -/
def State.dtime (s : State) : W64 := BitVec.ofNat 64 s.ns

def State.team (s : State) (i : Nat) : Option Team := s.teams[i]?
def State.thread (s : State) (r : TRef) : Option Thread := (s.team r.team).bind fun tm => tm.threads[r.tid]?
def State.modTeam (s : State) (i : Nat) (f : Team → Team) : State := { s with teams := s.teams.modify i f }
def Team.modThread (tm : Team) (tid : Nat) (f : Thread → Thread) : Team := { tm with threads := tm.threads.modify tid f }
def State.modThread (s : State) (r : TRef) (f : Thread → Thread) : State := s.modTeam r.team fun tm => tm.modThread r.tid f
def State.modLaunch (s : State) (i : Nat) (f : Launch → Launch) : State := { s with launches := s.launches.modify i f }
def State.modQueue (s : State) (i : Nat) (f : Queue → Queue) : State := { s with queues := s.queues.modify i f }
def State.core (s : State) (c : Nat) : Core := SMap.get {} s.cores c
def State.modCore (s : State) (c : Nat) (f : Core → Core) : State := { s with cores := SMap.modify {} s.cores c f }
def Core.part (c : Core) (p : Nat) : Part := SMap.get {} c.parts p
def State.modPart (s : State) (c p : Nat) (f : Part → Part) : State :=
  s.modCore c fun k => { k with parts := SMap.modify {} k.parts p f }
def State.slice (s : State) (i : Nat) : Slice := SMap.get {} s.slices i
def State.modSlice (s : State) (i : Nat) (f : Slice → Slice) : State := { s with slices := SMap.modify {} s.slices i f }
def State.kiln (s : State) (i : Nat) : Kiln := SMap.get {} s.kilns i
def State.modKiln (s : State) (i : Nat) (f : Kiln → Kiln) : State := { s with kilns := SMap.modify {} s.kilns i f }
def State.context (s : State) (asid : Nat) : Option Context := s.contexts.find? fun c => c.asid = asid && !c.gone
def State.modContext (s : State) (asid : Nat) (f : Context → Context) : State :=
  { s with contexts := s.contexts.map fun c => if c.asid = asid then f c else c }
/-- Steps that this step gives rise to. -/
def State.later (s : State) (is : List Instr) : State := { s with agenda := s.agenda ++ is }
/-- The next free value's number (log entry 6). -/
def State.tick (s : State) : State := { s with free := s.free + 1 }

/-! ## What the meters count (R318, R322) -/

/-- R318: the bay that a context's use of the module is charged to; bay 0 for what belongs to none. -/
def State.bayOfAsid (s : State) (asid : Nat) : Nat := ((s.context asid).map (·.bay)).getD 0

/-- R322: the meter sources by number: user cores by coreid, HBM4E stacks, L3 of a base die, L2 slices, hod cores with grout units, fabric ports,
host ports, kilns with their flash, service cores. -/
def srcStack (k : Nat) : Nat := 256 + k
def srcL3 (k : Nat) : Nat := 272 + k
def srcSlice (k : Nat) : Nat := 512 + k
def srcUnits (k : Nat) : Nat := 1024 + k
def srcFabric (k : Nat) : Nat := 1280 + k
def srcHost (k : Nat) : Nat := 1300 + k
def srcKiln (k : Nat) : Nat := 1408 + k
def srcService (k : Nat) : Nat := 1536 + k
/-- R322: not sources, but what the bays hold of a source: frames of an L2 slice, pages of a kiln, by cycle. -/
def heldFrames (k : Nat) : Nat := 1600 + k
def heldPages (k : Nat) : Nat := 1800 + k

/-- R322: a source does `n` units of its work for a bay. -/
def State.noteUse (s : State) (src bay n : Nat) : State := { s with activity := SMap.modify 0 s.activity (64 * src + bay) (· + n) }

/-! ## The thread being issued -/

/-- R39: the thread whose turn it is in the group being issued. -/
def State.current (s : State) : Option TRef := (s.groups.head?).bind fun g => g[s.pos]?
/-- The other end of an issue: the next thread of the group, or the next group. -/
def State.advance (s : State) : State :=
  match s.groups with
  | [] => s
  | g :: gs => if s.pos + 1 < g.length then { s with pos := s.pos + 1 } else { s with groups := gs, pos := 0 }
/-- R113: the whole group being issued. -/
def State.group (s : State) : List TRef := s.groups.head?.getD []

/-! ## Launch and team figures -/

def State.launchOf (s : State) (tm : Team) : Launch := (s.launches[tm.launch]?).getD {}
/-- R281: W is 16, 32 or 64; a grout wave runs at W = 32 (R303). -/
def State.width (s : State) (tm : Team) : Nat :=
  if tm.wave.isSome then 32 else if (s.launchOf tm).body.wcode = 0 then 16 else if (s.launchOf tm).body.wcode = 1 then 32 else 64
/-- R152: the per-thread register count; 32 in a grout wave (R304). -/
def State.regCount (s : State) (tm : Team) : Nat := if tm.wave.isSome then 32 else ((s.launchOf tm).body.regs + 1) * 8
/-- R71: the lane-slice size L. -/
def State.laneSize (s : State) (tm : Team) : Nat := if tm.wave.isSome then 0 else ((s.launchOf tm).body.lane + 1) * 256
/-- R46: the team's scratchpad size S. -/
def State.scratchSize (s : State) (tm : Team) : Nat := if tm.wave.isSome then 0 else (s.launchOf tm).body.scr * 4096
/-- R74: the launch's chip-scratchpad size D. -/
def State.dSize (s : State) (tm : Team) : Nat := if tm.wave.isSome then 0 else (s.launchOf tm).body.dscr * 65536
/-- R48, R281: the cluster-set size c. -/
def State.setSize (s : State) (tm : Team) : Nat := if (s.launchOf tm).body.cset = 0 then 1 else (s.launchOf tm).body.cset
/-- R143: the checking scoreboard. -/
def State.checking (s : State) (tm : Team) : Bool := (s.launchOf tm).body.chk && tm.wave.isNone
def Team.asid (s : State) (tm : Team) : Nat :=
  match tm.wave with
  | some w => w.asid
  | none => (s.launchOf tm).asid

/-- R13: course and lane of a thread. -/
def State.courseOf (s : State) (tm : Team) (tid : Nat) : Nat := tid / s.width tm
def State.laneOf (s : State) (tm : Team) (tid : Nat) : Nat := tid % s.width tm
/-- R45, R47: the partition of a thread's course, and the core on which it lies. -/
def State.partOf (s : State) (tm : Team) (tid : Nat) : Nat := ((tm.parts[s.courseOf tm tid]?).getD 0) % 6
def State.coreOf (s : State) (tm : Team) (tid : Nat) : Nat := tm.core + ((tm.parts[s.courseOf tm tid]?).getD 0) / 6
/-- R23: die of a coreid. -/
def dieOf (coreid : Nat) : Nat := coreid / 64
/-- R25: the firmware core of a die. -/
def firmwareCore (die : Nat) : Nat := die * 64 + 60
/-- R23: the user cores. -/
def isUserCore (c : Nat) : Bool := c < 256 && (c / 4) % 16 < 12
/-- R263: a privileged thread belongs to firmware's own launch on a firmware core. -/
def State.privileged (s : State) (tm : Team) : Bool :=
  tm.wave.isNone && (s.launchOf tm).priv && tm.core == firmwareCore (dieOf tm.core)
/-- R268: the ASID of a thread's .g accesses and handle table. -/
def State.asidOf (s : State) (tm : Team) : Nat :=
  if s.privileged tm then (SMap.get 0 s.csr (16 * dieOf tm.core + 2)).toNat % 512 else tm.asid s
/-- R28: the superblock of a physical address, its memory channel, the stack of a channel and the base die whose L3 caches its lines. -/
def superblockOf (pa : Nat) : Nat := pa / 512
def channelOf (pa : Nat) : Nat := pa / 4096 % 1024
def stackOf (pa : Nat) : Nat := channelOf pa / 128
def baseOf (pa : Nat) : Nat := stackOf pa / 4
/-- R28: home slice of a physical address; while reduced service holds, R327's rule. -/
def State.homeOf (s : State) (pa : Nat) : Nat :=
  if s.phase = .full then superblockOf pa % 192 else superblockOf pa % 48

/-- R328: the features the phase offers: under reduced service (R327) those the table keeps. -/
def State.offered (s : State) : W128 := if s.phase = .full then 0x1FFF else 0x1300
/-- R1, R328. -/
def State.feature (s : State) (bit : Nat) : Bool := s.accepted.getLsbD bit
/-- R327: what a feature of the table needs of the phase besides acceptance. -/
def State.present (s : State) (bit : Nat) : Bool := s.feature bit && s.offered.getLsbD bit

/-! ## The continuation pool (R40) -/

/-- R40: a bin that frees when empty lets the overflow queue move in. Structural on the queue. -/
def fillBins (fresh : TRef → Option (Nat × W32)) : List Bin → List TRef → List Bin × List TRef
  | bins, [] => (bins, [])
  | bins, t :: ts =>
    match fresh t with
    | none => fillBins fresh bins ts
    | some (l, pc) =>
      if bins.any (fun b => b.launch = l ∧ b.pc = pc) then
        fillBins fresh (bins.map fun b => if b.launch = l ∧ b.pc = pc then { b with members := b.members ++ [t] } else b) ts
      else if bins.length < 32 then fillBins fresh (bins ++ [{ launch := l, pc, age := 0, members := [t] }]) ts
      else (bins, t :: ts)

def State.poolKey (s : State) (t : TRef) : Option (Nat × W32) :=
  match s.team t.team, s.thread t with
  | some tm, some th => some (tm.launch, th.pc)
  | _, _ => none

/-- R40: a bin that is empty frees, and the overflow queue of the partition is then scanned from its head. -/
def State.scanOverflow (s : State) (c p : Nat) : State :=
  let part := (s.core c).part p
  if part.bins.all (fun b => b.members ≠ []) then s
  else
    let r := fillBins s.poolKey (part.bins.filter (fun b => b.members ≠ [])) part.waitq
    s.modPart c p fun q => { q with bins := r.1, waitq := r.2 }

/-- R40: a thread stands in a bin or in the overflow queue. -/
def Part.binned (q : Part) (t : TRef) : Bool := q.bins.any (·.members.contains t) || q.waitq.contains t

/-- R40: a thread that does not stand there enters the pool of its partition, behind those that wait in the overflow queue. -/
def State.enterPool (s : State) (t : TRef) : State :=
  match s.team t.team with
  | none => s
  | some tm =>
    if tm.status ≠ .placed ∨ tm.wave.isSome then s
    else
      let c := s.coreOf tm t.tid
      let p := s.partOf tm t.tid
      let part := (s.core c).part p
      match if part.binned t then none else s.poolKey t with
      | none => s
      | some (l, pc) =>
        if part.bins.any (fun b => b.launch = l ∧ b.pc = pc) then
          s.modPart c p fun q => { q with bins := q.bins.map fun b =>
            if b.launch = l ∧ b.pc = pc then { b with members := b.members ++ [t] } else b }
        else if part.bins.length < 32 then
          s.modPart c p fun q => { q with bins := q.bins ++ [{ launch := l, pc, age := 0, members := [t] }] }
        else s.modPart c p fun q => { q with waitq := q.waitq ++ [t] }

/-- A thread leaves every bin and queue of its partition (it issues, traps, or its team leaves the core); a bin that becomes empty
frees at once (R40). -/
def State.leavePool (s : State) (t : TRef) : State :=
  match s.team t.team with
  | none => s
  | some tm =>
    let c := s.coreOf tm t.tid
    let p := s.partOf tm t.tid
    (s.modPart c p fun q => { q with bins := q.bins.map (fun b => { b with members := b.members.filter (· ≠ t) })
                                     waitq := q.waitq.filter (· ≠ t) }).scanOverflow c p

/-- R56 (TEAM_WAKE): an event that ends a wait makes a saved team runnable. -/
def State.wakeTeam (s : State) (i : Nat) : State :=
  match s.team i with
  | none => s
  | some tm =>
    if tm.status = .saved ∧ tm.runnable = none then
      (s.modTeam i fun t => { t with runnable := some s.clk }).later [.teamRestore i]
    else s

/-- A wait ends: the thread continues at `pc` (R40), and its team is runnable again if it was saved (R56). -/
def State.resumeAt (s : State) (t : TRef) (pc : W32) : State :=
  let s := s.modThread t fun th => { th with wait := none, pc }
  let s := s.modTeam t.team fun tm => { tm with waitSince := none }
  (s.enterPool t).wakeTeam t.team

/-- A wait ends and the thread continues after the waiting instruction. -/
def State.resume (s : State) (t : TRef) : State :=
  match (s.thread t).bind (·.wait) with
  | some w => s.resumeAt t w.next
  | none => s

/-- R290: the thread issues its instruction again. -/
def State.issueAgain (s : State) (t : TRef) : State := s.modThread t fun th => { th with wait := none }

/-- The thread waits, its pc at the waiting instruction. -/
def State.block (s : State) (t : TRef) (why : Wait) (next : W32) : State :=
  s.modThread t fun th => { th with wait := some { why, next, group := (s.clk, s.groups.length) } }

/-- R63: an operation that takes effect outside the team revokes its idempotent flag. -/
def State.revokeTeam (s : State) (i : Nat) : State := s.modTeam i fun tm => { tm with idem := false }

/-- R37: what a thread waits for. -/
def Thread.why (th : Thread) : Option Wait := th.wait.map Waiting.why
def State.why (s : State) (t : TRef) : Option Wait := (s.thread t).bind Thread.why

/-- The pts of a thread (R115). -/
def State.ptsOf (s : State) (t : TRef) : Nat := ((s.thread t).map (·.pts)).getD 0

/-- R116: the pts of a thread becomes at least `ts`. -/
def State.raisePts (s : State) (t : TRef) (ts : Nat) : State :=
  s.modThread t fun th => { th with pts := max th.pts ts }

/-- Threads of a team in ascending tid. -/
def Team.tids (tm : Team) : List Nat := numbers 0 tm.threads.length
/-- R12: the threads that have not exited. -/
def Team.alive (tm : Team) : List Nat :=
  tm.tids.filter fun t => match tm.threads[t]? with | some th => !th.exited | none => false

end Sys2Proof.Machine
end

