-- ==== Sys2Proof/Machine/Device.lean ====
section
/-!
DEFINITION. Device registers (R27): what each reads and what a write does: the queue registration blocks (R277), the slice
program registers (R294), the bay blocks (R319, R320), the meter request registers (R324), wear (R326), features (R328),
soft errors (R373), bring-up (R417) and retirement (R419). Any other address reads 0 and ignores writes.
-/
namespace Sys2Proof.Machine

namespace Dev

def queueBase : Nat := 0x200000500000
def sliceBase : Nat := 0x200000100000
def bayBase : Nat := 0x200000200000
def meterBase : Nat := 0x200000300000
def wearBase : Nat := 0x200000400000
def featBase : Nat := 0x200000400100
def softBase : Nat := 0x200000400200
def bringUp : Nat := 0x200000400300
def retireBase : Nat := 0x200000400400

/-- The register block an address lies in, and the word's offset in it. -/
inductive Block where
  | queue (die off : Nat) | slice (off : Nat) | bay (b off : Nat) | meter (off : Nat) | wear (off : Nat)
  | feature (off : Nat) | soft (off : Nat) | bringUp | retire (off : Nat) | absent
  deriving DecidableEq, Repr

/-- `pa` is 8-aligned. -/
def block (pa : Nat) : Block :=
  if queueBase ≤ pa ∧ pa < queueBase + 0x100 then
    (if (pa - queueBase) % 0x40 ≤ 8 then .queue ((pa - queueBase) / 0x40) ((pa - queueBase) % 0x40) else .absent)
  else if sliceBase ≤ pa ∧ pa ≤ sliceBase + 0x10 then .slice (pa - sliceBase)
  else if bayBase ≤ pa ∧ pa < bayBase + 0x1000 then .bay ((pa - bayBase) / 0x40) ((pa - bayBase) % 0x40)
  else if meterBase ≤ pa ∧ pa ≤ meterBase + 0x10 then .meter (pa - meterBase)
  else if wearBase ≤ pa ∧ pa ≤ wearBase + 0x18 then .wear (pa - wearBase)
  else if featBase ≤ pa ∧ pa ≤ featBase + 0x18 then .feature (pa - featBase)
  else if softBase ≤ pa ∧ pa ≤ softBase + 0x28 then .soft (pa - softBase)
  else if pa = bringUp then .bringUp
  else if retireBase ≤ pa ∧ pa ≤ retireBase + 0x18 then .retire (pa - retireBase)
  else .absent

/-- The reset value of a stored register: qos and hbmw are 1, en is 1 in bay 0 (R319); every other field is 0. -/
def resetWord (pa : Nat) : W64 :=
  match block pa with
  | .bay 0 0x20 => 0x8000000100000001
  | .bay _ 0x20 => 0x0000000100000001
  | _ => 0

/-- The stored word of a register. -/
def stored (s : State) (pa : Nat) : W64 := SMap.get (resetWord pa) s.dev pa
def store (s : State) (pa : Nat) (v : W64) : State := { s with dev := SMap.set (resetWord pa) s.dev pa v }

end Dev

/-! ## Bays (R318-R321) -/

def bayAddr (b off : Nat) : Nat := Dev.bayBase + 0x40 * b + off
def State.bayWord (s : State) (b : Nat) : W64 := Dev.stored s (bayAddr b 0x20)
def State.bayEnabled (s : State) (b : Nat) : Bool := b = 0 || (s.bayWord b).getLsbD 63
/-- The cores field as stored. -/
def State.bayStoredCores (s : State) (b : Nat) : BitVec 256 :=
  Dev.stored s (bayAddr b 0x18) ++ Dev.stored s (bayAddr b 0x10) ++ Dev.stored s (bayAddr b 0x08) ++ Dev.stored s (bayAddr b 0)
def enabledBays (s : State) : List Nat := (numbers 1 63).filter s.bayEnabled
/-- Bits of the user cores. -/
def userMask : BitVec 256 :=
  (numbers 0 4).foldl (fun m d => m ||| (BitVec.ofNat 256 (2 ^ 48 - 1) <<< (64 * d))) 0
/-- R319: in bay 0, every user core held by no enabled bay and not retired (R419). -/
def State.bayCores (s : State) (b : Nat) : BitVec 256 :=
  if b = 0 then userMask &&& ~~~ (enabledBays s).foldl (fun m i => m ||| s.bayStoredCores i) 0 &&& ~~~ s.retired else s.bayStoredCores b
/-- R319, R327, R419: the cores of a bay that its launches may use: none that is retired, and while reduced service holds those of die 0. -/
def State.launchCores (s : State) (b : Nat) : BitVec 256 :=
  s.bayCores b &&& ~~~ s.retired &&& if s.phase = .full then BitVec.allOnes 256 else BitVec.ofNat 256 (2 ^ 48 - 1)
/-- R319: first vector and number of vectors. -/
def bayVectors (w : W64) : Nat × Nat := ((w.extractLsb' 10 11).toNat, (w.extractLsb' 21 11).toNat)
def rangesMeet (a b : Nat × Nat) : Bool := 0 < a.2 && 0 < b.2 && a.1 < b.1 + b.2 && b.1 < a.1 + a.2
/-- R284: the share q_b; 0 reads as 1. -/
def State.share (s : State) (b : Nat) : Nat := max 1 ((s.bayWord b).extractLsb' 0 8).toNat
/-- R319: 0 in qos or hbmw reads as 1. -/
def bayReads (w : W64) : W64 :=
  let w := if w.extractLsb' 0 8 = 0 then w ||| 1 else w
  if w.extractLsb' 32 8 = 0 then w ||| 0x100000000 else w
def State.bayHasContext (s : State) (b : Nat) : Bool := s.contexts.any fun c => c.bay = b && !c.gone

/-- R320: the tests an enabling makes. -/
def State.bayRangeOk (s : State) (b : Nat) (w : W64) : Bool :=
  (bayVectors w).1 + (bayVectors w).2 ≤ 2048
    && (0 :: enabledBays s).all fun i => i = b || !rangesMeet (bayVectors w) (bayVectors (s.bayWord i))
def State.bayMaskOk (s : State) (b : Nat) : Bool :=
  s.bayStoredCores b &&& ~~~ userMask = 0
    && (enabledBays s).all fun i => i = b || s.bayStoredCores b &&& s.bayStoredCores i = 0

/-- R320 (BAY_ENABLE). -/
def State.enableBay (s : State) (b : Nat) : State :=
  if !s.bayEnabled b && b < 64 && s.bayMaskOk b && s.bayRangeOk b (s.bayWord b) then
    { Dev.store s (bayAddr b 0x20) (s.bayWord b ||| 0x8000000000000000) with
      meters := SMap.set {} s.meters b {}, enablings := SMap.modify 0 s.enablings b (· + 1) }
  else s

/-- R320 (BAY_DISABLE). -/
def State.disableBay (s : State) (b : Nat) : State :=
  if b ≠ 0 && s.bayEnabled b && !s.bayHasContext b then
    Dev.store s (bayAddr b 0x20) (s.bayWord b &&& 0x7FFFFFFFFFFFFFFF)
  else s

/-- Bits of the word at 0x20 (R319). -/
def bayL2wVec : W64 := 0x00001F00FFE00000 ||| 0x00000000001FFC00
def bayQos : W64 := 0x000000FF000000FF
def bayRst : W64 := 0x4000000000000000
def pick (mask new old : W64) : W64 := (new &&& mask) ||| (old &&& ~~~ mask)

/-- R320: the word with the settings that wait for the next window. -/
def State.bayNext (s : State) (b : Nat) : W64 := s.qosNext.foldl (fun w x => if x.1 = b then pick bayQos x.2 w else w) (s.bayWord b)

/-- R320 (BAY_SETTINGS_WRITE): a write of the word at `off` of bay b's block, less en and rst. -/
def State.bayWrite (s : State) (b off : Nat) (v : W64) : State :=
  if off < 0x20 then
    if b ≠ 0 && !s.bayEnabled b then Dev.store s (bayAddr b off) v else s
  else if off = 0x20 then
    let old := s.bayWord b
    let free := !s.bayEnabled b || (b = 0 && !s.bayHasContext 0 && s.bayRangeOk 0 v)
    let s := if free then Dev.store s (bayAddr b 0x20) (pick bayL2wVec v old) else s
    let s := { s with qosNext := s.qosNext.filter (·.1 ≠ b) }
    if s.bayEnabled b then { s with qosNext := s.qosNext ++ [(b, v &&& bayQos)] }
    else Dev.store s (bayAddr b 0x20) (pick bayQos v (s.bayWord b))
  else s

/-! ## Features (R328) -/

/-- R328 (FEATURE_ACCEPT_WRITE). -/
def State.acceptFeatures (s : State) (v : W128) : State :=
  if s.contexts.all (·.gone) then { s with accepted := v &&& s.offered }
  else if s.contexts.all (fun c => c.gone || c.state = .preempted) then { s with accepted := (v &&& s.offered) ||| s.accepted }
  else s

/-! ## Reads and writes (R27) -/

/-- What the 8-aligned word at `pa` of the device-register range reads as. -/
def State.devRead (s : State) (pa : Nat) : W64 :=
  match Dev.block pa with
  | .queue _ _ | .wear _ | .soft _ => Dev.stored s pa
  | .slice _ => if s.feature 7 || s.feature 8 then Dev.stored s pa else 0
  | .meter _ => if s.feature 12 then Dev.stored s pa else 0
  | .bay b off =>
      if off < 0x20 then (s.bayCores b).extractLsb' (8 * off) 64
      else if off = 0x20 then bayReads (s.bayWord b)
      else if off = 0x28 then BitVec.ofNat 64 ((SMap.get {} s.meters b).acc / 1000) else 0
  | .feature off =>
      if off = 0 then s.offered.extractLsb' 0 64 else if off = 8 then s.offered.extractLsb' 64 64
      else if off = 0x10 then s.accepted.extractLsb' 0 64 else s.accepted.extractLsb' 64 64
  | .bringUp =>
      (Dev.stored s pa &&& 0xFFFFFFFFFFFFFFFC)
        ||| (match s.phase with | .full => 1 | .reducedKept => 2 | _ => 0)
  | .retire off => if off = 8 then s.fwfail.zeroExtend 64 else s.retired.extractLsb' (8 * off) 64
  | .absent => 0

/-- A write of the whole word at `pa`. -/
def State.devWord (s : State) (pa : Nat) (v : W64) : State :=
  match Dev.block pa with
  | .queue die off =>
      let ctl := Dev.queueBase + 0x40 * die + 8
      if (Dev.stored s ctl).getLsbD 0 then s
      else if off = 0 then Dev.store s pa (v &&& 0x000FFFFFFFFFFFC0)
      else
        let s := Dev.store s pa (pick 3 v (Dev.stored s pa))
        if !v.getLsbD 0 then s
        else if v.getLsbD 1 then s.later [.queueUnregister die] else s.later [.queueRegister die]
  | .slice off =>
      if !(s.feature 7 || s.feature 8) || (Dev.stored s (Dev.sliceBase + 8)).getLsbD 0 then s
      else if off = 0 then Dev.store s pa (v &&& 0x000FFFFFFFFFFFC0)
      else if off = 0x10 then Dev.store s pa (v &&& 0x1FF)
      else if v.getLsbD 0 then (Dev.store s pa (pick 1 v (Dev.stored s pa))).later [.sliceProgramInstall] else s
  | .bay b off =>
      let s := s.bayWrite b off v
      if off = 0x20 then
        let s := if v.getLsbD 63 then s.enableBay b else s.disableBay b
        if v.getLsbD 62 && !(s.bayWord b).getLsbD 62 then
          (Dev.store s pa (s.bayWord b ||| bayRst)).later [.bayReset b]
        else s
      else s
  | .meter off =>
      if !s.feature 12 || (Dev.stored s (Dev.meterBase + 0x10)).getLsbD 7 then s
      else if off = 0 then Dev.store s pa (v &&& 0x000FFFFFFFFFF000)
      else if off = 8 then Dev.store s pa v
      else
        let s := Dev.store s pa (pick 0x1BF v (Dev.stored s pa))
        if !v.getLsbD 7 then s else if v.getLsbD 8 then s.later [.meterReadCheckpoint] else s.later [.meterReadLive]
  | .feature off =>
      if off = 0x10 then s.acceptFeatures (s.accepted.extractLsb' 64 64 ++ v)
      else if off = 0x18 then s.acceptFeatures (v ++ s.accepted.extractLsb' 0 64) else s
  | .wear _ | .soft _ | .bringUp | .retire _ | .absent => s

/-- R3: `n` bytes at `pa`, within one 8-byte word, as they read. -/
def State.devReadN (s : State) (pa n : Nat) : Nat :=
  (s.devRead (pa / 8 * 8)).toNat / 2 ^ (8 * (pa % 8)) % 2 ^ (8 * n)

/-- What the bytes that a write leaves keep: what they read as, or a setting that waits for the next window (R320). -/
def State.devKept (s : State) (pa : Nat) : W64 :=
  match Dev.block pa with
  | .bay b 0x20 => s.bayNext b
  | _ => s.devRead pa

/-- A write of `n` bytes at `pa`, within one 8-byte word. -/
def State.devWriteN (s : State) (pa n w : Nat) : State :=
  let base := pa / 8 * 8
  let mask : W64 := BitVec.ofNat 64 ((2 ^ (8 * n) - 1) * 2 ^ (8 * (pa % 8)))
  let old := s.devKept base
  s.devWord base (pick mask (BitVec.ofNat 64 (w * 2 ^ (8 * (pa % 8)))) old)

/-- R373: add to a 32-bit soft-error counter, saturating; `high` is the upper half of the word at `off`. -/
def State.countError (s : State) (off : Nat) (high : Bool) (k : Nat) : State :=
  let pa := Dev.softBase + off
  let w := Dev.stored s pa
  let part := if high then (w.extractLsb' 32 32).toNat else (w.extractLsb' 0 32).toNat
  let new : W32 := BitVec.ofNat 32 (min (part + k) 0xFFFFFFFF)
  Dev.store s pa (if high then new ++ w.extractLsb' 0 32 else w.extractLsb' 32 32 ++ new)

end Sys2Proof.Machine
end

