-- ==== Sys2Proof/Machine/Memory.lean ====
section
/-!
DEFINITION. Memory accesses: effective addresses (R69), the rules of R70, translation (R87-R91, R368), the places an access
reaches (R71-R74, R206, R307, R314), timestamps and L1 copies (R75, R115, R116), poison (R372), the conditions of R145 and
the monitors a write evaluates (R84-R86). One pair of operations performs every ordinary access.
-/
namespace Sys2Proof.Machine

/-! ## Conditions (R145) -/

/-- Two's complement value of the low `n` bits. -/
def signedOf (n w : Nat) : Int := if w % 2 ^ n < 2 ^ (n - 1) then (w % 2 ^ n : Int) else (w % 2 ^ n : Int) - (2 ^ n : Nat)

/-- R145: the integer conditions 0 to 5. -/
def condHolds (fn : Nat) (signed : Bool) (n a b : Nat) : Bool :=
  let x : Int := if signed then signedOf n a else (a : Int)
  let y : Int := if signed then signedOf n b else (b : Int)
  match fn with
  | 0 => x == y
  | 1 => x != y
  | 2 => decide (x < y)
  | 3 => decide (x ≤ y)
  | 4 => decide (y < x)
  | _ => decide (y ≤ x)

/-! ## Faults of an access -/

/-- R364: code, reason and effective address. -/
def memFault (code reason ea : Nat) : TrapInfo :=
  { code, aux := BitVec.ofNat 64 (reason * 2 ^ 57 + ea % 2 ^ 57) }

/-! ## The physical map (R27, R307, R314) -/

inductive Region where
  | hbm | host | device | fabric | unmapped
  deriving DecidableEq, Repr

/-- R27; while reduced service holds, only the L3-served range is memory and host port 1 is absent (R327). -/
def State.hbmTop (s : State) : Nat := if s.phase = .full then 0xB2D05E0000 else 0x30000000
/-- R27, R307, R314. DEDUCED (log entry 81): while feature 3 is absent (R328) nothing lies in the fabric window. -/
def State.region (s : State) (pa : Nat) : Region :=
  if pa < s.hbmTop then .hbm
  else if 0x100000000000 ≤ pa ∧ pa < 0x200000000000 then (if s.phase = .full ∨ pa / 2 ^ 43 % 2 = 0 then .host else .unmapped)
  else if 0x200000000000 ≤ pa ∧ pa ≤ 0x2000FFFFFFFF then .device
  else if 0x8000000000000 ≤ pa ∧ pa ≤ 0xFFFFFFFFFFFFF ∧ s.present 3 then .fabric
  else .unmapped

/-- R307: PA[43] selects the port. -/
def hostPort (pa : Nat) : Nat := pa / 2 ^ 43 % 2
/-- R314: destination module and its physical address. -/
def fabricModule (pa : Nat) : Nat := pa / 2 ^ 41 % 1024
def fabricOffset (pa : Nat) : Nat := pa % 2 ^ 41

/-! ## Poison (R372) -/

/-- A 16-byte chunk of physical memory that the range meets is marked. -/
def chunksOf (unit a n : Nat) : List Nat := numbers (a / unit) ((a % unit + n + unit - 1) / unit)
def State.physPoisoned (s : State) (pa n : Nat) : Bool := (chunksOf 16 pa n).any s.poison.contains
/-- R372: a write of a whole unit clears its mark; a partial one leaves it. -/
def unmark (unit a n : Nat) (marks : List Nat) : List Nat :=
  marks.filter fun u => !(a ≤ u * unit && u * unit + unit ≤ a + n)

/-! ## Where an access goes -/

/-- R69: the effective address from the value of the base register. -/
def effAddr (space : BitVec 3) (base : Nat) (off : W64) : W64 :=
  if space = 4 then BitVec.ofNat 64 base + off else ((BitVec.ofNat 32 base + off.extractLsb' 0 32 : W32)).zeroExtend 64

/-- R48, R73: the team that is member `m` of a team's cluster set. A missing member never took its place (R52). DESIGN CHOICE (log entry 77): a
member that has retired has released its granules (R67), and an access aimed at it faults like one aimed at a missing member. -/
def State.member (s : State) (i : Nat) (tm : Team) (m : Nat) : Option Nat :=
  let c := s.setSize tm
  if c = 1 then (if m = 0 then some i else none)
  else if m < c then
    (s.launchOf tm).teams.find? fun j => match s.team j with | some t => t.tix = tm.tix / c * c + m && t.status ≠ .retired | none => false
  else none

/-- R70 for the on-chip spaces: .l, .c, .k, .d. -/
def State.onChip (s : State) (r : TRef) (tm : Team) (space : Nat) (ea n : Nat) : Except TrapInfo Loc :=
  match space with
  | 0 => if ea + n ≤ s.laneSize tm then .ok (.lane r ea) else .error (memFault 0x43 0 ea)
  | 1 => if ea + n ≤ s.scratchSize tm then .ok (.scr r.team ea) else .error (memFault 0x43 1 ea)
  | 2 =>
    match s.member r.team tm (ea / 524288) with
    | none => .error (memFault 0x43 2 ea)
    | some j => if ea % 524288 + n ≤ s.scratchSize tm then .ok (.scr j (ea % 524288)) else .error (memFault 0x43 2 ea)
  | _ => if ea + n ≤ s.dSize tm then .ok (.dscr tm.launch (dieOf (s.coreOf tm r.tid)) ea) else .error (memFault 0x43 3 ea)

/-- R206, R307, R314: what a page of type 1, 2 or 3 refuses (0x44). An atom to a page of type 1 has a cause of its own (R365). -/
def State.refused (s : State) (pa type n ea : Nat) (atom : Bool) : Option TrapInfo :=
  match type with
  | 1 => if atom ∨ n = 4 ∨ n = 8 then none else some (memFault 0x44 0 ea)
  | 2 => if s.present (hostPort pa) then none else some (memFault 0x44 1 ea)
  | 3 =>
    if s.region pa = .fabric then
      (if 576 ≤ fabricModule pa ∨ 0xB2D05E0000 ≤ fabricOffset pa then some (memFault 0x44 3 ea) else none)
    else none
  | _ => none

/-- Who makes an access: the thread's core and ASID. -/
structure Agent where
  t     : TRef
  core  : Nat
  asid  : Nat
  user  : Bool
  deriving DecidableEq, Repr

/-- R263: the agent a thread is. -/
def State.agentOf (s : State) (r : TRef) (tm : Team) : Agent :=
  { t := r, core := s.coreOf tm r.tid, asid := s.asidOf tm, user := !s.privileged tm }

/-! ## Reading and writing places -/

def State.dcopy (s : State) (launch die : Nat) : DCopy := SMap.get {} ((s.launches[launch]?).getD {}).dcopies die

/-- The number that `n` bytes at a place hold. -/
def State.peek (s : State) (l : Loc) (n : Nat) : Nat :=
  match l with
  | .lane t off => match s.thread t with | some th => th.lane.read off n | none => 0
  | .scr i off => match s.team i with | some tm => tm.scratch.read off n | none => 0
  | .dscr k d off => (s.dcopy k d).mem.read off n
  | .phys pa type => if type = 1 then s.devReadN pa n else s.mem.read pa n

/-- R372: a byte of the range lies in a marked unit. -/
def State.poisoned (s : State) (l : Loc) (n : Nat) : Bool :=
  match l with
  | .lane t off => match s.thread t with | some th => (chunksOf 8 off n).any th.lanePoison.contains | none => false
  | .scr i off => match s.team i with | some tm => (chunksOf 8 off n).any tm.scratchPoison.contains | none => false
  | .dscr k d off => (chunksOf 8 off n).any (s.dcopy k d).poison.contains
  | .phys pa type => type ≠ 1 && s.physPoisoned pa n

/-- The state after the low `n` bytes of `w` are put at a place, with R372's clearing of marks. -/
def State.poke (s : State) (l : Loc) (n w : Nat) : State :=
  match l with
  | .lane t off => s.modThread t fun th => { th with lane := th.lane.write off n w, lanePoison := unmark 8 off n th.lanePoison }
  | .scr i off => s.modTeam i fun tm => { tm with scratch := tm.scratch.write off n w, scratchPoison := unmark 8 off n tm.scratchPoison }
  | .dscr k d off =>
      s.modLaunch k fun la => { la with dcopies := SMap.modify {} la.dcopies d fun c =>
        { c with mem := c.mem.write off n w, poison := unmark 8 off n c.poison } }
  | .phys pa type =>
      if type = 1 then s.devWriteN pa n w
      else { s with mem := s.mem.write pa n w, poison := unmark 16 pa n s.poison }

/-- R372: the units of a place that the range meets become marked. -/
def State.mark (s : State) (l : Loc) (n : Nat) : State :=
  match l with
  | .lane t off => s.modThread t fun th => { th with lanePoison := (chunksOf 8 off n).foldl addNat th.lanePoison }
  | .scr i off => s.modTeam i fun tm => { tm with scratchPoison := (chunksOf 8 off n).foldl addNat tm.scratchPoison }
  | .dscr k d off =>
      s.modLaunch k fun la => { la with dcopies := SMap.modify {} la.dcopies d fun c => { c with poison := (chunksOf 8 off n).foldl addNat c.poison } }
  | .phys pa _ => { s with poison := (chunksOf 16 pa n).foldl addNat s.poison }

/-- R365, code 0x46. -/
def poisonFault (l : Loc) (ea : Nat) : TrapInfo :=
  match l with
  | .phys pa type => memFault 0x46 (if type = 0 then 0 else if 0x8000000000000 ≤ pa then 3 else 2) ea
  | _ => memFault 0x46 1 ea

/-! ## Monitors (R84-R86) -/

/-- Whether the `n` bytes at one place meet the `m` bytes at another. -/
def Loc.meets (a : Loc) (n : Nat) (b : Loc) (m : Nat) : Bool :=
  match a, b with
  | .lane t x, .lane u y => t = u && x < y + m && y < x + n
  | .scr i x, .scr j y => i = j && x < y + m && y < x + n
  | .dscr k d x, .dscr l e y => k = l && d = e && x < y + m && y < x + n
  | .phys x _, .phys y _ => x < y + m && y < x + n
  | _, _ => false

/-- R16, R84: the word of a monitor makes its comparison true. -/
def State.satisfied (s : State) (m : Monitor) : Bool :=
  condHolds m.fn.toNat m.signed (8 * m.n) (s.peek m.loc m.n) m.value.toNat

/-- R141, R142: results of the thread that these registers still awaited have been overwritten. -/
def Thread.overwrite (th : Thread) (codes : List Nat) : Thread := { th with late := th.late.filter fun l => !codes.contains l.code }

/-- R148: write a value of `n` bits to a v or s destination of a thread, with no sign extension. An s register that was
pending for the team (R44) is so until now. -/
def State.writeDest (s : State) (t : TRef) (dest : BitVec 11) (n w : Nat) : State :=
  match regOf dest with
  | .v k =>
      s.modThread t fun th =>
        { th.overwrite (numbers k (n / 32)) with
          v := (numbers 0 (n / 32)).foldl (fun v j => SMap.set 0 v (k + j) (BitVec.ofNat 32 (w / 2 ^ (32 * j)))) th.v }
  | .s k =>
      (s.modThread t fun th => th.overwrite (numbers (1536 + k) (if n ≤ 64 then 1 else 2))).modTeam t.team fun tm =>
        { tm with
          s := (if n ≤ 64 then SMap.set 0 tm.s k (BitVec.ofNat 64 (w % 2 ^ n))
                else SMap.set 0 (SMap.set 0 tm.s k (BitVec.ofNat 64 w)) (k + 1) (BitVec.ofNat 64 (w / 2 ^ 64)))
          sPending := tm.sPending.filter fun j => j != k && (n ≤ 64 || j != k + 1) }
  | _ => s

/-- R84, R119: a satisfied monitor releases its thread, which receives the word and joins the write. -/
def State.release (s : State) (m : Monitor) (ts : Nat) : State :=
  let s := { s with monitors := s.monitors.filter (· ≠ m) }
  let s := s.writeDest m.t m.dest (8 * m.n) (s.peek m.loc m.n)
  (s.raisePts m.t ts).resume m.t

/-- R84, R280: a write is noted by the monitor of a wait-value packet, which it may satisfy. -/
def Queue.noteWrite (q : Queue) (mem : Memory) (pa n ts : Nat) : Queue :=
  match q.watch with
  | none => q
  | some w =>
    if w.met.isNone && w.pa < pa + n && pa < w.pa + w.n && condHolds w.fn w.signed (8 * w.n) (mem.read w.pa w.n) w.value then
      { q with watch := some { w with met := some ts } }
    else q

/-- R311: a monitor that no write here evaluates: one on a word of type 3, which is read again each microsecond or watched by another module. -/
def Loc.elsewhere : Loc → Bool
  | .phys _ 3 => true
  | _ => false

/-- R25, R322: the home of a word evaluates a monitor for its ASID, that of a firmware core's thread for bay 0. -/
def State.noteEvaluation (s : State) (m : Monitor) : State :=
  match m.loc with
  | .phys pa _ =>
    let firm := match s.team m.t.team with | some tm => decide (s.coreOf tm m.t.tid % 64 = 60) | none => false
    s.noteUse (srcSlice (s.homeOf pa)) (if firm then 0 else s.bayOfAsid m.asid) 1
  | _ => s

/-- R86, R311: after a write of `n` bytes at a place with timestamp `ts`, every monitor of a word it changed is evaluated
(MONITOR_EVALUATE; an overflow waiter checks its condition again, MONITOR_OVERFLOW_WAKE). Monitors of other modules need feature 3 (R328). -/
def State.evaluate (s : State) (l : Loc) (n ts : Nat) : State :=
  let met := s.monitors.filter fun m => !m.loc.elsewhere && m.loc.meets m.n l n
  let s := met.foldl State.noteEvaluation s
  let s := (met.filter s.satisfied).foldl (fun s m => s.release m ts) s
  match l with
  | .phys pa _ =>
    let out := s.remote.filter fun m => s.present 3 && m.pa < pa + n && pa < m.pa + m.n
      && condHolds m.fn.toNat m.signed (8 * m.n) (s.mem.read m.pa m.n) m.value.toNat
    { s with queues := s.queues.map fun q => q.noteWrite s.mem pa n ts,
             remote := s.remote.filter (fun m => !out.contains m),
             fabOut := s.fabOut ++ out.map fun m => (m.source, BitVec.ofNat 64 (s.mem.read m.pa m.n)) }
  | _ => s

/-! ## L2 frames (R76) -/

/-- The set of a superblock in its slice. -/
def l2Set (sb : Nat) : Nat := sb / 192 % 256

/-- R76: the frame of a superblock, moved to the front of its slice. -/
def Slice.use (l : Slice) (sb : Nat) (f : Frame → Frame) : Slice :=
  match l.frames.find? (·.sb = sb) with
  | none => l
  | some x => { l with frames := f x :: l.frames.filter (·.sb ≠ sb) }

def State.l2Holds (s : State) (pa : Nat) : Bool :=
  (s.slice (s.homeOf pa)).frames.any fun f => f.sb = pa / 512 && f.valid.getLsbD (pa / 128 % 4)

/-- R76, R300: who makes a request at a home: the ASID that owns the line (512 where a physical address names no ASID), the .g address,
the coreid (0xFF for an agent without one), the hint, and whose answer waits for the line. -/
structure Req where
  asid   : Nat := 512
  va     : Nat := 0
  coreid : Nat := 0xFF
  hint   : BitVec 2 := 0
  who    : Option Requester := none
  /-- R289: the source port, of a sender whose requests a slice may refuse -/
  port   : Option Nat := none
  /-- R25, R322: the bay charged, where it is not that of the ASID -/
  charge : Option Nat := none
  deriving DecidableEq, Repr

/-- R25, R318: the bay that an ASID's request from a core is charged to: bay 0 for a firmware core's. -/
def State.chargedBay (s : State) (core asid : Nat) : Nat := if core % 64 = 60 then 0 else s.bayOfAsid asid
def Req.bay (q : Req) (s : State) : Nat := q.charge.getD (s.chargedBay q.coreid q.asid)

/-- R300: a frame that no ASID owns is owned by the first that uses it. -/
def Frame.ownedBy (f : Frame) (asid va : Nat) : Frame := if f.asid = 512 then { f with asid, va := va / 512 * 512 } else f

/-- R289: the source ports: those of cores by coreid, of their engines, of the hod cores by slice, and (R312) of the
service cores' rings. -/
def enginePort (core : Nat) : Nat := 256 + core
def hodPort (slice : Nat) : Nat := 512 + slice
def servicePort (hart : Nat) : Nat := 1024 + hart / 8

/-- R289: a slice has one request more to serve for a port. -/
def State.queueRequest (s : State) (slice : Nat) (q : Req) : State :=
  match q.port with
  | some p => s.modSlice slice fun k => { k with queued := SMap.modify 0 k.queued p (· + 1) }
  | none => s

/-- R76, R78: a request uses the frame that holds its line. -/
def State.useLine (s : State) (pa : Nat) (store : Bool) (hint : BitVec 2) (asid va : Nat) : State :=
  s.modSlice (s.homeOf pa) fun k => k.use (pa / 512) fun f =>
    { f.ownedBy asid va with dirty := if store then f.dirty ||| (1#4 <<< (pa / 128 % 4)) else f.dirty, kept := f.kept || hint = 1 }

/-- R76, R78, R119, R289: an access of timestamp `ts` reaches the home slice of a line of type 0 or 2: it uses the frame that holds the line, or
it misses. -/
def State.reachL2 (s : State) (l : Loc) (store : Bool) (ts : Nat) (q : Req) : State :=
  match l with
  | .phys pa 0 | .phys pa 2 =>
    let s := s.queueRequest (s.homeOf pa) q
    if s.l2Holds pa then s.useLine pa store q.hint q.asid q.va
    else s.later [.l2MissFill pa q.va store q.hint q.asid q.coreid { who := q.who, pts := ts, bay := some (q.bay s) }]
  | _ => s

/-! ## Timestamps (R115, R116) -/

/-- R115: a timestamp in its 64 bits. DESIGN CHOICE (log entry 101): the manual has no rule for one that runs out; it stays at the largest
value. -/
def stamp (n : Nat) : Nat := min n (2 ^ 64 - 1)

def LEASE : Nat := 128
def State.line (s : State) (pa : Nat) : Nat × Nat := SMap.get (0, 0) s.lines (pa / 128)
def State.setLine (s : State) (pa : Nat) (x : Nat × Nat) : State := { s with lines := SMap.set (0, 0) s.lines (pa / 128) x }

/-- R75: the L1 copy of a line. -/
def State.l1Copy (s : State) (core pa : Nat) : Option L1Copy := (s.core core).l1.find? (·.line = pa / 128)
/-- R7, R115. -/
def State.leaseLapse (s : State) (core pts pa : Nat) : Bool :=
  match s.l1Copy core pa with
  | none => true
  | some c => c.rts < pts
def State.dropL1 (s : State) (core pa : Nat) : State :=
  s.modCore core fun k => { k with l1 := k.l1.filter (·.line ≠ pa / 128) }
/-- R312: the data cache of a service core, and the cache that they share, stand among the cores' under numbers that no core has. -/
def hartCache (hart : Nat) : Nat := 1024 + hart
def sharedCache : Nat := 2048
/-- R75, R312: lines of 128 bytes that a cache holds: 128 KiB in a core, 64 KiB in a service core, 4 MiB in the shared cache. -/
def cacheLines (core : Nat) : Nat := if core < 1024 then 1024 else if core < 2048 then 512 else 32768

/-- R75: a full cache drops one of its copies, which is open. -/
def State.keepCopy (s : State) (core : Nat) (c : L1Copy) : State :=
  let rest := (s.core core).l1.filter (·.line ≠ c.line)
  if rest.length < cacheLines core then s.modCore core fun k => { k with l1 := c :: rest }
  else (s.modCore core fun k => { k with l1 := c :: rest.eraseIdx (Config.l1Victim s.free % cacheLines core) }).tick

/-- R75: what a cache keeps of a line whose home has answered. -/
def State.fillL1 (s : State) (core pa : Nat) (x : Nat × Nat) : State :=
  s.keepCopy core { line := pa / 128, bytes := s.mem.bytes (pa / 128 * 128) 128, wts := x.1, rts := x.2,
                    poison := s.poison.filter fun u => u / 8 = pa / 128 }

/-- R116: the timestamp of an access to a granule or unit. -/
def State.touch (s : State) (l : Loc) (pts : Nat) : State × Nat :=
  match l with
  | .scr i off =>
    match s.team i with
    | none => (s, pts)
    | some tm =>
      let ts := max pts (SMap.get 0 tm.gts (off / 4096))
      (s.modTeam i fun t => { t with gts := SMap.set 0 t.gts (off / 4096) ts }, ts)
  | .dscr k d off =>
      let ts := max pts (SMap.get 0 (s.dcopy k d).gts (off / 65536))
      (s.modLaunch k fun la => { la with dcopies := SMap.modify {} la.dcopies d fun c =>
        { c with gts := SMap.set 0 c.gts (off / 65536) ts } }, ts)
  | _ => (s, pts)

/-- R75, R76, R116, R322: a load at the home of a line, which grants a lease; `core` keeps a copy when there is one to keep it. -/
def State.loadHome (s : State) (core : Option Nat) (pts pa n : Nat) (q : Req := {}) : State × Nat × Nat :=
  let h := s.line pa
  let x := (h.1, max h.2 (stamp (max pts h.1 + LEASE)))
  let s := ((s.noteUse (srcSlice (s.homeOf pa)) (q.bay s) 1).setLine pa x).reachL2 (.phys pa 0) false (max pts h.1) q
  let s := match core with
    | some c => if q.hint = 2 then s else s.fillL1 c pa x
    | none => s
  (s, s.mem.read pa n, max pts h.1)

/-- R75, R111, R116: one load of `n` bytes; the new pts. `core` is none for an agent without an L1. -/
def State.load (s : State) (core : Option Nat) (pts : Nat) (l : Loc) (n : Nat) (q : Req := {}) : State × Nat × Nat :=
  match l with
  | .phys pa 0 =>
    match core with
    | none => s.loadHome none pts pa n q
    | some c =>
      if s.leaseLapse c pts pa then s.loadHome (some c) pts pa n q
      else
        match s.l1Copy c pa with
        | none => s.loadHome (some c) pts pa n q
        | some k => (s, bytesNat ((k.bytes.drop (pa % 128)).take n), stamp (max pts k.wts + 1))
  | _ =>
    let (s, ts) := (s.reachL2 l false pts q).touch l pts
    (s, s.peek l n, ts)

/-- R372: a load of the range would read a marked byte: of the copy that answers it, or of the place. -/
def State.loadMarked (s : State) (core : Option Nat) (pts : Nat) (l : Loc) (n : Nat) : Bool :=
  match core, l with
  | some c, .phys pa 0 =>
    match s.l1Copy c pa with
    | some k => if s.leaseLapse c pts pa then s.poisoned l n else (chunksOf 16 pa n).any k.poison.contains
    | none => s.poisoned l n
  | _, _ => s.poisoned l n

/-- R309: before a line that the host holds under HDM-DB is written, the home sends a back-invalidation snoop; the host answers in the same
step (log entry 89). A port without CXL carries none (R306, R328). -/
def State.backInvalidate (s : State) (pa : Nat) : State :=
  if s.hostHeld.any fun x => x.1 = pa / 128 && s.present x.2 then { s with hostHeld := s.hostHeld.filter (·.1 ≠ pa / 128), snooped := s.snooped ++ [pa / 128] } else s

/-- R75, R76, R116: the timestamp a store or atom takes at its place, with the storing core's L1 copy dropped. -/
def State.storeStamp (s : State) (core : Option Nat) (pts : Nat) (l : Loc) (q : Req := {}) : State × Nat :=
  match l with
  | .phys pa 0 =>
    let h := s.line pa
    let ts := max pts (stamp (h.2 + 1))
    let s := ((s.backInvalidate pa).setLine pa (ts, ts)).reachL2 l true ts q
    (match core with | some c => s.dropL1 c pa | none => s, ts)
  | _ => (s.reachL2 l true pts q).touch l pts

/-- R75, R86, R111, R116: one store of `n` bytes; the new pts. -/
def State.store (s : State) (core : Option Nat) (pts : Nat) (l : Loc) (n w : Nat) (q : Req := {}) : State × Nat :=
  let (s, ts) := s.storeStamp core pts l q
  ((s.poke l n w).evaluate l n ts, ts)

/-! ## Translation (R87-R91) -/

/-- R90, R322: the walker's load of one entry: an ordinary load at the entry's home, at the charge of a bay. -/
def State.walkRead (s : State) (bay pts ea : Nat) : State × Nat × Nat := s.loadHome none pts ea 8 { charge := some bay }

/-- Reasons of code 0x40 found on a walk, by a walker with a pts of its own; a leaf is (entry address, entry, size code). -/
def State.walkLevels (s : State) (bay va : Nat) : Nat → Nat → Nat → Except Nat (State × Nat × Nat × Nat × Nat)
  | 0, _, _ => .error 3
  | level + 1, pts, table =>
    if s.region table ≠ .hbm then .error 4
    else
      let ea := table + 8 * (va / 2 ^ (12 + 9 * level) % 512)
      if s.physPoisoned ea 8 then .error 5
      else
        let r := s.walkRead bay pts ea
        let e := r.2.1
        let size := e / 2 ^ 9 % 8
        let pa := e / 2 ^ 12 % 2 ^ 40 * 4096
        if e % 2 = 0 then .error 1
        else if e / 2 ^ 52 ≠ 0 then .error 2
        else if e / 2 % 2 = 1 then
          if !((size = 0 ∧ level = 0) ∨ (size = 1 ∧ level = 0) ∨ (size = 2 ∧ level = 1) ∨ (size = 3 ∧ level = 1) ∨ (size = 4 ∧ level = 2)) then .error 3
          else .ok (r.1, r.2.2, ea, e, size)
        else if size ≠ 0 ∨ level = 0 then .error 3
        else r.1.walkLevels bay va level r.2.2 pa

/-- R88: offset bits of a size code. -/
def pageBits (size : Nat) : Nat := match size with | 0 => 12 | 1 => 16 | 2 => 21 | 3 => 27 | _ => 32

/-- R87, R365: the root table of an ASID, through the context table that the die's firmware core names. -/
def State.rootOf (s : State) (die asid bay : Nat) : Except Nat (State × Nat × Nat) :=
  let table := ((SMap.get 0 s.csr (16 * die + 1)).toNat / 4096 % 2 ^ 40) * 4096
  let x := s.walkRead bay 0 (table + 16 * asid)
  let y := x.1.walkRead bay x.2.2 (table + 16 * asid + 8)
  let w0 := x.2.1
  if s.physPoisoned (table + 16 * asid) 16 then .error 5
  else if s.region (w0 / 4096 % 2 ^ 40 * 4096) ≠ .hbm then .error 4
  else if w0 = 0 ∨ w0 % 4096 ≠ 0 ∨ w0 / 2 ^ 52 ≠ 0 ∨ y.2.1 / 64 ≠ 0 then .error 6 else .ok (y.1, y.2.2, w0)

/-- R88-R90, R368: a walk that reaches a valid leaf whose pa is as R365 requires; the a and d bits are not yet set. It is at the charge of a bay (R322). -/
def State.walk (s : State) (die asid va bay : Nat) : Except Nat (State × Nat × Nat × Nat × Nat) :=
  match s.rootOf die asid bay with
  | .error r => .error r
  | .ok (s, pts, root) =>
    match s.walkLevels bay va 5 pts root with
    | .error r => .error r
    | .ok (s, pts, ea, e, size) =>
      if (e / 2 ^ 12 % 2 ^ 40 * 4096) % 2 ^ pageBits size ≠ 0 then .error 4 else .ok (s, pts, ea, e, size)

/-- R365, code 0x41: what the leaf allows. -/
def State.protection (s : State) (store user w u : Bool) (type pa : Nat) : Option Nat :=
  if store && !w then some 0
  else if user && !u then some 1
  else
    match type, s.region pa with
    | 0, .hbm | 1, .device | 2, .host | 3, .host | 3, .fabric => none
    | _, _ => some 2

/-- R91: the translation that a core caches, or else its die. -/
def State.cachedAt (s : State) (core asid va : Nat) (store : Bool) : Option Tlb :=
  let hit (t : Tlb) : Bool := t.asid = asid && t.page = va / 2 ^ t.bits && (t.d || !store)
  match s.tlb.find? fun t => t.core = some core && hit t with
  | some t => some t
  | none => s.tlb.find? fun t => t.core = none && t.die = dieOf core && hit t

/-- R91: a translation enters the cache of a core or of a die, in the place of an older one of its page. -/
def State.cacheTlb (s : State) (t : Tlb) : State :=
  { s with tlb := t :: s.tlb.filter fun k => !(k.core = t.core && k.die = t.die && k.asid = t.asid && k.page = t.page && k.bits = t.bits) }

/-- R90: the a bit of a leaf, and for a store its d bit, set by an atomic OR at the entry's home. -/
def State.markLeaf (s : State) (bay pts ea : Nat) (store : Bool) : State :=
  let x := s.storeStamp none pts (.phys ea 0) { charge := some bay }
  let low := x.1.mem.get ea ||| 0x80
  let high := x.1.mem.get (ea + 1) ||| (if store then 1 else 0)
  { x.1 with mem := (x.1.mem.set ea low).set (ea + 1) high }.evaluate (.phys ea 0) 8 x.2

/-- R87-R91, R368: a walk for a core, whose result it and its die cache: the physical address, the page type, the offset bits and the x bit. -/
def State.walkFor (s : State) (core asid va : Nat) (store user : Bool) : Except TrapInfo (State × Nat × Nat × Nat × Bool) :=
  match s.walk (dieOf core) asid va (s.chargedBay core asid) with
  | .error r => .error (memFault 0x40 r va)
  | .ok (s, pts, ea, e, size) =>
    let bits := pageBits size
    let base := e / 2 ^ 12 % 2 ^ 40 * 4096
    let pa := base + va % 2 ^ bits
    let type := e / 2 ^ 5 % 4
    let w := e / 4 % 2 = 1
    let u := e / 16 % 2 = 1
    match s.protection store user w u type pa with
    | some r => .error (memFault 0x41 r va)
    | none =>
      let t : Tlb := { die := dieOf core, asid, page := va / 2 ^ bits, bits, pa := base, type, u, x := e / 8 % 2 = 1, w, d := store || e / 256 % 2 = 1 }
      let s := { s with walks := SMap.modify 0 s.walks (dieOf core) (· + 1) }
      .ok (((s.markLeaf (s.chargedBay core asid) pts ea store).cacheTlb t).cacheTlb { t with core := some core }, pa, type, bits, e / 8 % 2 = 1)

/-- R87-R91: the physical address, the page type, the offset bits and the x bit for one access, and the state after it. A cached
translation is used until cinval removes it or its cache drops it. -/
def State.translate (s : State) (core asid va : Nat) (store user : Bool) : Except TrapInfo (State × Nat × Nat × Nat × Bool) :=
  if va / 2 ^ 57 ≠ 0 then .error (memFault 0x40 0 va)
  else
    match s.cachedAt core asid va store with
    | some t =>
      let pa := t.pa + va % 2 ^ t.bits
      match s.protection store user t.w t.u t.type pa with
      | some r => .error (memFault 0x41 r va)
      | none => .ok (if t.core = some core then s else s.cacheTlb { t with core := some core }, pa, t.type, t.bits, t.x)
    | none => s.walkFor core asid va store user

/-! ## The place of an access -/

/-- R70, R87, R206: the place of an access of `n` bytes, whose effective address must be a multiple of `align`. The causes
are met in the order of their codes: translation, protection, alignment, space, refusal (R350, R365). -/
def State.locate (s : State) (a : Agent) (space : BitVec 3) (ea : W64) (n align : Nat) (store : Bool) (alignReason : Nat := 0)
    (atom : Bool := false) : Except TrapInfo (State × Loc) :=
  if space = 4 then
    match s.translate a.core a.asid ea.toNat store a.user with
    | .error e => .error e
    | .ok (s', pa, type, bits, _) =>
      if ea.toNat % align ≠ 0 ∧ alignReason = 0 then .error (memFault 0x42 0 ea.toNat)
      else if ea.toNat % 2 ^ bits + n > 2 ^ bits then .error (memFault 0x42 1 ea.toNat)
      else if ea.toNat % align ≠ 0 then .error (memFault 0x42 alignReason ea.toNat)
      else
        match s.refused pa type n ea.toNat atom with
        | some e => .error e
        | none => .ok (s', .phys pa type)
  else
    match s.team a.t.team with
    | none => .error (memFault 0x43 1 ea.toNat)
    | some tm =>
      if ea.toNat % align ≠ 0 then .error (memFault 0x42 alignReason ea.toNat)
      else (s.onChip a.t tm space.toNat ea.toNat n).map fun l => (s, l)

/-- R289: the port by which an agent of a core sends: the core's, or its engines'; a grout unit has none. -/
def Agent.port (a : Agent) : Option Requester → Option Nat
  | some (.thread _) => if a.core % 64 = 62 then none else some a.core
  | some (.op _) => some (enginePort a.core)
  | _ => none

/-- The request of an agent for a line of its ASID. -/
def Agent.req (a : Agent) (va : Nat) (hint : BitVec 2) (who : Option Requester) : Req := { asid := a.asid, va, coreid := a.core, hint, who, port := a.port who }

/-! ## Firmware's own accesses (R111, R115) -/

/-- R25, R289, R300, R318: the request of a die's firmware core, by its port and at the charge of bay 0; for a line of an ASID by its .g address, or for
one by its physical address (512). -/
def fwReq (die : Nat) (asid : Nat := 512) (va : Nat := 0) : Req :=
  { coreid := firmwareCore die, asid, va, charge := some 0, port := some (firmwareCore die), who := some .firmware }
/-- R115, R116: an ordinary load of firmware at a physical address of module memory. Firmware is one agent, without an L1. -/
def State.fwLoad (s : State) (pa n : Nat) (q : Req) : State × Nat :=
  let r := s.loadHome none s.fwPts pa n q
  ({ r.1 with fwPts := r.2.2 }, r.2.1)
/-- R115, R116: an ordinary store of firmware at a physical address of module memory. -/
def State.fwStore (s : State) (pa n w : Nat) (q : Req) : State :=
  let r := s.store none s.fwPts (.phys pa 0) n w q
  { r.1 with fwPts := max r.1.fwPts r.2 }
/-- Firmware acts after an agent whose pts is `pts`. -/
def State.fwAfter (s : State) (pts : Nat) : State := { s with fwPts := max s.fwPts pts }

end Sys2Proof.Machine
end

