-- ==== Sys2Proof/Machine/Event.lean ====
section
/-!
DEFINITION. Event rings and the records written to them (R292, R404, R405), and the vectors they raise.
-/
namespace Sys2Proof.Machine

/-- R292: an event ring descriptor, decoded. -/
structure RingDesc where
  base   : Nat
  count  : Nat
  vector : Nat
  windex : Nat
  rindex : Nat
  deriving DecidableEq, Repr

/-- R292: the descriptor at a physical address. -/
def State.ringDesc (s : State) (pa : Nat) : RingDesc :=
  let w1 := s.mem.read (pa + 8) 8
  { base := s.mem.read pa 8 / 4096 % 2 ^ 40 * 4096, count := w1 % 65536 + 1, vector := w1 / 65536 % 2048, windex := s.mem.read (pa + 16) 8, rindex := s.mem.read (pa + 24) 8 }

/-- R292: the ring is full. -/
def State.ringFull (s : State) (pa : Nat) : Bool := (s.ringDesc pa).windex - (s.ringDesc pa).rindex ≥ (s.ringDesc pa).count

/-- R321: the vector of a ring is one of the bay of the registered queue that names it. -/
def State.vectorAllowed (s : State) (ring : Nat) : Bool :=
  match s.queues.find? fun q => q.registered && q.evring = ring with
  | none => false
  | some q =>
    let v := bayVectors (s.bayWord q.bay)
    v.1 ≤ (s.ringDesc ring).vector && (s.ringDesc ring).vector < v.1 + v.2

/-- R292, R313, R321: the vector of a ring goes to the host, or under self-hosting to the service cores' controller; never one of another bay. -/
def State.sendVector (s : State) (ring : Nat) : State :=
  let s := { s with raised := SMap.set 0 s.raised ring (s.ns + 1) }
  if !s.vectorAllowed ring then s
  else if s.present 2 then { s with svcMsi := s.svcMsi ++ [(s.ringDesc ring).vector] }
  else { s with msix := s.msix ++ [(s.ringDesc ring).vector] }

/-- R292: raise the vector of a ring, or once more at the end of the microsecond. -/
def State.raiseVector (s : State) (ring : Nat) : State :=
  let last := SMap.get 0 s.raised ring
  if last ≠ 0 ∧ s.ns + 1 < last + 1000 then
    if s.holdoff.contains ring then s else { s with holdoff := s.holdoff ++ [ring] }.later [.vectorHoldoffExpiry ring]
  else s.sendVector ring

/-- R292: the words of a record. -/
def recordWord0 (e : Event) : Nat := e.kind % 256 + e.asid % 512 * 2 ^ 8 + e.coreid % 256 * 2 ^ 24 + e.tix % 2 ^ 32 * 2 ^ 32
def recordWord1 (e : Event) (index : Nat) : Nat := e.tid % 2 ^ 32 + index % 2 ^ 32 * 2 ^ 32

/-- The die whose firmware serves the queue of an event ring. -/
def State.ringDie (s : State) (ring : Nat) : Nat := ((s.queues.find? fun q => q.registered && q.evring = ring).map (·.die)).getD 0

/-- R292: write a record to a ring that has room: words 1 to 3, then word 0, then the write index, then the vector. -/
def State.writeRecord (s : State) (ring : Nat) (e : Event) : State :=
  let d := s.ringDesc ring
  let q := fwReq (s.ringDie ring)
  let a := d.base + 32 * (d.windex % d.count)
  let s := s.fwStore (a + 8) 8 (recordWord1 e d.windex) q
  let s := s.fwStore (a + 16) 8 e.value.toNat q
  let s := s.fwStore (a + 24) 8 s.ns q
  let s := s.fwStore a 8 (recordWord0 e) q
  (s.fwStore (ring + 16) 8 (d.windex + 1) q).raiseVector ring

/-- R292: the ring of the earliest registered of the context's queues that is still registered. -/
def State.contextRing (s : State) (asid : Nat) : Option Nat :=
  (s.queues.find? (fun q => q.registered && q.asid = asid)).map (·.evring)

/-- R405: a record of firmware's for a ring, held when the ring is full or when earlier records are held for it; beyond 64 it
is dropped and counted. `owner` is the context that holds it. -/
def State.recordTo (s : State) (owner ring : Nat) (e : Event) : State :=
  match s.context owner with
  | none => s
  | some c =>
    if s.ringFull ring || c.held.any (·.1 = ring) then
      if c.held.length < 64 then s.modContext owner fun c => { c with held := c.held ++ [(ring, e)] }
      else s.modContext owner fun c => { c with dropped := c.dropped + 1 }
    else s.writeRecord ring e

/-- A record of the context, to the context's ring. -/
def State.record (s : State) (asid : Nat) (e : Event) : State :=
  match s.contextRing asid with
  | none => s
  | some ring => s.recordTo asid ring e

/-- R292: a record that firmware writes of itself. -/
def firmwareEvent (kind asid : Nat) (value : W64) : Event :=
  { kind, asid, coreid := 0xFF, tix := 0xFFFFFFFF, tid := 0xFFFFFFFF, value }

/-- R292: a record that names a thread. -/
def State.threadEvent (s : State) (t : TRef) (kind : Nat) (value : W64) : Event :=
  match s.team t.team with
  | some tm => { kind, asid := tm.asid s, coreid := s.coreOf tm t.tid, tix := tm.tix, tid := t.tid, value }
  | none => firmwareEvent kind 0 value

/-- R401, R410: the operator's control queue of a die, when one is registered. -/
def State.operatorQueue (s : State) (die : Nat) : Option Queue :=
  s.queues.find? fun q => q.registered && q.ctl && q.die = die

/-- R401, R410: a record to the operator's control queue of a die. -/
def State.operatorRecord (s : State) (die : Nat) (e : Event) : State :=
  match s.operatorQueue die with
  | none => s
  | some q => s.recordTo q.asid q.evring e

/-- R405: records held for a ring that has room are written in order, until it is full. Structural on the list. -/
def State.flushHeld (s : State) : List (Nat × Event) → State × List (Nat × Event)
  | [] => (s, [])
  | (ring, e) :: rest =>
    if s.ringFull ring then
      let r := s.flushHeld rest
      (r.1, (ring, e) :: r.2)
    else (s.writeRecord ring e).flushHeld rest

end Sys2Proof.Machine
end

