-- ==== Sys2Proof/Machine/Operands.lean ====
section
/-!
DEFINITION. Operands: which registers an instruction reads and writes (R131, R134, R148, R149), their values, results
(R148), and registers the launch does not allocate (R152).
-/
namespace Sys2Proof.Machine

/-- R105: the types whose results are sign-extended into an s register (R148). -/
def signedType (ty : BitVec 5) : Bool := ty = 3 || ty = 4 || ty = 5 || ty = 6
/-- R105: width in bits of an integer type. -/
def typeBits (ty : BitVec 5) : Nat :=
  match ty.toNat with
  | 3 | 7 => 8 | 4 | 8 => 16 | 6 | 10 => 64 | _ => 32

/-! ## Register codes -/

/-- R148: the codes an operand of `bits` bits takes. -/
def spanCodes (code : BitVec 11) (bits : Nat) : List Nat :=
  match regOf code with
  | .v n => numbers n (max 1 (bits / 32))
  | .s n => numbers (1536 + n) (if 64 < bits then 2 else 1)
  | .p n => [1600 + n]
  | _ => []

/-- R69: a base register: a pair of v registers in .g. -/
def baseCodes (code : BitVec 11) (space : BitVec 3) : List Nat := spanCodes code (if space = 4 then 64 else 32)

/-- The codes a field is read from. -/
def roleReads (e : Ext) (code : BitVec 11) : Role → List Nat
  | .src w | .srcImm w | .sreg w | .sregImm w | .rw w => spanCodes code (w.bits e)
  | .psrc => spanCodes code 1
  | .base sp => baseCodes code (sp.of e)
  | _ => []

/-- The codes a field is written to. -/
def roleWrites (e : Ext) (code : BitVec 11) : Role → List Nat
  | .dst w | .dstV w | .rw w => spanCodes code (w.bits e)
  | .pdst => spanCodes code 1
  | _ => []

/-- R135: the guard's predicate. -/
def guardCodes (e : Ext) : List Nat :=
  match e.guard with
  | some (_, p) => [1600 + p.toNat]
  | none => []

/-- R266: the operand B of tskip has the size of the entry. -/
def tskipReads (op : Nat) (e : Ext) (th : Thread) : List Nat :=
  if op = 0x78 ∧ e.x.getLsbD 0 then
    match th.log[e.a.toNat]? with
    | some k => if k.dest = 2047 then [] else spanCodes e.b (if k.size = 3 then 64 else if k.size = 4 then 128 else 32)
    | none => []
  else []

/-- Every register and predicate the instruction reads, its guard's apart; tskip reads B only for an entry with a destination (R266). -/
def sourceCodes (op : Nat) (e : Ext) (th : Thread) : List Nat :=
  match Shape.of op e with
  | none => []
  | some sh => roleReads e e.d sh.d ++ roleReads e e.a sh.a ++ (if op = 0x78 then [] else roleReads e e.b sh.b) ++ roleReads e e.c sh.c ++ tskipReads op e th

/-- Every register and predicate the instruction writes. ballot at W = 64 also writes D + 1 (R180). -/
def resultCodes (op : Nat) (e : Ext) (width : Nat) : List Nat :=
  match Shape.of op e with
  | none => []
  | some sh => if op = 0x24 then spanCodes e.d (if width = 64 then 64 else 32) else roleWrites e e.d sh.d

/-! ## Values -/

/-- What the registers read as, for one instruction. -/
structure RegView where
  v : SMap W32
  p : BitVec 16
  s : SMap W64
  deriving DecidableEq, Repr

def RegView.ofThread (tm : Team) (th : Thread) : RegView := { v := th.v, p := th.p, s := tm.s }

/-- The register of a code, in 64 bits. -/
def RegView.code (r : RegView) (k : Nat) : W64 :=
  if k < 1536 then (SMap.get 0 r.v k).zeroExtend 64
  else if k < 1600 then SMap.get 0 r.s (k - 1536)
  else BitVec.ofNat 64 (if r.p.getLsbD (k - 1600) then 1 else 0)

/-- The view with a code's value replaced. -/
def RegView.patch (r : RegView) (k : Nat) (x : W64) : RegView :=
  if k < 1536 then { r with v := SMap.set 0 r.v k (x.extractLsb' 0 32) }
  else if k < 1600 then { r with s := SMap.set 0 r.s (k - 1536) x }
  else { r with p := if x = 0 then r.p &&& ~~~ (1#16 <<< (k - 1600)) else r.p ||| (1#16 <<< (k - 1600)) }

/-- R131: the constants of codes 2040 to 2046, as 32-bit patterns. -/
def constant (k : Nat) : W32 :=
  match k with
  | 0 => 1 | 1 => 2 | 2 => 4 | 3 => 8 | 4 => 16 | 5 => 0xFFFFFFFF | _ => 0x3F800000

/-- R148: val(X, n): the n-bit value of a register code. DESIGN CHOICE (log entry 84): a constant (R131) in a 128-bit operand is its 64-bit value
with zeros above. -/
def RegView.val (r : RegView) (code : BitVec 11) (n : Nat) : Nat :=
  match regOf code with
  | .v k => (numbers 0 (max 1 (n / 32))).foldr (fun j acc => (SMap.get 0 r.v (k + j)).toNat + 2 ^ 32 * acc) 0 % 2 ^ n
  | .s k =>
      if n ≤ 64 then (SMap.get 0 r.s k).toNat % 2 ^ n
      else (SMap.get 0 r.s k).toNat + 2 ^ 64 * (SMap.get 0 r.s (k + 1)).toNat
  | .const k => if k = 6 then (constant k).toNat % 2 ^ n else ((constant k).signExtend 64).toNat % 2 ^ n
  | _ => 0

/-- R165: a predicate source: 2047 reads 0 and 2040 reads 1. -/
def RegView.pred (r : RegView) (code : BitVec 11) : Bool :=
  match regOf code with
  | .p k => r.p.getLsbD k
  | .const _ => true
  | _ => false

/-- R136: sext(C : x, 21), in 64 bits. -/
def imm21 (e : Ext) : W64 := (e.c ++ e.x).signExtend 64
/-- R136: sext(x, 10), in 64 bits. -/
def imm10 (e : Ext) : W64 := e.x.signExtend 64

/-- R136, R137: the immediate, I21 when the instruction has no C operand. -/
def immOf (e : Ext) (hasC : Bool) : W64 :=
  match e.lit with
  | some l => l
  | none => if hasC then imm10 e else imm21 e

/-- R149: "reg or imm". -/
def RegView.valImm (r : RegView) (e : Ext) (hasC : Bool) (n : Nat) : Nat :=
  if e.b = 2047 then (immOf e hasC).toNat % 2 ^ n else r.val e.b n

/-- R137: a B source that the literal replaces when there is one. -/
def RegView.valLit (r : RegView) (e : Ext) (n : Nat) : Nat :=
  match e.lit with
  | some l => l.toNat % 2 ^ n
  | none => r.val e.b n

/-- R69, R136, R137: the effective address of [base+off], `hasC` when field C is an operand. -/
def RegView.ea (r : RegView) (e : Ext) (base : BitVec 11) (hasC : Bool) : W64 :=
  effAddr e.space (r.val base (if e.space = 4 then 64 else 32)) (immOf e hasC)
/-- R69: the effective address of a base field without an offset, in the given space. -/
def RegView.ea0 (r : RegView) (base : BitVec 11) (space : BitVec 3) (off : W64) : W64 :=
  effAddr space (r.val base (if space = 4 then 64 else 32)) off

/-! ## Results -/

/-- R148: wr(D, x, n): the low n bits of x, sign-extended in an s register when the type is signed. -/
def State.wr (s : State) (t : TRef) (d : BitVec 11) (n : Nat) (signed : Bool) (x : Nat) : State :=
  match regOf d with
  | .s _ =>
      if n ≤ 32 && signed then s.writeDest t d 64 ((BitVec.ofNat 32 x).signExtend 64 : W64).toNat
      else s.writeDest t d n (x % 2 ^ n)
  | _ => s.writeDest t d (max n 32) (x % 2 ^ n)

/-- R134: a predicate destination; 2047 discards. -/
def State.wrPred (s : State) (t : TRef) (d : BitVec 11) (b : Bool) : State :=
  match regOf d with
  | .p k => s.modThread t fun th => { th.overwrite [1600 + k] with p := if b then th.p ||| (1#16 <<< k) else th.p &&& ~~~ (1#16 <<< k) }
  | _ => s

/-- R152: the lowest code of a v register at or above the launch's count. -/
def unallocated (codes : List Nat) (count : Nat) : Option Nat :=
  codes.foldl (fun m k => if count ≤ k ∧ k < 1536 then (match m with | none => some k | some j => some (min j k)) else m) none

end Sys2Proof.Machine
end

