-- ==== Sys2Proof/Machine/Flags.lean ====
section
/-!
DEFINITION. Guards (R10, R132, R135), fixed result latencies and early reads (R141-R143), and the scoreboard (R142).
-/
namespace Sys2Proof.Machine

/-- R10, R135. -/
def guardTrue (e : Ext) (p : BitVec 16) : Bool :=
  match e.guard with
  | none => true
  | some (neg, i) => p.getLsbD i.toNat != neg

/-- R141: the fixed result latency of an opcode; none for a variable one. -/
def fixedLatency (op : Nat) (e : Ext) : Option Nat :=
  match op with
  | 0x01 | 0x02 | 0x08 | 0x09 | 0x0A | 0x0B | 0x0C | 0x0D | 0x0E | 0x0F | 0x10 | 0x11 | 0x12 | 0x13 | 0x14 | 0x15 | 0x16 | 0x17
  | 0x18 | 0x19 | 0x1A | 0x1B | 0x1C | 0x20 | 0x21 | 0x22 | 0x23 => some 4
  | 0x1D => if e.a.toNat ≤ 7 ∨ e.a.toNat = 13 then some 4 else none
  | 0x03 | 0x04 | 0x05 | 0x29 | 0x30 | 0x31 | 0x32 | 0x33 | 0x34 | 0x35 | 0x36 | 0x37 | 0x3E | 0x3F => some 6
  | _ => none

/-- R143: the codes among those read whose fixed-latency result has not been delivered. -/
def earlyCodes (late : List LateResult) (codes : List Nat) : List Nat := codes.filter fun k => late.any (·.code = k)

/-- R143: what an early read of `code` gives: from the newest pending result backward, the new value or the old one, as the
free value `pick` says; the number of the next early read. -/
def earlyValue (pick : Nat → Bool) (code : Nat) : List LateResult → W64 → Nat → W64 × Nat
  | [], cur, k => (cur, k)
  | l :: ls, cur, k =>
    if l.code = code then (if pick k then (cur, k + 1) else earlyValue pick code ls l.old (k + 1))
    else earlyValue pick code ls cur k

/-- R143: the registers as the instruction reads them. -/
def earlyView (pick : Nat → Bool) (late : List LateResult) : List Nat → RegView → Nat → RegView
  | [], r, _ => r
  | c :: cs, r, k =>
    let x := earlyValue pick c late (r.code c) k
    earlyView pick late cs (r.patch c x.1) x.2

/-- R143: the registers as a thread reads them for an instruction that it issues in this cycle. -/
def State.readView (s : State) (t : TRef) (tm : Team) (th : Thread) (op : Nat) (e : Ext) : RegView :=
  earlyView (Config.earlyIsNew s.clk t.team t.tid) th.late (earlyCodes th.late (guardCodes e ++ sourceCodes op e th)) (RegView.ofThread tm th) 0

/-- R141: cycles of stall counts pass, from the newest result to the oldest; `done` are the codes of newer results that have been
delivered, before which older ones of the same register took effect. -/
def passFrom (n : Nat) : List Nat → List LateResult → List LateResult
  | _, [] => []
  | done, l :: ls =>
    if done.contains l.code then passFrom n done ls
    else if n < l.left then { l with left := l.left - n } :: passFrom n done ls
    else passFrom n (l.code :: done) ls
/-- R141: what is still to be delivered after `n` cycles of stall counts. -/
def passLate (late : List LateResult) (n : Nat) : List LateResult := passFrom n [] late

/-- R142, R265: the codes that a variable-latency access of the thread has yet to write. -/
def Thread.pendingCodes (th : Thread) : List Nat :=
  th.log.flatMap fun k => if k.busy || k.valid then spanCodes k.dest (if k.size = 3 then 64 else if k.size = 4 then 128 else 32) else []

/-- R37: those that an access not answered by the L1 has yet to write. -/
def Thread.farCodes (th : Thread) : List Nat :=
  th.log.flatMap fun k => if (k.busy || k.valid) && !k.fromL1 then spanCodes k.dest (if k.size = 3 then 64 else if k.size = 4 then 128 else 32) else []
/-- R37: the s registers that an access of a thread of the team, answered by the L1, has yet to write, as codes. -/
def Team.nearCodes (tm : Team) : List Nat :=
  tm.threads.flatMap fun th => th.log.flatMap fun k => if k.busy && k.fromL1 then spanCodes k.dest (if k.size = 4 then 128 else 64) else []

/-- R44, R142: the instruction reads or writes a register that is not yet written. -/
def scoreboarded (op : Nat) (e : Ext) (tm : Team) (th : Thread) (width : Nat) : Bool :=
  let codes := guardCodes e ++ sourceCodes op e th ++ resultCodes op e width
  codes.any fun k => th.pendingCodes.contains k || (1536 ≤ k && tm.sPending.contains (k - 1536))

/-- R211: the thread waits for the old value of an atom to a target that is not of type 0. -/
def Thread.awaitsAtom (th : Thread) : Bool := th.log.any fun k => k.busy && k.outside
/-- R264, R308: an access of the thread still waits for its line. -/
def Thread.placing (th : Thread) : Bool := th.log.any fun k => k.busy && k.fault.isNone && k.place.isSome

/-- R37, R44, R142: the instruction waits for a result that the L1 has not returned. -/
def awaitsFar (op : Nat) (e : Ext) (tm : Team) (th : Thread) (width : Nat) : Bool :=
  let codes := guardCodes e ++ sourceCodes op e th ++ resultCodes op e width
  codes.any fun k => th.farCodes.contains k || (1536 ≤ k && tm.sPending.contains (k - 1536) && !tm.nearCodes.contains k)

/-- R265: an ld, st or atom while all four entries are taken. -/
def logFull (op : Nat) (th : Thread) : Bool :=
  (op = 0x50 || op = 0x51 || op = 0x54) && th.log.all fun k => k.busy || k.valid

/-- R202: the engine instructions with a completion word: ldt, stt, cpy, gath, scat, coll, mwld, mop, mrd, xfwd, xinv, qbx, dqbx. -/
def engineOp (op : Nat) : Bool := [0x52, 0x53, 0x63, 0x64, 0x65, 0x66, 0x68, 0x6A, 0x6E, 0x6F, 0x70, 0x71, 0x72].contains op

/-- R119: the instructions that start an agent: engine operations, mflip, cfetch, gcall and hmsg. -/
def startsAgent (op : Nat) : Bool := engineOp op || op = 0x69 || op = 0x46 || op = 0x59 || op = 0x5B

/-- R12, R17, R119, R178, R269, R270, R273, R356: a course collective, bar, barn, evsig, time, cinval, or an instruction that starts an agent,
while the thread has a pending logged access, since each comes only after the accesses before it. -/
def collectiveHeld (op : Nat) (th : Thread) : Bool :=
  (0x24 ≤ op && op ≤ 0x28 || op = 0x4A || op = 0x4B || op = 0x7B || op = 0x7C || op = 0x7F || startsAgent op) && th.log.any (·.busy)

/-- R202: operations in flight on a core. -/
def State.opsOn (s : State) (core : Nat) : Nat := s.ops.countP (·.core = core)

/-- R244: the core whose engines an instruction of a thread uses: a pair team's matrix operations use the array of the lower-numbered one. -/
def State.engineCore (s : State) (op : Nat) (tm : Team) (tid : Nat) : Nat := if 0x68 ≤ op && op ≤ 0x6E then tm.core else s.coreOf tm tid

/-- R202: an engine instruction for a core whose engines hold 64 operations. -/
def State.engineHeld (s : State) (op core : Nat) : Bool := engineOp op && 64 ≤ s.opsOn core

end Sys2Proof.Machine
end

