-- ==== Sys2Proof/Machine/Ops.lean ====
section
/-!
DEFINITION. The operations that every instruction shares: fetching (R186, R187, R359-R361), the operand log's delivery
(R142, R354), taking a trap (R264, R350-R353, R395, R396), the causes found at issue (R152, R349, R362), and the issue of one
instruction by one thread (R10, R44, R141-R143).
-/
namespace Sys2Proof.Machine

/-! ## What an instruction does -/

/-- R328: the feature an instruction belongs to, if any. -/
def featureOf (op : Nat) : Option Nat :=
  match op with
  | 0x66 => some 3
  | 0x6F | 0x70 => some 5
  | 0x71 | 0x72 => some 6
  | 0x59 | 0x5A => some 8
  | _ => none

/-- One thread's issue of one instruction: the thread, the instruction, and the registers as it reads them. -/
structure Ctx where
  t    : TRef
  op   : Nat
  e    : Ext
  ws   : List W32
  tm   : Team
  th   : Thread
  r    : RegView
  next : W32
  deriving DecidableEq, Repr

/-- What the instruction's own effect comes to. -/
inductive Effect where
  /-- completes; the thread goes on at the next instruction -/
  | done (s : State)
  /-- completes; the thread goes on at `pc` -/
  | jump (s : State) (pc : W32)
  /-- the thread waits, its pc at the instruction; `counts` when its occurrence (R44) counts as performed -/
  | wait (s : State) (w : Wait) (counts : Bool)
  /-- no effect; the thread takes a trap -/
  | trap (info : TrapInfo)
  /-- the effect has settled the thread itself: it waits, has exited, or has not issued after all -/
  | handled (s : State)
  deriving Repr

/-- R148: val(X, n). -/
def Ctx.val (c : Ctx) (code : BitVec 11) (n : Nat) : Nat := c.r.val code n
/-- R148: wr(D, x, n). -/
def Ctx.wr (c : Ctx) (s : State) (n : Nat) (signed : Bool) (x : Nat) : State := s.wr c.t c.e.d n signed x
/-- The agent of the thread's accesses. -/
def Ctx.agent (c : Ctx) (s : State) : Agent := s.agentOf c.t c.tm
/-- The thread's pts (R115). -/
def Ctx.pts (c : Ctx) (s : State) : Nat := ((s.thread c.t).map (·.pts)).getD 0
/-- R63: the operation revokes the team's idempotent flag. -/
def Ctx.revoke (c : Ctx) (s : State) : State := s.revokeTeam c.t.team

/-! ## Code addresses and fetching -/

/-- R186: slot and offset of a code address. -/
def slotOf (pc : W32) : Nat := pc.toNat / 2 ^ 28
def offsetOf (pc : W32) : Nat := pc.toNat % 2 ^ 28
/-- DESIGN CHOICE (log entry 108): an offset of a branch or jmpf that leaves the 28 bits wraps within its slot. -/
def codeAddr (slot off : Nat) : W32 := BitVec.ofNat 32 (slot * 2 ^ 28 + off % 2 ^ 28)

/-- R186: an overlay slot of a team. -/
def Team.overlay (tm : Team) (slot : Nat) : Overlay := SMap.get {} tm.slots slot

/-- R281, R303: bytes of code in a slot. -/
def State.codeLength (s : State) (tm : Team) (slot : Nat) : Nat :=
  match tm.wave with
  | some w => w.code.length
  | none => if slot = 0 then (s.launchOf tm).body.seglen * 4 else (tm.overlay slot).len

/-- R360: who owns a block of a slot, and the .g address of the slot's source. -/
def blockOwner (t : TRef) (tm : Team) (slot : Nat) : Nat := if slot = 0 then tm.launch else t.team
def State.codeSource (s : State) (tm : Team) (slot : Nat) : Nat :=
  if slot = 0 then (s.launchOf tm).body.kernel else (tm.overlay slot).source.toNat

/-- R76, R360: read the 64 bytes of a block from its source, at the line's home: the bytes and whether they are good, or the source does not
translate or is not executable. -/
def State.readBlock (s : State) (t : TRef) (tm : Team) (slot block : Nat) : Option (State × List Byte × Bool) :=
  let va := s.codeSource tm slot + 64 * block
  match s.translate (s.coreOf tm t.tid) (s.asidOf tm) va false (!s.privileged tm) with
  | .error _ => none
  | .ok (s', pa, type, _, x) =>
    if !x || type ≠ 0 then none
    else
      let core := s.coreOf tm t.tid
      let s' := s'.reachL2 (.phys pa 0) false (s'.line pa).1 { asid := s.asidOf tm, va, coreid := core, port := some core, who := some (.thread t) }
      let bytes := s'.mem.bytes pa 64
      let same := slot = 0 || bytes = ((tm.overlay slot).bytes.drop (64 * block)).take 64
      some (s', bytes, !s'.physPoisoned pa 64 && same)

/-- R26: the 128 KiB code store of a core holds 2,048 blocks of 64 bytes. DESIGN CHOICE (log entry 75): a block that finds it full takes the
place of the one fetched longest ago. -/
def codeBlocksHeld : Nat := 2048

/-- R360: the taux of code 0x01, and the block that it names. -/
def badBlock (slot block : Nat) : TrapInfo := { code := 0x01, aux := (codeAddr slot (64 * block)).zeroExtend 64 }

/-- R361: a block of the code store that an issue takes as it is; one that was marked bad by fetch ahead is fetched again. -/
def CodeBlock.stands (b : CodeBlock) : Bool := !(b.bad && b.ahead)

/-- R26, R360, R361: a block in the thread's core, fetched where it is missing; one that is marked bad takes code 0x01. -/
def State.fetchBlock (s : State) (t : TRef) (tm : Team) (slot block : Nat) : Except TrapInfo (State × List Byte) :=
  let c := s.coreOf tm t.tid
  let owner := blockOwner t tm slot
  let here (b : CodeBlock) : Bool := b.owner = owner && b.slot = slot && b.block = block
  match (s.core c).code.find? fun b => here b && b.stands with
  | some b => if b.bad then .error (badBlock slot block) else .ok (s, b.bytes)
  | none =>
    match s.readBlock t tm slot block with
    | none => .error { code := 0x02, aux := (codeAddr slot (64 * block)).zeroExtend 64 ||| 0x200000000 }
    | some (s', bytes, good) =>
      let s' := s'.modCore c fun k => { k with code := ({ owner, slot, block, bytes, bad := !good } :: k.code.filter (fun b => !here b)).take codeBlocksHeld }
      if good then .ok (s', bytes) else .error (badBlock slot block)

/-- R360, R373: a block whose source bytes are poisoned is marked bad, and counted. -/
def State.keepBad (s : State) (t : TRef) (info : TrapInfo) : State :=
  match s.team t.team with
  | none => s
  | some tm =>
    let c := s.coreOf tm t.tid
    let slot := info.aux.toNat / 2 ^ 28 % 16
    let block := info.aux.toNat % 2 ^ 28 / 64
    let b : CodeBlock := { owner := blockOwner t tm slot, slot, block, bytes := [], bad := true }
    let here (k : CodeBlock) : Bool := k.owner = b.owner && k.slot = slot && k.block = block
    if info.code ≠ 1 ∨ (s.core c).code.any (fun k => here k && k.stands) then s
    else (s.modCore c fun k => { k with code := (b :: k.code.filter (!here ·)).take codeBlocksHeld }).countError 0x28 true 1

/-- R349, code 0x02. -/
def fetchFault (pc : W32) (reason : Nat) : TrapInfo := { code := 0x02, aux := pc.zeroExtend 64 + BitVec.ofNat 64 (reason * 2 ^ 32) }

/-- Bytes of the code from an offset on, `n` of them. -/
def State.codeBytes (s : State) (t : TRef) (tm : Team) (slot : Nat) : Nat → Nat → Except TrapInfo (State × List Byte)
  | _, 0 => .ok (s, [])
  | off, n + 1 =>
    match tm.wave with
    | some w => .ok (s, (w.code.drop off).take (n + 1))
    | none =>
      match s.fetchBlock t tm slot (off / 64) with
      | .error e => .error e
      | .ok (s1, b1) =>
        if off % 64 + n + 1 ≤ 64 then .ok (s1, (b1.drop (off % 64)).take (n + 1))
        else
          match s1.fetchBlock t tm slot (off / 64 + 1) with
          | .error e => .error e
          | .ok (s2, b2) => .ok (s2, (b1.drop (off % 64)) ++ b2.take (off % 64 + n + 1 - 64))

/-- R187, R349, R350, R361: the bytes of the instruction at a thread's PC, or the cause of the lowest code. DESIGN CHOICE (log entry 76): a
target both beyond the slot's length and not a multiple of 4 reports reason 1. -/
def State.fetch (s : State) (t : TRef) : Except TrapInfo (State × List Byte) :=
  match s.team t.team, s.thread t with
  | some tm, some th =>
    let slot := slotOf th.pc
    let off := offsetOf th.pc
    let len := s.codeLength tm slot
    if off % 4 ≠ 0 then .error (fetchFault th.pc 1)
    else if tm.wave.isNone ∧ slot ≠ 0 ∧ (tm.overlay slot).state = 1 ∧ len ≤ off then .error (fetchFault th.pc 0)
    else if tm.wave.isNone ∧ slot ≠ 0 ∧ (tm.overlay slot).state ≠ 2 then
      .error { code := 0x03, aux := th.pc.zeroExtend 64 + (if (tm.overlay slot).failed then 0x100000000 else 0) }
    else if len ≤ off then .error (fetchFault th.pc 0)
    else
      match s.codeBytes t tm slot off 4 with
      | .error e => .error (if e.code = 2 then fetchFault th.pc 2 else e)
      | .ok (s1, first) =>
        let size := 4 * wordsOfLength (bytesNat first / 2 ^ 30)
        if len < off + size then .error (fetchFault th.pc 3)
        else
          match s1.codeBytes t tm slot off size with
          | .error e => .error (if e.code = 2 then fetchFault th.pc 2 else e)
          | .ok r => .ok r
  | _, _ => .error { code := 0x02, aux := 0 }

/-- R349, code 0x08: the first word and, unless L = 00, the second. -/
def illegalInfo (bytes : List Byte) : TrapInfo :=
  { code := 0x08, aux := BitVec.ofNat 64 (bytesNat (bytes.take (if bytesNat (bytes.take 4) / 2 ^ 30 = 0 then 4 else 8))) }
def illegalWords (ws : List W32) : TrapInfo := illegalInfo (ws.flatMap wordBytes)

/-! ## The operand log (R265, R354) -/

/-- R203: bits of a register operand of a size. -/
def sizeBits (size : BitVec 3) : Nat := if size = 3 then 64 else if size = 4 then 128 else 32

def Thread.modLog (th : Thread) (k : Nat) (f : LogEntry → LogEntry) : Thread := { th with log := th.log.modify k f }

/-- R142, R354: the access of entry k is over: it writes its destination and frees the entry, or its fault is recorded. One that still waits for its
line (R308) is not over. -/
def State.deliver (s : State) (t : TRef) (k : Nat) : State :=
  match (s.thread t).bind (fun th => th.log[k]?) with
  | none => s
  | some en =>
    if !en.busy || en.place.isSome then s
    else if en.fault.isSome then s.modThread t fun th => th.modLog k fun en => { en with busy := false, valid := true }
    else
      let s := if en.dest = 2047 then s else s.wr t en.dest (sizeBits en.size) (signedType en.ty) en.value.toNat
      s.modThread t fun th => th.modLog k fun _ => {}

/-- R264: every pending access of the thread completes or faults. -/
def State.drain (s : State) (t : TRef) : State := (numbers 0 4).foldl (fun s k => s.deliver t k) s

/-- The entries with a fault that no trap has taken, with their order. -/
def Thread.dueFaults (th : Thread) : List (Nat × TrapInfo) :=
  th.log.filterMap fun en => if en.valid then en.fault.map fun f => (en.order, f) else none

/-- R350: the lowest code among the causes; of one code, that of the oldest entry. -/
def lowestCause (l : List (Nat × TrapInfo)) : Option TrapInfo :=
  (l.foldl (fun (m : Option (Nat × TrapInfo)) x =>
    match m with
    | none => some x
    | some y => if x.2.code < y.2.code ∨ (x.2.code = y.2.code ∧ x.1 < y.1) then some x else some y) none).map (·.2)

/-! ## Ending threads and teams -/

/-- R12, R353: what a thread no longer takes part in: its monitors, the pool, a wait. -/
def State.forget (s : State) (t : TRef) : State :=
  let s := s.leavePool t
  { s with monitors := s.monitors.filter (·.t ≠ t) }.modThread t fun th => { th with wait := none }

/-- R353, R399: contributions still in the team's atomic-buffer entries are discarded. -/
def State.discardReds (s : State) (i : Nat) : State :=
  match s.team i with
  | none => s
  | some tm =>
    let mine (r : Contribution) : Bool := r.launch = tm.launch && r.key[3]? = some tm.tix
    { s with cores := s.cores.map fun (c, k) => (c, { k with parts := k.parts.map fun (p, q) => (p, { q with reds := q.reds.filter (fun r => !mine r) }) }) }

/-- R353, R399, R411: the team ends: every thread stops, its buffered contributions are discarded, and it counts as retired
once its engine operations are complete. -/
def State.endTeam (s : State) (i : Nat) : State :=
  match s.team i with
  | none => s
  | some tm =>
    if tm.status = .retired then s
    else
      let s := tm.tids.foldl (fun s k => s.forget { team := i, tid := k }) (s.discardReds i)
      let s := s.modTeam i fun tm => { tm with threads := tm.threads.map (fun th => { th with exited := true }), colls := [] }
      if tm.status = .placed then s.later [.teamRetire i]
      else (s.modTeam i fun tm => { tm with status := .retired }).later [.launchComplete tm.launch]

/-! ## Taking a trap -/

/-- R264: the trap entry of a thread: ftvec for a privileged one, else the launch's tentry. -/
def State.trapEntryOf (s : State) (tm : Team) : W32 :=
  if s.privileged tm then (SMap.get 0 s.csr (16 * dieOf tm.core + 3)).extractLsb' 0 32 else (s.launchOf tm).body.tentry

/-- R353: no handler can take the trap. -/
def State.unhandled (s : State) (tm : Team) (th : Thread) (replay : Bool) : Bool :=
  (!s.privileged tm && (s.launchOf tm).body.tentry = 0) || (th.inTrap && !replay)

/-- R353: the value of a kind 4 record. -/
def unhandledValue (info : TrapInfo) (nested : Bool) (tepc : W32) : W64 :=
  BitVec.ofNat 64 (info.code % 256 + (if nested then 256 else 0) + tepc.toNat * 2 ^ 32)

/-- R66: the destination that a waiting thread will receive. -/
def Wait.dest (s : State) (t : TRef) : Wait → BitVec 11
  | .rget _ d | .reply d => d
  | .monitor => ((s.monitors.find? (·.t = t)).map (·.dest)).getD 2047
  | _ => 2047

/-- R44: the occurrence that a thread's wait stands for is not performed after all. -/
def State.unperform (s : State) (t : TRef) (w : Wait) : State :=
  match s.team t.team, s.thread t, regOf (w.dest s t) with
  | some tm, some th, .s k =>
    if tm.sPending.contains k then
      (s.modTeam t.team fun tm =>
        { tm with sPending := tm.sPending.filter (· ≠ k), uni := SMap.modify 0 tm.uni th.pc.toNat (· - 1) }).modThread t fun th =>
          { th with occ := SMap.modify 0 th.occ th.pc.toNat (· - 1) }
    else s
  | _, _, _ => s

/-- R177, R185: a thread withdraws its joining. -/
def CollRec.drop (c : CollRec) (tid : Nat) : CollRec :=
  { c with joined := c.joined.filter (· ≠ tid), live := c.live.filter (·.tid ≠ tid) }

/-- R66, R264: a waiting thread leaves its wait with no effect: its arrival, joining, request or monitor is withdrawn. DESIGN CHOICE (log entry
107): a thread that waits under step 6 of R177 keeps its earlier joining with a false guard, which R185 does not single out. -/
def State.withdraw (s : State) (t : TRef) : State :=
  match (s.thread t).bind (·.wait) with
  | none => s
  | some w =>
    let s := s.unperform t w.why
    let s := match w.why with
      | .coll pc =>
          s.modTeam t.team fun tm => { tm with colls := tm.colls.map fun (c : CollRec) => if c.pc = pc then c.drop t.tid else c }
      | .ringSlot k =>
          let mine (q : RingReq) : Bool := match q with | .put u _ _ => u = t | _ => false
          let s := (s.modTeam t.team fun tm => { tm with rings := tm.rings.modify k fun r => { r with reqs := r.reqs.filter (!mine ·) } })
          State.later { s with senders := s.senders.map fun (x : Sender) =>
            { x with window := x.window.filter fun e => match e.what with | .ring _ _ q => !mine q | .request _ _ who => who ≠ Asking.thread t | _ => true } } [.ringReservation t.team k]
      | .refused id => { s with senders := s.senders.map fun (x : Sender) => { x with window := x.window.filter (·.id ≠ id) } }
      | _ => s
    { s with monitors := s.monitors.filter (·.t ≠ t) }.modThread t fun th => { th with wait := none }

/-- R264: the thread's trap registers, and its entry to the handler. -/
def State.enterHandler (s : State) (t : TRef) (tm : Team) (info : TrapInfo) (tepc : W32) : State :=
  let s := (s.leavePool t).withdraw t
  s.modThread t fun th =>
    { th with
      tcause := BitVec.ofNat 32 info.code, taux := info.aux, tepc, inTrap := true, pc := s.trapEntryOf tm,
      late := [], stall := 0, awaits := false, granted := none, answered := false, log := th.log.map fun en => { en with fault := none } }

/-- R264, R350, R352, R353: a thread of a launch takes a trap, with the lowest code among the given cause and the faults of its
logged accesses. -/
def State.trapThread (s : State) (t : TRef) (cause : Option (TrapInfo × W32)) (replay : Bool) : State :=
  let s := s.drain t
  match s.team t.team, s.thread t with
  | some tm, some th =>
    match lowestCause (th.dueFaults ++ (cause.map fun c => (th.log.foldl (fun m en => max m (en.order + 1)) 0, c.1)).toList) with
    | none => s
    | some info =>
      let tepc := match cause with | some c => if c.1 = info then c.2 else th.pc | none => th.pc
      if s.unhandled tm th replay then
        (s.record (tm.asid s) (s.threadEvent t 4 (unhandledValue info th.inTrap tepc))).endTeam t.team
      else s.enterHandler t tm info (if replay then th.tepc else tepc)
  | _, _ => s

/-! ## Grout waves that end (R303, R395, R396) -/

/-- R237, R303: a requester receives its reply. -/
def State.replyTo (s : State) (t : TRef) (dest : Option (BitVec 11)) (v : W64) (pts : Nat) : State :=
  match dest, (s.thread t).bind (·.wait) with
  | some d, some { why := .reply d2, .. } =>
      if d = d2 then (((s.wr t d 64 false v.toNat).raisePts t pts).resume t) else s
  | _, _ => s

/-- R395: a requester whose call ran no method, or whose wave stopped. -/
def State.failCall (s : State) (asid : Nat) (object : W64) (t : TRef) (dest : Option (BitVec 11)) (info : TrapInfo) : State :=
  match dest with
  | none => s.record asid { s.threadEvent t 8 (BitVec.ofNat 64 (object.toNat % 2 ^ 57 + info.code % 128 * 2 ^ 57)) with asid }
  | some _ =>
    match (s.thread t).bind (·.wait) with
    | some { why := .reply _, .. } => s.trapThread t (some (info, ((s.thread t).map (·.pc)).getD 0)) false
    | _ => s

/-- R396: taux of a method trap. -/
def methodTrapAux (own lane pc reason : Nat) : W64 :=
  BitVec.ofNat 64 (reason + pc % 65536 * 2 ^ 16 + lane * 2 ^ 32 + own * 2 ^ 40)

/-- R304: the largest pts among the lanes of a wave, which is one agent. -/
def Team.wavePts (tm : Team) : Nat := tm.threads.foldl (fun m th => max m th.pts) 0

/-- The wave's team is over; pending requests of its slice may run. -/
def State.closeWave (s : State) (i : Nat) (w : Wave) : State :=
  let s := s.modTeam i fun tm => { tm with status := .retired, threads := tm.threads.map fun th => { th with exited := true } }
  if (s.slice w.slice).groutq.isEmpty then s else s.later [.groutWaveStart w.slice]

/-- R396: the wave stops; lanes that ended receive their replies, the others take code 0x67. -/
def State.stopWave (s : State) (i lane pc reason : Nat) : State :=
  match s.team i with
  | none => s
  | some tm =>
    match tm.wave with
    | none => s
    | some w =>
      if tm.status = .retired then s
      else
        let s := s.closeWave i w
        (numbers 0 w.reqs.length).foldl (fun s k =>
          match w.reqs[k]?, tm.threads[k]? with
          | some q, some th =>
            match th.reply with
            | some v => s.replyTo q.t q.dest v tm.wavePts
            | none => s.failCall w.asid w.object q.t q.dest { code := 0x67, aux := methodTrapAux k lane pc reason }
          | _, _ => s) s

/-- R264, R351, R396: a thread meets a cause; in a grout wave the wave stops. -/
def State.raise (s : State) (t : TRef) (info : TrapInfo) (tepc : W32) : State :=
  match s.team t.team with
  | none => s
  | some tm =>
    if tm.wave.isSome then s.stopWave t.team t.tid (offsetOf (((s.thread t).map (·.pc)).getD 0)) (if 0x40 ≤ info.code then 4 else 0)
    else s.trapThread t (some (info, tepc)) false

/-! ## Causes found at issue -/

def plainInfo (code : Nat) (aux : Nat) : TrapInfo := { code, aux := BitVec.ofNat 64 aux }

/-- R349, code 0x0A: privileged state. -/
def Ctx.privilegeCause (c : Ctx) (s : State) : Bool :=
  match c.op with
  | 0x1E => c.e.d.toNat ≠ 13 && !c.th.inTrap
  | 0x76 | 0x77 | 0x78 => !c.th.inTrap
  | 0x79 | 0x7A => !s.privileged c.tm
  | 0x7E => !c.th.inSignal || c.th.depth < 2
  | 0x7F => 3 ≤ c.e.a.toNat && !s.privileged c.tm
  | _ => false

/-- R201, R252: the parameter block of an mop, where it lies in the team's scratchpad, is one of the complex mode. -/
def Ctx.complexMop (c : Ctx) (s : State) : Bool :=
  let at' := (c.r.ea0 c.e.a 1 (((c.e.lit.getD 0).extractLsb' 16 16).signExtend 64)).toNat
  c.op = 0x6A && at' + 8 ≤ s.scratchSize c.tm && c.tm.scratch.read at' 8 % 4 = 3

/-- R274: tskip with a value whose B does not match the size of an entry that has a destination; R239: gret outside method
code; R328: an absent feature. DEDUCED (log entry 81): a thread's mop is of the complex mode by the thread's own parameter block. -/
def Ctx.illegalCause (c : Ctx) (s : State) : Bool :=
  (match featureOf c.op with | some f => !s.present f && c.tm.wave.isNone | none => false)
  || (!s.present 5 && c.tm.wave.isNone && c.complexMop s)
  || (c.op = 0x5A && c.tm.wave.isNone)
  || (c.op = 0x78 && c.e.x.getLsbD 0 && c.th.inTrap &&
      match c.th.log[c.e.a.toNat]? with
      | some en => en.valid && en.dest ≠ 2047 && !Legal.srcReg (sizeBits en.size) (regOf c.e.b)
      | none => false)

/-- R249, R349, code 0x12: a matrix instruction in a team with no accumulator tiles. -/
def Ctx.matrixCause (c : Ctx) (s : State) : Bool :=
  0x68 ≤ c.op && c.op ≤ 0x6E && (c.tm.wave.isSome || (s.launchOf c.tm).body.acc = 0)

/-- R189: code 0x18 or 0x19. -/
def Ctx.stackCause (c : Ctx) (s : State) : Option TrapInfo :=
  if (c.op = 0x41 ∨ c.op = 0x44) ∧ s.laneSize c.tm < 8 * (c.th.depth + 1) then some (plainInfo 0x18 c.th.depth)
  else if c.op = 0x42 ∧ c.th.depth = 0 then some (plainInfo 0x19 0) else none

/-- R190, R357: the target that jmpi or calli has in a thread of the issue group whose guard is true, by the registers as the thread reads them. -/
def State.indirectTarget (s : State) (op : Nat) (e : Ext) (t : TRef) : Option (TRef × W32) :=
  match s.team t.team, s.thread t with
  | some tm, some th =>
    let r := s.readView t tm th op e
    if guardTrue e r.p then some (t, BitVec.ofNat 32 (r.val e.a 32)) else none
  | _, _ => none

/-- R357: the target of a thread of the group that has issued already. -/
def State.takenTarget (s : State) (t : TRef) : Option (TRef × W32) :=
  match (s.thread t).bind (·.target) with
  | some (k, w) => if k = s.clk then some (t, w) else none
  | none => none

/-- R190, R357: the targets of the group being issued, in its order; a thread's is noted when the first of the group issues. -/
def State.indirectTargets (s : State) (op : Nat) (e : Ext) : List (TRef × W32) :=
  (s.group.take s.pos).filterMap s.takenTarget ++ (s.group.drop s.pos).filterMap (s.indirectTarget op e)

/-- R131: a field names a v register. -/
def namesV (code : BitVec 11) : Bool :=
  match regOf code with
  | .v _ => true
  | _ => false

/-- R190, R357: the disagreement mask of a thread, none when the group's targets agree or lie in an s register. -/
def Ctx.divergence (c : Ctx) (s : State) : Option TrapInfo :=
  if (c.op = 0x43 ∨ c.op = 0x44) ∧ namesV c.e.a then
    let l := s.indirectTargets c.op c.e
    match l with
    | [] => none
    | (_, ref) :: _ =>
      if l.all (·.2 = ref) then none
      else
        let mine := l.filter fun x => x.1.team = c.t.team && s.courseOf c.tm x.1.tid = s.courseOf c.tm c.t.tid && x.2 ≠ ref
        some { code := 0x10, aux := mine.foldl (fun m x => m ||| (1#64 <<< s.laneOf c.tm x.1.tid)) 0 }
  else none

/-- R195: the operands of barn: its id and its count. -/
def Ctx.barnCount (c : Ctx) : Nat := c.r.valImm c.e false 32
/-- R195: tids that wait at a named barrier. -/
def Team.barnWaiters (tm : Team) (id : Nat) : List Nat :=
  tm.tids.filter fun k => match tm.threads[k]? with | some { wait := some { why := .barn j, .. }, .. } => j = id | _ => false
/-- R195, code 0x1B. -/
def Ctx.barnCause (c : Ctx) : Option TrapInfo :=
  if c.op = 0x4B then
    let n := c.barnCount
    let opened := if (c.tm.barnWaiters c.e.a.toNat).isEmpty then 0 else SMap.get 0 c.tm.barns c.e.a.toNat
    if n = 0 ∨ c.tm.alive.length < n ∨ (opened ≠ 0 ∧ opened ≠ n) then some (plainInfo 0x1B (n + opened * 2 ^ 32)) else none
  else none

/-- R44: the thread's next occurrence at its PC has been performed by the team. Counts wrap modulo 2^32. A thread is never ahead of its
team but by occurrences that other threads have withdrawn (R66), one for each of at most 3,072 threads. -/
def performedAlready (tm : Team) (th : Thread) : Bool :=
  3072 ≤ (SMap.get 0 th.occ th.pc.toNat - SMap.get 0 tm.uni th.pc.toNat).toNat

/-- R191: the descriptor of cfetch. -/
def Ctx.cfetchDesc (c : Ctx) : Nat := c.r.valImm c.e false 32
/-- R191, code 0x1C; an occurrence that the team has performed does nothing more (R44). -/
def Ctx.overlayCause (c : Ctx) : Option TrapInfo :=
  if c.op = 0x46 && !performedAlready c.tm c.th then
    let slot := c.cfetchDesc % 16
    if slot = 0 ∨ c.tm.threads.any (fun th => !th.exited && slotOf th.pc = slot) then some (plainInfo 0x1C slot) else none
  else none

/-- R264, code 0x20. -/
def Ctx.softwareTrap (c : Ctx) : TrapInfo := plainInfo 0x20 (c.r.valImm c.e false 32)

/-- The codes that R350 compares, those below 0x40 that do not wait for operands: 0x08, 0x09, 0x0A, 0x12, 0x18, 0x19. -/
def Ctx.staticCauses (c : Ctx) (s : State) (active : Bool) : List TrapInfo :=
  (if c.illegalCause s then [illegalWords c.ws] else [])
  ++ ((unallocated (sourceCodes c.op c.e c.th ++ resultCodes c.op c.e (s.width c.tm)) (s.regCount c.tm)).map (plainInfo 0x09)).toList
  ++ (if active && c.privilegeCause s then [plainInfo 0x0A c.op] else [])
  ++ (if active && c.matrixCause s then [plainInfo 0x12 c.op] else [])
  ++ (if active then (c.stackCause s).toList else [])

/-- R358: the lowest register code read early under the checking scoreboard. -/
def Ctx.earlyCause (c : Ctx) (s : State) (codes : List Nat) : List TrapInfo :=
  if s.checking c.tm then
    match earlyCodes c.th.late codes with
    | [] => []
    | k :: ks => [plainInfo 0x11 (ks.foldl min k)]
  else []

/-- Codes 0x10, 0x1B and 0x1C, which depend on operands. -/
def Ctx.operandCauses (c : Ctx) (s : State) : List TrapInfo :=
  (c.divergence s).toList ++ c.barnCause.toList ++ c.overlayCause.toList

/-- R349: every cause that the instruction meets at issue, with its guard true (`active`) or false. -/
def Ctx.causes (c : Ctx) (s : State) (active : Bool) : List TrapInfo :=
  c.staticCauses s active ++ c.earlyCause s (guardCodes c.e ++ if active then sourceCodes c.op c.e c.th else [])
    ++ if active then c.operandCauses s else []

/-- R350: the lowest code of a list of causes. -/
def lowest (l : List TrapInfo) : Option TrapInfo := lowestCause (l.map fun i => (0, i))

/-! ## Issue -/

/-- R15, R44, R191: the instruction is team-uniform. -/
def uniformOp (op : Nat) (e : Ext) : Bool :=
  match Shape.of op e with
  | some sh => Legal.sDest sh e || op = 0x46
  | none => false

/-- R44: the occurrence counts of the thread and, when it performs it, of the team. -/
def State.countOccurrence (s : State) (t : TRef) (pc : W32) (performs : Bool) : State :=
  let s := s.modThread t fun th => { th with occ := SMap.modify 0 th.occ pc.toNat (· + 1) }
  if performs then s.modTeam t.team fun tm => { tm with uni := SMap.modify 0 tm.uni pc.toNat (· + 1) } else s

/-- R141: after an issue with stall count S: cycles to the next issue, and the results still to be delivered. -/
def State.passStall (s : State) (t : TRef) (stall : Nat) (fresh : List LateResult) : State :=
  s.modThread t fun th => { th with stall := stall + 1, idle := 0, late := fresh ++ passLate th.late (stall + 1) }

/-- R141: the results of a fixed-latency instruction, with the values from before it. -/
def Ctx.freshLate (c : Ctx) (s : State) : List LateResult :=
  match fixedLatency c.op c.e with
  | none => []
  | some l =>
    if l ≤ c.e.s.toNat + 1 then []
    else (resultCodes c.op c.e (s.width c.tm)).map fun k => { code := k, old := (RegView.ofThread c.tm c.th).code k, left := l - (c.e.s.toNat + 1) }

/-- R44: s registers that a waiting uniform instruction will write. -/
def State.holdDest (s : State) (c : Ctx) (codes : List Nat) : State :=
  s.modTeam c.t.team fun tm => { tm with sPending := (codes.filter (1536 ≤ ·)).foldl (fun l k => addNat l (k - 1536)) tm.sPending }

/-- The thread goes on at `pc`. -/
def State.goTo (s : State) (t : TRef) (pc : W32) : State := s.modThread t fun th => { th with pc }

/-- R43: the thread issues in this cycle. -/
def State.issued (s : State) (t : TRef) : State := s.modThread t fun th => { th with idle := 0 }

/-- R141: an instruction that traps has issued: the handler's first one keeps to its stall count. -/
def State.trapStall (s : State) (t : TRef) (e : Ext) : State := s.modThread t fun th => { th with stall := e.s.toNat + 1 }

/-- What follows the instruction's own effect; `fresh` are its results still to be delivered, beside which those before them stand
(R141). -/
def Ctx.settle (c : Ctx) (s : State) (fresh : List LateResult) : Effect → State
  | .done s' =>
      let s' := if fresh.isEmpty then s' else s'.modThread c.t fun th => { th with late := c.th.late }
      ((if uniformOp c.op c.e then s'.countOccurrence c.t c.th.pc true else s').passStall c.t c.e.s.toNat fresh).goTo c.t c.next
  | .jump s' pc => (s'.passStall c.t c.e.s.toNat []).goTo c.t pc
  | .wait s' w counts =>
      let s' := if uniformOp c.op c.e && counts then (s'.countOccurrence c.t c.th.pc true).holdDest c (resultCodes c.op c.e (s.width c.tm)) else s'
      (s'.passStall c.t c.e.s.toNat []).block c.t w c.next
  | .trap info => ((s.issued c.t).raise c.t info (if info.code = 0x20 then c.next else c.th.pc)).trapStall c.t c.e
  | .handled s' => s'

/-- The issuing thread with the instruction and the registers as it reads them (R143), and the state in which its effect starts. DESIGN CHOICE (log
entry 121): after an instruction that ends at byte 2^28 of a full slot 0, the next one is at offset 0 of slot 1. -/
def State.ctx (s : State) (op : Nat) (e : Ext) (ws : List W32) : Option (Ctx × State) :=
  match s.current with
  | none => none
  | some t =>
    match s.team t.team, s.thread t with
    | some tm, some th => some ({ t, op, e, ws, tm, th, r := s.readView t tm th op e, next := th.pc + BitVec.ofNat 32 (4 * ws.length) }, s)
    | _, _ => none

/-- R357: the targets of an indirect transfer are noted for all threads of the group, also for one that does not come to issue because its team has
ended. -/
def Ctx.noteTargets (c : Ctx) (s : State) : State :=
  if c.op = 0x43 || c.op = 0x44 then
    (s.indirectTargets c.op c.e).foldl (fun (s : State) x => s.modThread x.1 fun th => { th with target := some (s.clk, x.2) }) s
  else s

/-- One thread issues one instruction: the causes at issue in the order of their codes (R350), the guard (R10), the occurrence
of a team-uniform instruction (R44), the instruction's own effect, and the stall count (R141). `onFalse` is what a false guard
does (a collective is joined, R177). DESIGN CHOICE (log entry 86): a fixed-latency result in an s register is late (R141, R143) for the
thread that performed the occurrence; the team's other threads read the new value. A thread that issues an occurrence performed already has what
it awaited in those registers overwritten (R141). -/
def issue (op : Nat) (e : Ext) (ws : List W32) (body : Ctx → State → Effect) (s : State) (onFalse : Ctx → State → Effect := fun _ s => .done s) :
    Host.Outcome State Fault Refusal :=
  match s.ctx op e ws with
  | none => .fault .noIssuingThread
  | some (c, s) =>
    let active := guardTrue e c.r.p
    .next (State.advance (match lowest (c.causes s active) with
      | some info => (((c.noteTargets s).issued c.t).raise c.t info c.th.pc).trapStall c.t e
      | none =>
        let s := c.noteTargets s
        if !active then c.settle s [] (onFalse c s)
        else if uniformOp op e && performedAlready c.tm c.th then
          (((s.modThread c.t fun th => th.overwrite (resultCodes op e (s.width c.tm))).countOccurrence c.t c.th.pc false).passStall c.t e.s.toNat []).goTo c.t c.next
        else c.settle s (c.freshLate s) (body c s)))

/-! ## Readiness (R37, R142) -/

/-- The opcode and fields of the instruction at a thread's PC. -/
def State.upcoming (s : State) (t : TRef) : Option (Nat × Ext) :=
  match s.fetch t with
  | .error _ => none
  | .ok (_, bytes) =>
    match decode bytes with
    | .error _ => none
    | .ok (i, _) =>
      match i.view with
      | .base op b => some (op, b.toExt op none)
      | .words op w => some (op, w.toExt op)
      | .event => none

/-- R142, R265, R356: the thread's next instruction waits for a register, a log entry or a logged access. `counts` admits one whose
occurrence the team has performed already, which only counts (R44). -/
def State.heldBack (s : State) (t : TRef) (tm : Team) (th : Thread) (counts : Bool) : Bool :=
  match s.upcoming t with
  | none => false
  | some (op, e) =>
    (scoreboarded op e tm th (s.width tm) && !(counts && uniformOp op e && performedAlready tm th)) || logFull op th || collectiveHeld op th || th.awaitsAtom
      || s.engineHeld op (s.engineCore op tm t.tid)

/-- R37, R66, R142: the thread awaits a result or an access, though it is in no wait of its own. -/
def State.awaitsResult (s : State) (t : TRef) : Bool :=
  match s.team t.team, s.thread t with
  | some tm, some th => !th.exited && th.wait.isNone && match s.upcoming t with
    | some (op, e) => scoreboarded op e tm th (s.width tm) || collectiveHeld op th || th.awaitsAtom
    | none => false
  | _, _ => false

/-- R37, R40: the thread awaits a result that the L1 has not returned. -/
def State.awaitsL2 (s : State) (t : TRef) : Bool :=
  match s.team t.team, s.thread t with
  | some tm, some th => !th.exited && th.wait.isNone && match s.upcoming t with
    | some (op, e) => awaitsFar op e tm th (s.width tm) || (collectiveHeld op th && th.log.any fun en => en.busy && !en.fromL1) || th.awaitsAtom
    | none => false
  | _, _ => false

/-- The words of an instruction that is not a base row. -/
def wordsOf (op : Nat) : Words → List W32
  | .ext e => match e.lit with
    | none => [extWord0 1 op e, extWord1 e, extWord2 e]
    | some l => [extWord0 3 op e, extWord1 e, extWord2 e, l.extractLsb' 0 32, l.extractLsb' 32 32]
  | .baseLit b l => [baseWord 2 op b, l.extractLsb' 0 32, l.extractLsb' 32 32]

/-- Issue of a base row (L = 00). -/
def issueBase (op : Nat) (b : Base) (body : Ctx → State → Effect) (s : State) : Host.Outcome State Fault Refusal :=
  issue op (b.toExt op none) [baseWord 0 op b] body s
/-- Issue of any other row. -/
def issueWords (op : Nat) (w : Words) (body : Ctx → State → Effect) (s : State) (onFalse : Ctx → State → Effect := fun _ s => .done s) :
    Host.Outcome State Fault Refusal :=
  issue op (w.toExt op) (wordsOf op w) body s onFalse

end Sys2Proof.Machine
end

