-- ==== Sys2Proof/Machine/Int.lean ====
section
/-!
DEFINITION. Integer arithmetic, logic, shifts and bit fields (R153-R158).
-/
namespace Sys2Proof.Machine

/-! ## Integers of a type (R154) -/

/-- n of R154: 64 for the 64-bit types and 32 for the others. -/
def intBits (e : Ext) : Nat := if e.ty = 6 ∨ e.ty = 10 then 64 else 32
/-- R154: i32 and i64 are read as signed. -/
def intSigned (e : Ext) : Bool := e.ty = 5 || e.ty = 6
/-- R154: an operand as an integer. -/
def readInt (e : Ext) (w : Nat) : Int := if intSigned e then signedOf (intBits e) w else (w : Int)
/-- R154: sat_T. -/
def satInt (signed : Bool) (n : Nat) (x : Int) : Int :=
  if signed then max (-(2 ^ (n - 1) : Nat)) (min x ((2 ^ (n - 1) : Nat) - 1)) else max 0 (min x ((2 ^ n : Nat) - 1))
/-- R154: the low n bits of an integer. -/
def lowBits (n : Nat) (x : Int) : Nat := (x % (2 ^ n : Nat)).toNat
/-- R154: clamp or wrap. -/
def narrowInt (e : Ext) (x : Int) : Nat :=
  lowBits (intBits e) (if e.sat then satInt (intSigned e) (intBits e) x else x)

/-- R154: an integer result of the operands A, B and C. -/
def arith (f : Int → Int → Int → Int) (hasC : Bool) (c : Ctx) (s : State) : Effect :=
  let n := intBits c.e
  let a := readInt c.e (c.val c.e.a n)
  let b := readInt c.e (c.r.valImm c.e hasC n)
  let k := if hasC then readInt c.e (c.val c.e.c n) else 0
  .done (c.wr s n (signedType c.e.ty) (narrowInt c.e (f a b k)))

/-- R154: the high half of the 2n-bit product. -/
def mulhBody (c : Ctx) (s : State) : Effect := arith (fun a b _ => a * b / (2 ^ intBits c.e : Nat)) false c s
/-- R155. -/
def divideInt (signed : Bool) (n : Nat) (a b : Int) : Int :=
  if b = 0 then (if signed then -1 else (2 ^ n : Nat) - 1) else a.tdiv b
def remainderInt (a b : Int) : Int := if b = 0 then a else a.tmod b
def divBody (c : Ctx) (s : State) : Effect := arith (fun a b _ => divideInt (intSigned c.e) (intBits c.e) a b) false c s
def remBody (c : Ctx) (s : State) : Effect := arith (fun a b _ => remainderInt a b) false c s
/-- R154: |a|; the instruction has no B. -/
def absBody (c : Ctx) (s : State) : Effect :=
  .done (c.wr s (intBits c.e) (signedType c.e.ty) (narrowInt c.e ((readInt c.e (c.val c.e.a (intBits c.e))).natAbs)))

def addBody : Ctx → State → Effect := arith (fun a b _ => a + b) false
def subBody : Ctx → State → Effect := arith (fun a b _ => a - b) false
def mulBody : Ctx → State → Effect := arith (fun a b _ => a * b) false
def minBody : Ctx → State → Effect := arith (fun a b _ => if a < b then a else b) false
def maxBody : Ctx → State → Effect := arith (fun a b _ => if a > b then a else b) false

/-! ## Logic and bits (R157) -/

/-- R157: a bit result of the n-bit operands A and B. -/
def bitwise (f : Nat → Nat → Nat → Nat) (c : Ctx) (s : State) : Effect :=
  let n := intBits c.e
  .done (c.wr s n (signedType c.e.ty) (f n (c.val c.e.a n) (c.r.valImm c.e false n) % 2 ^ n))

def andBits (_ a b : Nat) : Nat := a &&& b
def orBits (_ a b : Nat) : Nat := a ||| b
def xorBits (_ a b : Nat) : Nat := a ^^^ b
def andnBits (n a b : Nat) : Nat := a &&& (2 ^ n - 1 - b)
def shlBits (n a b : Nat) : Nat := a * 2 ^ (b % n)
def shrBits (n a b : Nat) : Nat := a / 2 ^ (b % n)
def sarBits (n a b : Nat) : Nat := lowBits n (signedOf n a / (2 ^ (b % n) : Nat))
def rotBits (n a b : Nat) : Nat := a * 2 ^ (b % n) % 2 ^ n + a / 2 ^ (n - b % n)

/-- The bits of a number below n, lowest first. -/
def bitsOf : Nat → Nat → List Bool
  | 0, _ => []
  | n + 1, w => (w % 2 = 1) :: bitsOf n (w / 2)
def ofBits : List Bool → Nat
  | [] => 0
  | b :: bs => (if b then 1 else 0) + 2 * ofBits bs

def popcBits (n a : Nat) : Nat := (bitsOf n a).countP id
def clzBits (n a : Nat) : Nat := ((bitsOf n a).reverse.takeWhile (!·)).length
def brevBits (n a : Nat) : Nat := ofBits (bitsOf n a).reverse

def unaryBits (f : Nat → Nat → Nat) (c : Ctx) (s : State) : Effect :=
  let n := intBits c.e
  .done (c.wr s n (signedType c.e.ty) (f n (c.val c.e.a n)))

/-! ## Bit fields (R158) -/

def fieldPos (desc : Nat) : Nat := desc % 64
def fieldLen (n desc : Nat) : Nat := min (desc / 256 % 128) n

/-- R158, bfx. -/
def extractField (signed : Bool) (n a desc : Nat) : Nat :=
  let len := fieldLen n desc
  let f := a / 2 ^ fieldPos desc % 2 ^ len
  if len = 0 then 0 else if signed then lowBits n (signedOf len f) else f

/-- R158, bfi: field bits beyond n - 1 do not exist. -/
def insertField (n d a desc : Nat) : Nat :=
  let pos := fieldPos desc
  let len := min (fieldLen n desc) (n - pos)
  if len = 0 then d else d % 2 ^ pos + a % 2 ^ len * 2 ^ pos + d / 2 ^ (pos + len) * 2 ^ (pos + len)

def bfxBody (c : Ctx) (s : State) : Effect :=
  let n := intBits c.e
  .done (c.wr s n (signedType c.e.ty) (extractField (intSigned c.e) n (c.val c.e.a n) (c.r.valImm c.e false 32)))
def bfiBody (c : Ctx) (s : State) : Effect :=
  let n := intBits c.e
  .done (c.wr s n (signedType c.e.ty) (insertField n (c.val c.e.d n) (c.val c.e.a n) (c.r.valImm c.e false 32)))

/-! ## The instructions -/

/-- R154. -/
def execAddBase (b : Base) (s : State) := issueBase 0x01 b addBody s
/-- R154. -/
def execAdd (w : Words) (s : State) := issueWords 0x01 w addBody s
/-- R154. -/
def execSubBase (b : Base) (s : State) := issueBase 0x02 b subBody s
/-- R154. -/
def execSub (w : Words) (s : State) := issueWords 0x02 w subBody s
/-- R154. -/
def execMulBase (b : Base) (s : State) := issueBase 0x03 b mulBody s
/-- R154. -/
def execMul (w : Words) (s : State) := issueWords 0x03 w mulBody s
/-- R154. -/
def execMulh (w : Words) (s : State) := issueWords 0x04 w mulhBody s
/-- R154: one exact value, one step. -/
def execMad (w : Words) (s : State) := issueWords 0x05 w (arith (fun a b k => a * b + k) true) s
/-- R155. -/
def execDiv (w : Words) (s : State) := issueWords 0x06 w divBody s
/-- R155. -/
def execRem (w : Words) (s : State) := issueWords 0x07 w remBody s
/-- R154. -/
def execMinBase (b : Base) (s : State) := issueBase 0x15 b minBody s
/-- R154. -/
def execMin (w : Words) (s : State) := issueWords 0x15 w minBody s
/-- R154. -/
def execMaxBase (b : Base) (s : State) := issueBase 0x16 b maxBody s
/-- R154. -/
def execMax (w : Words) (s : State) := issueWords 0x16 w maxBody s
/-- R154. -/
def execAbs (w : Words) (s : State) := issueWords 0x17 w absBody s
/-- R157. -/
def execAndBase (b : Base) (s : State) := issueBase 0x08 b (bitwise andBits) s
/-- R157. -/
def execAnd (w : Words) (s : State) := issueWords 0x08 w (bitwise andBits) s
/-- R157. -/
def execOrBase (b : Base) (s : State) := issueBase 0x09 b (bitwise orBits) s
/-- R157. -/
def execOr (w : Words) (s : State) := issueWords 0x09 w (bitwise orBits) s
/-- R157. -/
def execXorBase (b : Base) (s : State) := issueBase 0x0A b (bitwise xorBits) s
/-- R157. -/
def execXor (w : Words) (s : State) := issueWords 0x0A w (bitwise xorBits) s
/-- R157. -/
def execAndnBase (b : Base) (s : State) := issueBase 0x0B b (bitwise andnBits) s
/-- R157. -/
def execAndn (w : Words) (s : State) := issueWords 0x0B w (bitwise andnBits) s
/-- R157. -/
def execShlBase (b : Base) (s : State) := issueBase 0x0C b (bitwise shlBits) s
/-- R157. -/
def execShl (w : Words) (s : State) := issueWords 0x0C w (bitwise shlBits) s
/-- R157. -/
def execShrBase (b : Base) (s : State) := issueBase 0x0D b (bitwise shrBits) s
/-- R157. -/
def execShr (w : Words) (s : State) := issueWords 0x0D w (bitwise shrBits) s
/-- R157. -/
def execSarBase (b : Base) (s : State) := issueBase 0x0E b (bitwise sarBits) s
/-- R157. -/
def execSar (w : Words) (s : State) := issueWords 0x0E w (bitwise sarBits) s
/-- R157. -/
def execRot (w : Words) (s : State) := issueWords 0x0F w (bitwise rotBits) s
/-- R157. -/
def execPopc (w : Words) (s : State) := issueWords 0x10 w (unaryBits popcBits) s
/-- R157. -/
def execClz (w : Words) (s : State) := issueWords 0x11 w (unaryBits clzBits) s
/-- R157. -/
def execBrev (w : Words) (s : State) := issueWords 0x12 w (unaryBits brevBits) s
/-- R158. -/
def execBfx (w : Words) (s : State) := issueWords 0x13 w bfxBody s
/-- R158. -/
def execBfi (w : Words) (s : State) := issueWords 0x14 w bfiBody s

end Sys2Proof.Machine
end

