-- ==== Sys2Proof/Machine/Real.lean ====
section
/-!
DEFINITION. Floating-point formats and exact arithmetic (R92-R96): values as exact dyadic numbers, the rounding of R95,
sums and products with the rules of R93, and the correctly rounded functions of R171, R172.
-/
namespace Sys2Proof.Machine

/-! ## Formats -/

/-- R92, R95: fraction bits, exponent bits, EMIN and EMAX; P is the fraction bits plus 1. -/
structure Fmt where
  frac : Nat
  expo : Nat
  emin : Int
  emax : Int
  deriving DecidableEq, Repr

def F32 : Fmt := { frac := 23, expo := 8, emin := -126, emax := 127 }
def F16 : Fmt := { frac := 10, expo := 5, emin := -14, emax := 15 }
def BF16 : Fmt := { frac := 7, expo := 8, emin := -126, emax := 127 }

/-- A value: NaN, an infinity, or (-1)^neg times m times 2^x. -/
inductive FVal where
  | nan
  | inf (neg : Bool)
  | fin (neg : Bool) (m : Nat) (x : Int)
  deriving DecidableEq, Repr

def Fmt.expMask (f : Fmt) : Nat := 2 ^ f.expo - 1
/-- The sign bit at its place. -/
def Fmt.signBit (f : Fmt) (neg : Bool) : Nat := if neg then 2 ^ (f.frac + f.expo) else 0
/-- R93. -/
def Fmt.canonicalNaN (f : Fmt) : Nat := f.expMask * 2 ^ f.frac + 2 ^ (f.frac - 1)
def Fmt.infinity (f : Fmt) (neg : Bool) : Nat := f.signBit neg + f.expMask * 2 ^ f.frac
def Fmt.largest (f : Fmt) (neg : Bool) : Nat := f.infinity neg - 1
def Fmt.negative (f : Fmt) (w : Nat) : Bool := w / 2 ^ (f.frac + f.expo) % 2 = 1
def Fmt.expField (f : Fmt) (w : Nat) : Nat := w / 2 ^ f.frac % 2 ^ f.expo
def Fmt.fracField (f : Fmt) (w : Nat) : Nat := w % 2 ^ f.frac

/-- R92, R93: the value of a bit pattern; subnormals at their exact value. -/
def Fmt.decode (f : Fmt) (w : Nat) : FVal :=
  let neg := f.negative w
  let e := f.expField w
  let k := f.fracField w
  if e = f.expMask then (if k = 0 then .inf neg else .nan)
  else if e = 0 then .fin neg k (f.emin - f.frac)
  else .fin neg (k + 2 ^ f.frac) (f.emin - f.frac + (e - 1 : Nat))

/-! ## Rounding (R94, R95) -/

/-- R95: whether the truncated magnitude goes up by one unit. -/
def roundsUp (m : Rnd) (neg : Bool) (odd aboveHalf atHalf inexact : Bool) : Bool :=
  match m with
  | .rne => aboveHalf || (atHalf && odd)
  | .rz => false
  | .rd => inexact && neg
  | .ru => inexact && !neg

/-- R95: the integer nearest to m times 2^x under a mode, with sticky input; its sign is `neg`. -/
def roundUnits (md : Rnd) (neg : Bool) (m : Nat) (x : Int) (st : Bool) : Nat :=
  if 0 ≤ x then
    let n := m * 2 ^ x.toNat
    if roundsUp md neg (n % 2 = 1) false false st then n + 1 else n
  else
    let d := 2 ^ (-x).toNat
    let n := m / d
    let t := m % d
    if roundsUp md neg (n % 2 = 1) (d < 2 * t || (d = 2 * t && st)) (d = 2 * t && !st) (t ≠ 0 || st) then n + 1 else n

/-- R95: round_fmt of (-1)^neg m 2^x with sticky input st. -/
def Fmt.round (f : Fmt) (md : Rnd) (neg : Bool) (m : Nat) (x : Int) (st : Bool := false) : Nat :=
  if m = 0 then f.signBit neg
  else
    let e := max ((Nat.log2 m : Int) + x) f.emin
    let n := roundUnits md neg m (x - (e - f.frac)) st
    let e := if n = 2 ^ (f.frac + 1) then e + 1 else e
    let n := if n = 2 ^ (f.frac + 1) then 2 ^ f.frac else n
    if f.emax < e then
      (match md, neg with
       | .rne, _ | .ru, false | .rd, true => f.infinity neg
       | _, _ => f.largest neg)
    else if n < 2 ^ f.frac then f.signBit neg + n
    else f.signBit neg + (e - f.emin + 1).toNat * 2 ^ f.frac + (n - 2 ^ f.frac)

/-- R93, R95: the bits of a value rounded to a format. -/
def Fmt.ofVal (f : Fmt) (md : Rnd) : FVal → Nat
  | .nan => f.canonicalNaN
  | .inf neg => f.infinity neg
  | .fin neg m x => f.round md neg m x

/-- R96, R168: .sat replaces an infinity by the largest finite value of its sign. -/
def Fmt.saturate (f : Fmt) (sat : Bool) (w : Nat) : Nat :=
  if sat && w % 2 ^ (f.frac + f.expo) = f.infinity false then f.largest (f.negative w) else w

/-! ## Exact arithmetic -/

def FVal.negate : FVal → FVal
  | .nan => .nan
  | .inf s => .inf !s
  | .fin s m x => .fin (!s) m x
def FVal.isNaN : FVal → Bool
  | .nan => true
  | _ => false
def FVal.isZero : FVal → Bool
  | .fin _ 0 _ => true
  | _ => false

/-- R93, R100: the exact product. -/
def FVal.mul : FVal → FVal → FVal
  | .nan, _ | _, .nan => .nan
  | .inf s, .inf t => .inf (s != t)
  | .inf s, .fin t m _ | .fin t m _, .inf s => if m = 0 then .nan else .inf (s != t)
  | .fin s m x, .fin t n y => .fin (s != t) (m * n) (x + y)

/-- A finite value in units of 2^x, exact when x is at most its own exponent. -/
def FVal.units (x : Int) : FVal → Int
  | .fin s m y => (if s then -1 else 1) * (m * 2 ^ (y - x).toNat : Nat)
  | _ => 0
/-- The exponent of a finite value. -/
def FVal.exponent : FVal → Int
  | .fin _ _ x => x
  | _ => 0

/-- The signs of the infinities of a list. -/
def infSigns (l : List FVal) : List Bool := l.filterMap fun v => match v with | .inf s => some s | _ => none

/-- An exact integer in units of 2^x as a value; `zeroNeg` is the sign of an exact zero. -/
def ofUnits (n : Int) (x : Int) (zeroNeg : Bool) : FVal :=
  if n = 0 then .fin zeroNeg 0 x else .fin (decide (n < 0)) n.natAbs x

/-- R93: the sign of an exact zero sum: that of the terms when all are zeros of one sign, else - under RD and + otherwise. -/
def zeroSign (md : Rnd) (l : List FVal) : Bool :=
  if l.all (fun v => match v with | .fin false 0 _ => true | _ => false) then false
  else if l.all (fun v => match v with | .fin true 0 _ => true | _ => false) then true
  else md = .rd

/-- R93, R168, R169, R182: the exact sum of a non-empty list. -/
def exactSum (md : Rnd) (l : List FVal) : FVal :=
  if l.any (·.isNaN) then .nan
  else
    match infSigns l with
    | s :: ss => if ss.all (· = s) then .inf s else .nan
    | [] =>
      let x := l.foldl (fun m v => min m v.exponent) (match l with | v :: _ => v.exponent | [] => 0)
      ofUnits (l.foldl (fun a v => a + v.units x) 0) x (zeroSign md l)

/-- Comparison of two values that are not NaN, zeros equal: -1, 0 or 1. -/
def FVal.compare (a b : FVal) : Int :=
  match a, b with
  | .inf s, .inf t => if s = t then 0 else if s then -1 else 1
  | .inf s, _ => if s then -1 else 1
  | _, .inf t => if t then 1 else -1
  | _, _ =>
    let x := min a.exponent b.exponent
    (a.units x - b.units x).sign

/-! ## Roots and reciprocals (R171) -/

/-- The integer square root, bit by bit: the largest r with r * r at most n, of at most `k` bits above those of `r`. -/
def isqrtFrom (n : Nat) : Nat → Nat → Nat
  | 0, r => r
  | k + 1, r => isqrtFrom n k (if (r + 2 ^ k) * (r + 2 ^ k) ≤ n then r + 2 ^ k else r)
def isqrt (n : Nat) : Nat := isqrtFrom n (Nat.log2 n / 2 + 1) 0

/-- Bits kept beyond the operand's own before rounding. -/
def spare : Nat := 40

/-- R171: the reciprocal of m 2^x, rounded once. -/
def Fmt.recip (f : Fmt) (md : Rnd) (neg : Bool) (m : Nat) (x : Int) : Nat :=
  let k := Nat.log2 m + spare
  f.round md neg (2 ^ k / m) (-(k : Int) - x) (2 ^ k % m ≠ 0)

/-- R171: the square root of m 2^x. -/
def Fmt.root (f : Fmt) (md : Rnd) (m : Nat) (x : Int) : Nat :=
  let k := 2 * spare + (if x % 2 = 0 then 0 else 1)
  let n := m * 2 ^ k
  let r := isqrt n
  f.round md false r ((x - k) / 2) (r * r ≠ n)

/-- R171: the reciprocal square root of m 2^x. -/
def Fmt.recipRoot (f : Fmt) (md : Rnd) (m : Nat) (x : Int) : Nat :=
  let m' := if x % 2 = 0 then m else 2 * m
  let y := if x % 2 = 0 then x else x - 1
  let k := Nat.log2 m + spare
  let r := isqrt (2 ^ (2 * k) / m')
  f.round md false r (-(k : Int) - y / 2) (r * r * m' ≠ 2 ^ (2 * k))

/-! ## 2^x, log2 x and tanh x (R171)

The exact value is computed in fixed point with `prec` fraction bits, far more than decides the rounding of any f32 input
(log entry 14), and rounded once. -/

def prec : Nat := 320
def one : Nat := 2 ^ prec

/-- Sum over odd j of r^j / j, in fixed point: atanh r. `p` is the power r^j. -/
def atanhSeries (r2 : Nat) : Nat → Nat → Nat → Nat
  | 0, _, _ => 0
  | k + 1, j, p => p / j + atanhSeries r2 k (j + 2) (p * r2 / one)
/-- ln of a number in fixed point that is at least 1 and below 2. -/
def lnFixed (z : Nat) : Nat :=
  let r := (z - one) * one / (z + one)
  2 * atanhSeries (r * r / one) 110 1 r
def ln2 : Nat := 2 * atanhSeries (one / 9) 110 1 (one / 3)

/-- Taylor's series of e^y in fixed point, from its j-th term `t`. -/
def expSeries (y : Nat) : Nat → Nat → Nat → Nat
  | 0, _, _ => 0
  | k + 1, j, t => t + expSeries y k (j + 1) (t * y / one / (j + 1))
/-- e^y for y in [0, 1). -/
def expFixed (y : Nat) : Nat := expSeries y 80 0 one
/-- e^y for y in [0, 32): the 32nd power of e^(y/32). -/
def squareFixed : Nat → Nat → Nat
  | 0, u => u
  | k + 1, u => squareFixed k (u * u / one)
def expWide (y : Nat) : Nat := squareFixed 5 (expFixed (y / 32))

/-- A magnitude m 2^x in fixed point, truncated. -/
def toFixed (m : Nat) (x : Int) : Nat := if 0 ≤ x + prec then m * 2 ^ (x + prec).toNat else m / 2 ^ (-(x + prec)).toNat

/-- R171, R172: 2^v. -/
def exp2Bits (v : FVal) : Nat :=
  match v with
  | .nan => F32.canonicalNaN
  | .inf s => if s then 0 else F32.infinity false
  | .fin s m x =>
    if m = 0 then F32.round .rne false 1 0
    else if 9 ≤ (Nat.log2 m : Int) + x then (if s then 0 else F32.infinity false)
    else if (Nat.log2 m : Int) + x < -60 then F32.round .rne false (if s then 2 ^ 60 - 1 else 2 ^ 60) (-60) true
    else
      let y := toFixed m x
      let whole : Int := (if s then -(y : Int) else (y : Int)) / (one : Int)
      let part : Nat := ((if s then -(y : Int) else (y : Int)) % (one : Int)).toNat
      if part = 0 then F32.round .rne false 1 whole
      else F32.round .rne false (expFixed (part * ln2 / one)) (whole - prec) true

/-- R171, R172: log2 v. -/
def log2Bits (v : FVal) : Nat :=
  match v with
  | .nan => F32.canonicalNaN
  | .inf s => if s then F32.canonicalNaN else F32.infinity false
  | .fin s m x =>
    if m = 0 then F32.infinity true
    else if s then F32.canonicalNaN
    else
      let k := Nat.log2 m
      let whole : Int := k + x
      let z := m * one / 2 ^ k
      if z = one then F32.round .rne (decide (whole < 0)) whole.natAbs 0
      else
        let l : Int := whole * one + (lnFixed z * one / ln2 : Nat)
        F32.round .rne (decide (l < 0)) l.natAbs (-(prec : Int)) true

/-- R171, R172: tanh v. -/
def tanhBits (v : FVal) : Nat :=
  match v with
  | .nan => F32.canonicalNaN
  | .inf s => F32.round .rne s 1 0
  | .fin s m x =>
    if m = 0 then F32.signBit s
    else if 5 ≤ (Nat.log2 m : Int) + x then F32.round .rne s 1 0
    else if (Nat.log2 m : Int) + x < -40 then F32.round .rne s (m * 2 ^ 64 - 1) (x - 64) true
    else if 16 * one ≤ toFixed m x then F32.round .rne s 1 0
    else
      let u := expWide (2 * toFixed m x)
      F32.round .rne s ((u - one) * one / (u + one)) (-(prec : Int)) true

end Sys2Proof.Machine
end

