-- ==== Sys2Proof/Machine/Float.lean ====
section
/-!
DEFINITION. The floating-point instructions (R166-R175).
-/
namespace Sys2Proof.Machine

/-- R139: the element format of a floating-point type, and whether it is a pair. -/
def fmtOf (ty : BitVec 5) : Fmt :=
  match ty.toNat with
  | 1 | 17 => F16
  | 2 | 16 => BF16
  | _ => F32
def isPair (ty : BitVec 5) : Bool := ty = 16 || ty = 17

/-- R166: apply an operation to each element: the two halves of a pair, bits [15:0] of a 16-bit type, the word of f32. -/
def perElement (ty : BitVec 5) (f : Nat → Nat → Nat → Nat) (a b c : Nat) : Nat :=
  if isPair ty then f (a % 65536) (b % 65536) (c % 65536) + 65536 * f (a / 65536 % 65536) (b / 65536 % 65536) (c / 65536 % 65536)
  else if ty = 0 then f a b c
  else f (a % 65536) (b % 65536) (c % 65536)

/-- R168: an exact operation on each element, rounded once. -/
def farith (f : Rnd → FVal → FVal → FVal → FVal) (hasC : Bool) (c : Ctx) (s : State) : Effect :=
  let F := fmtOf c.e.ty
  let el (x y z : Nat) := F.saturate c.e.sat (F.ofVal c.e.rnd (f c.e.rnd (F.decode x) (F.decode y) (F.decode z)))
  .done (c.wr s 32 false (perElement c.e.ty el (c.val c.e.a 32) (c.r.valLit c.e 32) (if hasC then c.val c.e.c 32 else 0)))

def faddBody : Ctx → State → Effect := farith (fun md a b _ => exactSum md [a, b]) false
def fsubBody : Ctx → State → Effect := farith (fun md a b _ => exactSum md [a, b.negate]) false
def fmulBody : Ctx → State → Effect := farith (fun _ a b _ => a.mul b) false
def ffmaBody : Ctx → State → Effect := farith (fun md a b c => exactSum md [a.mul b, c]) true

/-- R169. -/
def dotPair (F : Fmt) (md : Rnd) (a b c : Nat) : FVal :=
  exactSum md [(F.decode (a % 65536)).mul (F.decode (b % 65536)), (F.decode (a / 65536 % 65536)).mul (F.decode (b / 65536 % 65536)), F32.decode c]
def ffma2Body (c : Ctx) (s : State) : Effect :=
  .done (c.wr s 32 false (F32.saturate c.e.sat (F32.ofVal c.e.rnd
    (dotPair (fmtOf c.e.ty) c.e.rnd (c.val c.e.a 32) (c.r.valLit c.e 32) (c.val c.e.c 32)))))

/-- R170: -0 is less than +0; a single NaN gives the other element. -/
def fless (F : Fmt) (x y : Nat) : Bool :=
  let d := (F.decode x).compare (F.decode y)
  d < 0 || (d = 0 && F.negative x && !F.negative y)
def fminmax (F : Fmt) (greater : Bool) (x y : Nat) : Nat :=
  if (F.decode x).isNaN then (if (F.decode y).isNaN then F.canonicalNaN else y)
  else if (F.decode y).isNaN then x
  else if fless F x y = greater then y else x

def fminmaxBody (greater : Bool) (c : Ctx) (s : State) : Effect :=
  .done (c.wr s 32 false (perElement c.e.ty (fun x y _ => fminmax (fmtOf c.e.ty) greater x y) (c.val c.e.a 32) (c.r.valLit c.e 32) 0))

/-- R145, R170. -/
def fcondHolds (fn : Nat) (a b : FVal) : Bool :=
  let nan := a.isNaN || b.isNaN
  match fn with
  | 0 => !nan && a.compare b = 0
  | 1 => nan || a.compare b ≠ 0
  | 2 => !nan && a.compare b < 0
  | 3 => !nan && a.compare b ≤ 0
  | 4 => !nan && 0 < a.compare b
  | 5 => !nan && 0 ≤ a.compare b
  | 6 => nan
  | _ => !nan

/-- R166: the bits of a single element of a type. -/
def elementBits (ty : BitVec 5) (w : Nat) : Nat := if ty = 0 then w else w % 65536

def fcmpBody (c : Ctx) (s : State) : Effect :=
  let F := fmtOf c.e.ty
  .done (s.wrPred c.t c.e.d (fcondHolds c.e.fn.toNat (F.decode (elementBits c.e.ty (c.val c.e.a 32))) (F.decode (elementBits c.e.ty (c.r.valLit c.e 32)))))

/-! ## Functions of one operand (R171, R172) -/

/-- R172, frcp. -/
def rcpBits (F : Fmt) (md : Rnd) : FVal → Nat
  | .nan => F.canonicalNaN
  | .inf s => F.signBit s
  | .fin s m x => if m = 0 then F.infinity s else F.recip md s m x
/-- R172, fsqrt. -/
def sqrtBits (F : Fmt) (md : Rnd) : FVal → Nat
  | .nan => F.canonicalNaN
  | .inf s => if s then F.canonicalNaN else F.infinity false
  | .fin s m x => if m = 0 then F.signBit s else if s then F.canonicalNaN else F.root md m x
/-- R172, frsq, in f32. -/
def rsqBits : FVal → Nat
  | .nan => F32.canonicalNaN
  | .inf s => if s then F32.canonicalNaN else 0
  | .fin s m x => if m = 0 then F32.infinity s else if s then F32.canonicalNaN else F32.recipRoot .rne m x

/-- R171: an f32 result rounded to the type under RNE. -/
def viaF32 (F : Fmt) (f : FVal → Nat) (_ : Rnd) (v : FVal) : Nat := F.ofVal .rne (F32.decode (f v))

def funary (f : Fmt → Rnd → FVal → Nat) (c : Ctx) (s : State) : Effect :=
  let F := fmtOf c.e.ty
  .done (c.wr s 32 false (f F c.e.rnd (F.decode (elementBits c.e.ty (c.val c.e.a 32)))))

/-! ## Conversions (R96, R173) -/

def isFloatType (k : Nat) : Bool := k ≤ 2
def isSignedType (k : Nat) : Bool := 3 ≤ k && k ≤ 6
def widthOf (k : Nat) : Nat := typeBits (BitVec.ofNat 5 k)

/-- The integer a value rounds to under a mode. -/
def roundInt (md : Rnd) : FVal → Int
  | .fin s m x => if s then -(roundUnits md s m x false : Int) else (roundUnits md s m x false : Int)
  | _ => 0

/-- R96, float to integer, clamped. -/
def floatToInt (dst : Nat) (md : Rnd) (v : FVal) : Int :=
  match v with
  | .nan => 0
  | .inf s => satInt (isSignedType dst) (widthOf dst) (if s then -(2 ^ 70 : Nat) else (2 ^ 70 : Nat))
  | .fin _ _ _ => satInt (isSignedType dst) (widthOf dst) (roundInt md v)

/-- The integer an operand holds. -/
def sourceInt (src w : Nat) : Int :=
  if isSignedType src then signedOf (widthOf src) w else (w % 2 ^ widthOf src : Nat)

/-- R173: an integer result extended to its register by its own signedness. -/
def extendInt (dst : Nat) (x : Int) : Nat :=
  let w := widthOf dst
  let y := lowBits w x
  if isSignedType dst ∧ w < 32 then lowBits 32 (signedOf w y) else y

/-- R173. -/
def convertBits (dst src : Nat) (md : Rnd) (sat : Bool) (w : Nat) : Nat :=
  let D := fmtOf (BitVec.ofNat 5 dst)
  let S := fmtOf (BitVec.ofNat 5 src)
  let v := S.decode (if src = 0 then w else w % 65536)
  if isFloatType dst then
    if isFloatType src then D.saturate sat (D.ofVal md v)
    else D.saturate sat (D.ofVal md (ofUnits (sourceInt src w) 0 false))
  else if isFloatType src then extendInt dst (floatToInt dst md v)
  else extendInt dst (if sat then satInt (isSignedType dst) (widthOf dst) (sourceInt src w) else sourceInt src w)

def fcvtBody (c : Ctx) (s : State) : Effect :=
  let n := if widthOf c.e.fn.toNat = 64 ∧ !isFloatType c.e.fn.toNat then 64 else 32
  .done (c.wr s (intBits c.e) (signedType c.e.ty) (convertBits c.e.ty.toNat c.e.fn.toNat c.e.rnd c.e.sat (c.val c.e.a n)))

/-- R174. -/
def classBit (F : Fmt) (w : Nat) : Nat :=
  let neg := F.negative w
  match F.decode w with
  | .inf _ => if neg then 0 else 7
  | .nan => if F.fracField w / 2 ^ (F.frac - 1) = 1 then 8 else 9
  | .fin _ m _ =>
    if m = 0 then (if neg then 3 else 4)
    else if F.expField w = 0 then (if neg then 2 else 5) else if neg then 1 else 6
def fclaBody (c : Ctx) (s : State) : Effect :=
  .done (c.wr s 32 false (2 ^ classBit (fmtOf c.e.ty) (elementBits c.e.ty (c.val c.e.a 32))))

/-- R175. -/
def packHalf (F : Fmt) (md : Rnd) (sat : Bool) (w : Nat) : Nat := F.saturate sat (F.ofVal md (F32.decode w))
def fpkBody (c : Ctx) (s : State) : Effect :=
  let F := fmtOf c.e.ty
  .done (c.wr s 32 false (packHalf F c.e.rnd c.e.sat (c.val c.e.a 32) + 65536 * packHalf F c.e.rnd c.e.sat (c.r.valLit c.e 32)))

/-! ## The instructions -/

/-- R168. -/
def execFaddBase (b : Base) (s : State) := issueBase 0x30 b faddBody s
/-- R168. -/
def execFadd (w : Words) (s : State) := issueWords 0x30 w faddBody s
/-- R168. -/
def execFsubBase (b : Base) (s : State) := issueBase 0x31 b fsubBody s
/-- R168. -/
def execFsub (w : Words) (s : State) := issueWords 0x31 w fsubBody s
/-- R168. -/
def execFmulBase (b : Base) (s : State) := issueBase 0x32 b fmulBody s
/-- R168. -/
def execFmul (w : Words) (s : State) := issueWords 0x32 w fmulBody s
/-- R168. -/
def execFfma (w : Words) (s : State) := issueWords 0x33 w ffmaBody s
/-- R169. -/
def execFfma2 (w : Words) (s : State) := issueWords 0x34 w ffma2Body s
/-- R170. -/
def execFminBase (b : Base) (s : State) := issueBase 0x35 b (fminmaxBody false) s
/-- R170. -/
def execFmin (w : Words) (s : State) := issueWords 0x35 w (fminmaxBody false) s
/-- R170. -/
def execFmaxBase (b : Base) (s : State) := issueBase 0x36 b (fminmaxBody true) s
/-- R170. -/
def execFmax (w : Words) (s : State) := issueWords 0x36 w (fminmaxBody true) s
/-- R170. -/
def execFcmp (w : Words) (s : State) := issueWords 0x37 w fcmpBody s
/-- R171: rounded once to the element format under rnd. -/
def execFrcp (w : Words) (s : State) := issueWords 0x38 w (funary rcpBits) s
/-- R171. -/
def execFrsq (w : Words) (s : State) := issueWords 0x39 w (funary fun F => viaF32 F rsqBits) s
/-- R171: rounded once to the element format under rnd. -/
def execFsqrt (w : Words) (s : State) := issueWords 0x3A w (funary sqrtBits) s
/-- R171. -/
def execFex2 (w : Words) (s : State) := issueWords 0x3B w (funary fun F => viaF32 F exp2Bits) s
/-- R171. -/
def execFlg2 (w : Words) (s : State) := issueWords 0x3C w (funary fun F => viaF32 F log2Bits) s
/-- R171. -/
def execFtanh (w : Words) (s : State) := issueWords 0x3D w (funary fun F => viaF32 F tanhBits) s
/-- R173. -/
def execFcvt (w : Words) (s : State) := issueWords 0x3E w fcvtBody s
/-- R174. -/
def execFcla (w : Words) (s : State) := issueWords 0x3F w fclaBody s
/-- R175. -/
def execFpk (w : Words) (s : State) := issueWords 0x29 w fpkBody s

end Sys2Proof.Machine
end

