-- ==== Sys2Proof/Machine/Collective.lean ====
section
/-!
DEFINITION. Course collectives (R13, R14, R176-R185): the rendezvous records, their closing, and the collective mismatch.
-/
namespace Sys2Proof.Machine

/-! ## Results (R180-R183) -/

/-- R183: the identity of an operation on n-bit values of a type. -/
def identityOf (fn : Nat) (ty : BitVec 5) (n : Nat) : Nat :=
  let signed := ty = 5 || ty = 6
  match fn with
  | 1 => if ty = 0 then F32.infinity false else if signed then 2 ^ (n - 1) - 1 else 2 ^ n - 1
  | 2 => if ty = 0 then F32.infinity true else if signed then 2 ^ (n - 1) else 0
  | 3 => 2 ^ n - 1
  | _ => 0

/-- R145, R154, R170, R210: one operation on two n-bit values, add rounded for f32. -/
def combine (fn : Nat) (ty : BitVec 5) (n : Nat) (rnd : Rnd) (a b : Nat) : Nat :=
  let signed := ty = 5 || ty = 6
  let less := if signed then decide (signedOf n a < signedOf n b) else decide (a < b)
  match fn with
  | 0 => if ty = 0 then F32.ofVal rnd (exactSum rnd [F32.decode a, F32.decode b]) else (a + b) % 2 ^ n
  | 1 => if ty = 0 then fminmax F32 false a b else if less then a else b
  | 2 => if ty = 0 then fminmax F32 true a b else if less then b else a
  | 3 => a &&& b
  | 4 => a ||| b
  | _ => a ^^^ b

/-- R182: an operation over the live values. f32 add is one exact sum rounded once. -/
def reduceAll (fn : Nat) (ty : BitVec 5) (n : Nat) (rnd : Rnd) (l : List Nat) : Nat :=
  match l with
  | [] => identityOf fn ty n
  | x :: xs =>
    if ty = 0 ∧ fn = 0 then F32.ofVal rnd (exactSum rnd (l.map F32.decode))
    else xs.foldl (combine fn ty n rnd) (if ty = 0 && (F32.decode x).isNaN then F32.canonicalNaN else x)

/-- R181: the source lane of shfl, from lane l and operand b. -/
def shflLane (mode l b : Nat) : Option Nat :=
  match mode with
  | 0 => some b
  | 1 => if b ≤ l then some (l - b) else none
  | 2 => some (l + b)
  | _ => some (l ^^^ b)

/-- What a closing record gives the joiner `j`; `lane` numbers tids in the course. -/
def collResult (c : CollRec) (width : Nat) (j : Joiner) : Nat × Nat :=
  let n := if c.ty = 6 ∨ c.ty = 10 then 64 else 32
  match c.opcode with
  | 0x24 => (if width = 64 then 64 else 32, c.live.foldl (fun m k => m + (if k.value = 0 then 0 else 2 ^ (k.tid % width))) 0)
  | 0x25 =>
      let src := (shflLane c.fn.toNat (j.tid % width) j.sel.toNat).bind fun l =>
        if l < width then c.live.find? (fun k => k.tid % width = l) else none
      (n, ((src.map (·.value)).getD j.value).toNat)
  | 0x26 => (n, reduceAll c.fn.toNat c.ty n c.rnd (c.live.map (·.value.toNat)))
  | 0x27 => (n, reduceAll c.fn.toNat c.ty n c.rnd ((c.live.filter (·.tid < j.tid)).map (·.value.toNat)))
  | _ => (0, 0)

/-! ## Records (R177-R179) -/

/-- R177: live threads in ascending tid. -/
def CollRec.sorted (c : CollRec) : CollRec := { c with live := sortBy (fun a b => a.tid ≤ b.tid) c.live }

/-- R177, R178: a record closes: results, timestamps, and every live thread goes on. -/
def State.closeRecord (s : State) (i : Nat) (c : CollRec) : State :=
  match s.team i with
  | none => s
  | some tm =>
    let c := c.sorted
    let w := s.width tm
    let pts := c.live.foldl (fun m j => max m (((tm.threads[j.tid]?).map (·.pts)).getD 0)) 0
    let s := s.modTeam i fun tm => { tm with colls := tm.colls.filter fun k => !(k.course = c.course && k.pc = c.pc) }
    let s := c.live.foldl (fun s j =>
      let t : TRef := { team := i, tid := j.tid }
      let s := if c.opcode = 0x28 then s else s.wr t j.dest (collResult c w j).1 false (collResult c w j).2
      (s.raisePts t pts).resume t) s
    tm.tids.foldl (fun s k =>
      match (tm.threads[k]?).bind Thread.why with
      | some (.collAgain pc) => if pc = c.pc ∧ s.courseOf tm k = c.course then s.resumeAt { team := i, tid := k } pc else s
      | _ => s) s

/-- The collective at which a thread waits. -/
def Thread.atCollective (th : Thread) : Option W32 :=
  match th.why with
  | some (.coll pc) | some (.collAgain pc) => some pc
  | _ => none

/-- R179, R349: code 0x1A for a thread at `pc`; other records of the course are at `others`. -/
def mismatchInfo (pc : W32) (others : List W32) : TrapInfo :=
  plainInfo 0x1A (pc.toNat + (match others.map (·.toNat) with | [] => 0 | k :: ks => ks.foldl min k) * 2 ^ 32)

/-- R177: the threads of a course that have not exited. -/
def State.courseThreads (s : State) (tm : Team) (course : Nat) : List Nat := tm.alive.filter fun k => s.courseOf tm k = course

/-- R177: the records of a course that are complete close. -/
def State.closeComplete (s : State) (i course : Nat) : State :=
  match s.team i with
  | none => s
  | some tm =>
    (tm.colls.filter fun c => c.course = course && !c.joined.isEmpty && (s.courseThreads tm course).all c.joined.contains).foldl (fun s c => s.closeRecord i c) s

/-- R179: if every non-exited thread of the course waits and not all at one record, they all trap. -/
def State.trapMismatch (s : State) (i course : Nat) : State :=
  match s.team i with
  | none => s
  | some tm =>
    let mine := s.courseThreads tm course
    let posts := mine.map fun k => ((tm.threads[k]?).bind (·.atCollective))
    let pcs := posts.filterMap id
    if posts.any (·.isNone) || pcs.all (fun p => some p = pcs.head?) then s
    else
      let records := tm.colls.filter fun c => c.course = course && !c.joined.isEmpty
      mine.foldl (fun s k =>
        let t : TRef := { team := i, tid := k }
        match (s.thread t).bind (·.atCollective) with
        | some pc => s.raise t (mismatchInfo pc ((records.map (·.pc)).filter (· ≠ pc))) pc
        | none => s) s

/-- R177, R179: after a joining, an exit or a wait: complete records close, and then those that are left may have a mismatch. -/
def State.settleCourse (s : State) (i course : Nat) : State := (s.closeComplete i course).trapMismatch i course

/-- R177, step 1: join the open record of the PC, opening one. The instruction that takes effect is that of the live threads, so a live joiner
brings it: where the code at the PC has changed (R192), the record may have been opened under another. -/
def joinRecords (colls : List CollRec) (fresh : CollRec) (tid : Nat) (j : Option Joiner) : List CollRec :=
  let add (c : CollRec) : CollRec :=
    { (if j.isSome then { c with opcode := fresh.opcode, fn := fresh.fn, ty := fresh.ty, rnd := fresh.rnd } else c) with
      joined := c.joined ++ [tid], live := c.live ++ j.toList }
  if colls.any (fun c => c.course = fresh.course ∧ c.pc = fresh.pc) then
    colls.map fun c => if c.course = fresh.course ∧ c.pc = fresh.pc then add c else c
  else colls ++ [add fresh]

/-- R177: a thread issues a collective; `live` is what it presents, none when its guard is false. -/
def collect (live : Ctx → Option Joiner) (c : Ctx) (s : State) : Effect :=
  let course := s.courseOf c.tm c.t.tid
  let pc := c.th.pc
  if c.tm.colls.any (fun k => k.course = course && k.pc = pc && k.joined.contains c.t.tid) then
    .handled (((s.passStall c.t c.e.s.toNat []).block c.t (.collAgain pc) c.next).settleCourse c.t.team course)
  else
    let fresh : CollRec := { course, pc, opcode := c.op, fn := c.e.fn, ty := c.e.ty, rnd := c.e.rnd, joined := [], live := [] }
    let s := s.modTeam c.t.team fun tm => { tm with colls := joinRecords tm.colls fresh c.t.tid (live c) }
    let s := s.passStall c.t c.e.s.toNat []
    match live c with
    | some _ => .handled ((s.block c.t (.coll pc) c.next).settleCourse c.t.team course)
    | none => .handled ((s.goTo c.t c.next).settleCourse c.t.team course)

/-- R181, R182: the value of A and the lane operand. -/
def presentValue (c : Ctx) : Option Joiner :=
  some { tid := c.t.tid, value := BitVec.ofNat 64 (c.val c.e.a (intBits c.e)), sel := BitVec.ofNat 32 (c.r.valImm c.e false 32), dest := c.e.d, next := c.next }
/-- R180. -/
def presentPred (c : Ctx) : Option Joiner :=
  some { tid := c.t.tid, value := if c.r.pred c.e.a then 1 else 0, sel := 0, dest := c.e.d, next := c.next }

/-! ## The instructions -/

/-- R180. -/
def execBallot (w : Words) (s : State) := issueWords 0x24 w (collect presentPred) s (collect fun _ => none)
/-- R181. -/
def execShfl (w : Words) (s : State) := issueWords 0x25 w (collect presentValue) s (collect fun _ => none)
/-- R182. -/
def execCred (w : Words) (s : State) := issueWords 0x26 w (collect presentValue) s (collect fun _ => none)
/-- R183. -/
def execCscan (w : Words) (s : State) := issueWords 0x27 w (collect presentValue) s (collect fun _ => none)
/-- R184. -/
def execCbar (w : Words) (s : State) := issueWords 0x28 w (collect presentPred) s (collect fun _ => none)

end Sys2Proof.Machine
end

