-- ==== Sys2Proof/Machine/Reduce.lean ====
section
/-!
DEFINITION. Reductions (R212-R218): the atomic buffers and their flush points, the pending sets at the homes and the closing of
a region.
-/
namespace Sys2Proof.Machine

/-- Every thread of the module. -/
def State.refs (s : State) : List TRef :=
  (numbers 0 s.teams.length).flatMap fun i => (numbers 0 (((s.team i).map (·.threads.length)).getD 0)).map fun k => { team := i, tid := k }

/-- R115, R116: the thread has made an access, after which its pts is `pts`. -/
def State.setPts (s : State) (t : TRef) (pts : Nat) : State :=
  s.modTeam t.team fun tm =>
    if tm.wave.isSome then { tm with threads := tm.threads.map fun th => { th with pts, quiet := 0 } }
    else tm.modThread t.tid fun th => { th with pts, quiet := 0 }

/-! ## Flush points (R213, R214) -/

/-- R213: the whole buffer of a partition goes, in ascending tid order, to the contributions' homes; what was lost stays for the
flush point at which its thread traps (R371). -/
def State.drainPart (s : State) (core part : Nat) : State :=
  let l := sortBy (fun a b => a.key[2]?.getD 0 ≤ b.key[2]?.getD 0) (((s.core core).part part).reds.filter (!·.bad))
  let s := if l.isEmpty then s else s.modPart core part fun q => { q with reds := q.reds.filter (·.bad) }
  l.foldl (fun s r => s.modContext r.asid fun c => { c with pending := c.pending ++ [r] }) s

/-- R213: a flush point of a thread drains the buffer of its partition. -/
def State.flushPoint (s : State) (t : TRef) : State :=
  match s.team t.team with
  | none => s
  | some tm => if tm.wave.isSome then s else s.drainPart (s.coreOf tm t.tid) (s.partOf tm t.tid)

/-- R371: a contribution of the thread that was lost. -/
def State.lostRed (s : State) (t : TRef) : Option Contribution :=
  match s.team t.team with
  | none => none
  | some tm => (s.cores.flatMap fun x => x.2.parts.flatMap fun y => y.2.reds).find? fun r =>
      r.bad && r.launch = tm.launch && r.key[2]? = some t.tid && r.key[3]? = some tm.tix

/-- R371: it is discarded. -/
def State.dropRed (s : State) (r : Contribution) : State :=
  { s with cores := s.cores.map fun (c, k) => (c, { k with parts := k.parts.map fun (p, q) => (p, { q with reds := q.reds.filter (· ≠ r) }) }) }

/-- R371: an instruction that is a flush point, unless a contribution of the thread was lost: then that traps. -/
def flushes (body : Ctx → State → Effect) (c : Ctx) (s : State) : Effect :=
  match s.lostRed c.t with
  | none => body c s
  | some r => .handled ((s.dropRed r).raise c.t (memFault 0x46 0 r.va) c.th.pc)

/-! ## red (R212) -/

/-- R212: the operand bits of a type. -/
def redBits (e : Ext) : Nat := if e.size = 3 then 64 else 32

/-- R212, R366: the physical word that a red targets. -/
def Ctx.redTarget (c : Ctx) (s : State) : Except TrapInfo (State × Nat) :=
  let ea := c.r.ea c.e c.e.a true
  let n := redBits c.e / 8
  match s.locate (c.agent s) 4 ea n n true with
  | .error f => .error f
  | .ok (s', .phys pa type) => if type = 0 then .ok (s', pa) else .error (memFault 0x44 5 ea.toNat)
  | .ok (_, _) => .error (memFault 0x44 5 ea.toNat)

/-- R212, R213: a full buffer is drained first. -/
def redBody (c : Ctx) (s : State) : Effect :=
  match c.redTarget s with
  | .error f => .trap f
  | .ok (s, pa) =>
    let s := c.revoke s
    let core := s.coreOf c.tm c.t.tid
    let part := s.partOf c.tm c.t.tid
    let r : Contribution :=
      { pa, va := (c.r.ea c.e c.e.a true).toNat, bad := false, op := c.e.fn, ty := c.e.ty, rnd := c.e.rnd, value := BitVec.ofNat 64 (c.val c.e.b (redBits c.e)), region := c.e.c.toNat,
        key := [core, part, c.t.tid, c.tm.tix, c.th.reds], asid := c.tm.asid s, launch := c.tm.launch, pts := c.pts s }
    let s := if ((s.core core).part part).reds.length < 1024 then s else s.drainPart core part
    let s := s.modPart core part fun q => { q with reds := q.reds ++ [r] }
    .done (s.modThread c.t fun th => { th with reds := th.reds + 1 })

/-! ## Closing (R214, R215, R217, R218) -/

/-- R215: one contribution is applied; the timestamp of its write. -/
def State.applyRed (s : State) (r : Contribution) : State × Nat :=
  let n := if r.ty = 6 ∨ r.ty = 10 then 64 else 32
  let l : Loc := .phys r.pa 0
  let new := combine r.op.toNat r.ty n r.rnd (s.peek l (n / 8)) r.value.toNat
  let (s, ts) := s.storeStamp none r.pts l { asid := r.asid, va := r.va, coreid := (r.key.head?).getD 0xFF }
  ((s.poke l (n / 8) new).evaluate l (n / 8) ts, ts)

/-- R215: contributions in ascending order of key; the largest timestamp. -/
def State.applyReds (s : State) (l : List Contribution) : State × Nat :=
  (sortBy (fun a b => keyLe a.key b.key) l).foldl (fun r c => let x := r.1.applyRed c; (x.1, max r.2 x.2)) (s, 0)

/-- R214: the contributions of a region that a home holds. -/
def State.pendingAt (s : State) (slice asid region : Nat) : List Contribution :=
  match s.context asid with
  | none => []
  | some c => c.pending.filter fun r => r.region = region && s.homeOf r.pa = slice

/-- R214, R215: a close at a home takes what was accepted and applies it. -/
def State.closeAt (s : State) (slice asid region : Nat) : State × Nat :=
  let l := s.pendingAt slice asid region
  let s := s.modContext asid fun c => { c with pending := c.pending.filter fun r => !(r.region = region && s.homeOf r.pa = slice) }
  s.applyReds l

/-- R217: the homes that hold contributions of the region, in rising order. -/
def State.homesOf (s : State) (asid region : Nat) : List Nat :=
  match s.context asid with
  | none => []
  | some c => (c.pending.filter (·.region = region)).foldl (fun l r => addNat l (s.homeOf r.pa)) []

/-- R217: the thread waits for every home that has something to apply. -/
def rcloseBody (c : Ctx) (s : State) : Effect :=
  let s := s.flushPoint c.t
  let asid := c.tm.asid s
  let region := c.e.a.toNat
  match s.homesOf asid region with
  | [] => .done s
  | h :: hs => .wait (s.later ((h :: hs).map fun k => .regionCloseAtHome k asid { region, closer := c.t })) (.rclose region (h :: hs)) true

/-- R217, step 4: a home has applied the close. -/
def State.homeClosed (s : State) (t : TRef) (slice asid region pts : Nat) : State :=
  match s.team t.team, s.why t with
  | some tm, some (.rclose r homes) =>
    if r = region ∧ tm.asid s = asid ∧ homes.contains slice then
      let left := homes.filter (· ≠ slice)
      let s := s.raisePts t pts
      if left.isEmpty then s.resume t
      else s.modThread t fun th => { th with wait := th.wait.map fun w => { w with why := .rclose r left } }
    else s
  | _, _ => s

/-- R218: firmware closes every region that holds contributions of a launch, at every home; the largest timestamp of a write. -/
def State.closeLaunch (s : State) (launch : Nat) : State × Nat :=
  match s.launches[launch]? with
  | none => (s, 0)
  | some la =>
    let regions : List Nat := match s.context la.asid with
      | some c => (c.pending.filter (·.launch = launch)).foldl (fun l r => addNat l r.region) []
      | none => []
    regions.foldl (fun r region => (r.1.homesOf la.asid region).foldl (fun (r : State × Nat) home =>
      let x := r.1.closeAt home la.asid region; (x.1, max r.2 x.2)) r) (s, 0)

/-! ## The instructions -/

/-- R212, R213. -/
def execRed (w : Words) (s : State) := issueWords 0x55 w redBody s
/-- R216. -/
def execRflush (w : Words) (s : State) := issueWords 0x56 w (flushes fun c s => .done (s.flushPoint c.t)) s
/-- R217. -/
def execRclose (w : Words) (s : State) := issueWords 0x57 w (flushes rcloseBody) s
/-- R214, R215, R217: a home performs the close of one closer, which has then heard from that home. -/
def execRegionCloseAtHome (slice asid : Nat) (close : Closing) (s : State) : Host.Outcome State Fault Refusal :=
  let r := s.closeAt slice asid close.region
  .next (r.1.homeClosed close.closer slice asid close.region r.2)

end Sys2Proof.Machine
end

