-- ==== Sys2Proof/Machine/LoadStore.lean ====
section
/-!
DEFINITION. Loads, stores, atomics and fences (R122-R125, R203-R206, R209-R211, R219), the operand log's entries (R265, R354),
and the answers that complete them.
-/
namespace Sys2Proof.Machine

/-! ## Values -/

/-- R203: bytes of a size. -/
def sizeBytes (size : BitVec 3) : Nat := 2 ^ size.toNat

/-- R204: a loaded value as it goes to its register, sign-extended for .i8 and .i16. -/
def extendLoad (ty : BitVec 5) (n b : Nat) : Nat :=
  if ty = 3 ∨ ty = 4 then lowBits 32 (signedOf (8 * n) b) else b

/-- R122: what a load or atomic of another module's memory returns: n bytes, each 8 of them a free value, and whether the answer is
marked poisoned. -/
def State.fabricAnswer (s : State) (n : Nat) : State × Nat × Bool :=
  (s.tick.tick.tick, if n ≤ 8 then (Config.fabricValue s.free).toNat % 2 ^ (8 * n)
    else (Config.fabricValue s.free).toNat + 2 ^ 64 * (Config.fabricValue (s.free + 1)).toNat, Config.answerMarked (s.free + 2))

/-- R314: the address in this module that a fabric place names, where it names this module. -/
def ownPlace : Loc → Option Nat
  | .phys pa _ => if fabricModule pa = Config.moduleNumber then some (fabricOffset pa) else none
  | _ => none

/-- R122, R314: a load across the fabric is performed at the destination's home: n bytes, and whether they are poisoned. -/
def State.fabricRead (s : State) (l : Loc) (n : Nat) : State × Nat × Bool :=
  match ownPlace l with
  | some pa => let r := s.loadHome none 0 pa n; (r.1, r.2.1, s.physPoisoned pa n)
  | none => s.fabricAnswer n

/-- The place lies in the fabric window. -/
def State.isFabric (s : State) : Loc → Bool
  | .phys pa type => type = 3 && s.region pa = .fabric
  | _ => false
/-- The place lies in host memory of type 3. -/
def State.isPosted (s : State) : Loc → Bool
  | .phys pa type => type = 3 && s.region pa = .host
  | _ => false

/-! ## Accesses -/

/-- R322: a flit of a fabric or host port, for a bay. -/
def State.noteLink (s : State) (l : Loc) (bay : Nat) : State :=
  match l with
  | .phys pa 3 => if s.region pa = .fabric then s.noteUse (srcFabric (Config.fabricPort (pa / 128) % 18)) bay 1 else s.noteUse (srcHost (hostPort pa)) bay 1
  | _ => s

/-- R26, R298: a grout unit, numbered `groutCore`, has no L1. -/
def l1Of (core : Nat) : Option Nat := if core % 64 = 62 then none else some core

/-- R122, R315: the fabric port of a line. -/
def portOfLine (pa : Nat) : Nat := Config.fabricPort (pa / 128) % 18
/-- R307, R314, R328: the port by which an access of the place goes out of the module: its feature and its number there. -/
def State.linkOf (s : State) : Loc → Option (Nat × Nat)
  | .phys pa 3 => if s.region pa = .fabric then some (3, portOfLine pa) else some (hostPort pa, 0)
  | .phys pa 2 => if s.l2Holds pa then none else some (hostPort pa, 0)
  | _ => none
/-- R418: that port has lost its link. -/
def State.linkGone (s : State) (l : Loc) : Bool := match s.linkOf l with | some f => s.lost.contains f | none => false
/-- R307, R308: the home of a place of type 2 does not hold its line. -/
def State.unowned (s : State) : Loc → Bool
  | .phys pa 2 => !s.l2Holds pa
  | _ => false
/-- R365: no answer came from a host port, or by the fabric. -/
def linkFault (port : Nat × Nat) (ea : Nat) : TrapInfo := memFault 0x47 (if port.1 = 3 then 2 else 0) ea
/-- R365, R418: the fault of an access by a port that has lost its link. -/
def State.goneFault (s : State) (l : Loc) (ea : Nat) : TrapInfo := linkFault ((s.linkOf l).getD (0, 0)) ea
/-- R366, R376: a load or atomic goes out by a port. -/
def State.ask (s : State) (l : Loc) (ea : Nat) : State :=
  match s.linkOf l with
  | some f => { s with asks := { count := s.asks.count + 1, fab := decide (f.1 = 3), ea } }
  | none => s

/-- R204, R206, R365, R372, R418: a load of n bytes at a place that the agent may read, or its fault; `core` is none for an agent without an
L1. Whether the host's completion carries the Poisoned attribute is the host's to say (R365). -/
def State.readFrom (s : State) (core : Option Nat) (pts : Nat) (l : Loc) (n : Nat) (q : Req) : State × Nat × Except TrapInfo Nat :=
  let s := s.ask l q.va
  if s.linkGone l then (s, pts, .error (s.goneFault l q.va))
  else if s.isFabric l then
    let r := (s.noteLink l (q.bay s)).fabricRead l n
    (r.1, pts, if r.2.2 then .error (poisonFault l q.va) else .ok r.2.1)
  else if s.isPosted l && Config.loadRefused s.free then (s.tick, pts, .error (memFault 0x44 2 q.va))
  else if s.loadMarked core pts l n || (s.isPosted l && Config.answerMarked s.free) then
    (if s.isPosted l then s.tick else s, pts, .error (poisonFault l q.va))
  else
    let r := ((if s.isPosted l then s.tick else s).noteLink l (q.bay s)).load core pts l n q
    (r.1, r.2.2, .ok r.2.1)

/-- R204, R206: a load by a thread of a core. -/
def State.readAt (s : State) (core pts : Nat) (l : Loc) (n : Nat) (q : Req) : State × Nat × Except TrapInfo Nat :=
  s.readFrom (l1Of core) pts l n q

/-- R376, R418: a posted store reaches the host, which performs it, or rejects it without a word to the device; without a link it is lost. -/
def State.landPosted (s : State) (p : Posted) : State :=
  if s.lost.contains (p.port, 0) then s else if Config.hostRejects s.free then s.tick else { s.tick with mem := s.mem.writeBytes p.pa p.bytes }

/-- R125: a store to type 3 host memory travels on the relaxed channel: it lands now or later. -/
def State.postStore (s : State) (pa n w : Nat) : State :=
  if Config.relaxedLands s.free then s.tick.landPosted { port := hostPort pa, pa, bytes := natBytes n w }
  else { s.tick with relaxed := s.relaxed ++ [{ port := hostPort pa, pa, bytes := natBytes n w }] }

/-- R122, R315: a store to the fabric window leaves by the port of its line. -/
def State.fabricSend (s : State) (pa : Nat) (who : Storer) : State :=
  let port := portOfLine pa
  { s with fabSent := SMap.modify 0 s.fabSent port (· + 1),
           fabSince := if s.fabSince.contains (port, who) then s.fabSince else s.fabSince ++ [(port, who)] }

/-- R377, R418: a store of a line across the fabric that a switch cannot deliver, or whose port has no link, is lost: the port's next marker says so. -/
def State.fabricLeave (s : State) (pa : Nat) (who : Storer) : State × Bool :=
  let gone := s.lost.contains (3, portOfLine pa) || Config.storeLost s.free
  let s := s.tick.fabricSend pa who
  (if gone then { s with fabLost := addNat s.fabLost (portOfLine pa) } else s, gone)

/-- R314: a store across the fabric; one to the module's own number arrives here. -/
def State.fabricStore (s : State) (pa n w : Nat) (who : Storer) : State :=
  let x := s.fabricLeave pa who
  let s := x.1
  if x.2 then s
  else if fabricModule pa = Config.moduleNumber then
    State.later { s with ownStores := s.ownStores ++ [{ id := s.nextFab, pa := fabricOffset pa, bytes := natBytes n w }], nextFab := s.nextFab + 1 }
      [.fabricStoreArrival Config.moduleNumber (fabricOffset pa) (natBytes n w)]
  else s

/-- R123: whose fabric store it is. -/
def State.storer (s : State) (q : Req) : Storer :=
  match q.who with
  | some (.thread t) => .thread t
  | some (.op id) => match s.ops.find? (·.id = id) with | some o => .op o.t id | none => .relay none
  | _ => .relay none

/-- R204, R206: a store of n bytes at a place that the agent may write; the new pts. -/
def State.writeAt (s : State) (core : Option Nat) (pts : Nat) (l : Loc) (n w : Nat) (q : Req) : State × Nat :=
  match l with
  | .phys pa _ =>
    if s.isFabric l then ((s.noteLink l (q.bay s)).fabricStore pa n w (s.storer q), pts)
    else if s.isPosted l then ((s.noteLink l (q.bay s)).postStore pa n w, pts)
    else s.store core pts l n w q
  | _ => s.store core pts l n w q

/-! ## Atomics (R210, R211) -/

/-- R210: the new value. -/
def atomNew (fn : Nat) (ty : BitVec 5) (n : Nat) (rnd : Rnd) (old b c : Nat) : Nat :=
  match fn with
  | 6 => b
  | 7 => if old = b then c else old
  | _ => combine fn ty n rnd old b

/-- R211: the scope that the place admits. -/
def State.atomScope (s : State) : Loc → Option (BitVec 2)
  | .phys _ 0 => some 0
  | .phys _ 1 => none
  | .phys _ 2 => some 2
  | .phys pa _ => if s.region pa = .fabric then some 1 else some 2
  | _ => some 0
/-- R211: operations that a root complex does not perform. -/
def rootRefuses (fn : Nat) (ty : BitVec 5) (size : BitVec 3) : Bool :=
  if fn = 7 then false else if fn = 0 then ty = 0 || size = 4 else if fn = 6 then size = 4 else true

/-- R211, R365: the atomic-scope cause. -/
def State.atomCause (s : State) (l : Loc) (en : LogEntry) : Option TrapInfo :=
  if s.atomScope l ≠ some en.scope then some (memFault 0x45 0 en.ea.toNat)
  else if s.isPosted l && rootRefuses en.fn.toNat en.ty en.size then some (memFault 0x45 1 en.ea.toNat)
  else none

/-- R211, R314: an atomic of an agent of the fabric, performed at its home here: what the bytes held before it. -/
def State.atomHere (s : State) (pa n fn : Nat) (ty : BitVec 5) (rnd : Rnd) (b c : Nat) (q : Req := {}) : State × Nat :=
  let old := s.mem.read pa n
  ((s.store none 0 (.phys pa 0) n (atomNew fn ty (8 * n) rnd old b c) q).1, old)

/-- R211: an atomic across the fabric is performed at the destination's home: the old value, and whether it is poisoned. -/
def State.fabricAtom (s : State) (l : Loc) (en : LogEntry) : State × Nat × Bool :=
  let n := sizeBytes en.size
  match ownPlace l with
  | some pa =>
    if s.physPoisoned pa n then (s, 0, true)
    else let r := s.atomHere pa n en.fn.toNat en.ty en.rnd en.opb.toNat en.opc.toNat; (r.1, r.2, false)
  | none => s.fabricAnswer n

/-- R210: one indivisible read-modify-write in this module or in host memory; the old value and the new pts. -/
def State.atomAt (s : State) (core pts : Nat) (l : Loc) (en : LogEntry) (q : Req) : State × Nat × Nat :=
  let n := sizeBytes en.size
  let old := s.peek l n
  let new := atomNew en.fn.toNat en.ty (8 * n) en.rnd old en.opb.toNat en.opc.toNat
  let (s, ts) := s.storeStamp (l1Of core) pts l q
  let s := s.poke l n new
  (if s.isPosted l then s else s.evaluate l n ts, old, ts)

/-- R210, R211, R307, R372, R418: the atomic of a log entry, of a scope and an operation that its place admits, or its fault; the new pts. -/
def State.atomOf (s : State) (core pts : Nat) (l : Loc) (en : LogEntry) (q : Req) : State × Nat × Except TrapInfo Nat :=
  let s := s.ask l q.va
  if s.linkGone l then (s, pts, .error (s.goneFault l q.va))
  else if s.isFabric l then
    let r := (s.noteLink l (q.bay s)).fabricAtom l en
    (r.1, pts, if r.2.2 then .error (poisonFault l q.va) else .ok r.2.1)
  else if s.isPosted l && Config.rootRefused s.free then (s.tick, pts, .error (memFault 0x44 2 q.va))
  else
    let marked := s.isPosted l && Config.answerMarked s.free
    let s := if s.isPosted l then s.tick.noteLink l (q.bay s) else s
    if marked || s.poisoned l (sizeBytes en.size) then (s, pts, .error (poisonFault l q.va))
    else let r := s.atomAt core pts l en q; (r.1, r.2.2, .ok r.2.1)

/-! ## The operand log -/

/-- R75: a place of which an L1 holds copies. -/
def Loc.cached : Loc → Bool
  | .phys _ 0 => true
  | _ => false

/-- R75: the load is answered by the core's L1. -/
def State.l1Hit (s : State) (core pts : Nat) : Loc → Bool
  | .phys pa 0 => (l1Of core).isSome && !s.leaseLapse core pts pa
  | _ => true

/-- R119, R301: a miss of the requester's access has not been filled, or a hod event that it raised is not over. -/
def State.hodHolds (s : State) (who : Requester) : Bool :=
  let mine (e : HodEvent) : Bool := e.kind ≠ 4 && e.who = some who
  s.agenda.any (fun i => match i with | .l2MissFill _ _ _ _ _ _ u => u.who = some who | _ => false)
    || s.slices.any (fun k => k.2.hodq.any mine || (k.2.hod.map (fun r => mine r.event)).getD false)
    || s.senders.any fun k => k.window.any fun x => match x.what with | .hod _ e => mine e | _ => false

/-- R204, R210, R354: the access of a log entry at the place that it has found. A store or atom of type 2 whose home does not hold the line asks for it,
and waits (R307, R308). -/
def State.performAt (s : State) (t : TRef) (a : Agent) (l : Loc) (en : LogEntry) : State × LogEntry :=
  let n := sizeBytes en.size
  let pts := ((s.thread t).map (·.pts)).getD 0
  let q := a.req en.ea.toNat en.hint (some (.thread t))
  let owns := en.opcode = 0x50 || !s.unowned l
  let en := { en with fromL1 := en.opcode = 0x50 && l.cached && s.l1Hit a.core pts l, outside := (en.opcode = 0x54 && s.atomScope l ≠ some 0) || !owns,
                      link := if en.opcode = 0x51 && owns then none else s.linkOf l, place := if owns || s.linkGone l then none else some l }
  if !owns then (if s.linkGone l then (s, { en with fault := some (s.goneFault l en.ea.toNat) }) else (s.reachL2 l true pts q, en)) else
  let r :=
    if en.opcode = 0x50 then s.readAt a.core pts l n q
    else if en.opcode = 0x51 then let x := s.writeAt (l1Of a.core) pts l n en.opb.toNat q; (x.1, x.2, .ok 0)
    else s.atomOf a.core pts l en q
  match r with
  | (s, _, .error f) => (s, { en with fault := some f })
  | (s, pts, .ok v) =>
    (s.setPts t pts, { en with fault := none, value := BitVec.ofNat 128 (if en.opcode = 0x50 then extendLoad en.ty n v else v) })

/-- R204, R210, R354: perform the access of a log entry for a thread: the entry with its value or its fault. One that fails R365 leaves the a and d
bits of its page as they are (R368). -/
def State.perform (s : State) (t : TRef) (tm : Team) (en : LogEntry) : State × LogEntry :=
  let a := s.agentOf t tm
  match s.locate a en.space en.ea (sizeBytes en.size) (sizeBytes en.size) (en.opcode ≠ 0x50) 0 (en.opcode = 0x54) with
  | .error f => (s, { en with fault := some f })
  | .ok (s', l) =>
    match (if en.opcode = 0x54 then s'.atomCause l en else none) with
    | some f => (s, { en with fault := some f })
    | none => s'.performAt t a l en

/-- R354: the lowest-numbered free entry. -/
def Thread.freeEntry (th : Thread) : Option Nat := (numbers 0 4).find? fun k => match th.log[k]? with | some en => !en.busy && !en.valid | none => false

/-- R265: the rank of the next access in program order. -/
def Thread.nextOrder (th : Thread) : Nat := th.log.foldl (fun m en => max m (en.order + 1)) 0

/-- R265: what the entry captures at issue. -/
def Ctx.logEntry (c : Ctx) (hasC : Bool) (dest : BitVec 11) (opb opc : Nat) : LogEntry :=
  { busy := true, order := c.th.nextOrder, opcode := c.op, fn := c.e.fn, ty := c.e.ty, rnd := c.e.rnd, space := c.e.space, size := c.e.size,
    scope := c.e.scope, hint := c.e.hint, dest, ea := c.r.ea c.e c.e.a hasC, opb := BitVec.ofNat 128 opb, opc := BitVec.ofNat 128 opc }

/-- R142, R204, R354: the access is performed; one that takes effect outside the team revokes its flag (R63). What it returns reaches the thread with VAR_RESULT_RETURN. While every entry is
taken the thread is not ready (R265). -/
def access (en : Ctx → LogEntry) (c : Ctx) (s : State) : Effect :=
  match c.th.freeEntry with
  | none => .handled s
  | some k =>
    let r := s.perform c.t c.tm (en c)
    let s := if c.op ≠ 0x50 ∧ c.e.space.toNat ≥ 2 ∧ r.2.fault.isNone then c.revoke r.1 else r.1
    let s := s.modThread c.t fun th => th.modLog k fun _ => r.2
    let s := if uniformOp c.op c.e then s.holdDest c (resultCodes c.op c.e (s.width c.tm)) else s
    .done (s.later [.varResultReturn c.t k])

def ldEntry (c : Ctx) : LogEntry := c.logEntry false c.e.d 0 0
def stEntry (c : Ctx) : LogEntry := c.logEntry false 2047 (c.val c.e.d (sizeBits c.e.size)) 0
/-- R209: C holds the new value of .cas, and the offset's field otherwise. -/
def atomEntry (c : Ctx) : LogEntry :=
  c.logEntry (c.e.fn = 7) c.e.d (c.val c.e.b (sizeBits c.e.size)) (if c.e.fn = 7 then c.val c.e.c (sizeBits c.e.size) else 0)

/-! ## Fences (R123, R219, R315) -/

/-- R123: ports with a flush that is not complete, for which a thread or a launch waits. -/
def State.openFlushes (s : State) : List Nat :=
  (s.refs.foldl (fun l t => match s.why t with | some (.fence _ y) => y.foldl addNat l | _ => l) [])
    ++ s.launches.flatMap fun la => (la.closing.map (·.2)).getD []

/-- R315: a fence, or a release, that waits for the fabric waits for these markers too. -/
def Wait.awaitMarkers (ids : List Nat) : Wait → Wait
  | .fence fab sys => if fab.isEmpty then .fence fab sys else .fence (fab ++ ids) sys
  | w => w
def closeWith (ids : List Nat) (x : List Nat × List Nat) : List Nat × List Nat := if x.1.isEmpty then x else (x.1 ++ ids, x.2)

/-- R315: what was issued before these markers were sent, and is not complete, waits for them as well. -/
def State.awaitMarkers (s : State) (ids : List Nat) : State :=
  let s := { s with launches := s.launches.map fun (la : Launch) => { la with closing := la.closing.map (closeWith ids) },
                    queues := s.queues.map fun (q : Queue) => { q with closing := q.closing.map (closeWith ids) } }
  s.refs.foldl (fun (s : State) t => match s.why t with
    | some (.fence _ _) => s.modThread t fun th => { th with wait := th.wait.map fun w => { w with why := w.why.awaitMarkers ids } }
    | _ => s) s

/-- R315, R322, R377: markers leave on every port that has carried a store since its last one, a flit each, at the charge of a bay; a switch that has lost
one says so with the marker. -/
def State.sendMarkers (s : State) (bay : Nat) : State :=
  let ports := s.fabSince.foldl (fun l x => addNat l x.1) []
  let fresh : List Marker := (numbers 0 ports.length).map fun k =>
    let port := (ports[k]?).getD 0
    { id := s.nextFab + k, port, count := SMap.get 0 s.fabSent port, who := (s.fabSince.filter (·.1 = port)).map (·.2), covers := s.ownStores.map (·.id) }
  let s := ports.foldl (fun (s : State) p => s.noteUse (srcFabric p) bay 1) s
  if ports.isEmpty then s
  else State.later (State.awaitMarkers { s with fabSince := [], fabLost := [], markers := s.markers ++ fresh, nextFab := s.nextFab + ports.length } (fresh.map (·.id)))
    (fresh.map fun m => Instr.fenceMarkerAnswer m.id (s.fabLost.contains m.port))

/-- R125: flushes leave on every port with relaxed stores; the ports whose flush is to be awaited. -/
def State.sendFlushes (s : State) : State × List Nat :=
  let ports := (s.relaxed.foldl (fun l p => addNat l p.port) []) ++ s.openFlushes
  (s.later ((ports.filter fun p => !s.openFlushes.contains p).eraseDups.map Instr.fenceSysFlushComplete), ports.foldl addNat [])

/-- R123, R315: the markers and, when `sys`, the flushes leave; the markers and ports whose answers the caller awaits: those that leave now,
and earlier markers that follow a store of the caller's own (`mine`) which may not have been performed. DEDUCED (log entry 79): R315 lets a
fence complete at once where no port has carried a store since its last marker, and R123 makes it wait for the thread's own stores. -/
def State.startFence (s : State) (bay : Nat) (sys : Bool) (mine : Marker → Bool) : State × List Nat × List Nat :=
  let old := (s.markers.filter mine).map (·.id)
  let s1 := s.sendMarkers bay
  let fab := old ++ ((s1.markers.drop s.markers.length).map (·.id))
  if sys then let x := s1.sendFlushes; (x.1, fab, x.2) else (s1, fab, [])

/-- R119, R123: a fabric store of the thread's own, or of an engine operation that it may have joined: one that is complete, and whose final write's
timestamp the thread's pts has reached. -/
def State.covers (s : State) (t : TRef) : Storer → Bool
  | .thread u => u = t
  | .op _ id => s.fabDone.any fun x => x.1 = id && x.2 ≤ s.ptsOf t
  | .relay _ => false
/-- R127: the marker follows a fabric store of a launch's thread or engine operation. -/
def State.ofLaunch (s : State) (launch : Nat) (m : Marker) : Bool :=
  m.who.any fun w => match w with | .thread t | .op t _ => ((s.team t.team).map (·.launch)) = some launch | .relay _ => false
/-- R127, R280: the marker follows a fabric store of an earlier packet of a queue: of a launch of it, or of a relay. -/
def State.ofQueue (s : State) (queue : Nat) (m : Marker) : Bool :=
  m.who.any fun w => match w with
    | .thread t | .op t _ => (s.team t.team).any fun tm => (s.launchOf tm).queue = some queue
    | .relay k => k = some queue
/-- R123: the marker follows such a store; and no fence of the thread has faulted over it (R377). -/
def State.ownOrJoined (s : State) (t : TRef) (m : Marker) : Bool := m.who.any (s.covers t) && !m.expired.contains t
/-- R322: the bay of a thread's fence. -/
def Ctx.bay (c : Ctx) (s : State) : Nat := s.chargedBay (s.coreOf c.tm c.t.tid) (s.asidOf c.tm)

/-- R123: the fence's markers and flushes; dev includes neither, fab the markers, sys both. -/
def fenceBody (c : Ctx) (s : State) : Effect :=
  let s := s.flushPoint c.t
  if c.e.scope = 0 then .done s
  else
    let x := s.startFence (c.bay s) (c.e.scope = 2) (s.ownOrJoined c.t)
    if x.2.1.isEmpty && x.2.2.isEmpty then .done x.1 else .wait x.1 (.fence x.2.1 x.2.2) true

/-- R269, R270, R273: the effect comes once every earlier access, host and fabric stores included, has been performed: until then the
thread waits as in fence.sys, and issues the instruction again. -/
def afterStores (body : Ctx → State → Effect) (c : Ctx) (s : State) : Effect :=
  let x := s.startFence (c.bay s) true (s.ownOrJoined c.t)
  if x.2.1.isEmpty && x.2.2.isEmpty then body c x.1 else .handled (x.1.block c.t (.fence x.2.1 x.2.2) c.th.pc)

/-- R123: a marker, or the flush of a port, of a fence has been answered. -/
def State.fenceAnswered (s : State) (t : TRef) (isFab : Bool) (k : Nat) : State :=
  match s.why t with
  | some (.fence fab sys) =>
    if (if isFab then fab else sys).contains k then
      let fab := if isFab then fab.filter (· ≠ k) else fab
      let sys := if isFab then sys else sys.filter (· ≠ k)
      if fab.isEmpty && sys.isEmpty then s.resume t
      else s.modThread t fun th => { th with wait := th.wait.map fun w => { w with why := .fence fab sys } }
    else s
  | _ => s

/-- R125: every relaxed write of a port is visible. -/
def State.landPort (s : State) (port : Nat) : State :=
  (s.relaxed.filter (·.port = port)).foldl State.landPosted { s with relaxed := s.relaxed.filter (·.port ≠ port) }

/-- R377: the thread's fence has faulted while markers that it awaits were not answered. -/
def State.expireMarkers (s : State) (t : TRef) (fab : List Nat) : State :=
  { s with markers := s.markers.map fun m => if fab.contains m.id then { m with expired := t :: m.expired } else m }

/-- R123: the stores of an engine operation have had no marker, or one that has not been answered. -/
def State.fabStored (s : State) (id : Nat) : Bool :=
  let mine (w : Storer) : Bool := match w with | .op _ k => k = id | _ => false
  s.fabSince.any (fun y => mine y.2) || s.markers.any fun m => m.who.any mine

/-- R123: what is kept of engine operations that have stored by the fabric, while a marker to come or to be answered follows those stores. -/
def State.dropDone (s : State) : State :=
  { s with fabDone := s.fabDone.filter fun x => s.fabStored x.1 }

/-- R376, R377: a waiting thread faults at its instruction, with effective address 0 for a fence. -/
def State.faultWait (s : State) (t : TRef) (info : TrapInfo) : State := s.raise t info (((s.thread t).map (·.pc)).getD 0)

/-! ## The instructions -/

/-- R204. -/
def execLdBase (b : Base) (s : State) := issueBase 0x50 b (access ldEntry) s
/-- R204. -/
def execLd (w : Words) (s : State) := issueWords 0x50 w (access ldEntry) s
/-- R204. -/
def execStBase (b : Base) (s : State) := issueBase 0x51 b (access stEntry) s
/-- R204. -/
def execSt (w : Words) (s : State) := issueWords 0x51 w (access stEntry) s
/-- R210. -/
def execAtom (w : Words) (s : State) := issueWords 0x54 w (access atomEntry) s
/-- R123, R219. -/
def execFence (w : Words) (s : State) := issueWords 0x58 w (flushes fenceBody) s

/-- R418: the answer of an entry does not come where its port has lost its link. -/
def State.linkFailed (s : State) (t : TRef) (entry : Nat) : State :=
  s.modThread t fun th => th.modLog entry fun en => match en.link with
    | some f => if s.lost.contains f && en.fault.isNone then { en with fault := some (linkFault f en.ea.toNat), place := none } else en
    | none => en

/-- R366: the answer from outside to an instruction that waits for it, which is issued again. -/
def State.answerReturns (s : State) (t : TRef) : State :=
  match s.why t with
  | some (.answer fab host _) =>
    if fab || host then (s.modThread t fun th => { th with answered := true }).resumeAt t (((s.thread t).map (·.pc)).getD 0) else s
  | some (.ringSlot _) => s.modThread t fun th => { th with answered := true }
  | _ => s

/-- R307, R308: the store or atom of an entry that has waited for its line is performed. -/
def State.performPlaced (s : State) (t : TRef) (entry : Nat) : State :=
  match s.team t.team, (s.thread t).bind fun th => th.log[entry]? with
  | some tm, some en => match if en.busy && en.fault.isNone then en.place else none with
    | some l => let r := s.performAt t (s.agentOf t tm) l en; r.1.modThread t fun th => th.modLog entry fun _ => r.2
    | none => s
  | _, _ => s
/-- R308: an entry still waits for its line. -/
def State.placed (s : State) (t : TRef) (entry : Nat) : Bool := match (s.thread t).bind fun th => th.log[entry]? with | some en => en.busy && en.fault.isNone && en.place.isSome | none => false

/-- R142, R354: an access of the thread completes: its destination is written, or its fault makes a trap due. Number 4 stands for the answer to an
instruction that has no entry in the log. -/
def execVarResultReturn (t : TRef) (entry : Nat) (s : State) : Host.Outcome State Fault Refusal :=
  if s.hodHolds (.thread t) then .next (s.later [.varResultReturn t entry])
  else if entry = 4 then .next (s.answerReturns t)
  else
    let s := (s.linkFailed t entry).performPlaced t entry
    if s.placed t entry then .next (s.later [.varResultReturn t entry]) else
    let s := s.deliver t entry
    let due := match s.thread t with | some th => !th.dueFaults.isEmpty | none => false
    .next (if due && !s.agenda.contains (.trapEntry t) then s.later [.trapEntry t] else s)

/-- R123, R127: of the markers and the ports' flushes that a release waits for, one has been answered. -/
def lessAnswer (isFab : Bool) (k : Nat) (x : List Nat × List Nat) : List Nat × List Nat :=
  if isFab then (x.1.filter (· ≠ k), x.2) else (x.1, x.2.filter (· ≠ k))
def Launch.answered (la : Launch) (isFab : Bool) (k : Nat) : Launch := { la with closing := la.closing.map (lessAnswer isFab k) }
/-- R127: a fence packet completes with the last answer. -/
def Queue.answered (q : Queue) (isFab : Bool) (k : Nat) : Queue :=
  { q with closing := match q.closing.map (lessAnswer isFab k) with | some ([], []) => none | x => x }

/-- R127: launches whose release has nothing more to wait for complete. -/
def State.releaseDue (s : State) : State :=
  s.later (((numbers 0 s.launches.length).filter fun k => match s.launches[k]? with
    | some la => la.closing = some ([], []) && !s.agenda.contains (.launchComplete k) | none => false).map Instr.launchComplete)

/-- R315, R377, R418: a destination answers a marker once the stores before it have been performed; with stores lost, or no link, the fences that wait
for it fault, and cover none of the stores before the fault when they are issued again. -/
def execFenceMarkerAnswer (marker : Nat) (lost : Bool) (s : State) : Host.Outcome State Fault Refusal :=
  .next (match s.markers.find? (·.id = marker) with
    | none => s
    | some m =>
      if s.ownStores.any fun o => m.covers.contains o.id then s.later [.fenceMarkerAnswer marker lost]
      else
        let s := { s with markers := s.markers.filter (·.id ≠ marker), launches := s.launches.map fun (la : Launch) => la.answered true marker,
                          queues := s.queues.map fun (q : Queue) => q.answered true marker }.releaseDue
        let gone := s.lost.contains (3, m.port)
        (s.refs.foldl (fun s t =>
          if lost || gone then
            match s.why t with
            | some (.fence fab _) => if fab.contains marker then (s.expireMarkers t fab).faultWait t (memFault 0x47 (if gone then 3 else 4) 0) else s
            | _ => s
          else s.fenceAnswered t true marker) s).dropDone)

/-- R125, R376, R418: the flush read of a port completes: its relaxed writes are visible; without a link, the fences that wait for it fault. -/
def execFenceSysFlushComplete (port : Nat) (s : State) : Host.Outcome State Fault Refusal :=
  let s := (s.landPort port)
  let s := { s with launches := s.launches.map fun (la : Launch) => la.answered false port,
                    queues := s.queues.map fun (q : Queue) => q.answered false port }.releaseDue
  let awaits (w : Option Wait) : Bool := match w with | some (.fence _ sys) => sys.contains port | _ => false
  .next (s.refs.foldl (fun (s : State) t =>
    if s.lost.contains (port, 0) && awaits (s.why t) then s.faultWait t (memFault 0x47 1 0) else s.fenceAnswered t false port) s)

end Sys2Proof.Machine
end

