-- ==== Sys2Proof/Machine/Ring.lean ====
section
/-!
DEFINITION. Ring descriptors (R79-R83, R120) and what readers receive (R220): reservation, completion in fill order, tokens,
release and end-of-stream.
-/
namespace Sys2Proof.Machine

/-! ## The descriptor -/

/-- R81: slot j is reserved or unread. -/
def Ring.inFill (r : Ring) (j : Nat) : Bool := r.fill.any fun (x : FillItem) => match x with | .slot k _ => k = j | .token => false
/-- R81: slot res is free: neither reserved nor unread, and no reader holds it. -/
def Ring.canReserve (r : Ring) : Bool := !r.inFill r.res && !r.held.contains r.res

/-- R81: filled counts complete slots with no incomplete slot before them. -/
def filledOf : List FillItem → Nat
  | [] => 0
  | .token :: l => filledOf l
  | .slot _ true :: l => filledOf l + 1
  | .slot _ false :: _ => 0

/-- R83: a token counts when every slot before it has been read. -/
def absorbTokens : List FillItem → Nat × List FillItem
  | .token :: l => let r := absorbTokens l; (r.1 + 1, r.2)
  | l => (0, l)

/-- The fields that follow from the fill order. -/
def Ring.settle (r : Ring) : Ring :=
  let x := absorbTokens r.fill
  { r with fill := x.2, tok := r.tok + x.1, filled := filledOf x.2 }

/-- R81: reserve slot res. -/
def Ring.reserve (r : Ring) : Ring :=
  { r with fill := r.fill ++ [FillItem.slot r.res false], res := (r.res + 1) % r.count, free := r.free - 1 }.settle
/-- R81: slot j is complete. -/
def Ring.complete (r : Ring) (j : Nat) : Ring :=
  { r with fill := r.fill.map fun (x : FillItem) => match x with | .slot k b => FillItem.slot k (b || decide (k = j)) | .token => FillItem.token }.settle
/-- R83: a token takes its place in fill order. -/
def Ring.placeToken (r : Ring) : Ring := { r with fill := r.fill ++ [FillItem.token] }.settle

/-- The first slot of the fill order. -/
def firstSlot : List FillItem → Option Nat
  | [] => none
  | .token :: l => firstSlot l
  | .slot j _ :: _ => some j
/-- R81: the slot is given to a reader. -/
def Ring.take (r : Ring) (j : Nat) : Ring :=
  { r with fill := r.fill.filter (fun (x : FillItem) => match x with | .slot k _ => k ≠ j | .token => true), head := (r.head + 1) % r.count, held := r.held ++ [j] }.settle
/-- R120, R220: the reader's slot counts as read. -/
def Ring.release (r : Ring) (j : Nat) : Ring :=
  if r.held.contains j then { r with held := r.held.filter (· ≠ j), free := r.free + 1 } else r
/-- R83. -/
def Ring.endDue (r : Ring) : Bool := 1 ≤ r.prod && r.tok = r.prod && r.filled = 0

/-- R79: .c offset of slot j. -/
def Ring.slotOffset (r : Ring) (j : Nat) : Nat := r.base + j * r.size

def State.ring (s : State) (i k : Nat) : Option Ring := (s.team i).bind fun tm => tm.rings[k]?
def State.modRing (s : State) (i k : Nat) (f : Ring → Ring) : State := s.modTeam i fun tm => { tm with rings := tm.rings.modify k f }

/-! ## Readers (R220) -/

/-- R220, step 1: the slot that the thread's previous rget on the ring returned is released. -/
def State.releaseSlots (s : State) (t : TRef) (k : Nat) : State :=
  match s.thread t with
  | none => s
  | some th =>
    let mine := th.holds.filter (·.1 = k)
    if mine.isEmpty then s
    else
      let s := mine.foldl (fun s x => s.modRing t.team k fun r => r.release x.2) s
      let s := s.modThread t fun th => { th with holds := th.holds.filter (·.1 ≠ k) }
      match s.ring t.team k with
      | some r => if r.reqs.isEmpty then s else s.later [.ringReservation t.team k]
      | none => s

/-- R120: the largest timestamp of the granules of a slot: a join with every agent that wrote it. -/
def slotStamp (tm : Team) (r : Ring) (j : Nat) : Nat :=
  (numbers (r.slotOffset j / 4096) (r.size / 4096 + 2)).foldl (fun m g => max m (SMap.get 0 tm.gts g)) 0

/-- R220: what an rget gives now, if it need not wait: the value and the state. -/
def State.ringTake (s : State) (t : TRef) (k : Nat) : Option (State × Nat) :=
  match s.team t.team, s.ring t.team k with
  | some tm, some r =>
    if r.eos then some (s, 0xFFFFFFFF)
    else if 0 < r.filled then
      match firstSlot r.fill with
      | none => none
      | some j =>
        let s := s.modRing t.team k fun r => r.take j
        let s := s.modThread t fun th => { th with holds := th.holds ++ [(k, j)] }
        some (s.raisePts t (slotStamp tm r j), r.slotOffset j)
    else if r.endDue then some (s.modRing t.team k (fun r => { r with eos := true }), 0xFFFFFFFF)
    else none
  | _, _ => none

/-- Threads of the team that wait in rget on a ring. -/
def State.ringReaders (s : State) (i k : Nat) : List (TRef × BitVec 11) :=
  match s.team i with
  | none => []
  | some tm => tm.tids.filterMap fun j => match (tm.threads[j]?).bind Thread.why with
    | some (.rget q d) => if q = k then some ({ team := i, tid := j }, d) else none
    | _ => none

/-- R220: the waiting reader of the same issue group with the lowest tid. -/
def State.firstOfGroup (s : State) (l : List (TRef × BitVec 11)) (x : TRef × BitVec 11) : TRef × BitVec 11 :=
  let group (y : TRef × BitVec 11) : Option (Nat × Nat) := ((s.thread y.1).bind (·.wait)).map (·.group)
  (l.find? fun y => group y = group x).getD x

/-- R82: readers that need not wait any longer go on; of several issue groups, which comes first is open (log entry 7), and in one the
threads come in ascending tid (R220). Structural on the number of readers. -/
def State.wakeReaders (s : State) (i k : Nat) : Nat → State
  | 0 => s
  | n + 1 =>
    let l := s.ringReaders i k
    match (l[Config.pickStep s.free % (max 1 l.length)]?).map (s.firstOfGroup l) with
    | none => s
    | some (t, d) =>
      match s.tick.ringTake t k with
      | none => s
      | some (s', x) => ((s'.wr t d 32 false x).resume t).wakeReaders i k n

/-- After a change of the ring: waiting readers. -/
def State.ringChanged (s : State) (i k : Nat) : State := s.wakeReaders i k (s.ringReaders i k).length

/-- R365: code 0x48; `ea` is the source address of rput and ring copies, and 0 where there is no access. -/
def ringMisuse (reason : Nat) (ea : Nat := 0) : TrapInfo := memFault 0x48 reason ea

/-- R365: a ring number not below the launch's nring. -/
def Ctx.ringOf (c : Ctx) (field : BitVec 11) : Option Ring := c.tm.rings[field.toNat]?

def rgetBody (c : Ctx) (s : State) : Effect :=
  let k := c.e.a.toNat
  match c.ringOf c.e.a with
  | none => .trap (ringMisuse 0)
  | some _ =>
    let s := s.releaseSlots c.t k
    match s.ringTake c.t k with
    | some (s', x) => .done (c.wr s' 32 false x)
    | none => .wait s (.rget k c.e.d) true

/-- R223. -/
def rjoinBody (c : Ctx) (s : State) : Effect :=
  let k := c.e.a.toNat
  match c.ringOf c.e.a with
  | none => .trap (ringMisuse 0)
  | some r =>
    if c.th.owes.contains k then .done s
    else if r.prod = 255 then .trap (ringMisuse 1)
    else .done ((s.modRing c.t.team k fun r => { r with prod := r.prod + 1 }).modThread c.t fun th => { th with owes := addNat th.owes k })

/-! ## The instructions -/

/-- R220. -/
def execRget (w : Words) (s : State) := issueWords 0x5C w rgetBody s
/-- R223. -/
def execRjoin (w : Words) (s : State) := issueWords 0x5F w rjoinBody s

end Sys2Proof.Machine
end

