-- ==== Sys2Proof/Machine/Windows.lean ====
section
/-!
DEFINITION. Requests that a receiver may refuse (R289-R291, R368, R402): the replay windows of senders; and what becomes of an instruction, or of an
element of an engine operation, one of whose requests is refused, or whose answer waits for a hod invocation (R119, R301) or comes from outside the
module (R366): it has no effect yet, and is done again from the start.
-/
namespace Sys2Proof.Machine

/-! ## Senders (R290, R402) -/

/-- R368: as a receiver, the walkers of a die; slices have the numbers below. -/
def walkersOf (die : Nat) : Nat := 192 + die

/-- The receiver: a slice, the walkers of a die, or the ring descriptor logic of a core. -/
def State.receiverOf (s : State) : Sent → Nat
  | .request k _ _ | .hod k _ | .grout k _ | .treg k _ _ _ _ => k
  | .ring t _ _ => 256 * (1 + ((s.team t.team).map (·.core)).getD 0)
/-- R289, R402: the queue's number in the order of the table; 5 for that of the walkers, which the table does not list. -/
def Sent.queue : Sent → Nat
  | .request k _ _ => if k < 192 then 0 else 5
  | .grout _ _ => 1
  | .hod _ _ => 2
  | .treg _ _ _ _ _ => 3
  | .ring _ _ _ => 4
/-- The thread whose request it is. -/
def Sent.thread : Sent → Option TRef
  | .request _ _ (.thread t) => some t
  | .request _ _ _ => none
  | .hod _ e => match e.who with | some (.thread t) => some t | _ => none
  | .grout _ q => some q.t
  | .treg _ t _ _ _ => some t
  | .ring t _ _ => some t
def State.sentAsid (s : State) (x : Sent) : Nat :=
  match x with
  | .request _ _ (.op id) => ((s.ops.find? (·.id = id)).map (·.asid)).getD 0
  | .request _ _ (.hod k) => ((s.slice k).hod.map (·.event.asid)).getD 0
  | .hod _ e => e.asid
  | .grout _ q => q.asid
  | .treg _ _ asid _ _ => asid
  | _ => match x.thread with | some t => ((s.team t.team).map (·.asid s)).getD 0 | none => 0

def State.sends (s : State) (coreid : Nat) (x : Sent) (k : Sender) : Bool := k.coreid = coreid && k.receiver = s.receiverOf x && k.queue = x.queue

/-- R290: what comes of sending: the state, the number of an entry that is not accepted yet, and a registration's refusal. -/
structure Posting where
  s       : State
  pending : Option Nat := none
  fault   : Option (Nat × Nat) := none

/-- R290: the window of a sender for an entry's receiver. -/
def State.windowFor (s : State) (coreid : Nat) (x : Sent) : List Entry := ((s.senders.find? (s.sends coreid x)).map (·.window)).getD []

/-- R290: an entry stands in its sender's window, behind those that have been refused. -/
def State.queueEntry (s : State) (coreid : Nat) (x : Sent) : Posting :=
  let e : Entry := { id := s.nextSent, what := x, since := s.ns }
  let fresh : Sender := { coreid, receiver := s.receiverOf x, queue := x.queue, window := [e], backoff := 32, resend := s.clk + 32, atMax := 0 }
  let senders := if s.windowFor coreid x = [] then s.senders.filter (fun k => !s.sends coreid x k) ++ [fresh]
    else s.senders.map fun k => if s.sends coreid x k then { k with window := k.window ++ [e] } else k
  { s := { s with nextSent := s.nextSent + 1, senders }, pending := some s.nextSent }

/-- R290: the wait for room in a sender's window. -/
def State.roomWait (s : State) (coreid : Nat) (x : Sent) : Wait := .room coreid (s.receiverOf x) x.queue
/-- R290: entries in a sender's window for a receiver's queue. -/
def State.windowLoad (s : State) (coreid receiver queue : Nat) : Nat :=
  (s.senders.filter fun k => k.coreid = coreid && k.receiver = receiver && k.queue = queue).foldl (fun n k => n + k.window.length) 0
/-- R290: it has room. -/
def State.hasRoom (s : State) (coreid receiver queue : Nat) : Bool := s.windowLoad coreid receiver queue < 32

/-! ## Requests to slices and walkers (R289, R368) -/

/-- R289: 64 requests for each source port of a slice; R91, R368: 64 walks at work and 512 that wait. -/
def depthOf (receiver : Nat) : Nat := if receiver < 192 then 64 else 576
/-- Requests of a port that a receiver has accepted and not yet served. -/
def State.standing (s : State) (receiver port : Nat) : Nat :=
  if receiver < 192 then SMap.get 0 (s.slice receiver).queued port else SMap.get 0 s.walks (receiver - 192)
/-- A receiver has more, or fewer, requests of a port to serve. -/
def State.modStanding (s : State) (receiver port : Nat) (f : Nat → Nat) : State :=
  if receiver < 192 then s.modSlice receiver fun k => { k with queued := SMap.modify 0 k.queued port f }
  else { s with walks := SMap.modify 0 s.walks (receiver - 192) f }

/-- The receivers of which `u` has made more requests than `s`. -/
def State.requested (s u : State) (port : Nat) : List Nat :=
  ((u.slices.map (·.1)) ++ (u.walks.map fun x => walkersOf x.1)).filter fun k => s.standing k port < u.standing k port

/-- R289, R290: a receiver with no room for the requests that `u` has made refuses; and so does one that has refused an earlier entry of the sender, but
for the request that it has then accepted. -/
def State.refusedAt (s u : State) (who : Asking) (port : Nat) (granted : Option (Nat × Nat)) (k : Nat) : Bool :=
  depthOf k < u.standing k port || (s.windowFor port (.request k port who) ≠ [] && granted ≠ some (k, port))

/-- R290: the place that an accepted request holds is free for the request itself. -/
def State.usePlace (s : State) : Option (Nat × Nat) → State
  | some (k, port) => s.modStanding k port (· - 1)
  | none => s

/-- R289, R290: one of the requests made between `s` and `u` is refused: the state in which its entry stands in the sender's window, and the wait for it. -/
def State.refusedRequest (s u : State) (who : Asking) (port : Nat) (granted : Option (Nat × Nat)) : Option (State × Wait) :=
  ((s.requested u port).find? (s.refusedAt u who port granted)).map fun k =>
    let x : Sent := .request k port who
    if (s.windowFor port x).length < 32 then let p := s.queueEntry port x; (p.s, .refused (p.pending.getD 0)) else (s, s.roomWait port x)

/-- R119, R300, R308: the misses of an asker since `s` for which it waits: all of them while handlers are installed, and those of stores of type 2, which
are performed once the home holds the line. -/
def State.freshMisses (s u : State) (who : Requester) : List Instr :=
  let handled := s.present 7 && s.programs ≠ []
  (u.agenda.drop s.agenda.length).filter fun i => match i with
    | .l2MissFill pa _ store _ _ _ a => a.who = some who && (handled || (store && s.region pa = .host))
    | _ => false

/-- R119, R289, R301: what an operation, or part of one, that has led from `s` to `u` must wait for before it may be performed: a request that is
refused, or the fills of lines that it has missed. -/
def State.postpone (s u : State) (who : Asking) (asker : Requester) (port : Nat) (granted : Option (Nat × Nat)) : Option (State × Wait) :=
  match s.refusedRequest u who port granted with
  | some x => some x
  | none => let l := s.freshMisses u asker; if l.isEmpty then none else some (s.later l, .answer false false 0)

/-- R290: an entry of the asker stands in a window. -/
def State.awaitsEntry (s : State) (who : Asking) : Bool :=
  s.senders.any fun k => k.window.any fun x => match x.what with | .request _ _ w => w = who | _ => false

/-- R119, R289, R366: the same for an instruction of a thread whose answers may come from outside the module, once; `answered` when they have come. -/
def State.postponeThread (s u : State) (t : TRef) (port : Nat) (granted : Option (Nat × Nat)) (answered : Bool) : Option (State × Wait) :=
  match s.postpone u (.thread t) (.thread t) port granted with
  | some x => some x
  | none => if u.asks.count = s.asks.count || answered then none else some (s.later [.varResultReturn t 4], .answer u.asks.fab (!u.asks.fab) (BitVec.ofNat 64 u.asks.ea))

end Sys2Proof.Machine
end

