-- ==== Sys2Proof/Machine/Tensor.lean ====
section
/-!
DEFINITION. Tensor handles (R103-R106, R109), element addresses, element formats as values (R92, R97, R98, R106), and the
tile descriptor (R207).
-/
namespace Sys2Proof.Machine

/-! ## Records as numbers -/

/-- Bits [hi:lo] of word k of a record held as a number, word 0 lowest. -/
def bitsAt (r k hi lo : Nat) : Nat := r / 2 ^ (64 * k + lo) % 2 ^ (hi - lo + 1)

/-- R104: a handle record, decoded. -/
structure Handle where
  base  : Nat
  sbase : Nat
  d0 : Nat
  d1 : Nat
  d2 : Nat
  d3 : Nat
  str1 : Nat
  str2 : Nat
  str3 : Nat
  fmt  : Nat
  valid : Bool
  rank : Nat
  dom  : Bool
  sym  : Bool
  blk  : Nat
  deriving DecidableEq, Repr

def Handle.ofRecord (r : Nat) : Handle where
  base := bitsAt r 0 56 0
  sbase := bitsAt r 1 56 0
  d0 := bitsAt r 2 23 0
  d1 := bitsAt r 2 47 24
  d2 := bitsAt r 3 23 0
  d3 := bitsAt r 3 47 24
  str1 := bitsAt r 4 47 0
  str2 := bitsAt r 5 47 0
  str3 := bitsAt r 6 47 0
  fmt := bitsAt r 7 3 0
  valid := bitsAt r 7 7 7 = 1
  rank := bitsAt r 7 11 10
  dom := bitsAt r 7 12 12 = 1
  sym := bitsAt r 7 13 13 = 1
  blk := bitsAt r 7 15 14

/-- R103: the record of a handle of a context. -/
def State.handle (s : State) (asid n : Nat) : Nat :=
  match s.context asid with
  | some c => SMap.get 0 c.handles n
  | none => 0
def State.setHandle (s : State) (asid n r : Nat) : State :=
  s.modContext asid fun c => { c with handles := SMap.set 0 c.handles n r }

/-! ## Formats (R105, R106) -/

/-- R106: element size in bytes; a byte of bx4 holds two elements. -/
def fmtBytes (fmt : Nat) : Nat :=
  match fmt with
  | 0 | 5 | 9 | 13 => 4
  | 1 | 2 | 4 | 8 => 2
  | 6 | 10 | 14 => 8
  | _ => 1
def isBx (fmt : Nat) : Bool := fmt = 11 || fmt = 12
/-- Elements that share one unit of access: two in a byte of bx4. -/
def perUnit (fmt : Nat) : Nat := if fmt = 12 then 2 else 1
/-- The blocks of bx formats are 32 elements. -/
def blockBytes (fmt : Nat) : Nat := if fmt = 12 then 16 else if fmt = 11 then 32 else fmtBytes fmt
/-- R108: the spectral block size of a blk code. -/
def blkSize (blk : Nat) : Nat := if blk = 0 then 0 else 32 * 2 ^ blk
/-- R109: stored values of a spectral block. -/
def storedLen (h : Handle) : Nat := if h.sym then blkSize h.blk / 2 + 1 else blkSize h.blk

/-! ## Addresses (R106) -/

def Handle.inside (h : Handle) (i0 i1 i2 i3 : Nat) : Bool := i0 < h.d0 && i1 < h.d1 && i2 < h.d2 && i3 < h.d3
/-- R106: the .g address of the unit that holds an element. DESIGN CHOICE (log entry 109): a sum beyond 64 bits wraps. -/
def Handle.addr (h : Handle) (i0 i1 i2 i3 : Nat) : W64 :=
  BitVec.ofNat 64 (h.base + i0 / perUnit h.fmt * fmtBytes h.fmt + i1 * h.str1 + i2 * h.str2 + i3 * h.str3)
/-- R106: the .g address of the scale entry of the element's block. DESIGN CHOICE (log entry 109): a sum beyond 64 bits wraps. -/
def Handle.scaleAddr (h : Handle) (i0 i1 i2 i3 : Nat) : W64 :=
  BitVec.ofNat 64 (h.sbase + 4 * ((((i3 * h.d2) + i2) * h.d1 + i1) * (h.d0 / 32) + i0 / 32))

/-! ## Values (R92, R97, R98) -/

/-- R97, R98: the value of a block element of `bits` bits under a scale entry. DESIGN CHOICE (log entry 85): bits [31:24] of the entry, which
are reserved, are ignored. -/
def bxVal (mbits w scale : Nat) : FVal :=
  let m := w % 2 ^ mbits
  let e := if w / 2 ^ mbits % 2 = 1 then scale / 256 % 256 else scale % 256
  if e = 255 then .nan else .fin (w / 2 ^ (mbits + 1) % 2 = 1) m ((e : Int) - 127 - (mbits - 1 : Nat))

/-- The float format of a real element or of a part of a complex one. -/
def partFmt (fmt : Nat) : Fmt := if fmt = 1 then F16 else if fmt = 2 ∨ fmt = 13 then BF16 else F32
def isComplex (fmt : Nat) : Bool := fmt = 13 || fmt = 14
/-- Bits of one part. -/
def partBits (fmt : Nat) : Nat := if fmt = 1 ∨ fmt = 2 ∨ fmt = 13 then 16 else 32

/-- The element of a unit: the nibble of bx4 (R97). -/
def unitElem (fmt i0 w : Nat) : Nat := if fmt = 12 then w / 16 ^ (i0 % 2) % 16 else w
/-- The real value of an element with its scale entry. -/
def realVal (fmt w scale : Nat) : FVal :=
  if fmt = 11 then bxVal 6 w scale else if fmt = 12 then bxVal 2 w scale else (partFmt fmt).decode (w % 2 ^ partBits fmt)
/-- The imaginary part of a complex element. -/
def imagVal (fmt w : Nat) : FVal := (partFmt fmt).decode (w / 2 ^ partBits fmt)

/-! ## The tile descriptor (R207) -/

def tileCols (r : Nat) : Nat := bitsAt r 0 56 54
def TileDesc.ofBits (r : Nat) : TileDesc where
  i0 := bitsAt r 0 23 0
  i1 := bitsAt r 0 47 24
  i2 := bitsAt r 1 23 0
  i3 := bitsAt r 1 47 24
  rows := bitsAt r 0 53 48 + 1
  cols := 16 * 2 ^ tileCols r

/-- Elements of a row, in units of access. -/
def TileDesc.rowUnits (d : TileDesc) (fmt : Nat) : Nat := d.cols / perUnit fmt
/-- How many unit accesses a tile has, its scale entries included. -/
def TileDesc.count (d : TileDesc) (fmt : Nat) : Nat := d.rows * d.rowUnits fmt + if isBx fmt then d.rows * (d.cols / 32) else 0

end Sys2Proof.Machine
end

