-- ==== Sys2Proof/Machine/Engine.lean ====
section
/-!
DEFINITION. What every engine operation shares: the checks at issue (R202, R366, R390, R391), starting (R119, R202), the element
accesses (R112, R372), and the completion word (R202, R370).
-/
namespace Sys2Proof.Machine

/-! ## Fields (R200, R201) -/

def compSpace (e : Ext) : BitVec 3 := e.x.extractLsb' 4 3
def srcSpace (e : Ext) : BitVec 3 := e.x.extractLsb' 7 3
/-- R201: the packed word. -/
def qOf (e : Ext) : W64 := e.lit.getD 0
def qOff (e : Ext) (lo : Nat) : W64 := ((qOf e).extractLsb' lo 16).signExtend 64
/-- R69, R201: a base register plus an offset of Q. -/
def Ctx.qAddr (c : Ctx) (base : BitVec 11) (space : BitVec 3) (lo : Nat) : W64 := c.r.ea0 base space (qOff c.e lo)
/-- R69: an address k bytes on in the same space. -/
def eaPlus (space : BitVec 3) (ea : W64) (k : Nat) : W64 := effAddr space ea.toNat (BitVec.ofNat 64 k)
/-- The place k bytes on. -/
def Loc.shift : Loc → Nat → Loc
  | .lane t off, k => .lane t (off + k)
  | .scr i off, k => .scr i (off + k)
  | .dscr n d off, k => .dscr n d (off + k)
  | .phys pa type, k => .phys (pa + k) type
/-- R365, code 0x44 reason 5: the place must lie in a type 0 page. -/
def Loc.outsideType0 : Loc → Bool
  | .phys _ type => type ≠ 0
  | _ => false

/-! ## Checks at issue -/

/-- The checks of one address: what it finds, the place, and the state with the translation made. -/
structure Checked where
  s : State
  faults : List TrapInfo
  loc : Option Loc

/-- R366: translation, alignment, space and page of one address; `type0` where the page must be of type 0. -/
def State.checkAt (s : State) (a : Agent) (space : BitVec 3) (ea : W64) (n align : Nat) (store type0 : Bool) (reason : Nat := 2) : Checked :=
  match s.locate a space ea n align store reason with
  | .error f => { s, faults := [f], loc := none }
  | .ok (s', l) => if type0 && l.outsideType0 then { s, faults := [memFault 0x44 5 ea.toNat], loc := none } else { s := s', faults := [], loc := some l }

/-- R202: the completion word. -/
def Ctx.compWord (c : Ctx) : BitVec 3 × W64 := (compSpace c.e, c.qAddr c.e.c (compSpace c.e) 32)
def Ctx.checkWord (c : Ctx) (s : State) : Checked := s.checkAt (c.agent s) c.compWord.1 c.compWord.2 8 8 true true

/-- A descriptor read at issue as an ordinary access of the thread: its bytes as a number, or what stops it. -/
structure ReadDesc where
  s : State
  faults : List TrapInfo
  value : Nat

def Ctx.readDesc (c : Ctx) (s : State) (space : BitVec 3) (ea : W64) (n align : Nat) (reason : Nat := 2) : ReadDesc :=
  let k := s.checkAt (c.agent s) space ea n align false true reason
  match k.loc with
  | none => { s := k.s, faults := k.faults, value := 0 }
  | some l =>
    if k.s.poisoned l n then { s := k.s, faults := [poisonFault l ea.toNat], value := 0 }
    else
      let r := k.s.load (l1Of (c.agent s).core) (k.s.ptsOf c.t) l n ((c.agent s).req ea.toNat 0 (some (.thread c.t)))
      { s := r.1.setPts c.t r.2.2, faults := [], value := r.2.1 }

/-- R391: taux of an engine cause. -/
def engineFault (code num off reason : Nat) : TrapInfo := { code, aux := BitVec.ofNat 64 (reason + off * 2 ^ 16 + num * 2 ^ 32) }

/-- R390: the lowest code; within one code the lowest reason; within one reason the first field. -/
def engineKey (f : TrapInfo) : Nat := f.code * 2 ^ 40 + (f.aux.toNat % 256) * 2 ^ 16 + f.aux.toNat / 2 ^ 16 % 2 ^ 16
def firstFault (l : List TrapInfo) : Option TrapInfo :=
  l.foldl (fun m f => match m with
    | none => some f
    | some g => some (if f.code < g.code ∨ (f.code = g.code ∧ 0x60 ≤ f.code ∧ engineKey f < engineKey g) then f else g)) none

/-- R391, reason 0: reserved fields (word, high, low) of a block that are not zero, at the byte where the field begins. -/
def reservedFaults (num value : Nat) (fields : List (Nat × Nat × Nat)) : List TrapInfo :=
  (fields.filter fun f => bitsAt value f.1 f.2.1 f.2.2 ≠ 0).map fun f => engineFault 0x61 num (8 * f.1 + f.2.2 / 8) 0

/-- R207, R391: the descriptor's own faults: reserved fields, and cols codes above the limit. -/
def tileFaults (num r top base : Nat) : List TrapInfo :=
  (reservedFaults num r [(0, 63, 57), (1, 63, 48)] ++ if tileCols r ≤ top then [] else [engineFault 0x61 num 6 7]).map fun f =>
    { f with aux := f.aux + BitVec.ofNat 64 (base * 2 ^ 16) }
/-- R207, R391: bx origins and columns. -/
def bxFaults (num r fmt : Nat) : List TrapInfo :=
  if isBx fmt then
    (if bitsAt r 0 23 0 % 32 ≠ 0 then [engineFault 0x61 num 0 4] else [])
      ++ (if tileCols r = 0 then [engineFault 0x61 num 6 4] else [])
  else []

/-- R103, R390: a named handle; an invalid one is 0x63. -/
def Ctx.handleFaults (c : Ctx) (s : State) (n : Nat) (ok : Handle → List TrapInfo) : List TrapInfo :=
  let h := Handle.ofRecord (s.handle (s.asidOf c.tm) n)
  if h.valid then ok h else [engineFault 0x63 n 0 0]
def Ctx.handleRecord (c : Ctx) (s : State) (n : Nat) : Nat := s.handle (s.asidOf c.tm) n

/-- R103, R260: the capture of a handle is an ordinary read of its record. -/
def State.touchHandle (s : State) (t : TRef) (asid n : Nat) : State :=
  match s.context asid with
  | none => s
  | some c =>
    let ts := max (s.ptsOf t) (SMap.get 0 c.hts n)
    (s.modContext asid fun c => { c with hts := SMap.set 0 c.hts n ts }).setPts t ts
def Ctx.capture (c : Ctx) (s : State) (n : Nat) : State := s.touchHandle c.t (s.asidOf c.tm) n

/-! ## Starting (R119, R202) -/

/-- R244: the operation with everything it captured, on the core whose engines it uses. -/
def Ctx.newOp (c : Ctx) (s : State) (kind : EngKind) (word : Option (BitVec 3 × W64)) (todo : List Nat) : EngOp :=
  { id := s.nextOp, t := c.t, asid := s.asidOf c.tm, core := s.engineCore c.op c.tm c.t.tid, kind, word, todo, pts := s.ptsOf c.t, issued := s.ns }

def State.addOp (s : State) (o : EngOp) (also : List Instr) : State :=
  { s with ops := s.ops ++ [o], nextOp := s.nextOp + 1 }.later also

/-- R202: the operation starts; `revokes` when R63 lists it. -/
def Ctx.startOp (c : Ctx) (s : State) (kind : EngKind) (todo : List Nat) (revokes : Bool) : Effect :=
  .done ((if revokes then c.revoke s else s).addOp (c.newOp s kind (some c.compWord) todo) [.engineOpComplete s.nextOp])

/-- R202: while 64 operations are in flight on the core, the thread is not ready. -/
def engine (body : Ctx → State → Effect) (c : Ctx) (s : State) : Effect :=
  if 64 ≤ s.opsOn (s.engineCore c.op c.tm c.t.tid) then .handled s else body c s

/-! ## Element accesses -/

def State.op (s : State) (id : Nat) : Option EngOp := s.ops.find? (·.id = id)
def State.setOp (s : State) (o : EngOp) : State := { s with ops := s.ops.map fun p => if p.id = o.id then o else p }
def State.opAgent (s : State) (o : EngOp) : Agent :=
  { t := o.t, core := o.core, asid := o.asid, user := match s.team o.t.team with | some tm => !s.privileged tm | none => true }

/-- An operation at work: the state and the operation's own record. -/
abbrev Work := State × EngOp

/-- R372: which of n bytes at a place are poisoned. -/
def State.poisonedBytes (s : State) (l : Loc) (n : Nat) : List Nat := (numbers 0 n).filter fun i => s.poisoned (l.shift i) 1

/-- The request of an operation for a line. -/
def Work.req (x : Work) (ea : W64) : Req := (x.1.opAgent x.2).req ea.toNat 0 (some (.op x.2.id))

/-- R365, R370, R376, R418: what stops an element's read of a place outside the module: no answer, or a refusal by the root complex. -/
def State.answerFault (s : State) (l : Loc) (ea : Nat) : Option TrapInfo :=
  match s.linkOf l with
  | none => none
  | some f =>
    if s.lost.contains f || Config.answerLate s.free then some (linkFault f ea)
    else if s.isPosted l && Config.loadRefused s.free then some (memFault 0x44 2 ea) else none

/-- R70, R119, R322, R372: one read of an element access: the value, its poisoned bytes, and the place. -/
def engineRead (x : Work) (space : BitVec 3) (ea : W64) (n align : Nat) : Except TrapInfo (Work × Nat × List Nat × Loc) :=
  match x.1.locate (x.1.opAgent x.2) space ea n align false with
  | .error f => .error f
  | .ok (s, l) =>
    match s.answerFault l ea.toNat with
    | some f => .error f
    | none =>
      let s := (if (s.linkOf l).isSome then s.tick else s).noteLink l ((Work.req x ea).bay s)
      if s.isFabric l then
        let r := s.fabricRead l n
        .ok ((r.1, x.2), r.2.1, if r.2.2 then numbers 0 n else [], l)
      else
        let r := s.load none x.2.pts l n (Work.req x ea)
        .ok ((r.1, { x.2 with pts := r.2.2 }), r.2.1, s.poisonedBytes l n, l)

/-- R372: a read by a matrix, transform or quantisation operation, which poison stops. -/
def engineReadClean (x : Work) (space : BitVec 3) (ea : W64) (n align : Nat) : Except TrapInfo (Work × Nat) :=
  match engineRead x space ea n align with
  | .error f => .error f
  | .ok (y, v, bad, l) => if bad.isEmpty then .ok (y, v) else .error (poisonFault l ea.toNat)

/-- R70, R119, R418: one write of an element access; the place. -/
def engineWrite (x : Work) (space : BitVec 3) (ea : W64) (n align w : Nat) : Except TrapInfo (Work × Loc) :=
  match x.1.locate (x.1.opAgent x.2) space ea n align true with
  | .error f => .error f
  | .ok (s, l) =>
    if s.unowned l && s.linkGone l then .error (s.goneFault l ea.toNat) else
    let r := s.writeAt none x.2.pts l n w (Work.req x ea)
    .ok ((r.1, { x.2 with pts := r.2 }), l)

/-- R112: the source of a chunk of up to 16 bytes, read in naturally aligned 16-byte chunks: its value, and its poisoned
bytes with the fault that reading the first of them would be. -/
def readPieces (x : Work) (ss : BitVec 3) (src : W64) (n align : Nat) : Except TrapInfo (Work × Nat × List Nat × Option TrapInfo) :=
  let k := min n (16 - src.toNat % 16)
  match engineRead x ss src k align with
  | .error f => .error f
  | .ok (x, v, bad, l) =>
    let f := if bad.isEmpty then none else some (poisonFault l src.toNat)
    if n = k then .ok (x, v, bad, f)
    else
      match engineRead x ss (eaPlus ss src k) (n - k) align with
      | .error f => .error f
      | .ok (x, v2, bad2, l2) =>
        .ok (x, v + 2 ^ (8 * k) * v2, bad ++ bad2.map (· + k),
          if f.isSome then f else if bad2.isEmpty then none else some (poisonFault l2 (eaPlus ss src k).toNat))

/-- R112, R231, R372: one chunk of up to 16 bytes moves, with its poison; to a page that is not module memory poison faults. -/
def copyPiece (x : Work) (ss : BitVec 3) (src : W64) (ds : BitVec 3) (dst : W64) (n align : Nat) : Except TrapInfo Work :=
  match readPieces x ss src n align with
  | .error f => .error f
  | .ok (x, v, bad, f) =>
    match x.1.locate (x.1.opAgent x.2) ds dst n align true with
    | .error e => .error e
    | .ok (_, l) =>
      match f, l.outsideType0 with
      | some f, true => .error f
      | _, _ =>
        match engineWrite x ds dst n align v with
        | .error e => .error e
        | .ok (x, l) => .ok (bad.foldl (fun s i => s.mark (l.shift i) 1) x.1, x.2)

/-! ## Completion (R202, R370) -/

/-- R202, R370: the value of a kind 5 record. -/
def engineEventValue (ea code : Nat) : W64 := BitVec.ofNat 64 (ea % 2 ^ 57 + code % 128 * 2 ^ 57)
def State.engineRecord (s : State) (o : EngOp) (ea code : Nat) : State :=
  s.record o.asid { s.threadEvent o.t 5 (engineEventValue ea code) with coreid := o.core }

/-- R127: the team's engine operations have made accesses up to this timestamp. -/
def State.endedAt (s : State) (i pts : Nat) : State := s.modTeam i fun tm => { tm with opPts := max tm.opPts pts }

/-- R123: the final write of an operation that has stored by the fabric, a store not yet known to be performed: a thread that has joined it waits for it. -/
def State.noteDone (s : State) (id ts : Nat) : State :=
  if s.fabStored id then { s with fabDone := s.fabDone ++ [(id, ts)] } else s

/-- R202: add to the completion word by an ordinary atomic add; where that faults, the increment is lost and recorded. -/
def State.addWord (s : State) (o : EngOp) (k : Nat) : State :=
  match o.word with
  | none => s
  | some (space, ea) =>
    let c := s.checkAt (s.opAgent o) space ea 8 8 true true
    match c.faults, c.loc with
    | f :: _, _ => s.engineRecord o ea.toNat f.code
    | [], none => s
    | [], some l =>
      let r := c.s.storeStamp none o.pts l { (s.opAgent o).req ea.toNat 0 none with port := some (enginePort o.core) }
      (((r.1.poke l 8 (r.1.peek l 8 + k)).evaluate l 8 r.2).endedAt o.t.team r.2).noteDone o.id r.2

/-- R245: a matrix operation of a team is over; others of its matrix order may run now. -/
def State.nextMatrix (s : State) (i id : Nat) : State :=
  match s.team i with
  | none => s
  | some tm =>
    if tm.mat.order.contains id then
      let rest := tm.mat.order.filter (· ≠ id)
      (s.modTeam i fun tm => { tm with mat := { tm.mat with order := rest } }).later (rest.map Instr.engineOpComplete)
    else s

/-- R55, R67, R202: the operation is over; a team whose threads have all exited may retire. -/
def State.dropOp (s : State) (o : EngOp) : State :=
  let s := ({ s with ops := s.ops.filter (·.id ≠ o.id) }.endedAt o.t.team o.pts).nextMatrix o.t.team o.id
  match s.team o.t.team with
  | some tm => if tm.alive.isEmpty && !s.ops.any (·.t.team = o.t.team) then s.later [.teamRetire o.t.team] else s
  | none => s

/-- R107, R260: a completed qbx adds its counts to the live record of its destination handle, saturating, by an ordinary access of the operation. -/
def State.addUnderflow (s : State) (o : EngOp) : State × EngOp :=
  match o.kind with
  | .qbx n _ _ _ =>
    let r := s.handle o.asid n
    let ts := match s.context o.asid with | some c => max o.pts (SMap.get 0 c.hts n) | none => o.pts
    ((s.modContext o.asid fun c => { c with hts := SMap.set 0 c.hts n ts }).setHandle o.asid n
      (r + (min (bitsAt r 7 63 32 + o.counts) 0xFFFFFFFF - bitsAt r 7 63 32) * 2 ^ 480), { o with pts := ts })
  | _ => (s, o)

/-- R202: the operation completes. -/
def State.finishOp (s : State) (o : EngOp) : State := let x := s.addUnderflow o; (x.1.addWord x.2 1).dropOp x.2
/-- R242: an operation with nothing to move completes at once. -/
def Ctx.startMove (c : Ctx) (s : State) (kind : EngKind) (todo : List Nat) (revokes : Bool) : Effect :=
  if todo.isEmpty then .done ((if revokes then c.revoke s else s).addWord (c.newOp s kind (some c.compWord) []) 1) else c.startOp s kind todo revokes

/-- R370: the operation has met a fault. DESIGN CHOICE (log entry 80): a qbx that ends so adds the counts it has written (R107). -/
def State.faultOp (s : State) (o : EngOp) (f : TrapInfo) : State :=
  let x := s.addUnderflow o
  ((x.1.addWord x.2 0x100000001).engineRecord o (f.aux.toNat % 2 ^ 57) f.code).dropOp x.2

end Sys2Proof.Machine
end

