-- ==== Sys2Proof/Machine/Copy.lean ====
section
/-!
DEFINITION. The copy engine: cpy, gath and scat (R231, R233), tiles (R207, R208) and fabric collectives (R234, R235): their issue
and their element accesses.
-/
namespace Sys2Proof.Machine

/-! ## cpy (R231) -/

/-- R231: val(B, 32) or Q[63:48]. -/
def Ctx.cpyCount (c : Ctx) : Nat := if c.e.b = 2047 then ((qOf c.e).extractLsb' 48 16).toNat else c.val c.e.b 32

/-- R112: the aligned 16-byte chunks of a destination. -/
def chunkCount (dst : W64) (count : Nat) : Nat := if count = 0 then 0 else (dst.toNat % 16 + count + 15) / 16
/-- The first byte of chunk k, counted from the destination, and its length. -/
def chunkSpan (dst : W64) (count k : Nat) : Nat × Nat :=
  let lo := 16 * k - dst.toNat % 16
  let hi := min count (16 * (k + 1) - dst.toNat % 16)
  (lo, hi - lo)

def cpyBody (c : Ctx) (s : State) : Effect :=
  let w := c.checkWord s
  match firstFault w.faults with
  | some f => .trap f
  | none =>
    let dst := c.qAddr c.e.d c.e.space 0
    let count := c.cpyCount
    c.startMove w.s (.cpy c.e.space dst (srcSpace c.e) (c.qAddr c.e.a (srcSpace c.e) 16) count) (numbers 0 (chunkCount dst count)) (2 ≤ c.e.space.toNat)

/-- R231: one chunk. -/
def cpyElement (x : Work) (ds : BitVec 3) (dst : W64) (ss : BitVec 3) (src : W64) (count k : Nat) : Except TrapInfo Work :=
  let p := chunkSpan dst count k
  copyPiece x ss (eaPlus ss src p.1) ds (eaPlus ds dst p.1) p.2 1

/-! ## gath and scat (R233) -/

/-- R233: the index list: n, then n words, read at issue as ordinary .c accesses of the thread. Structural on the count. -/
def Ctx.readWords (c : Ctx) (s : State) (ea : W64) : Nat → ReadDesc × List Nat
  | 0 => ({ s, faults := [], value := 0 }, [])
  | n + 1 =>
    let r := c.readDesc s 1 ea 4 4 0
    if r.faults.isEmpty then
      let q := c.readWords r.s (eaPlus 1 ea 4) n
      (q.1, r.value :: q.2)
    else (r, [])

/-- R70, R233: the whole list lies in the scratchpad. -/
def Ctx.listFaults (c : Ctx) (s : State) (ea : W64) (n : Nat) : List TrapInfo := (s.checkAt (c.agent s) 1 ea (4 * n + 4) 4 false false 0).faults

def gathScatBody (gather : Bool) (c : Ctx) (s : State) : Effect :=
  let w := c.checkWord s
  let ea := BitVec.ofNat 64 (c.val c.e.b 32)
  let n := c.readDesc w.s 1 ea 4 4 0
  let more := if n.faults.isEmpty then c.listFaults n.s ea n.value else []
  match firstFault (w.faults ++ n.faults ++ more) with
  | some f => .trap f
  | none =>
    let l := c.readWords n.s (eaPlus 1 ea 4) n.value
    match firstFault l.1.faults with
    | some f => .trap f
    | none =>
      let dst := c.qAddr c.e.d c.e.space 0
      let src := c.qAddr c.e.a (srcSpace c.e) 16
      let z := 2 ^ c.e.size.toNat
      c.startMove l.1.s (if gather then .gath c.e.space dst (srcSpace c.e) src z l.2 else .scat c.e.space dst (srcSpace c.e) src z l.2)
        (numbers 0 l.2.length) (2 ≤ c.e.space.toNat)

def gathElement (x : Work) (ds : BitVec 3) (dst : W64) (ss : BitVec 3) (src : W64) (z : Nat) (idx : List Nat) (k : Nat) : Except TrapInfo Work :=
  copyPiece x ss (eaPlus ss src ((idx[k]?).getD 0 * z)) ds (eaPlus ds dst (k * z)) z z
def scatElement (x : Work) (ds : BitVec 3) (dst : W64) (ss : BitVec 3) (src : W64) (z : Nat) (idx : List Nat) (k : Nat) : Except TrapInfo Work :=
  copyPiece x ss (eaPlus ss src (k * z)) ds (eaPlus ds dst ((idx[k]?).getD 0 * z)) z z

/-- R233: which element may be next when `k` is proposed: writes of scat to one destination take effect in ascending i. -/
def scatFirst (ds : BitVec 3) (dst : W64) (z : Nat) (idx todo : List Nat) (k : Nat) : Nat :=
  let at' (j : Nat) : W64 := eaPlus ds dst ((idx[j]?).getD 0 * z)
  todo.foldl (fun m j => if at' j = at' k ∧ j < m then j else m) k

/-! ## Tiles (R207, R208) -/

/-- R207, R208, R391: the issue of ldt (`load`) and stt. -/
def tileBody (load : Bool) (c : Ctx) (s : State) : Effect :=
  let w := c.checkWord s
  let n := c.e.a.toNat
  let ea := c.r.ea0 c.e.b 1 (qOff c.e 16)
  let d := c.readDesc w.s 1 ea 16 16
  let own := if d.faults.isEmpty then tileFaults n d.value 4 0 else []
  let hf := c.handleFaults s n fun h => if d.faults.isEmpty then bxFaults n d.value h.fmt else []
  match firstFault (w.faults ++ d.faults ++ own ++ hf) with
  | some f => .trap f
  | none =>
    let h := c.handleRecord s n
    let td := TileDesc.ofBits d.value
    let tile := c.qAddr c.e.d c.e.space 0
    c.startOp (c.capture d.s n) (if load then .ldt h c.e.space tile td else .stt h c.e.space tile td)
      (numbers 0 (td.count (Handle.ofRecord h).fmt)) (!load || 2 ≤ c.e.space.toNat)

/-- What one element access of a tile concerns: its offset in the tile, the .g address, the bytes, and whether it lies inside. -/
structure TileUnit where
  off : Nat
  ea : W64
  n : Nat
  inside : Bool
  deriving DecidableEq, Repr

/-- R207: unit k: the elements row by row, then the scale entries. -/
def tileUnit (h : Handle) (d : TileDesc) (k : Nat) : TileUnit :=
  let per := d.rowUnits h.fmt
  let z := fmtBytes h.fmt
  if k < d.rows * per then
    let r := k / per
    let c := k % per * perUnit h.fmt
    { off := k * z, ea := h.addr (d.i0 + c) (d.i1 + r) d.i2 d.i3, n := z, inside := h.inside (d.i0 + c) (d.i1 + r) d.i2 d.i3 }
  else
    let j := k - d.rows * per
    let r := j / (d.cols / 32)
    let c := j % (d.cols / 32) * 32
    { off := d.rows * per * z + 4 * j, ea := h.scaleAddr (d.i0 + c) (d.i1 + r) d.i2 d.i3, n := 4,
      inside := h.inside (d.i0 + c) (d.i1 + r) d.i2 d.i3 }

def ldtElement (x : Work) (h : Handle) (space : BitVec 3) (tile : W64) (d : TileDesc) (k : Nat) : Except TrapInfo Work :=
  let u := tileUnit h d k
  if u.inside then copyPiece x 4 u.ea space (eaPlus space tile u.off) u.n u.n
  else (engineWrite x space (eaPlus space tile u.off) u.n u.n 0).map (·.1)

def sttElement (x : Work) (h : Handle) (space : BitVec 3) (tile : W64) (d : TileDesc) (k : Nat) : Except TrapInfo Work :=
  let u := tileUnit h d k
  if u.inside then copyPiece x space (eaPlus space tile u.off) 4 u.ea u.n u.n else .ok x

/-! ## Collectives (R234, R235) -/

def CollDesc.ofBits (r : Nat) : CollDesc where
  send := bitsAt r 0 56 0
  recv := bitsAt r 1 56 0
  count := bitsAt r 2 31 0
  ty := bitsAt r 2 39 35
  op := bitsAt r 2 43 40
  members := bitsAt r 2 63 48
  list := bitsAt r 3 56 0
  rank := bitsAt r 4 15 0
  root := bitsAt r 4 31 16
  seq := bitsAt r 4 63 32

/-- R234: the reserved fields. -/
def collReserved : List (Nat × Nat × Nat) :=
  [(0, 63, 57), (1, 63, 57), (2, 34, 32), (2, 47, 44), (3, 63, 57), (5, 63, 0), (6, 63, 0), (7, 63, 0)]
/-- R234, R235: types that a kind admits; a reduction of f32 or bf16 is add, min or max. -/
def collTypeOk (kind : Nat) (d : CollDesc) : Bool :=
  [0, 2, 5, 9, 6, 10].contains d.ty && (kind < 2 || (d.op ≤ 5 && (d.op ≤ 2 || (d.ty ≠ 0 && d.ty ≠ 2))))
/-- R391, reasons 0 and 8. DESIGN CHOICE (log entry 127): a rank or root that is not below the member count is checked nowhere. -/
def collFaults (kind r : Nat) : List TrapInfo :=
  let d := CollDesc.ofBits r
  reservedFaults 0 r collReserved
    ++ (if collTypeOk kind d then [] else [engineFault 0x61 0 (if [0, 2, 5, 9, 6, 10].contains d.ty then 21 else 20) 8])
    ++ (if 2 ≤ d.members ∧ d.members ≤ 576 then [] else [engineFault 0x61 0 22 8])

/-- Bytes of an element of a collective. -/
def collBytes (ty : Nat) : Nat := if ty = 2 then 2 else if ty = 6 ∨ ty = 10 then 8 else 4
/-- R235: elements in the receive buffer. -/
def collReceived (kind : Nat) (d : CollDesc) : Nat := if kind = 1 then d.members * d.count else d.count
/-- R235: elements of the send buffer that only other members use: of .rscat, the chunks of the others. -/
def collSent (kind : Nat) (d : CollDesc) : Nat := if kind = 2 then d.members * d.count else 0

def collBody (c : Ctx) (s : State) : Effect :=
  let w := c.checkWord s
  let d := c.readDesc w.s 4 (c.qAddr c.e.a 4 16) 64 64
  let kind := c.e.fn.toNat
  let own := if d.faults.isEmpty then collFaults kind d.value else []
  match firstFault (w.faults ++ d.faults ++ own) with
  | some f => .trap f
  | none =>
    let k := CollDesc.ofBits d.value
    c.startOp d.s (.coll kind k) (numbers 0 (collReceived kind k + k.members + collSent kind k)) true

/-- R235: one step of a reduction: f32 and bf16 adds round under RNE. -/
def collCombine (op ty n a b : Nat) : Nat :=
  if ty = 0 ∨ ty = 2 then
    let F := fmtOf (BitVec.ofNat 5 ty)
    if op = 0 then F.ofVal .rne (exactSum .rne [F.decode a, F.decode b]) else fminmax F (op = 2) a b
  else combine op (BitVec.ofNat 5 ty) n .rne a b

/-- R122, R235: the n bytes that another member sends are open. -/
def State.memberValue (s : State) (n : Nat) : State × Nat := (s.tick, (Config.fabricValue s.free).toNat % 2 ^ (8 * n))

/-- R235: the reduction of one element: from rank 0's value on, the values of the other ranks in rising order; `own` is this member's.
DESIGN CHOICE (log entry 127): that of a rank not below the member count enters no reduction. -/
def collReduce (s : State) (d : CollDesc) (n own : Nat) : State × Nat :=
  let value (s : State) (rank : Nat) : State × Nat := if rank = d.rank then (s, own) else s.memberValue n
  (numbers 1 (d.members - 1)).foldl (fun r rank => let x := value r.1 rank; (x.1, collCombine d.op d.ty (8 * n) r.2 x.2)) (value s 0)

/-- R322: flits that an element of a collective takes: of those sent and received for it, on the port of its line. -/
def Work.noteFlits (x : Work) (ea n : Nat) : Work := (x.1.noteUse (srcFabric (portOfLine ea)) (x.1.chargedBay x.2.core x.2.asid) n, x.2)

/-- R234, R235: element k of the receive buffer; or beyond those an entry of the member list, or an element that this member sends to another. What this
module's own send buffer gives is read from it; what another member gives is open (R122). -/
def collElement (x : Work) (kind : Nat) (d : CollDesc) (k : Nat) : Except TrapInfo Work :=
  let z := collBytes d.ty
  let dst := BitVec.ofNat 64 (d.recv + k * z)
  let others := d.members - 1
  let flits (n : Nat) (r : Except TrapInfo Work) : Except TrapInfo Work := r.map fun x => x.noteFlits dst.toNat n
  let own (j : Nat) : Except TrapInfo Work := flits others (copyPiece x 4 (BitVec.ofNat 64 (d.send + j * z)) 4 dst z z)
  let reduced (n j : Nat) : Except TrapInfo Work :=
    match engineReadClean x 4 (BitVec.ofNat 64 (d.send + j * z)) z z with
    | .error f => .error f
    | .ok (x, v) => let r := collReduce x.1 d z v; flits n ((engineWrite (r.1, x.2) 4 dst z z r.2).map (·.1))
  let foreign : Except TrapInfo Work := let r := x.1.memberValue z; flits 1 ((engineWrite (r.1, x.2) 4 dst z z r.2).map (·.1))
  let listed := k - collReceived kind d
  if collReceived kind d + d.members ≤ k then
    let j := listed - d.members
    if j / d.count = d.rank then .ok x
    else flits 1 ((engineReadClean x 4 (BitVec.ofNat 64 (d.send + j * z)) z z).map (·.1))
  else if collReceived kind d ≤ k then (engineReadClean x 4 (BitVec.ofNat 64 (d.list + 2 * listed)) 2 2).map (·.1)
  else
    match kind with
    | 0 => if d.rank = d.root then own k else foreign
    | 1 => if k / d.count = d.rank then own (k % d.count) else foreign
    | 2 => reduced others (d.rank * d.count + k)
    | _ => reduced (2 * others) k

/-! ## The instructions -/

/-- R208. -/
def execLdt (w : Words) (s : State) := issueWords 0x52 w (engine (tileBody true)) s
/-- R208. -/
def execStt (w : Words) (s : State) := issueWords 0x53 w (engine (tileBody false)) s
/-- R231. -/
def execCpy (w : Words) (s : State) := issueWords 0x63 w (engine cpyBody) s
/-- R233. -/
def execGath (w : Words) (s : State) := issueWords 0x64 w (engine (gathScatBody true)) s
/-- R233. -/
def execScat (w : Words) (s : State) := issueWords 0x65 w (engine (gathScatBody false)) s
/-- R235. -/
def execColl (w : Words) (s : State) := issueWords 0x66 w (engine collBody) s

end Sys2Proof.Machine
end

