-- ==== Sys2Proof/Machine/Handle.lean ====
section
/-!
DEFINITION. The handle table (R103, R260-R262): thset with its status, and thget.
-/
namespace Sys2Proof.Machine

/-! ## Status (R261) -/

/-- R104: the reserved fields of a handle record. -/
def handleReserved : List (Nat × Nat × Nat) :=
  [(0, 63, 57), (1, 63, 57), (2, 63, 48), (3, 63, 48), (4, 63, 48), (5, 63, 48), (6, 63, 48), (7, 31, 16), (7, 9, 8), (7, 6, 4)]

def recordReserved (r : Nat) : Bool := handleReserved.any fun f => bitsAt r f.1 f.2.1 f.2.2 ≠ 0

/-- R106: extents 1 to 16,777,215; every dimension above the rank has extent 1. -/
def Handle.extentsOk (h : Handle) : Bool :=
  1 ≤ h.d0 && 1 ≤ h.d1 && 1 ≤ h.d2 && 1 ≤ h.d3 && (1 ≤ h.rank || h.d1 = 1) && (2 ≤ h.rank || h.d2 = 1) && (3 ≤ h.rank || h.d3 = 1)

/-- R106. -/
def Handle.aligned (h : Handle) : Bool :=
  h.base % (if isBx h.fmt then 16 else fmtBytes h.fmt) = 0
    && [h.str1, h.str2, h.str3].all (fun k => k % blockBytes h.fmt = 0) && (!isBx h.fmt || h.sbase % 4 = 0)

/-- R109. DEDUCED (log entry 123): a frequency record whose d0 is no multiple of the stored block length forms no frequency handle; the line of status 5
in R261 names only dom, blk, sym and fmt. -/
def Handle.domainOk (h : Handle) : Bool :=
  if h.dom then h.blk ≠ 0 && isComplex h.fmt && h.d0 % storedLen h = 0 else h.blk = 0 && !h.sym

/-- R261: the status of a record. DEDUCED (log entry 81): while feature 6 is absent (R328) the codes of bx8 and bx4 are no formats. -/
def State.recordStatus (s : State) (r : Nat) : Nat :=
  let h := Handle.ofRecord r
  if !h.valid then 0
  else if recordReserved r then 1
  else if h.fmt = 15 || (isBx h.fmt && !s.present 6) || !h.extentsOk then 2
  else if !h.aligned then 3
  else if isBx h.fmt && h.d0 % 32 ≠ 0 then 4
  else if !h.domainOk then 5
  else 0

/-! ## Accesses of 64 bytes -/

/-- Eight 64-bit words read at a place, as accesses of the thread. -/
def State.readWide (s : State) (t : TRef) (core : Nat) (l : Loc) (q : Req) : Nat → Nat → State × Except TrapInfo Nat
  | 0, _ => (s, .ok 0)
  | n + 1, k =>
    match s.readAt core (s.ptsOf t) (l.shift (8 * k)) 8 q with
    | (s, _, .error f) => (s, .error f)
    | (s, pts, .ok v) =>
      match (s.setPts t pts).readWide t core l q n (k + 1) with
      | (s, .ok w) => (s, .ok (v + 2 ^ 64 * w))
      | r => r

/-- Eight 64-bit words written at a place, as accesses of the thread. -/
def State.writeWide (s : State) (t : TRef) (core : Nat) (l : Loc) (w : Nat) (q : Req) : Nat → Nat → State
  | 0, _ => s
  | n + 1, k =>
    let r := s.writeAt (some core) (s.ptsOf t) (l.shift (8 * k)) 8 (w / 2 ^ (64 * k) % 2 ^ 64) q
    (r.1.setPts t r.2).writeWide t core l w q n (k + 1)

/-- The handle number of thset and thget. -/
def Ctx.handleNo (c : Ctx) : Nat := c.e.b.toNat

/-- R261. -/
def thsetBody (c : Ctx) (s : State) : Effect :=
  let ea := c.r.ea c.e c.e.a false
  let a := c.agent s
  match s.locate a c.e.space ea 64 64 false 2 with
  | .error f => .trap f
  | .ok (s, l) =>
    match s.readWide c.t a.core l (a.req ea.toNat 0 (some (.thread c.t))) 8 0 with
    | (_, .error f) => .trap f
    | (s, .ok r) =>
      let s := c.revoke s
      let st := s.recordStatus r
      let s := if st = 0 then (c.capture s c.handleNo).setHandle (s.asidOf c.tm) c.handleNo r else s
      .done (c.wr s 32 false st)

/-- R262. -/
def thgetBody (c : Ctx) (s : State) : Effect :=
  let ea := c.r.ea c.e c.e.a false
  let a := c.agent s
  match s.locate a c.e.space ea 64 64 true 2 with
  | .error f => .trap f
  | .ok (s, l) =>
    let s := if c.e.space = 4 then c.revoke s else s
    let s := c.capture s c.handleNo
    .done (s.writeWide c.t a.core l (c.handleRecord s c.handleNo) (a.req ea.toNat 0 (some (.thread c.t))) 8 0)

/-- R261. -/
def execThset (w : Words) (s : State) := issueWords 0x73 w thsetBody s
/-- R262. -/
def execThget (w : Words) (s : State) := issueWords 0x74 w thgetBody s

end Sys2Proof.Machine
end

