-- ==== Sys2Proof/Machine/Matrix.lean ====
section
/-!
DEFINITION. The matrix context (R244-R249), mwld, mflip, mop and mrd (R250-R255), and the accumulation of R100-R102.
-/
namespace Sys2Proof.Machine

/-! ## Accumulation (R100, R101) -/

/-- R101: one group of products onto an accumulator. -/
def accumulateGroup (md : Rnd) (acc : Nat) (q : List FVal) : Nat :=
  let a := F32.decode acc
  let infs := infSigns (a :: q)
  if a.isNaN || q.any (·.isNaN) || (infs.contains true && infs.contains false) then F32.canonicalNaN
  else if infs ≠ [] then F32.infinity (infs.contains true)
  else
    let l := q.filterMap fun v => match v with | .fin s m x => if m = 0 then none else some (s, m, x) | _ => none
    match l.map (fun v => (Nat.log2 v.2.1 : Int) + v.2.2) with
    | [] => acc
    | e :: es =>
      let w := es.foldl max e - 63
      let part (v : Bool × Nat × Int) : Nat := if w ≤ v.2.2 then v.2.1 * 2 ^ (v.2.2 - w).toNat else v.2.1 / 2 ^ (w - v.2.2).toNat
      let lost (v : Bool × Nat × Int) : Bool := v.2.2 < w && v.2.1 % 2 ^ (w - v.2.2).toNat ≠ 0
      let sum : Int := l.foldl (fun s v => s + if v.1 then -(part v : Int) else part v) 0
      let x := min w a.exponent
      let n := a.units x + sum * (2 ^ (w - x).toNat : Nat)
      if n = 0 then F32.signBit (md = .rd) else F32.round md (n < 0) n.natAbs x (l.any lost)

/-- R101: the groups of 32 positions in ascending order; a position may hold several products (R102). Structural on the number
of groups. -/
def accumulate (md : Rnd) : Nat → Nat → List (List FVal) → Nat
  | 0, acc, _ => acc
  | n + 1, acc, ps => accumulate md n (accumulateGroup md acc (ps.take 32).flatten) (ps.drop 32)

/-! ## Planes (R244) -/

def planeKey (r c : Nat) : Nat := 256 * r + c
/-- R244, R254: the raw element at a position, 0 beyond R and C, and its scale entry. -/
def Plane.raw (p : Plane) (r c : Nat) : Nat := if r < p.rows ∧ c < p.cols then (SMap.get 0 p.data (planeKey r c)).toNat else 0
def Plane.scaleOf (p : Plane) (r c : Nat) : Nat := (SMap.get 0 p.scale (8 * r + c / 32)).toNat
def Plane.bit (p : Plane) (r c : Nat) : Bool := !p.zeros.contains (planeKey r c)
def Plane.val (p : Plane) (r c : Nat) : FVal :=
  if r < p.rows ∧ c < p.cols then realVal p.fmt (p.raw r c) (p.scaleOf r c) else .fin false 0 0
def Plane.imag (p : Plane) (r c : Nat) : FVal := imagVal p.fmt (p.raw r c)

/-- What the issue checks of an mop need of a plane. -/
structure PlaneHead where
  fmt : Nat
  dom : Bool
  blk : Nat
  deriving DecidableEq, Repr
def Plane.head (p : Plane) : PlaneHead := { fmt := p.fmt, dom := p.dom, blk := p.blk }

/-- R245, R253: the active and shadow planes' heads as every earlier instruction in matrix order leaves them. -/
def State.planeHeads (s : State) (m : Matrix) : PlaneHead × PlaneHead :=
  m.order.foldl (fun x id => match s.op id with
    | some o => match o.kind with
      | .mwld r _ _ => (x.1, { fmt := (Handle.ofRecord r).fmt, dom := (Handle.ofRecord r).dom, blk := (Handle.ofRecord r).blk })
      | .mflip => (x.2, x.1)
      | _ => x
    | none => x) (m.active.head, m.shadow.head)

def State.modMatrix (s : State) (i : Nat) (f : Matrix → Matrix) : State := s.modTeam i fun tm => { tm with mat := f tm.mat }
def tileKey (t r c : Nat) : Nat := 4096 * t + 64 * r + c

/-! ## The trowel (R246-R249) -/

def trowelFault (reason : Nat) : TrapInfo := engineFault 0x60 0 0 reason
/-- R249. -/
def Ctx.trowelFaults (c : Ctx) : List TrapInfo :=
  if c.tm.mat.members ≠ [] ∧ c.tm.mat.holder ≠ some c.t.tid then [trowelFault 0] else []

def mjoinBody (c : Ctx) (s : State) : Effect :=
  let m := c.tm.mat
  if m.members.contains c.t.tid then .done s
  else if 64 ≤ m.members.length then .trap (trowelFault 3)
  else .done (s.modMatrix c.t.team fun m => { m with members := m.members ++ [c.t.tid], holder := if m.members = [] then some c.t.tid else m.holder })

def mtakeBody (c : Ctx) (s : State) : Effect :=
  if c.tm.mat.holder = some c.t.tid then .done s
  else if c.tm.mat.members.contains c.t.tid then .wait s .mtake true
  else .trap (trowelFault 2)

/-- R248: the participant after `tid` in list order, wrapping. -/
def nextMember (l : List Nat) (tid : Nat) : Option Nat :=
  match (l.dropWhile (· ≠ tid)).drop 1 with
  | k :: _ => some k
  | [] => l.head?

/-- R247, R248: the trowel passes from a thread; a receiver that waits in mtake goes on. -/
def State.passTrowel (s : State) (t : TRef) : State :=
  match s.team t.team with
  | none => s
  | some tm =>
    match nextMember tm.mat.members t.tid with
    | none => s
    | some k =>
      let u : TRef := { team := t.team, tid := k }
      let s := (s.modMatrix t.team fun m => { m with holder := some k }).raisePts u (s.ptsOf t)
      match s.why u with
      | some .mtake => s.resume u
      | _ => s

def mpassBody (c : Ctx) (s : State) : Effect :=
  if c.tm.mat.holder = some c.t.tid then .done (s.passTrowel c.t) else .trap (trowelFault 1)

/-- R246: a participant that exits leaves the list; a holder passes first. -/
def State.leaveTrowel (s : State) (t : TRef) : State :=
  match s.team t.team with
  | none => s
  | some tm =>
    if tm.mat.members.contains t.tid then
      let s := if tm.mat.holder = some t.tid then s.passTrowel t else s
      s.modMatrix t.team fun m =>
        { m with members := m.members.filter (· ≠ t.tid), holder := if m.holder = some t.tid then none else m.holder }
    else s

/-! ## Entering the matrix order (R245) -/

/-- R202, R245: the operation enters the matrix order. -/
def Ctx.startMatrix (c : Ctx) (s : State) (kind : EngKind) (word : Option (BitVec 3 × W64)) (todo : List Nat) : State :=
  let id := s.nextOp
  let s := s.addOp (c.newOp s kind word todo) [.engineOpComplete id]
  s.modMatrix c.t.team fun m => { m with order := m.order ++ [id] }

/-- R391, reason 5: a bitmap must be 8-aligned in a type 0 page; one that does not translate has the translation's cause. -/
def Ctx.bitmapFaults (c : Ctx) (s : State) (num off bm : Nat) : List TrapInfo :=
  if bm % 8 ≠ 0 then [engineFault 0x61 num off 5]
  else
    match s.locate (c.agent s) 4 (BitVec.ofNat 64 bm) 8 8 false with
    | .error f => if f.code = 0x40 ∨ f.code = 0x41 then [f] else [engineFault 0x61 num off 5]
    | .ok (_, l) => if l.outsideType0 then [engineFault 0x61 num off 5] else []

/-! ## mwld and mflip (R250, R251) -/

/-- R327, R328: the array's formats while features are absent: bx needs feature 6, and reduced service keeps bf16 and f32. DEDUCED (log
entry 81): an absent format is one that the instruction does not admit. -/
def State.arrayFmt (s : State) (fmt : Nat) : Bool := (!isBx fmt || s.present 6) && (s.phase = .full || fmt = 0 || fmt = 2)

/-- R250: the largest cols code of a format, none for a format that mwld does not admit. -/
def State.mwldTop (s : State) (fmt : Nat) : Option Nat :=
  if !s.arrayFmt fmt then none
  else match fmt with
  | 1 | 2 | 13 => some 2
  | 11 => some 3
  | 12 => some 4
  | _ => none

/-- R250: words of bitmap in a row. -/
def bitmapWords (cols : Nat) : Nat := (cols + 63) / 64

def mwldBody (c : Ctx) (s : State) : Effect :=
  let w := c.checkWord s
  let n := c.e.a.toNat
  let ea := c.r.ea0 c.e.b 1 (qOff c.e 16)
  let d := c.readDesc w.s 1 ea 32 32
  let bm := bitsAt d.value 2 56 0
  let own := if d.faults.isEmpty then tileFaults n d.value 4 0 ++ reservedFaults n d.value [(2, 63, 57), (3, 63, 0)] ++ (if bm = 0 then [] else c.bitmapFaults d.s n 16 bm) else []
  let hf := c.handleFaults s n fun h =>
    if d.faults.isEmpty then
      (match s.mwldTop h.fmt with
       | none => [engineFault 0x61 n 0 2]
       | some top => if tileCols d.value ≤ top then [] else [engineFault 0x61 n 6 7]) ++ bxFaults n d.value h.fmt
    else []
  match firstFault (c.trowelFaults ++ w.faults ++ d.faults ++ own ++ hf) with
  | some f => .trap f
  | none =>
    let h := c.handleRecord s n
    let td := TileDesc.ofBits d.value
    let s := c.capture d.s n
    .done (c.startMatrix s (.mwld h td bm) (some c.compWord)
      (numbers 0 (td.count (Handle.ofRecord h).fmt + if bm = 0 then 0 else td.rows * bitmapWords td.cols)))

/-- R250: the shadow plane's head, as the operation leaves it; with no bitmap, every bit of the plane's is 1. DESIGN CHOICE
(log entry 128): with a bitmap, the bits of positions outside the rows and columns stay as they were. -/
def mwldHead (x : Work) (h : Handle) (d : TileDesc) (bm : Nat) : Work :=
  (x.1.modMatrix x.2.t.team fun m => { m with shadow := { m.shadow with fmt := h.fmt, dom := h.dom, blk := h.blk, rows := d.rows, cols := d.cols, zeros := if bm = 0 then [] else m.shadow.zeros } }, x.2)

def Plane.setBit (p : Plane) (key : Nat) (b : Bool) : Plane := { p with zeros := if b then p.zeros.filter (· ≠ key) else addNat p.zeros key }

/-- R250: the memory access of one element, scale entry or bitmap word. -/
def mwldRead (x : Work) (h : Handle) (d : TileDesc) (bm k : Nat) : Except TrapInfo (Work × List Nat) :=
  if k < d.count h.fmt then
    let u := tileUnit h d k
    if u.inside then (engineReadClean x 4 u.ea u.n u.n).map fun r => (r.1, [r.2]) else .ok (x, [0])
  else (engineReadClean x 4 (BitVec.ofNat 64 (bm + 8 * (k - d.count h.fmt))) 8 8).map fun r => (r.1, [r.2])

/-- R250: what was read, put into the shadow plane. -/
def mwldWrite (x : Work) (h : Handle) (d : TileDesc) (bm k : Nat) (ws : List Nat) : Work :=
  let x := mwldHead x h d bm
  let w := ws.head?.getD 0
  let put (f : Plane → Plane) : Work := (x.1.modMatrix x.2.t.team fun m => { m with shadow := f m.shadow }, x.2)
  if k < d.rows * d.rowUnits h.fmt then
    let r := k / d.rowUnits h.fmt
    let c := k % d.rowUnits h.fmt * perUnit h.fmt
    put fun p => (numbers 0 (perUnit h.fmt)).foldl (fun (p : Plane) j =>
      { p with data := SMap.set 0 p.data (planeKey r (c + j)) (BitVec.ofNat 32 (unitElem h.fmt j w)) }) p
  else if k < d.count h.fmt then
    let j := k - d.rows * d.rowUnits h.fmt
    put fun p => { p with scale := SMap.set 0 p.scale (8 * (j / (d.cols / 32)) + j % (d.cols / 32)) (BitVec.ofNat 32 w) }
  else
    let j := k - d.count h.fmt
    let r := j / bitmapWords d.cols
    let c := j % bitmapWords d.cols * 64
    put fun p => (numbers 0 (min 64 (d.cols - c))).foldl (fun (p : Plane) b => p.setBit (planeKey r (c + b)) (w / 2 ^ b % 2 = 1)) p

/-- R251: the planes exchange. -/
def Matrix.flip (m : Matrix) : Matrix := { m with active := m.shadow, shadow := m.active }

def mflipBody (c : Ctx) (s : State) : Effect :=
  match c.trowelFaults with
  | f :: _ => .trap f
  | [] => if c.tm.mat.order.isEmpty then .done (s.modMatrix c.t.team Matrix.flip) else .done (c.startMatrix s .mflip none [])

/-! ## mop (R146, R252-R254) -/

/-- R146: M, N, K of a shape code and its mode; mode 2 takes the rows of mode 0. -/
def shapeOf (mode code : Nat) : Option (Nat × Nat × Nat) :=
  match mode, code with
  | 0, 0 | 2, 0 => some (64, 64, 64)
  | 0, 1 | 2, 1 => some (128, 64, 64)
  | 0, 2 | 2, 2 => some (256, 64, 64)
  | 0, 3 | 2, 3 => some (32, 64, 64)
  | 0, 4 | 2, 4 => some (16, 64, 64)
  | 0, 5 | 2, 5 => some (64, 32, 64)
  | 0, 6 | 2, 6 => some (64, 16, 64)
  | 0, 7 | 2, 7 => some (64, 64, 32)
  | 0, 8 | 2, 8 => some (64, 64, 16)
  | 1, 16 => some (16, 16, 16)
  | 1, 17 => some (32, 16, 16)
  | 1, 18 => some (64, 16, 16)
  | 3, 24 => some (64, 64, 32)
  | 3, 25 => some (128, 64, 32)
  | 3, 26 => some (256, 64, 32)
  | 3, 27 => some (64, 64, 64)
  | _, _ => none

/-- R146: K scaled for the format; not in the complex mode. -/
def scaledK (mode k fmt : Nat) : Nat := if mode = 3 then k else if fmt = 11 then 2 * k else if fmt = 12 then 4 * k else k

def rndOf (n : Nat) : Rnd := match n with | 0 => .rne | 1 => .rz | 2 => .rd | _ => .ru

def MopBlock.ofBits (r : Nat) : MopBlock where
  mode := bitsAt r 0 1 0
  shape := bitsAt r 0 7 3
  md := rndOf (bitsAt r 0 11 10)
  acc := bitsAt r 0 12 12 = 1
  t0 := bitsAt r 0 35 32
  i0 := bitsAt r 1 23 0
  i1 := bitsAt r 1 47 24
  i2 := bitsAt r 2 23 0
  i3 := bitsAt r 2 47 24
  abm := bitsAt r 3 56 0

/-- R252: the reserved fields. -/
def mopReserved : List (Nat × Nat × Nat) :=
  [(0, 2, 2), (0, 9, 8), (0, 31, 13), (0, 39, 36), (0, 63, 48), (1, 63, 48), (2, 63, 48), (3, 63, 57), (4, 63, 0), (5, 63, 0), (6, 63, 0), (7, 63, 0)]

/-- R254: how many tiles the mode writes. -/
def mopTiles (mode m : Nat) : Nat := match mode with | 1 => 4 | 3 => 2 * ((m + 63) / 64) | _ => (m + 63) / 64

/-- R245, R254, R255: the tiles that an operation writes or reads. -/
def EngKind.tiles : EngKind → List Nat
  | .mop b _ => match shapeOf b.mode b.shape with | some (m, _, _) => numbers b.t0 (mopTiles b.mode m) | none => []
  | .mrd t h _ _ _ => if isComplex (Handle.ofRecord h).fmt then [t, t + 1] else [t]
  | _ => []

/-- R245: an operation needs the planes or the tiles as an older one in matrix order leaves them, or must leave them to it: an mwld writes the shadow
plane, an mflip exchanges the planes, an mop uses the active one; an mop reads and writes its tiles, which an mrd reads. -/
def EngKind.waitsFor (older newer : EngKind) : Bool :=
  match older, newer with
  | .mwld _ _ _, .mwld _ _ _ | .mwld _ _ _, .mflip | .mflip, .mwld _ _ _ | .mflip, .mflip | .mflip, .mop _ _ | .mop _ _, .mflip => true
  | .mop _ _, _ | .mrd _ _ _ _ _, .mop _ _ => older.tiles.any newer.tiles.contains
  | _, _ => false

/-- R146: a format of the shape's row. -/
def State.mopFmtOk (s : State) (mode fmt : Nat) : Bool := s.arrayFmt fmt && if mode = 3 then fmt = 13 else fmt = 1 || fmt = 2 || isBx fmt

/-- R253, R391: the checks that do not depend on the handle. -/
def Ctx.mopFaults (c : Ctx) (s : State) (r : Nat) : List TrapInfo :=
  let b := MopBlock.ofBits r
  let n := bitsAt r 0 47 40
  reservedFaults n r mopReserved
    ++ (match shapeOf b.mode b.shape with
        | none => [engineFault 0x61 n 0 1]
        | some (m, _, _) => if b.t0 + mopTiles b.mode m ≤ (s.launchOf c.tm).body.acc then [] else [engineFault 0x61 n 4 6])
    ++ (if b.mode = 2 then c.bitmapFaults s n 24 b.abm else if b.abm = 0 then [] else [engineFault 0x61 n 24 5])

/-- R253, R391: the checks on the handle and the plane. -/
def State.mopHandleFaults (s : State) (n : Nat) (b : MopBlock) (h : Handle) (p : PlaneHead) : List TrapInfo :=
  (if s.mopFmtOk b.mode h.fmt then [] else [engineFault 0x61 n 0 1])
    ++ (if h.fmt = p.fmt then [] else [engineFault 0x61 n 0 2])
    ++ (if b.mode = 3 then (if h.dom && p.dom && h.blk = p.blk then [] else [engineFault 0x61 n 0 3])
        else if h.dom || p.dom then [engineFault 0x61 n 0 3] else [])
    ++ (if isBx h.fmt && b.i0 % 32 ≠ 0 then [engineFault 0x61 n 8 4] else [])

/-- R254: the rows of activations that the operation works through: (m, j) as j * M + m; in the batched mode j is the product. -/
def mopRows (b : MopBlock) : Nat :=
  match shapeOf b.mode b.shape with
  | none => 0
  | some (m, _, _) => if b.mode = 1 then 16 * m else m

def mopBody (c : Ctx) (s : State) : Effect :=
  let w := c.checkWord s
  let d := c.readDesc w.s 1 (c.r.ea0 c.e.a 1 (qOff c.e 16)) 64 64
  let b := MopBlock.ofBits d.value
  let n := bitsAt d.value 0 47 40
  let own := if d.faults.isEmpty then c.mopFaults d.s d.value ++ c.handleFaults s n (fun h => d.s.mopHandleFaults n b h (s.planeHeads c.tm.mat).1) else []
  match firstFault (c.trowelFaults ++ w.faults ++ d.faults ++ own) with
  | some f => .trap f
  | none => .done (c.startMatrix (c.capture d.s n) (.mop b (c.handleRecord s n)) (some c.compWord) (numbers 0 (mopRows b)))

/-- Units of a row of a handle, read one by one; outside the extents 0 with no access. Structural on the count. -/
def readUnits (x : Work) (h : Handle) (i1 i2 i3 : Nat) : Nat → Nat → Except TrapInfo (Work × List Nat)
  | _, 0 => .ok (x, [])
  | i0, n + 1 =>
    let got := if h.inside i0 i1 i2 i3 then engineReadClean x 4 (h.addr i0 i1 i2 i3) (fmtBytes h.fmt) (fmtBytes h.fmt) else .ok (x, 0)
    match got with
    | .error f => .error f
    | .ok (x, w) =>
      match readUnits x h i1 i2 i3 (i0 + perUnit h.fmt) n with
      | .error f => .error f
      | .ok (x, l) => .ok (x, (numbers 0 (perUnit h.fmt)).map (fun j => unitElem h.fmt j w) ++ l)

/-- Scale entries of a row's blocks, from the block of i0 on. -/
def readScales (x : Work) (h : Handle) (i1 i2 i3 : Nat) : Nat → Nat → Except TrapInfo (Work × List Nat)
  | _, 0 => .ok (x, [])
  | i0, n + 1 =>
    let got := if h.inside i0 i1 i2 i3 then engineReadClean x 4 (h.scaleAddr i0 i1 i2 i3) 4 4 else .ok (x, 0)
    match got with
    | .error f => .error f
    | .ok (x, w) =>
      match readScales x h i1 i2 i3 (i0 + 32) n with
      | .error f => .error f
      | .ok (x, l) => .ok (x, w :: l)

/-- A row of n real elements as values, with their raw bits. -/
def readRow (x : Work) (h : Handle) (i0 i1 i2 i3 n : Nat) : Except TrapInfo (Work × List (Nat × Nat)) :=
  match readUnits x h i1 i2 i3 i0 (n / perUnit h.fmt) with
  | .error f => .error f
  | .ok (x, raw) =>
    if isBx h.fmt then
      match readScales x h i1 i2 i3 i0 (n / 32) with
      | .error f => .error f
      | .ok (x, sc) => .ok (x, (numbers 0 n).map fun k => ((raw[k]?).getD 0, (sc[k / 32]?).getD 0))
    else .ok (x, raw.map fun w => (w, 0))

/-- R254: 64-bit words of the activation bitmap of row m. -/
def readBits (x : Work) : Nat → Nat → Except TrapInfo (Work × Nat)
  | _, 0 => .ok (x, 0)
  | ea, n + 1 =>
    match engineReadClean x 4 (BitVec.ofNat 64 ea) 8 8 with
    | .error f => .error f
    | .ok (x, w) =>
      match readBits x (ea + 8) n with
      | .error f => .error f
      | .ok (x, v) => .ok (x, w + 2 ^ 64 * v)

def zeroVal : FVal := .fin false 0 0

/-- R254: write the outputs of a row: (tile key, products by position), each from its tile value or +0. -/
def writeOutputs (x : Work) (b : MopBlock) (groups : Nat) (l : List (Nat × List (List FVal))) : Work :=
  (x.1.modMatrix x.2.t.team fun m =>
    { m with tiles := l.foldl (fun tiles o =>
        SMap.set 0 tiles o.1 (BitVec.ofNat 32 (accumulate b.md groups (if b.acc then (SMap.get 0 tiles o.1).toNat else 0) o.2))) m.tiles }, x.2)

/-- R254: rows of the complex mode: act(n, m, q) for q < K. Structural on K. -/
def readComplexRows (x : Work) (h : Handle) (b : MopBlock) (m n : Nat) : Nat → Nat → Except TrapInfo (Work × List (List Nat))
  | _, 0 => .ok (x, [])
  | q, k + 1 =>
    match readUnits x h (b.i1 + m) (b.i2 + q) b.i3 b.i0 n with
    | .error f => .error f
    | .ok (x, l) =>
      match readComplexRows x h b m n (q + 1) k with
      | .error f => .error f
      | .ok (x, ls) => .ok (x, l :: ls)

/-- R254: the memory accesses of one row of activations, whose elements are read once: in the complex mode act(n, m, q) at q N + n; else each
element with its scale entry, and the row's bitmap last. -/
def mopRead (x : Work) (b : MopBlock) (h : Handle) (k : Nat) : Except TrapInfo (Work × List Nat) :=
  match shapeOf b.mode b.shape with
  | none => .ok (x, [0])
  | some (M, N, K0) =>
    let K := scaledK b.mode K0 h.fmt
    if b.mode = 3 then (readComplexRows x h b k N 0 K).map fun r => (r.1, r.2.flatten)
    else
      let j := k / M
      let m := k % M
      match readRow x h b.i0 (b.i1 + m) (b.i2 + if b.mode = 1 then j else 0) b.i3 K with
      | .error f => .error f
      | .ok (x, row) =>
        let pairs := row.flatMap fun p => [p.1, p.2]
        if b.mode = 2 then (readBits x (b.abm + 8 * (m * bitmapWords K)) (bitmapWords K)).map fun r => (r.1, pairs ++ [r.2])
        else .ok (x, pairs ++ [2 ^ K - 1])

/-- R254: every output that a row of activations feeds is computed from what was read and from the active plane, and written. -/
def mopWrite (x : Work) (b : MopBlock) (h : Handle) (k : Nat) (ws : List Nat) : Work :=
  match shapeOf b.mode b.shape with
  | none => x
  | some (M, N, K0) =>
    let K := scaledK b.mode K0 h.fmt
    let p := match x.1.team x.2.t.team with | some tm => tm.mat.active | none => {}
    let at' (i : Nat) : Nat := (ws[i]?).getD 0
    if b.mode = 3 then
      let act (q n : Nat) : Nat := at' (q * N + n)
      let re (n q : Nat) : List FVal :=
        [(realVal 13 (act q n) 0).mul (p.val q n), ((imagVal 13 (act q n)).mul (p.imag q n)).negate]
      let im (n q : Nat) : List FVal := [(realVal 13 (act q n) 0).mul (p.imag q n), (imagVal 13 (act q n)).mul (p.val q n)]
      let t := b.t0 + 2 * (k / 64)
      writeOutputs x b ((K + 31) / 32) ((numbers 0 N).flatMap fun n =>
        [(tileKey t (k % 64) n, (numbers 0 K).map (re n)), (tileKey (t + 1) (k % 64) n, (numbers 0 K).map (im n))])
    else
      let j := k / M
      let m := k % M
      let bits := at' (2 * K)
      let act (i : Nat) : FVal := realVal h.fmt (at' (2 * i)) (at' (2 * i + 1))
      let prod (n i : Nat) : List FVal :=
        if b.mode = 1 then [(act i).mul (p.val (16 * (j % 4) + n) (K * (j / 4) + i))]
        else if b.mode = 2 && !(bits / 2 ^ i % 2 = 1 && p.bit n i) then [zeroVal]
        else [(act i).mul (p.val n i)]
      let key (n : Nat) : Nat := if b.mode = 1 then tileKey (b.t0 + j / 4) m (16 * (j % 4) + n) else tileKey (b.t0 + m / 64) (m % 64) n
      writeOutputs x b ((K + 31) / 32) ((numbers 0 N).map fun n => (key n, (numbers 0 K).map (prod n)))

/-- R245: the memory accesses of an element of an operation that may make them before its turn in the matrix order. -/
def readAhead (x : Work) (k : Nat) : Except TrapInfo (Work × List Nat) :=
  match x.2.kind with
  | .mwld h d bm => mwldRead x (.ofRecord h) d bm k
  | .mop b h => mopRead x b (.ofRecord h) k
  | _ => .ok (x, [])

/-- R245: an element of such an operation in its turn: what it has read already, or reads now, takes effect. -/
def inTurn (x : Work) (k : Nat) (write : Work → List Nat → Work) : Except TrapInfo Work :=
  match SMap.get [] x.2.ahead k with
  | [] => (readAhead x k).map fun r => write r.1 r.2
  | ws => .ok (write x ws)

/-! ## mrd (R255) -/

def State.mrdFmtOk (s : State) (fmt : Nat) : Bool := s.arrayFmt fmt && (fmt = 0 || fmt = 1 || fmt = 2 || isComplex fmt)

def mrdBody (c : Ctx) (s : State) : Effect :=
  let w := c.checkWord s
  let n := c.e.a.toNat
  let t := c.e.d.toNat
  let a := (s.launchOf c.tm).body.acc
  let d := c.readDesc w.s 1 (c.r.ea0 c.e.b 1 (qOff c.e 16)) 16 16
  let own := if d.faults.isEmpty then tileFaults n d.value 2 0 else []
  let tf := if t < a then [] else [engineFault 0x61 n 0 6]
  let hf := c.handleFaults s n fun h =>
    (if s.mrdFmtOk h.fmt then [] else [engineFault 0x61 n 0 2]) ++ (if isComplex h.fmt ∧ a ≤ t + 1 then [engineFault 0x61 n 0 6] else [])
  match firstFault (c.trowelFaults ++ w.faults ++ d.faults ++ own ++ tf ++ hf) with
  | some f => .trap f
  | none =>
    let td := TileDesc.ofBits d.value
    .done (c.startMatrix (c.revoke (c.capture d.s n)) (.mrd t (c.handleRecord s n) td c.e.rnd c.e.sat) (some c.compWord) (numbers 0 (td.rows * td.cols)))

/-- R255: a tile value as a part of an element. -/
def mrdPart (fmt : Nat) (rnd : Rnd) (sat : Bool) (w : Nat) : Nat := (partFmt fmt).saturate sat ((partFmt fmt).ofVal rnd (F32.decode w))

def mrdElement (x : Work) (tile : Nat) (h : Handle) (d : TileDesc) (rnd : Rnd) (sat : Bool) (k : Nat) : Except TrapInfo Work :=
  let r := k / d.cols
  let c := k % d.cols
  if h.inside (d.i0 + c) (d.i1 + r) d.i2 d.i3 then
    let v (t : Nat) : Nat := mrdPart h.fmt rnd sat (SMap.get 0 x.2.tiles (tileKey t r c)).toNat
    let w := if isComplex h.fmt then v tile + 2 ^ partBits h.fmt * v (tile + 1) else v tile
    (engineWrite x 4 (h.addr (d.i0 + c) (d.i1 + r) d.i2 d.i3) (fmtBytes h.fmt) (fmtBytes h.fmt) w).map (·.1)
  else .ok x

/-! ## The instructions -/

/-- R250. -/
def execMwld (w : Words) (s : State) := issueWords 0x68 w (engine mwldBody) s
/-- R251. -/
def execMflip (w : Words) (s : State) := issueWords 0x69 w mflipBody s
/-- R254. -/
def execMop (w : Words) (s : State) := issueWords 0x6A w (engine mopBody) s
/-- R246. -/
def execMjoin (w : Words) (s : State) := issueWords 0x6B w mjoinBody s
/-- R247. -/
def execMtake (w : Words) (s : State) := issueWords 0x6C w mtakeBody s
/-- R248. -/
def execMpass (w : Words) (s : State) := issueWords 0x6D w mpassBody s
/-- R255. -/
def execMrd (w : Words) (s : State) := issueWords 0x6E w (engine mrdBody) s

end Sys2Proof.Machine
end

