-- ==== Sys2Proof/Machine/Transform.lean ====
section
/-!
DEFINITION. The transforms xfwd and xinv (R108-R110, R256, R257) and quantisation, qbx and dqbx (R97-R99, R107, R258, R259).
-/
namespace Sys2Proof.Machine

/-! ## Twiddles (R110)

cos(2 pi k / 256) in fixed point with 300 fraction bits: halving from cos(pi/2) = 0, then the recurrence over k. The error is
far below what decides a rounding to f32. -/

def cosBits : Nat := 300
def cosOne : Nat := 2 ^ cosBits
/-- cos(x/2) from cos x at 0 or above. -/
def halfCos (c : Nat) : Nat := isqrt ((cosOne + c) / 2 * cosOne)
/-- cos(2 pi / 256). -/
def cosStep : Nat := halfCos (halfCos (halfCos (halfCos (halfCos (halfCos 0)))))
/-- cos(2 pi k / 256) for k up to 63 from its two predecessors. Structural on k. -/
def cosFrom : Nat → Nat → Nat → Nat
  | 0, _, cur => cur
  | k + 1, prev, cur => cosFrom k cur (2 * cosStep * cur / cosOne - prev)
def cosQuarter (k : Nat) : Nat := if k = 0 then cosOne else if k = 64 then 0 else cosFrom (k - 1) cosOne cosStep
/-- R110: round_f32 of cos(2 pi k / 256), symmetric in sign. -/
def cosVal (k : Nat) : FVal :=
  let r (neg : Bool) (q : Nat) : FVal := F32.decode (F32.round .rne (neg && q ≠ 64) (cosQuarter q) (-(cosBits : Int)))
  let j := k % 256
  if j ≤ 64 then r false j else if j ≤ 128 then r true (128 - j) else if j ≤ 192 then r true (j - 128) else r false (256 - j)
/-- R110: the real and imaginary parts of w_b(j). -/
def twiddle (b j : Nat) : FVal × FVal :=
  let k := j % b * (256 / b)
  (cosVal k, (cosVal (k + 192)).negate)

/-- R110: X[k], each part rounded once to the format of the handle. DEDUCED (log entry 110): an infinite input times a twiddle component of 0 is NaN, as
R100 has it for the matrix array. -/
def forward (fmt b : Nat) (x : List FVal) (k : Nat) : Nat :=
  let f := partFmt fmt
  let w (n : Nat) : FVal × FVal := twiddle b (n * k)
  let re := f.ofVal .rne (exactSum .rne (x.mapIdx fun n v => v.mul (w n).1))
  let im := if k = 0 ∨ k = b / 2 then 0 else f.ofVal .rne (exactSum .rne (x.mapIdx fun n v => v.mul (w n).2))
  re + 2 ^ partBits fmt * im

def FVal.scale (v : FVal) (e : Int) : FVal :=
  match v with
  | .fin s m x => .fin s m (x + e)
  | v => v

/-- R110: y[n] from the b spectral values; for an infinite value times 0, log entry 110 (DEDUCED) as in `forward`. -/
def inverse (fmt b : Nat) (y : List (FVal × FVal)) (n : Nat) : Nat :=
  let terms := (y.mapIdx fun k v =>
    let w := twiddle b (n * k)
    if k = 0 ∨ k = b / 2 then [v.1.mul w.1] else [v.1.mul w.1, v.2.mul w.2]).flatten
  (partFmt fmt).ofVal .rne ((exactSum .rne terms).scale (-(Nat.log2 b : Int)))

/-- R109: the b spectral values of a stored block. -/
def spectrum (h : Handle) (raw : List Nat) : List (FVal × FVal) :=
  let b := blkSize h.blk
  let at' (k : Nat) : FVal × FVal := (realVal h.fmt ((raw[k]?).getD 0) 0, imagVal h.fmt ((raw[k]?).getD 0))
  (numbers 0 b).map fun k => if h.sym ∧ b / 2 < k then ((at' (b - k)).1, (at' (b - k)).2.negate) else at' k

/-! ## Checks at issue (R256-R259, R390, R391) -/

def realFmt (fmt : Nat) : Bool := fmt ≤ 2
def domainFault (num reason : Nat) : TrapInfo := engineFault 0x62 num 0 reason

/-- R256, R257: `hs` the source, `hd` the destination; `spec` the one of them that is in the frequency domain. -/
def transformFaults (fwd : Bool) (nd ns : Nat) (hd hs : Handle) : List TrapInfo :=
  let sp := fun (h : Handle) => !h.dom && realFmt h.fmt
  let fq := fun (h : Handle) => h.dom && isComplex h.fmt
  let spec := if fwd then hd else hs
  let space := if fwd then hs else hd
  let b := blkSize spec.blk
  (if hs.valid && !(if fwd then sp hs else fq hs) then [domainFault ns 0] else [])
    ++ (if hd.valid && !(if fwd then fq hd else sp hd) then [domainFault nd 1] else [])
    ++ (if spec.valid && spec.blk = 0 then [domainFault (if fwd then nd else ns) 2] else [])
    ++ (if hs.valid && hd.valid && b ≠ 0 && !(hs.d1 = hd.d1 && hs.d2 = hd.d2 && hs.d3 = hd.d3
          && space.d0 % b = 0 && spec.d0 % storedLen spec = 0 && spec.d0 / storedLen spec = space.d0 / b) then [domainFault nd 3] else [])
    ++ (if hs.valid then [] else [engineFault 0x63 ns 0 0]) ++ (if hd.valid then [] else [engineFault 0x63 nd 0 0])

/-- R258, R259: `real` the real tensor, `blocks` the block format one. -/
def quantFaults (toBlocks : Bool) (nd ns : Nat) (hd hs : Handle) : List TrapInfo :=
  let okS := if toBlocks then realFmt hs.fmt else isBx hs.fmt
  let okD := if toBlocks then isBx hd.fmt else realFmt hd.fmt
  (if hs.valid && !okS then [engineFault 0x61 ns 0 2] else []) ++ (if hd.valid && !okD then [engineFault 0x61 nd 0 2] else [])
    ++ (if hs.valid && hd.valid && !(hs.rank = hd.rank && hs.d0 = hd.d0 && hs.d1 = hd.d1 && hs.d2 = hd.d2 && hs.d3 = hd.d3) then
          [engineFault 0x61 nd 0 7] else [])
    ++ (if hs.valid then [] else [engineFault 0x63 ns 0 0]) ++ (if hd.valid then [] else [engineFault 0x63 nd 0 0])

/-- Blocks of `len` elements of a handle. -/
def Handle.blocks (h : Handle) (len : Nat) : Nat := h.d0 / len * h.d1 * h.d2 * h.d3

/-- R202, R390: the issue of a transform or quantisation. -/
def twoHandleBody (faults : Nat → Nat → Handle → Handle → List TrapInfo) (kind : Nat → Nat → Nat → Ext → EngKind) (len : Handle → Handle → Nat × Nat)
    (c : Ctx) (s : State) : Effect :=
  let w := c.checkWord s
  let nd := c.e.d.toNat
  let ns := c.e.a.toNat
  let rd := c.handleRecord s nd
  let rs := c.handleRecord s ns
  match firstFault (w.faults ++ faults nd ns (Handle.ofRecord rd) (Handle.ofRecord rs)) with
  | some f => .trap f
  | none =>
    let n := len (Handle.ofRecord rd) (Handle.ofRecord rs)
    c.startOp (c.capture (c.capture w.s ns) nd) (kind nd rd rs c.e) (numbers 0 ((Handle.ofRecord rs).d1 * (Handle.ofRecord rs).d2 * (Handle.ofRecord rs).d3 * (n.1 / n.2))) true

/-- Block e as (j, i1, i2, i3), j fastest, of J blocks in a row. -/
def blockIndex (h : Handle) (J e : Nat) : Nat × Nat × Nat × Nat :=
  (e % J, e / J % h.d1, e / J / h.d1 % h.d2, e / J / h.d1 / h.d2)

/-! ## Element accesses -/

/-- Consecutive elements of a row written one by one. -/
def writeRow (x : Work) (h : Handle) (i1 i2 i3 : Nat) : Nat → List Nat → Except TrapInfo Work
  | _, [] => .ok x
  | i0, w :: ws =>
    match engineWrite x 4 (h.addr i0 i1 i2 i3) (fmtBytes h.fmt) (fmtBytes h.fmt) w with
    | .error f => .error f
    | .ok (x, _) => writeRow x h i1 i2 i3 (i0 + perUnit h.fmt) ws

/-- R256. -/
def xfwdElement (x : Work) (hd hs : Handle) (e : Nat) : Except TrapInfo Work :=
  let b := blkSize hd.blk
  let L := storedLen hd
  let p := blockIndex hs (hs.d0 / b) e
  match readRow x hs (p.1 * b) p.2.1 p.2.2.1 p.2.2.2 b with
  | .error f => .error f
  | .ok (x, l) =>
    let v := l.map fun w => realVal hs.fmt w.1 0
    writeRow x hd p.2.1 p.2.2.1 p.2.2.2 (p.1 * L) ((numbers 0 L).map (forward hd.fmt b v))

/-- R257. -/
def xinvElement (x : Work) (hd hs : Handle) (e : Nat) : Except TrapInfo Work :=
  let b := blkSize hs.blk
  let L := storedLen hs
  let p := blockIndex hs (hs.d0 / L) e
  match readUnits x hs p.2.1 p.2.2.1 p.2.2.2 (p.1 * L) L with
  | .error f => .error f
  | .ok (x, raw) =>
    let y := spectrum hs raw
    writeRow x hd p.2.1 p.2.2.1 p.2.2.2 (p.1 * b) ((numbers 0 b).map (inverse hd.fmt b y))

/-! ## Quantisation (R99) -/

/-- The integer nearest to |x| S / 2^(E - 127), S = 2^k; NaN and infinities do not reach it. -/
def magOf (md : Rnd) (k : Nat) (v : FVal) (E : Nat) : Nat :=
  match v with
  | .fin s m x => roundUnits md s m (x + k - ((E : Int) - 127)) false
  | _ => 0

/-- R99: selector and m of a value. -/
def bxEncode (md : Rnd) (k mmax E0 E1 : Nat) (v : FVal) : Nat × Nat :=
  if magOf md k v E1 ≤ mmax then (1, magOf md k v E1) else (0, min (magOf md k v E0) mmax)

def bxUnder (md : Rnd) (k mmax E0 E1 : Nat) (l : List FVal) : Nat :=
  l.countP fun v => !v.isZero && (bxEncode md k mmax E0 E1 v).2 = 0

/-- R99: E0, E1, selector and m of each of 32 values, and the count. -/
def bxQuantise (md : Rnd) (k mmax : Nat) (l : List FVal) : Nat × Nat × List (Nat × Nat) × Nat :=
  if l.any fun v => match v with | .fin _ _ _ => false | _ => true then (255, 255, l.map (fun _ => (0, 0)), 0)
  else
    let es := l.filterMap fun v => match v with | .fin _ m x => if m = 0 then none else some ((Nat.log2 m : Int) + x) | _ => none
    let E := match es with | [] => 0 | e :: es => (min (max (es.foldl max e + 127) 0) 254).toNat
    let E0 := if E < 254 && l.any (fun v => mmax < magOf md k v E) then E + 1 else E
    let cand := [2, 4, 6, 8].filter (· ≤ E0)
    let j := cand.foldl (fun (m : Option Nat) c => match m with
      | none => some c
      | some b => if bxUnder md k mmax E0 (E0 - c) l < bxUnder md k mmax E0 (E0 - b) l then some c else some b) none
    let E1 := E0 - j.getD 0
    (E0, E1, l.map (fun v => let e := bxEncode md k mmax E0 E1 v; if e.2 = 0 then (0, 0) else e), bxUnder md k mmax E0 E1 l)

/-- The units of a quantised block: bytes of bx8, or pairs of nibbles of bx4. -/
def bxUnits (fmt : Nat) (signs : List Bool) (l : List (Nat × Nat)) : List Nat :=
  let mb := if fmt = 12 then 2 else 6
  let el (j : Nat) : Nat :=
    let e := (l[j]?).getD (0, 0)
    e.2 + e.1 * 2 ^ mb + (if (signs[j]?).getD false then 2 ^ (mb + 1) else 0)
  if fmt = 12 then (numbers 0 16).map fun j => el (2 * j) + 16 * el (2 * j + 1) else (numbers 0 32).map el

/-- R258. -/
def qbxElement (x : Work) (hd hs : Handle) (md : Rnd) (e : Nat) : Except TrapInfo Work :=
  let p := blockIndex hs (hs.d0 / 32) e
  match readRow x hs (p.1 * 32) p.2.1 p.2.2.1 p.2.2.2 32 with
  | .error f => .error f
  | .ok (x, l) =>
    let v := l.map fun w => realVal hs.fmt w.1 0
    let q := if hd.fmt = 12 then bxQuantise md 1 3 v else bxQuantise md 5 63 v
    match writeRow x hd p.2.1 p.2.2.1 p.2.2.2 (p.1 * 32) (bxUnits hd.fmt (l.map fun w => (partFmt hs.fmt).negative w.1) q.2.2.1) with
    | .error f => .error f
    | .ok x =>
      match engineWrite x 4 (hd.scaleAddr (p.1 * 32) p.2.1 p.2.2.1 p.2.2.2) 4 4 (q.1 + 256 * q.2.1 + 65536 * q.2.2.2) with
      | .error f => .error f
      | .ok (x, _) => .ok (x.1, { x.2 with counts := x.2.counts + q.2.2.2 })

/-- R259. -/
def dqbxElement (x : Work) (hd hs : Handle) (md : Rnd) (sat : Bool) (e : Nat) : Except TrapInfo Work :=
  let p := blockIndex hs (hs.d0 / 32) e
  match readRow x hs (p.1 * 32) p.2.1 p.2.2.1 p.2.2.2 32 with
  | .error f => .error f
  | .ok (x, l) =>
    let f := partFmt hd.fmt
    writeRow x hd p.2.1 p.2.2.1 p.2.2.2 (p.1 * 32) (l.map fun w => f.saturate (sat && hd.fmt = 1) (f.ofVal md (realVal hs.fmt w.1 w.2)))

/-! ## The instructions -/

def xfwdBody : Ctx → State → Effect := twoHandleBody (transformFaults true) (fun _ rd rs _ => .xfwd rd rs) fun hd hs => (hs.d0, blkSize hd.blk)
def xinvBody : Ctx → State → Effect := twoHandleBody (transformFaults false) (fun _ rd rs _ => .xinv rd rs) fun _ hs => (hs.d0, storedLen hs)
def qbxBody : Ctx → State → Effect := twoHandleBody (quantFaults true) (fun nd rd rs e => .qbx nd rd rs e.rnd) fun _ hs => (hs.d0, 32)
def dqbxBody : Ctx → State → Effect := twoHandleBody (quantFaults false) (fun _ rd rs e => .dqbx rd rs e.rnd e.sat) fun _ hs => (hs.d0, 32)

/-- R256. -/
def execXfwd (w : Words) (s : State) := issueWords 0x6F w (engine xfwdBody) s
/-- R257. -/
def execXinv (w : Words) (s : State) := issueWords 0x70 w (engine xinvBody) s
/-- R258. -/
def execQbx (w : Words) (s : State) := issueWords 0x71 w (engine qbxBody) s
/-- R259. -/
def execDqbx (w : Words) (s : State) := issueWords 0x72 w (engine dqbxBody) s

end Sys2Proof.Machine
end

