-- ==== Sys2Proof/Machine/Perform.lean ====
section
/-!
DEFINITION. Running engine operations: one element (R112), what becomes of a fault (R370), completion (R202), matrix order (R245);
and the requests that a ring's descriptor serves (R81-R83, R221, R232).
-/
namespace Sys2Proof.Machine

/-! ## Ring copies (R232) -/

/-- R80: the ring of a team that an operation fills. -/
def State.ringSize (s : State) (i k : Nat) : Nat := match s.ring i k with | some r => r.size | none => 16

/-- R232: chunk e of a ring copy: 16 bytes of granted slot e / (size / 16). DESIGN CHOICE (log entry 124): R120 lets a copy read its source before a slot
is free; here it reads and writes a chunk in one step, once it has been granted the chunk's slot. -/
def ringElement (x : Work) (k : Nat) (ss : BitVec 3) (src : W64) (slots : List Nat) (e : Nat) : Except TrapInfo Work :=
  match x.1.ring x.2.t.team k with
  | none => .ok x
  | some r =>
    copyPiece x ss (eaPlus ss src (16 * e)) 1 (BitVec.ofNat 64 (r.slotOffset ((slots[e / (r.size / 16)]?).getD 0) + 16 * (e % (r.size / 16)))) 16 1

/-! ## Code fetches (R191, R359) -/

/-- R191, R359: block k of 64 bytes of a code fetch's source, as a load of the operation; a fault where it does not translate, is not executable or is
poisoned, which no one is told. DEDUCED (log entry 114): a source in an executable page whose type is not 0 is a failed fetch too. -/
def fetchElement (x : Work) (src : W64) (k : Nat) : Except TrapInfo Work :=
  let ea := eaPlus 4 src (64 * k)
  match x.1.translate x.2.core x.2.asid ea.toNat false (x.1.opAgent x.2).user with
  | .error f => .error f
  | .ok (s, pa, type, _, exec) =>
    if !exec || type ≠ 0 then .error (memFault 0x41 2 ea.toNat)
    else if s.physPoisoned pa 64 then .error (memFault 0x46 0 ea.toNat)
    else
      let r := s.loadHome none x.2.pts pa 64 (Work.req x ea)
      .ok (r.1, { x.2 with pts := r.2.2, ahead := SMap.set [] x.2.ahead k [r.2.1] })

/-- R191: what a fetch has read of its source, n blocks. -/
def EngOp.fetched (o : EngOp) (n : Nat) : List Byte := (numbers 0 n).flatMap fun k => natBytes 64 ((SMap.get [] o.ahead k).head?.getD 0)

def State.modOverlay (s : State) (i slot : Nat) (f : Overlay → Overlay) : State :=
  s.modTeam i fun tm => { tm with slots := SMap.modify {} tm.slots slot f }

/-- R191: the code-store blocks of a landed slot. -/
def codeBlocks (owner slot : Nat) (bytes : List Byte) (n : Nat) : List CodeBlock :=
  (numbers 0 n).map fun k => { owner, slot, block := k, bytes := (bytes.drop (64 * k)).take 64, bad := false }

/-- R192: no core keeps blocks of what the slot held before. -/
def State.dropSlot (s : State) (i slot : Nat) : State :=
  { s with cores := s.cores.map fun (n, k) => (n, { k with code := k.code.filter fun b => !(b.owner = i && b.slot = slot) }) }

/-- R191, R359: threads that wait for the slot: a jmpf transfers, a cfetch is executed again. DEDUCED (log entry 113): such a cfetch begins again with its
test for a thread in the slot, and goes on after a fetch that failed as after one that landed. -/
def State.wakeSlot (s : State) (i slot : Nat) : State :=
  match s.team i with
  | none => s
  | some tm => tm.tids.foldl (fun s k =>
      let t : TRef := { team := i, tid := k }
      match (tm.threads[k]?).bind Thread.why with
      | some (.jmpf target) => if slotOf target = slot then s.resumeAt t target else s
      | some (.cfetch j) => if j = slot then s.resumeAt t (((tm.threads[k]?).map (·.pc)).getD 0) else s
      | _ => s) s

/-- R191: a fetch of which every byte has been read lands. -/
def State.landFetch (s : State) (o : EngOp) (slot len : Nat) : State :=
  let i := o.t.team
  let bytes := o.fetched (len / 64)
  let s := s.modOverlay i slot fun v => { v with state := 2, bytes }
  let s := (s.dropSlot i slot).modCore o.core fun k => { k with code := (codeBlocks i slot bytes (len / 64) ++ k.code).take codeBlocksHeld }
  (s.wakeSlot i slot).dropOp o

/-- R359: a fetch whose source cannot all be read ends without landing. -/
def State.failFetch (s : State) (o : EngOp) (slot : Nat) : State :=
  ((s.modOverlay o.t.team slot fun v => { v with state := 0, failed := true }).wakeSlot o.t.team slot).dropOp o

/-! ## Elements -/

/-- The element accesses of an operation. -/
def performElement (x : Work) (k : Nat) : Except TrapInfo Work :=
  match x.2.kind with
  | .cpy ds dst ss src count => cpyElement x ds dst ss src count k
  | .ring r ss src _ slots => ringElement x r ss src slots k
  | .gath ds dst ss src z idx => gathElement x ds dst ss src z idx k
  | .scat ds dst ss src z idx => scatElement x ds dst ss src z idx k
  | .ldt h space tile d => ldtElement x (.ofRecord h) space tile d k
  | .stt h space tile d => sttElement x (.ofRecord h) space tile d k
  | .coll kind d => collElement x kind d k
  | .mwld h d bm => inTurn x k fun x ws => mwldWrite x (.ofRecord h) d bm k ws
  | .mflip => .ok x
  | .mop b h => inTurn x k fun x ws => mopWrite x b (.ofRecord h) k ws
  | .mrd tile h d rnd sat => mrdElement x tile (.ofRecord h) d rnd sat k
  | .xfwd hd hs => xfwdElement x (.ofRecord hd) (.ofRecord hs) k
  | .xinv hd hs => xinvElement x (.ofRecord hd) (.ofRecord hs) k
  | .qbx _ hd hs md => qbxElement x (.ofRecord hd) (.ofRecord hs) md k
  | .dqbx hd hs md sat => dqbxElement x (.ofRecord hd) (.ofRecord hs) md sat k
  | .cfetch _ src _ => fetchElement x src k

/-- R81: a granted slot with nothing left to write is complete. -/
def State.slotWritten (s : State) (o : EngOp) (k : Nat) : State :=
  match o.kind with
  | .ring r _ _ _ slots =>
    let per := s.ringSize o.t.team r / 16
    if o.todo.any (fun e => e / per = k / per) then s
    else (s.modRing o.t.team r fun q => q.complete ((slots[k / per]?).getD 0)).ringChanged o.t.team r
  | _ => s

/-- One element of the operation, done once: what is left to do, or its fault. -/
def State.doElement (s : State) (o : EngOp) (k : Nat) : Except TrapInfo State :=
  match performElement (s, o) k with
  | .error f => .error f
  | .ok (s, o) =>
    let o := { o with todo := o.todo.filter (· ≠ k) }
    .ok ((s.setOp o).slotWritten o k)

/-- R112, R233: the element that comes next, which is open. -/
def State.nextElement (s : State) (o : EngOp) : Option Nat :=
  (o.todo[Config.nextElement s.free % max 1 o.todo.length]?).map fun k =>
    match o.kind with
    | .scat ds dst _ _ z idx => scatFirst ds dst z idx o.todo k
    | _ => k

/-! ## Tokens (R83, R222) -/

/-- R222: a ring copy of the thread has slots still to reserve. -/
def State.copiesReserving (s : State) (t : TRef) (k : Nat) : Bool :=
  s.ops.any fun o => o.t = t && match o.kind with
    | .ring r _ _ count slots => r = k && slots.length * s.ringSize t.team r < count
    | _ => false

/-- R81, R83: the thread's token is accepted behind earlier requests. -/
def State.acceptToken (s : State) (t : TRef) (k : Nat) : State :=
  (s.modThread t fun th => { th with owes := th.owes.filter (· ≠ k) }).modRing t.team k fun r => { r with reqs := r.reqs ++ [.token] }

/-- R83, R222: once its copies have reserved their slots, the token of a thread that waits in reos, or has exited, is accepted. -/
def State.tokenDue (s : State) (t : TRef) (k : Nat) : State :=
  if s.copiesReserving t k then s
  else
    match s.thread t with
    | none => s
    | some th =>
      if th.owes.contains k then
        (match th.why with
         | some (.reos q) => if q = k then ((s.revokeTeam t.team).acceptToken t k).resume t else s
         | _ => if th.exited then s.acceptToken t k else s)
      else s

/-! ## Faults (R370) -/

/-- R370: a ring copy completes the slots that it has reserved and not completed, with zero bytes in what is not written, and reserves no more. -/
def State.zeroSlots (s : State) (o : EngOp) : State :=
  match o.kind with
  | .ring k _ _ _ slots =>
    match s.ring o.t.team k with
    | none => s
    | some r =>
      let per := r.size / 16
      let s := o.todo.foldl (fun (s : State) e =>
        let l : Loc := .scr o.t.team (r.slotOffset ((slots[e / per]?).getD 0) + 16 * (e % per))
        (s.store none o.pts l 16 0).1) s
      let s := (numbers 0 slots.length).foldl (fun (s : State) i =>
        if o.todo.any (fun e => e / per = i) then s.modRing o.t.team k fun q => q.complete ((slots[i]?).getD 0) else s) s
      let s := s.modRing o.t.team k fun q => { q with reqs := q.reqs.filter (· ≠ .copy o.id) }
      s.ringChanged o.t.team k
  | _ => s

/-- R359, R370. -/
def State.stopOp (s : State) (id : Nat) (f : TrapInfo) : State :=
  match s.op id with
  | none => s
  | some o => match o.kind with
    | .cfetch slot _ _ => s.failFetch o slot
    | _ =>
    let s := (s.zeroSlots o).faultOp { o with todo := [] } f
    match o.kind with
    | .ring k _ _ _ _ => (s.tokenDue o.t k).later [.ringReservation o.t.team k]
    | _ => s

/-! ## Running -/

/-- R245: the operation is not held back by an older one of its team's matrix order. -/
def State.mayRun (s : State) (o : EngOp) : Bool :=
  match s.team o.t.team with
  | some tm => !tm.mat.order.contains o.id || (tm.mat.order.takeWhile (· ≠ o.id)).all fun id => match s.op id with | some p => !p.kind.waitsFor o.kind | none => true
  | none => true

/-- R245: an mrd in its turn takes the tiles as they are; it has then finished with them, and the next operation may run. -/
def State.takeTiles (s : State) (o : EngOp) : State :=
  match o.kind, s.team o.t.team with
  | .mrd _ _ _ _ _, some tm =>
    if tm.mat.order.contains o.id then (s.setOp { o with tiles := tm.mat.tiles }).nextMatrix o.t.team o.id else s
  | _, _ => s

/-- R245: an operation that is held back may still make the memory accesses of an element. -/
def State.stirAhead (s : State) (o : EngOp) (k : Nat) : State :=
  if o.bad.isSome || SMap.get [] o.ahead k ≠ [] then s
  else
    match readAhead (s, o) k with
    | .error f => s.setOp { o with bad := some f }
    | .ok (x, ws) => x.1.setOp { x.2 with ahead := SMap.set [] o.ahead k ws }

/-- R202, R245: an operation performs no more once it has met a fault before its turn. -/
def State.stirNow (s : State) (o : EngOp) (k : Nat) : State :=
  match (match o.bad with | some f => .error f | none => s.doElement o k : Except TrapInfo State) with
  | .ok s => s
  | .error f => s.stopOp o.id f

/-- One more element of an operation, which may fault. -/
def State.stirElement (s : State) (id : Nat) : State :=
  match s.op id with
  | none => s
  | some o =>
    let s := if s.mayRun o then s.takeTiles o else s
    match s.op id with
    | none => s
    | some o =>
      match s.nextElement o with
      | none => s
      | some k =>
        let s := if s.mayRun o then s.tick.stirNow o k else s.tick.stirAhead o k
        { s with ops := s.ops.map fun p => if p.id = id then { p with quiet := 0 } else p }

/-- R119, R290, R301: the operation waits for the fill of a line that it has missed, or for a request that has been refused. -/
def State.opHeld (s : State) (id : Nat) : Bool := s.hodHolds (.op id) || s.awaitsEntry (.op id)

/-- R119, R289, R301: a part of an operation is performed, unless it must wait. -/
def State.attempt (s : State) (o : EngOp) (f : State → State) : State :=
  let s0 := if o.granted.isNone then s else (s.usePlace o.granted).setOp { o with granted := none }
  let u := f s0
  match s0.postpone u (.op o.id) (.op o.id) (enginePort o.core) o.granted with
  | some x => x.1
  | none => u

/-- R119: one more element of an operation that does not wait. -/
def State.stirOp (s : State) (id : Nat) : State :=
  match s.op id with
  | none => s
  | some o => if s.opHeld id then s else s.attempt o fun s => s.stirElement id

/-- R112: every element still to perform, in an open order; a fault ends the operation. Structural on the number left. -/
def State.runOp (s : State) (id : Nat) : Nat → State
  | 0 => s
  | n + 1 => (s.stirOp id).runOp id n

/-- R202: an operation with nothing left to perform completes. A ring copy completes once it has been granted every slot; a code fetch lands (R191). -/
def State.closeOp (s : State) (o : EngOp) : State :=
  match o.kind with
  | .cfetch slot _ len => s.landFetch o slot len
  | .mflip => (s.modMatrix o.t.team Matrix.flip).dropOp o
  | .ring k _ _ count slots => if slots.length * s.ringSize o.t.team k < count then s else s.finishOp o
  | _ => s.finishOp o

/-- R202, R245: an operation that may run performs what is left of it and completes, unless it must wait (R119, R289). -/
def State.completeOp (s : State) (id : Nat) : State :=
  match s.op id with
  | none => s
  | some o =>
    if !s.mayRun o then s
    else
      let s := s.runOp id o.todo.length
      match s.op id with
      | none => s
      | some o =>
        if s.opHeld id || !o.todo.isEmpty then s.later [.engineOpComplete id]
        else
          let s := s.attempt o fun s => s.closeOp o
          if s.awaitsEntry (.op id) then s.later [.engineOpComplete id] else s

/-- R370: an element among those still to perform that would fault now; where several would, which is open. -/
def State.faultingElement (s : State) (o : EngOp) : Option TrapInfo :=
  let k := Config.nextElement s.free % max 1 o.todo.length
  ((o.todo.drop k ++ o.todo.take k).filterMap fun e => match performElement (s, o) e with | .error f => some f | .ok _ => none).head?

/-! ## Requests to a ring (R81, R82, R221, R232) -/

/-- R221: the chunks of an rput's source, each translated on its own; the values read. Structural on the number of chunks. -/
def State.readSlot (s : State) (t : TRef) (a : Agent) (space : BitVec 3) (ea : W64) : Nat → Except TrapInfo (State × List Nat)
  | 0 => .ok (s, [])
  | n + 1 =>
    match s.locate a space ea 16 16 false with
    | .error f => .error f
    | .ok (s, l) =>
      match s.readAt a.core (s.ptsOf t) l 16 (a.req ea.toNat 0 (some (.thread t))) with
      | (_, _, .error f) => .error f
      | (s, pts, .ok v) =>
        match (s.setPts t pts).readSlot t a space (eaPlus space ea 16) n with
        | .error f => .error f
        | .ok (s, l) => .ok (s, v :: l)

/-- R221: the slot's chunks written as accesses of the thread. -/
def State.writeSlot (s : State) (t : TRef) (core off : Nat) : List Nat → State
  | [] => s
  | w :: ws =>
    let r := s.writeAt (some core) (s.ptsOf t) (.scr t.team off) 16 w {}
    (r.1.setPts t r.2).writeSlot t core (off + 16) ws

/-- R221: read the source, reserve slot res, write it; it is complete. -/
def State.putSlot (s : State) (t : TRef) (k : Nat) (space : BitVec 3) (ea : W64) : Except TrapInfo State :=
  match s.team t.team, s.ring t.team k with
  | some tm, some r =>
    let a := s.agentOf t tm
    match s.readSlot t a space ea (r.size / 16) with
    | .error f => .error f
    | .ok (s, l) =>
      let j := r.res
      let s := (s.modRing t.team k Ring.reserve).writeSlot t a.core (r.slotOffset j) l
      .ok ((s.modRing t.team k fun q => q.complete j).ringChanged t.team k)
  | _, _ => .ok s

/-- R81, R232: a ring copy is granted slot res; its next reservation is accepted after it. -/
def State.grantSlot (s : State) (o : EngOp) (k : Nat) : State :=
  match s.ring o.t.team k, o.kind with
  | some r, .ring _ ss src count slots =>
    let per := r.size / 16
    let more := (slots.length + 1) * r.size < count
    let o' := { o with kind := .ring k ss src count (slots ++ [r.res]), todo := o.todo ++ numbers (slots.length * per) per }
    let s := (s.setOp o').modRing o.t.team k fun q => { q.reserve with reqs := q.reqs ++ if more then [.copy o.id] else [] }
    (if more then s else s.tokenDue o.t k).later [.engineOpComplete o.id]
  | _, _ => s

/-- R119, R290, R301, R366: the rput of a thread that its ring has accepted waits: for the fill of a line, a request that has been refused, or an answer from
outside the module. -/
def State.putHeld (s : State) (t : TRef) : Bool :=
  s.hodHolds (.thread t) || s.awaitsEntry (.thread t) || s.agenda.contains (.varResultReturn t 4)

/-- R290, R366: a thread uses the place of a request that has been accepted, and the answer that has returned to it. -/
def State.takeTurn (s : State) (t : TRef) : State :=
  match s.thread t with
  | none => s
  | some th => if th.granted.isNone && !th.answered then s else (s.usePlace th.granted).modThread t fun th => { th with granted := none, answered := false }

/-- R221: an rput whose turn has come in its ring: `s'` is the state with its request taken out. -/
def State.servePut (s s' : State) (t : TRef) (k : Nat) (space : BitVec 3) (ea : W64) : State :=
  match ((s'.takeTurn t).revokeTeam t.team).putSlot t k space ea with
  | .error f => s'.faultWait t f
  | .ok u =>
    match s.team t.team, s.thread t with
    | some tm, some th => match (s.takeTurn t).postponeThread u t (s.coreOf tm t.tid) th.granted th.answered with
      | some x => x.1
      | none => u.resume t
    | _, _ => u

/-- R81: the first request of a descriptor, when it can be served. -/
def State.serveHead (s : State) (i k : Nat) : Option State :=
  match s.ring i k with
  | none => none
  | some r =>
    match r.reqs with
    | [] => none
    | q :: qs =>
      let s' := s.modRing i k fun r => { r with reqs := qs }
      match q with
      | .token => some ((s'.modRing i k Ring.placeToken).ringChanged i k)
      | .put t space ea =>
        if !r.canReserve then none
        else if r.eos then some (s'.faultWait t (ringMisuse 3 ea.toNat))
        else if s.putHeld t then none
        else some (s.servePut s' t k space ea)
      | .copy id =>
        if !r.canReserve then none
        else
          match s'.op id with
          | none => some s'
          | some o =>
            if r.eos then some (s'.stopOp id (ringMisuse 3 (match o.kind with | .ring _ _ src _ _ => src.toNat | _ => 0)))
            else some (s'.grantSlot o k)

/-- R81: requests are served one at a time, in order, while the first can be. Structural on a bound of their number. -/
def State.serveRing (s : State) (i k : Nat) : Nat → State
  | 0 => s
  | n + 1 =>
    match s.serveHead i k with
    | none => s
    | some s => s.serveRing i k n

/-- Every slot and every request bounds what can be served at once. -/
def State.serve (s : State) (i k : Nat) : State :=
  match s.ring i k with
  | none => s
  | some r => s.serveRing i k (2 * r.count + r.reqs.length + 1)

/-! ## Ring instructions -/

/-- R221, R366: what each chunk of the source would meet. Structural on the number of chunks. -/
def State.slotFaults (s : State) (a : Agent) (space : BitVec 3) (ea : W64) : Nat → List TrapInfo
  | 0 => []
  | n + 1 => (s.checkAt a space ea 16 16 false false 0).faults ++ s.slotFaults a space (eaPlus space ea 16) n

/-- R222. -/
def reosBody (c : Ctx) (s : State) : Effect :=
  let k := c.e.a.toNat
  match c.ringOf c.e.a with
  | none => .trap (ringMisuse 0)
  | some _ =>
    if !c.th.owes.contains k then .trap (ringMisuse 2)
    else if s.copiesReserving c.t k then .wait s (.reos k) true
    else .done (((c.revoke s).acceptToken c.t k).serve c.t.team k)

/-! ## Waiting on a completion word (R236) -/

/-- R84, R85, R311: the home slice that holds a monitor on a word: none for an on-chip word, or for one of another module, which that module watches. -/
def State.monitorHome (s : State) : Loc → Option Nat
  | .phys pa 3 => if s.region pa = .fabric then none else some (s.homeOf pa)
  | .phys pa _ => some (s.homeOf pa)
  | _ => none

/-- R85: an entry of a home's table serves all waiters of one team on one word; each waiter in the overflow list is an entry of its own. -/
def State.tableEntries (s : State) (l : List Monitor) : List (Nat × Loc) :=
  l.foldl (fun (l : List (Nat × Loc)) m => if m.overflow || (s.monitorHome m.loc).isNone || l.contains (m.t.team, m.loc) then l else (m.t.team, m.loc) :: l) []

/-- R85, R374: the context's registered monitors, of teams that are resident: table entries and overflow entries. -/
def State.monitorCount (s : State) (asid : Nat) : Nat :=
  let mine := s.monitors.filter fun m => m.asid = asid && match s.team m.t.team with | some tm => tm.status = .placed | none => false
  (s.tableEntries mine).length + mine.countP fun m => m.overflow && (s.monitorHome m.loc).isSome

/-- R85: monitor entries of a home. -/
def State.monitorEntries (s : State) (slice : Nat) : Nat := (s.tableEntries (s.monitors.filter fun m => s.monitorHome m.loc = some slice)).length

/-- R84, R85, R374: the thread registers; the limit of the context stops it with 0x49, where it would take an entry. -/
def State.register (s : State) (m : Monitor) : Except TrapInfo State :=
  match s.monitorHome m.loc with
  | none => .ok { s with monitors := s.monitors ++ [{ m with overflow := false }] }
  | some k =>
    let shares := s.monitors.any fun x => !x.overflow && x.t.team = m.t.team && x.loc = m.loc
    if !shares && 65536 ≤ s.monitorCount m.asid then .error (memFault 0x49 0 m.va)
    else .ok { s with monitors := s.monitors ++ [{ m with overflow := !shares && decide (512 ≤ s.monitorEntries k) }] }

/-- R84, R311: the load that tests a word; the new pts. -/
def State.watchRead (s : State) (l : Loc) (pts n : Nat) (q : Req) : Except TrapInfo (State × Nat × Nat) :=
  match s.readFrom none pts l n q with
  | (s, pts, .ok v) => .ok (s, v, pts)
  | (_, _, .error f) => .error f

/-- R311, R314: a monitor on a word of this module that is reached across the fabric lies at the word's home here. -/
def State.homePlace (s : State) (l : Loc) : Loc := if s.isFabric l then ((ownPlace l).map fun pa => Loc.phys pa 0).getD l else l

/-- R84, R197, R236: test a word as an ordinary load at its home; continue, or register and wait. `limit` is where the
type of page is refused. -/
def watch (refuse : Loc → Option TrapInfo) (n : Nat) (fn : BitVec 5) (signed : Bool) (value : Nat) (c : Ctx) (s : State) : Effect :=
  let ea := c.r.ea c.e c.e.a false
  let a := c.agent s
  match s.locate a c.e.space ea n n false (if c.op = 0x67 then 2 else 0) with
  | .error f => .trap f
  | .ok (s, l) =>
    match refuse l with
    | some f => .trap f
    | none =>
        match s.watchRead l (s.ptsOf c.t) n (a.req ea.toNat 0 (some (.thread c.t))) with
        | .error f => .trap f
        | .ok r =>
        let s := r.1.setPts c.t r.2.2
        if condHolds fn.toNat signed (8 * n) r.2.1 value then .done (s.writeDest c.t c.e.d (8 * n) r.2.1)
        else
          match s.register { t := c.t, asid := s.asidOf c.tm, va := ea.toNat, loc := s.homePlace l, n, fn, signed, value := BitVec.ofNat 64 value, dest := c.e.d, overflow := false } with
          | .error f => .trap f
          | .ok s => .wait s .monitor true

/-- R236, R202: a completion word lies in a type 0 page. -/
def waitoBody (c : Ctx) (s : State) : Effect :=
  watch (fun l => if l.outsideType0 then some (memFault 0x44 5 (c.r.ea c.e c.e.a false).toNat) else none) 8 5 false (c.val c.e.b 64) c s

/-! ## The instructions -/

/-- R222. -/
def execReos (w : Words) (s : State) := issueWords 0x5E w reosBody s
/-- R236. -/
def execWaito (w : Words) (s : State) := issueWords 0x67 w waitoBody s
/-- R81, R82. -/
def execRingReservation (team ring : Nat) (s : State) : Host.Outcome State Fault Refusal := .next (s.serve team ring)
/-- R202. -/
def execEngineOpComplete (op : Nat) (s : State) : Host.Outcome State Fault Refusal := .next (s.completeOp op)
/-- R370: no effect where no element access of the operation faults. -/
def execEngineElementFault (op : Nat) (s : State) : Host.Outcome State Fault Refusal :=
  .next (match s.op op with
    | none => s
    | some o => if !s.mayRun o then s else match s.faultingElement o with
      | none => s
      | some f => s.tick.stopOp op f)
/-- R392: a collective operation that has found no matching group: nothing has come from the other members. -/
def EngOp.unmatched (o : EngOp) : Bool :=
  match o.kind with
  | .coll kind d => (numbers 0 (collReceived kind d)).all o.todo.contains
  | _ => false
/-- R392: and 1 s has passed since its issue. -/
def State.matchOver (s : State) (o : EngOp) : Bool := o.unmatched && o.issued + 1000000000 ≤ s.ns
/-- R392. -/
def execCollMatchTimeout (op : Nat) (s : State) : Host.Outcome State Fault Refusal :=
  .next (match s.op op with
    | none => s
    | some o => if s.matchOver o then s.stopOp op (engineFault 0x61 0 0 0) else s)

end Sys2Proof.Machine
end

