-- ==== Sys2Proof/Machine/Future.lean ====
section
/-!
DEFINITION. Futures and tasks (R224-R230, R393): fres, tspawn, and the registrations that treg makes.
-/
namespace Sys2Proof.Machine

/-! ## Words -/

/-- R224: state, count and payload of a future word. -/
def futState (w : Nat) : Nat := w % 4
def futCount (w : Nat) : Nat := w / 4 % 2 ^ 14
/-- R225: fields of word 0 of a task record. -/
def recState (w : Nat) : Nat := w / 64 % 4
def recJoin (w : Nat) : Nat := w / 8 % 8
def recNfut (w : Nat) : Nat := w % 8
/-- Word 0 with state, join and pmask replaced. -/
def recWord (w state join pmask : Nat) : Nat := recNfut w + join * 8 + state * 64 + pmask * 256 + w / 2 ^ 12 * 2 ^ 12

/-- R225: the reserved fields. -/
def recReserved : List (Nat × Nat × Nat) :=
  [(0, 63, 12), (1, 63, 57), (2, 63, 57), (3, 63, 57), (4, 63, 57), (5, 63, 57), (6, 63, 0), (7, 63, 0)]

/-- R75, R116, R300: one indivisible step of a thread at a word's home: its new value; the new pts. The L1 of the thread's core drops its copy. -/
def State.stepAt (s : State) (pts pa : Nat) (w : Nat) (q : Req) : State × Nat := s.store (l1Of q.coreid) pts (.phys pa 0) 8 w q

/-! ## Discharging (R226, R229) -/

/-- R226, R229: one step at the record's home, for the request `q`; at join 0 the task starts. -/
def State.discharge (s : State) (pts asid : Nat) (r : Registration) (st : Nat) (q : Req) : State × Nat :=
  let w := s.mem.read r.record 8
  let join := (recJoin w + 7) % 8
  let pmask := w / 256 % 16 ||| (if st = 2 then 2 ^ r.f else 0)
  let x := s.stepAt pts r.record (recWord w (if join = 0 then 2 else recState w) join pmask) { q with asid, va := r.va }
  (if join = 0 then x.1.later [.taskLaunch asid r.va] else x.1, x.2)

/-- R226: every registration held for a future, in the order of registration, with its context. -/
def State.registrations (s : State) (pa : Nat) : List (Nat × Registration) :=
  sortBy (fun a b => a.2.seq ≤ b.2.seq) (s.contexts.flatMap fun c => (c.regs.filter (·.future = pa)).map fun r => (c.asid, r))

/-- R227: registrations that a home holds. -/
def State.registeredAt (s : State) (slice : Nat) : Nat :=
  s.contexts.foldl (fun n c => n + c.regs.countP fun r => s.homeOf r.future = slice) 0

/-! ## fres (R226) -/

/-- R366: the place of an aligned word or record in a type 0 page, unpoisoned, or what stops it. -/
def Ctx.objectAt (c : Ctx) (s : State) (ea : W64) (n : Nat) : Except TrapInfo (State × Nat) :=
  let k := s.checkAt (c.agent s) 4 ea n n true true
  match k.faults, k.loc with
  | f :: _, _ => .error f
  | [], some (.phys pa type) => if k.s.poisoned (.phys pa type) n then .error (memFault 0x46 0 ea.toNat) else .ok (k.s, pa)
  | [], _ => .error (memFault 0x44 5 ea.toNat)

/-- R300: the request of a thread for a .g address. -/
def Ctx.req (c : Ctx) (s : State) (ea : W64) : Req := (c.agent s).req ea.toNat 0 (some (.thread c.t))

/-- R226, R393; sat is the .poison suffix. -/
def fresBody (poison : Bool) (c : Ctx) (s : State) : Effect :=
  match c.objectAt s (c.r.ea c.e c.e.a false) 8 with
  | .error f => .trap f
  | .ok (s, pa) =>
    let w := s.mem.read pa 8
    if futState w ≠ 0 then .trap { code := 0x64, aux := BitVec.ofNat 64 w }
    else
      let st := if poison then 2 else 1
      let l := s.registrations pa
      let q := c.req s (c.r.ea c.e c.e.a false)
      let x := (c.revoke s).stepAt (s.ptsOf c.t) pa (st + c.val c.e.b 64 % 2 ^ 48 * 2 ^ 16) q
      let y := l.foldl (fun (x : State × Nat) r => x.1.discharge x.2 r.1 r.2 st q) x
      let s := { y.1 with contexts := y.1.contexts.map fun (k : Context) => { k with regs := k.regs.filter (·.future ≠ pa) } }
      .done (s.setPts c.t y.2)

/-! ## treg and tspawn (R227, R230) -/

/-- R365, R391: a record that is not new, or whose fields are wrong. -/
def recordFault (r : Nat) : Option TrapInfo :=
  if recState (r % 2 ^ 64) ≠ 0 then some (engineFault 0x65 0 0 0)
  else if 4 < recNfut (r % 2 ^ 64) ∨ recReserved.any (fun f => bitsAt r f.1 f.2.1 f.2.2 ≠ 0) then some (engineFault 0x65 0 0 1)
  else none

/-- R227: the futures of a record, each checked at issue (R366). Structural on the list of numbers. -/
def Ctx.futures (c : Ctx) (s : State) (r : Nat) : List Nat → Except TrapInfo (State × List (Nat × Nat))
  | [] => .ok (s, [])
  | f :: fs =>
    match c.objectAt s (BitVec.ofNat 64 (bitsAt r (2 + f) 56 0)) 8 with
    | .error e => .error e
    | .ok (s, pa) =>
      match c.futures s r fs with
      | .error e => .error e
      | .ok (s, l) => .ok (s, (f, pa) :: l)

/-- R227, R228, R229, R393: one registration, one indivisible step at the future's home, for the request `q`; the reason it is refused. The record's word
names the future's address (R225). A future that takes no registration is read there, which raises the registrar's pts to the resolver's. -/
def State.registerTask (s : State) (pts asid : Nat) (r : Registration) (q : Req) : State × Nat × Option Nat :=
  let w := s.mem.read r.future 8
  let q := { q with asid, va := s.mem.read (r.record + 16 + 8 * r.f) 8 % 2 ^ 57 }
  if futState w = 0 && futCount w ≠ 16383 then
    let x := s.stepAt pts r.future (w + 4) q
    ({ x.1 with nextSent := s.nextSent + 1 }.modContext asid fun c => { c with regs := c.regs ++ [{ r with seq := s.nextSent }] }, x.2, none)
  else
    let y := s.loadHome none pts r.future 8 q
    let x := y.1.discharge y.2.2 asid r (if futState w = 0 || futState w = 3 then 2 else futState w) q
    (x.1, x.2, if futState w = 0 then some 2 else if futState w = 3 then some 3 else none)

/-- R230. -/
def tspawnBody (c : Ctx) (s : State) : Effect :=
  let ea := c.r.ea c.e c.e.a false
  match c.objectAt s ea 64 with
  | .error f => .trap f
  | .ok (s, pa) =>
    let r := s.mem.read pa 64
    match recordFault r with
    | some f => .trap f
    | none =>
      let x := (c.revoke s).stepAt (s.ptsOf c.t) pa (recWord (r % 2 ^ 64) 2 (recJoin (r % 2 ^ 64)) 0) (c.req s ea)
      .done ((x.1.later [.taskLaunch (s.asidOf c.tm) ea.toNat]).setPts c.t x.2)

/-! ## The instructions -/

/-- R226. -/
def execFres (w : Words) (s : State) := issueWords 0x60 w (fresBody false) s
/-- R226. -/
def execFresPoison (w : Words) (s : State) := issueWords 0x60 w (fresBody true) s
/-- R230. -/
def execTspawn (w : Words) (s : State) := issueWords 0x62 w tspawnBody s

end Sys2Proof.Machine
end

