-- ==== Sys2Proof/Machine/Send.lean ====
section
/-!
DEFINITION. What travels between decoupled units (R289, R290, R295, R301, R402): the methods and handlers that a slice has in force, what a
receiver accepts, and the replay windows of senders.
-/
namespace Sys2Proof.Machine

/-! ## Methods and handlers in force (R295, R300, R302, R395, R398) -/

/-- No method: what a request carries before a slice accepts it. -/
def noMethod : Method := { valid := false, serial := false, code := [] }

/-- R295: the program that a slice uses for an ASID: until it has copied a new one, the previous. -/
def State.programOn (s : State) (slice asid : Nat) : Option SliceProgram :=
  match s.installing with
  | some i => if i.asid = asid ∧ i.left.contains slice then i.old else SMap.get none s.programs asid
  | none => SMap.get none s.programs asid

/-- R302, R391: the method a call names, or code 0x66. -/
def State.methodOf (s : State) (slice asid m : Nat) : Except TrapInfo Method :=
  match s.programOn slice asid with
  | none => .error (engineFault 0x66 m 0 1)
  | some p =>
    match p.methods[m]? with
    | some k => if k.valid then .ok k else .error (engineFault 0x66 m 0 0)
    | none => .error (engineFault 0x66 m 0 0)

/-- R328, R398: no event of an ASID invokes a handler on a slice. -/
def State.hodDisabled (s : State) (asid slice : Nat) : Bool := !s.present 7 || (SMap.get [] s.hodOff asid).contains slice
/-- R300: the entry of an event of an ASID on a slice, with the top of its image; none when no handler is installed there. -/
def State.handlerOf (s : State) (asid slice kind : Nat) : Option (Nat × Nat) :=
  if s.hodDisabled asid slice then none
  else
    match s.programOn slice asid with
    | none => none
    | some p =>
      let e := match kind with | 1 => p.emiss | 2 => p.efill | 3 => p.eevict | _ => p.emsg
      if p.ilen = 0 ∨ e = 0xFFFF then none else some (e, 1024 * p.ilen)

/-- R301: the reply of a message that runs no handler. -/
def noReply : W64 := 0xFFFFFFFFFFFFFFFF

/-- R76, R301: the request of a miss goes on to its fill. -/
def State.requestFill (s : State) (f : FillReq) : State := s.later [.l2MissFill f.pa f.va f.store f.hint f.asid f.coreid { who := f.who, pts := f.pts, bay := f.bay }]

/-- R301: the default action of an event; the default of a message is its reply. -/
def State.defaultAction (s : State) (e : HodEvent) : State :=
  match e.kind, e.who, e.fill with
  | 4, some (.thread t), _ => s.replyTo t e.dest noReply e.pts
  | 1, _, some f => s.requestFill f
  | _, _, _ => s

/-! ## Receivers (R289) -/

/-- What comes of an entry that a receiver takes: the state, and the refusal (future, reason) that a registration meets (R393). -/
structure Taken where
  s     : State
  fault : Option (Nat × Nat) := none

/-- R289: the requests in the ring push queue of a core's descriptor logic: those of the rings of its teams. -/
def State.pushQueue (s : State) (core : Nat) : Nat :=
  s.teams.foldl (fun n tm => if tm.status = .placed && tm.wave.isNone && tm.core = core then tm.rings.foldl (fun n r => n + r.reqs.length) n else n) 0

/-- R290: a request that a receiver has accepted after all: whose it is goes on with it. -/
def State.grant (s : State) (who : Asking) (place : Nat × Nat) : State :=
  match who with
  | .thread t =>
    let held := s.modThread t fun th => { th with granted := some place }
    match s.why t with
    | some (.refused _) => held.resumeAt t (((s.thread t).map (·.pc)).getD 0)
    | some (.ringSlot _) => held
    | _ => s
  | .op id => { s with ops := s.ops.map fun (o : EngOp) => if o.id = id then { o with granted := some place } else o }
  | .hod k => s.modSlice k fun l => { l with hod := l.hod.map fun r => { r with granted := some place } }
  | .code c => s.modCore c fun k => { k with granted := some place }
  | .service h => { s with harts := SMap.modify {} s.harts h fun x => { x with granted := some place } }

/-- R63: a message takes effect. -/
def State.revokeSender (s : State) (e : HodEvent) : State :=
  match e.kind, e.who with
  | 4, some (.thread t) => s.revokeTeam t.team
  | _, _ => s

/-- R63, R289, R295: a receiver takes an entry, with the method or handler then in force; none when its queue is full. An entry that runs
neither is answered at once. -/
def State.accept (s : State) : Sent → Option Taken
  | .request k port who =>
    if s.standing k port < depthOf k then some { s := (s.modStanding k port (· + 1)).grant who (k, port) } else none
  | .grout k q =>
    match s.methodOf k q.asid q.method with
    | .error f => some { s := s.failCall q.asid q.object q.t q.dest f }
    | .ok m =>
      if (s.slice k).groutq.length < 128 then
        some { s := ((s.revokeTeam q.t.team).modSlice k fun l => { l with groutq := l.groutq ++ [{ q with meth := m }] }).later [.groutWaveStart k] }
      else none
  | .hod k e =>
    match s.handlerOf e.asid k e.kind with
    | none => some { s := (s.revokeSender e).defaultAction e }
    | some h =>
      if (s.slice k).hodq.length < 32 then
        some { s := ((s.revokeSender e).modSlice k fun l => { l with hodq := l.hodq ++ [{ e with entry := h.1, top := h.2 }] }).later [.hodInvocationStart k] }
      else none
  | .treg k t asid pts r =>
    if s.registeredAt k < 1024 then
      let core := match s.team t.team with | some tm => s.coreOf tm t.tid | none => 0xFF
      let x := s.registerTask pts asid r { coreid := core, who := some (.thread t), port := some core }
      some { s := x.1.raisePts t x.2.1, fault := x.2.2.map fun reason => (r.f, reason) }
    else none
  | .ring t k q =>
    match s.ring t.team k with
    | none => some { s }
    | some _ =>
      let s' := s.modRing t.team k fun r => { r with reqs := r.reqs ++ [q] }
      if s.pushQueue (((s.team t.team).map (·.core)).getD 0) < 16 then
        some { s := match q with | .put _ _ _ => s'.later [.ringReservation t.team k] | _ => s'.serve t.team k }
      else none

/-! ## Sending (R290, R402) -/

/-- R290: an entry is sent: accepted, or kept in the sender's window; none when the window is full. -/
def State.send (s : State) (coreid : Nat) (x : Sent) : Option Posting :=
  if s.windowFor coreid x = [] then
    match s.accept x with
    | some t => some { s := t.s, fault := t.fault }
    | none => some (s.queueEntry coreid x)
  else if (s.windowFor coreid x).length < 32 then some (s.queueEntry coreid x)
  else none

/-- R393: of two refusals that a treg has met, the one of the lower future. -/
def worseFault : Option (Nat × Nat) → Option (Nat × Nat) → Option (Nat × Nat)
  | none, y => y
  | x, none => x
  | some x, some y => some (if y.1 < x.1 then y else x)

/-- R393: a registration's refusal as a trap's cause. -/
def tregCause (f : Nat × Nat) : TrapInfo := engineFault 0x65 f.1 0 f.2

/-- R227, R240, R393: an entry that a thread waits for has been accepted; with the last one the thread goes on, or takes its trap. -/
def State.entryAccepted (s : State) (t : Option TRef) (id : Nat) (fault : Option (Nat × Nat)) : State :=
  match t with
  | none => s
  | some t =>
    match s.why t with
    | some (.accepted ids old) =>
      if ids.contains id then
        let left := ids.filter (· ≠ id)
        let f := worseFault old fault
        if left ≠ [] then s.modThread t fun th => { th with wait := th.wait.map fun w => { w with why := .accepted left f } }
        else match f with
          | none => s.resume t
          | some f => s.faultWait t (tregCause f)
      else s
    | _ => s

/-- R402: an entry of a saved team is kept, and sent again after restoration. -/
def State.sendable (s : State) (x : Entry) : Bool :=
  match x.what.thread.bind fun t => s.team t.team with
  | some tm => tm.status ≠ .saved
  | none => true

end Sys2Proof.Machine
end

