-- ==== Sys2Proof/Machine/Push.lean ====
section
/-!
DEFINITION. Instructions whose requests a queue may refuse (R221, R227, R232, R289, R290): rput, the ring copy and treg.
-/
namespace Sys2Proof.Machine

/-! ## Rings (R221, R232) -/

/-- R221. -/
def rputBody (c : Ctx) (s : State) : Effect :=
  let k := c.e.d.toNat
  let ea := c.r.ea c.e c.e.a false
  match c.ringOf c.e.d with
  | none => .trap (ringMisuse 0 ea.toNat)
  | some r =>
    match firstFault (s.slotFaults (c.agent s) c.e.space ea (r.size / 16) ++ if r.eos then [ringMisuse 3 ea.toNat] else []) with
    | some f => .trap f
    | none =>
      let x : Sent := .ring c.t k (.put c.t c.e.space ea)
      let core := s.coreOf c.tm c.t.tid
      if s.windowFor core x = [] && s.pushQueue c.tm.core < 16 && r.reqs.isEmpty && r.canReserve then
        match (c.revoke s).putSlot c.t k c.e.space ea with
        | .ok s => .done s
        | .error f => .trap f
      else
        match s.send core x with
        | none => .wait s (s.roomWait core x) false
        | some p => .wait p.s (.ringSlot k) true

/-- R232, R366, R375. -/
def cpyRingBody (c : Ctx) (s : State) : Effect :=
  let k := c.e.d.toNat
  let w := c.checkWord s
  let src := c.qAddr c.e.a (srcSpace c.e) 16
  let count := c.cpyCount
  let own := match c.ringOf c.e.d with
    | none => [ringMisuse 0 src.toNat]
    | some r => if r.eos then [ringMisuse 3 src.toNat] else if count = 0 ∨ count % r.size ≠ 0 then [ringMisuse 4 src.toNat] else []
  match firstFault (w.faults ++ own) with
  | some f => .trap f
  | none =>
    let id := w.s.nextOp
    let s := w.s.addOp (c.newOp w.s (.ring k (srcSpace c.e) src count []) (some c.compWord) []) []
    let core := s.coreOf c.tm c.t.tid
    match s.send core (.ring c.t k (.copy id)) with
    | none => .wait w.s (w.s.roomWait core (.ring c.t k (.copy id))) false
    | some p => .done p.s

/-! ## Registrations (R227) -/

/-- R227, R393: the registrations of a record, sent one by one to their futures' homes; the entries not accepted yet, and the refusal of the
lowest future. -/
def State.register1 (s : State) (t : TRef) (core asid : Nat) (r : Registration) (acc : List Nat × Option (Nat × Nat)) : State × List Nat × Option (Nat × Nat) :=
  let x : Sent := .treg (s.homeOf r.future) t asid (s.ptsOf t) r
  match s.send core x with
  | some p => (p.s, acc.1 ++ p.pending.toList, worseFault acc.2 p.fault)
  | none => let p := s.queueEntry core x; (p.s, acc.1 ++ p.pending.toList, acc.2)

/-- R290: the first of the registrations of a record for which a core's window has no room. -/
def State.fullFor (s : State) (core : Nat) (t : TRef) (futs : List (Nat × Nat)) : Option Sent :=
  (futs.map fun f => Sent.treg (s.homeOf f.2) t 0 0 { future := f.2, record := 0, va := 0, f := 0 }).find? fun x => 32 < (s.windowFor core x).length + futs.length

/-- R227, R289, R290, R393: a registration that finds its home's table full is refused and sent again, and the thread waits until every one has
been accepted. -/
def tregBody (c : Ctx) (s : State) : Effect :=
  let ea := c.r.ea c.e c.e.a false
  match c.objectAt s ea 64 with
  | .error f => .trap f
  | .ok (s, pa) =>
    let r := s.mem.read pa 64
    match recordFault r with
    | some f => .trap f
    | none =>
      match c.futures s r (numbers 0 (recNfut (r % 2 ^ 64))) with
      | .error f => .trap f
      | .ok (s, futs) =>
        let core := s.coreOf c.tm c.t.tid
        match s.fullFor core c.t futs with
        | some x => .wait s (s.roomWait core x) false
        | none =>
          let n := recNfut (r % 2 ^ 64)
          let asid := s.asidOf c.tm
          let x := (c.revoke s).stepAt (s.ptsOf c.t) pa (recWord (r % 2 ^ 64) (if n = 0 then 2 else 1) n 0) (c.req s ea)
          let s := x.1.setPts c.t x.2
          let s := if n = 0 then s.later [.taskLaunch asid ea.toNat] else s
          let y := futs.foldl (fun (y : State × List Nat × Option (Nat × Nat)) f =>
            y.1.register1 c.t core asid { future := f.2, record := pa, va := ea.toNat, f := f.1 } y.2) (s, [], none)
          match y.2 with
          | ([], none) => .done y.1
          | ([], some f) => .handled (y.1.raise c.t (tregCause f) c.th.pc)
          | (ids, f) => .wait y.1 (.accepted ids f) true

/-! ## The instructions -/

/-- R221. -/
def execRput (w : Words) (s : State) := issueWords 0x5D w rputBody s
/-- R232. -/
def execCpyRing (w : Words) (s : State) := issueWords 0x63 w (engine cpyRingBody) s
/-- R227. -/
def execTreg (w : Words) (s : State) := issueWords 0x61 w tregBody s

end Sys2Proof.Machine
end

