-- ==== Sys2Proof/Machine/Control.lean ====
section
/-!
DEFINITION. Control (R186-R197, R359): branches, calls, jumps, overlay code, exit, yield, the barriers, sleep and waitc.
-/
namespace Sys2Proof.Machine

/-! ## Branches, calls and jumps (R188-R190) -/

/-- R186, R188: the target in the same slot: PC + 4 I21, or PC + literal. -/
def Ctx.branchTarget (c : Ctx) : W32 :=
  let d : Nat := match c.e.lit with
    | some l => l.toNat
    | none => (4 * imm21 c.e).toNat
  codeAddr (slotOf c.th.pc) (offsetOf c.th.pc + d)

def braBody (c : Ctx) (s : State) : Effect := .jump s c.branchTarget

/-- R189: push a frame and go on at the target. -/
def pushFrame (target : W32) (c : Ctx) (s : State) : Effect :=
  let l : Loc := .lane c.t (s.laneSize c.tm - 8 * (c.th.depth + 1))
  .jump (((s.poke l 8 c.next.toNat).setPts c.t (s.ptsOf c.t)).modThread c.t fun th => { th with depth := th.depth + 1 }) target

def callBody (c : Ctx) (s : State) : Effect := pushFrame c.branchTarget c s

/-- R189; a poisoned frame is a poisoned load (R372). -/
def retBody (c : Ctx) (s : State) : Effect :=
  let off := s.laneSize c.tm - 8 * c.th.depth
  let l : Loc := .lane c.t off
  if s.poisoned l 8 then .trap (poisonFault l off)
  else .jump ((s.setPts c.t (s.ptsOf c.t)).modThread c.t fun th => { th with depth := th.depth - 1 }) (BitVec.ofNat 32 (s.peek l 8))

def Ctx.indirect (c : Ctx) : W32 := BitVec.ofNat 32 (c.val c.e.a 32)
def jmpiBody (c : Ctx) (s : State) : Effect := .jump s c.indirect
def calliBody (c : Ctx) (s : State) : Effect := pushFrame c.indirect c s

/-! ## Overlay code (R191, R192, R359) -/

/-- R192: a slot that is fetching is waited for; any other is entered, and an empty one is found at the target's issue. -/
def jmpfBody (c : Ctx) (s : State) : Effect :=
  let slot := c.e.a.toNat
  let off := match c.e.lit with
    | some l => l.toNat
    | none => (4 * imm21 c.e).toNat
  let target := codeAddr slot off
  if slot ≠ 0 ∧ (c.tm.overlay slot).state = 1 then .wait s (.jmpf target) true else .jump s target

/-- R191: the length in the descriptor. -/
def cfetchLen (desc : Nat) : Nat := (desc / 16 % 64 + 1) * 256

/-- R141, R191: the operation's reads follow every earlier access of the team's threads. A cfetch that waits for the slot issues again. -/
def cfetchBody (c : Ctx) (s : State) : Effect :=
  let slot := c.cfetchDesc % 16
  let len := cfetchLen c.cfetchDesc
  let src := BitVec.ofNat 64 (c.val c.e.a 64)
  if src.toNat % 256 ≠ 0 then .trap (memFault 0x42 2 src.toNat)
  else if (c.tm.overlay slot).state = 1 then .handled ((s.issued c.t).block c.t (.cfetch slot) c.th.pc)
  else
    let o := { c.newOp s (.cfetch slot src len) none (numbers 0 (len / 64)) with pts := c.tm.threads.foldl (fun m th => max m th.pts) 0 }
    let s := s.modOverlay c.t.team slot fun v => { v with state := 1, source := src, len, failed := false }
    .done (s.addOp o [.cfetchLanded c.t.team slot])

/-- The code fetch into a slot of a team. -/
def State.fetchOp (s : State) (i slot : Nat) : Option EngOp :=
  s.ops.find? fun o => o.t.team = i && match o.kind with | .cfetch k _ _ => k = slot | _ => false

/-! ## exit, yield (R67, R193) -/

/-- R194, R12: the team barrier completes when every thread that has not exited waits at it; R178 joins them. -/
def State.settleBar (s : State) (i : Nat) : State :=
  match s.team i with
  | none => s
  | some tm =>
    let at' (k : Nat) : Bool := (tm.threads[k]?).bind Thread.why = some .bar
    if tm.alive ≠ [] ∧ tm.alive.all at' then
      let pts := tm.alive.foldl (fun m k => max m (((tm.threads[k]?).map (·.pts)).getD 0)) 0
      tm.alive.foldl (fun s k => (s.raisePts { team := i, tid := k } pts).resume { team := i, tid := k }) s
    else s

/-- R83, R222: the tokens that an exiting thread owes. -/
def State.exitTokens (s : State) (t : TRef) : State :=
  match s.thread t with
  | none => s
  | some th => th.owes.foldl (fun (s : State) k => if s.copiesReserving t k then s else (s.acceptToken t k).serve t.team k) s

/-- R67, R83, R193, R220, R246: the thread has exited. -/
def State.exitThread (s : State) (t : TRef) : State :=
  let s := s.flushPoint t
  let s := (numbers 0 16).foldl (fun (s : State) k => s.releaseSlots t k) s
  let s := s.leaveTrowel t
  let s := (s.forget t).modThread t fun th => { th with exited := true }
  let s := s.exitTokens t
  match s.team t.team with
  | none => s
  | some tm =>
    let s := (s.settleBar t.team).settleCourse t.team (s.courseOf tm t.tid)
    if tm.alive.isEmpty && !s.ops.any (·.t.team = t.team) then s.later [.teamRetire t.team] else s

/-- R67, R142, R354: accesses in flight end first, and a fault of theirs is taken. -/
def exitBody (c : Ctx) (s : State) : Effect :=
  let s := s.drain c.t
  match s.thread c.t with
  | none => .handled s
  | some th => if th.dueFaults.isEmpty then .handled (s.exitThread c.t) else .handled (s.trapThread c.t none false)

/-- R193, R286: the team's quantum is expired from now on, and its core is offered. -/
def yieldBody (c : Ctx) (s : State) : Effect :=
  .done ((s.modTeam c.t.team fun tm => { tm with expired := some (tm.expired.getD s.ns), yielded := true }).later [.quantumExpiry c.t.team])

/-! ## Barriers (R194, R195) -/

def barBody (c : Ctx) (s : State) : Effect :=
  .handled ((((s.flushPoint c.t).passStall c.t c.e.s.toNat []).block c.t .bar c.next).settleBar c.t.team)

/-- R195, R178: the threads of a generation that is complete go on. -/
def State.settleBarn (s : State) (i id : Nat) : State :=
  match s.team i with
  | none => s
  | some tm =>
    let l := tm.barnWaiters id
    if l.length < SMap.get 0 tm.barns id then s
    else
      let pts := l.foldl (fun m k => max m (((tm.threads[k]?).map (·.pts)).getD 0)) 0
      let s := s.modTeam i fun tm => { tm with barns := SMap.set 0 tm.barns id 0 }
      l.foldl (fun s k => (s.raisePts { team := i, tid := k } pts).resume { team := i, tid := k }) s

def barnBody (c : Ctx) (s : State) : Effect :=
  let id := c.e.a.toNat
  let s := s.modTeam c.t.team fun tm => { tm with barns := SMap.set 0 tm.barns id c.barnCount }
  .handled (((s.passStall c.t c.e.s.toNat []).block c.t (.barn id) c.next).settleBarn c.t.team id)

/-! ## sleep and waitc (R196, R197) -/

def sleepBody (c : Ctx) (s : State) : Effect :=
  let b := c.r.valImm c.e false 32
  if b = 0 then .done s else .wait s (.sleep (s.ns + b)) true

/-- R311: a type 1 page. -/
def waitcRefuses (ea : Nat) : Loc → Option TrapInfo
  | .phys _ type => if type = 1 then some (memFault 0x44 4 ea) else none
  | _ => none

def waitcBody (c : Ctx) (s : State) : Effect :=
  watch (waitcRefuses (c.r.ea c.e c.e.a false).toNat) (intBits c.e / 8) c.e.fn (intSigned c.e) (c.val c.e.b (intBits c.e)) c s

/-! ## The instructions -/

/-- R188. -/
def execBraBase (b : Base) (s : State) := issueBase 0x40 b braBody s
/-- R188. -/
def execBra (w : Words) (s : State) := issueWords 0x40 w braBody s
/-- R189. -/
def execCallBase (b : Base) (s : State) := issueBase 0x41 b callBody s
/-- R189. -/
def execCall (w : Words) (s : State) := issueWords 0x41 w callBody s
/-- R189. -/
def execRetBase (b : Base) (s : State) := issueBase 0x42 b retBody s
/-- R189. -/
def execRet (w : Words) (s : State) := issueWords 0x42 w retBody s
/-- R190. -/
def execJmpi (w : Words) (s : State) := issueWords 0x43 w jmpiBody s
/-- R189. -/
def execCalli (w : Words) (s : State) := issueWords 0x44 w calliBody s
/-- R192. -/
def execJmpf (w : Words) (s : State) := issueWords 0x45 w jmpfBody s
/-- R191. -/
def execCfetch (w : Words) (s : State) := issueWords 0x46 w cfetchBody s
/-- R193. -/
def execExitBase (b : Base) (s : State) := issueBase 0x47 b (flushes exitBody) s
/-- R193. -/
def execExit (w : Words) (s : State) := issueWords 0x47 w (flushes exitBody) s
/-- R193. -/
def execNopBase (b : Base) (s : State) := issueBase 0x48 b (fun _ s => .done s) s
/-- R193. -/
def execNop (w : Words) (s : State) := issueWords 0x48 w (fun _ s => .done s) s
/-- R193. -/
def execYieldBase (b : Base) (s : State) := issueBase 0x49 b yieldBody s
/-- R193, R286. -/
def execYield (w : Words) (s : State) := issueWords 0x49 w yieldBody s
/-- R194. -/
def execBarBase (b : Base) (s : State) := issueBase 0x4A b (flushes barBody) s
/-- R194. -/
def execBar (w : Words) (s : State) := issueWords 0x4A w (flushes barBody) s
/-- R195. -/
def execBarn (w : Words) (s : State) := issueWords 0x4B w barnBody s
/-- R196. -/
def execSleep (w : Words) (s : State) := issueWords 0x4C w sleepBody s
/-- R197. -/
def execWaitc (w : Words) (s : State) := issueWords 0x4D w waitcBody s

/-- R191, R359: a fetch that is in progress reads what is left of its source, and lands or fails. -/
def execCfetchLanded (team slot : Nat) (s : State) : Host.Outcome State Fault Refusal :=
  .next (match s.fetchOp team slot with
    | some o => s.completeOp o.id
    | none => s)
/-- R359: no effect where every byte of the source can be read. -/
def execCfetchFailed (team slot : Nat) (s : State) : Host.Outcome State Fault Refusal :=
  .next (match s.fetchOp team slot with
    | some o => match s.faultingElement o with
      | some f => s.stopOp o.id f
      | none => s
    | none => s)
/-- R196. -/
def execSleepDeadline (t : TRef) (s : State) : Host.Outcome State Fault Refusal :=
  .next (match s.why t with
    | some (.sleep d) => if d ≤ s.ns then s.resume t else s
    | _ => s)

end Sys2Proof.Machine
end

