-- ==== Sys2Proof/Machine/Move.lean ====
section
/-!
DEFINITION. Selection, comparison, moves, special registers and predicates (R159-R165, R34, R35, R348).
-/
namespace Sys2Proof.Machine

/-- R160. -/
def selBody (c : Ctx) (s : State) : Effect :=
  let n := intBits c.e
  .done (c.wr s n false (if c.r.pred c.e.c then c.val c.e.a n else c.r.valImm c.e true n))

/-- R145, R160. -/
def cmpBody (c : Ctx) (s : State) : Effect :=
  let n := intBits c.e
  .done (s.wrPred c.t c.e.d (condHolds c.e.fn.toNat (intSigned c.e) n (c.val c.e.a n) (c.r.valImm c.e false n)))

/-- R161: the effective address, 64 bits for .g and 32 for the other spaces. -/
def leaBody (c : Ctx) (s : State) : Effect :=
  .done (c.wr s (if c.e.space = 4 then 64 else 32) false (c.r.ea c.e c.e.a false).toNat)

/-- R162. -/
def movBody (c : Ctx) (s : State) : Effect := .done (c.wr s (intBits c.e) false (c.val c.e.a (intBits c.e)))
def moviBody (c : Ctx) (s : State) : Effect := .done (c.wr s (intBits c.e) false (immOf c.e false).toNat)

/-! ## Special registers (R34, R140) -/

/-- R281: the grid is a page grid. -/
def LaunchBody.pageGrid (b : LaunchBody) : Bool := b.kind = 1 || b.kind = 3

/-- R283: the job slice of a team. -/
def LaunchBody.sliceOf (b : LaunchBody) (tix : Nat) : Nat := if b.portion = 0 then 0 else tix / b.portion

/-- R285: the remaining budget of a team's slice; all ones when there is none. -/
def State.slbud (s : State) (tm : Team) : W64 :=
  if (s.launchOf tm).body.budget = 0 then 0xFFFFFFFFFFFFFFFF
  else BitVec.ofNat 64 (SMap.get { left := (s.launchOf tm).body.budget } (s.launchOf tm).budgets tm.slice).left

/-- R34, R151: the value of a special register for a thread; a uniform reading of coreid gives the core of the team, the
lower-numbered one of a pair. In a grout wave tid, tcnt and lanew are all there is (R303). -/
def State.special (s : State) (t : TRef) (tm : Team) (th : Thread) (uniform : Bool) (n : Nat) : W64 :=
  match n with
  | 0 => BitVec.ofNat 64 t.tid
  | 1 => BitVec.ofNat 64 tm.tix
  | 2 => BitVec.ofNat 64 tm.threads.length
  | 3 => if (s.launchOf tm).body.pageGrid then BitVec.ofNat 64 tm.tix else 0xFFFFFFFF
  | 4 => tm.pstat.zeroExtend 64
  | 5 => BitVec.ofNat 64 (s.width tm)
  | 6 => BitVec.ofNat 64 (if uniform then tm.core else s.coreOf tm t.tid)
  | 7 => tm.rser.zeroExtend 64
  | 8 => s.dtime
  | 9 => s.slbud tm
  | 10 => th.tcause.zeroExtend 64
  | 11 => th.tepc.zeroExtend 64
  | 12 => th.taux
  | _ => th.sigmask.zeroExtend 64

/-- R163. -/
def movsBody (c : Ctx) (s : State) : Effect :=
  .done (c.wr s (intBits c.e) false (s.special c.t c.tm c.th (uniformOp c.op c.e) c.e.a.toNat).toNat)

/-- R64: pending signals may now be delivered. -/
def State.offerSignals (s : State) (i : Nat) : State :=
  match s.team i with
  | some tm => if tm.signals = 0 then s else s.later [.signalDelivery i]
  | none => s

/-- R164, R348. -/
def movtBody (c : Ctx) (s : State) : Effect :=
  let x := BitVec.ofNat 32 (c.val c.e.a 32)
  .done (match c.e.d.toNat with
    | 10 => s.modThread c.t fun th => { th with tcause := x &&& 0xFF }
    | 11 => s.modThread c.t fun th => { th with tepc := x }
    | 12 => s.modThread c.t fun th => { th with taux := x.zeroExtend 64 }
    | _ => (s.modThread c.t fun th => { th with sigmask := x &&& 0xFFFF }).offerSignals c.t.team)

/-- R165. -/
def predBody (f : Bool → Bool → Bool) (c : Ctx) (s : State) : Effect :=
  .done (s.wrPred c.t c.e.d (f (c.r.pred c.e.a) (c.r.pred c.e.b)))

/-! ## The instructions -/

/-- R160. -/
def execSel (w : Words) (s : State) := issueWords 0x18 w selBody s
/-- R160. -/
def execCmp (w : Words) (s : State) := issueWords 0x19 w cmpBody s
/-- R161. -/
def execLea (w : Words) (s : State) := issueWords 0x1A w leaBody s
/-- R162. -/
def execMovBase (b : Base) (s : State) := issueBase 0x1B b movBody s
/-- R162. -/
def execMov (w : Words) (s : State) := issueWords 0x1B w movBody s
/-- R162. -/
def execMoviBase (b : Base) (s : State) := issueBase 0x1C b moviBody s
/-- R162. -/
def execMovi (w : Words) (s : State) := issueWords 0x1C w moviBody s
/-- R163. -/
def execMovs (w : Words) (s : State) := issueWords 0x1D w movsBody s
/-- R164. -/
def execMovt (w : Words) (s : State) := issueWords 0x1E w movtBody s
/-- R165. -/
def execPand (w : Words) (s : State) := issueWords 0x20 w (predBody (· && ·)) s
/-- R165. -/
def execPor (w : Words) (s : State) := issueWords 0x21 w (predBody (· || ·)) s
/-- R165. -/
def execPxor (w : Words) (s : State) := issueWords 0x22 w (predBody (· != ·)) s
/-- R165. -/
def execPnot (w : Words) (s : State) := issueWords 0x23 w (predBody (fun a _ => !a)) s

end Sys2Proof.Machine
end

