-- ==== Sys2Proof/Machine/Trap.lean ====
section
/-!
DEFINITION. Traps as instructions and events (R264-R268): trap, tret, tlog, tskip, csrr, csrw.
-/
namespace Sys2Proof.Machine

/-! ## tret (R267, R359) -/

/-- R267: the oldest valid entry. -/
def Thread.oldestValid (th : Thread) : Option Nat :=
  ((numbers 0 4).filter fun k => match th.log[k]? with | some en => en.valid | none => false).foldl (fun (m : Option Nat) k =>
    match m with
    | none => some k
    | some j => if ((th.log[k]?).map (·.order)).getD 0 < ((th.log[j]?).map (·.order)).getD 0 then some k else some j) none

/-- R63, R267, R354: valid entries are performed in ascending age, as new accesses; the first that faults stops the replay. Structural on the number of
entries; whether every entry was cleared. -/
def State.replay (s : State) (t : TRef) : Nat → State × Bool
  | 0 => (s, true)
  | n + 1 =>
    match s.team t.team, s.thread t with
    | some tm, some th =>
      match th.oldestValid with
      | none => (s, true)
      | some k =>
        let r := s.perform t tm ((th.log[k]?).getD {})
        let s := r.1.modThread t fun th => th.modLog k fun _ => r.2
        if r.2.fault.isSome then (s, false)
        else
          let s := if r.2.opcode ≠ 0x50 ∧ r.2.space.toNat ≥ 2 then s.revokeTeam t.team else s
          let s := s.modThread t fun th => th.modLog k fun en => { en with busy := true, valid := false }
          (let s := s.deliver t k; if s.placed t k then s.later [.varResultReturn t k] else s).replay t n
    | _, _ => (s, true)

/-- R267, R359: the replay, then the return; while tepc's slot is fetching the thread stays in its trap, waits, and issues tret again. -/
def tretBody (c : Ctx) (s : State) : Effect :=
  let r := s.replay c.t 4
  if r.2 then
    let slot := slotOf c.th.tepc
    if slot ≠ 0 ∧ (c.tm.overlay slot).state = 1 then .handled ((r.1.issued c.t).block c.t (.cfetch slot) c.th.pc)
    else .jump ((r.1.modThread c.t fun th => { th with inTrap := false }).offerSignals c.t.team) c.th.tepc
  else .handled (r.1.trapThread c.t none true)

/-! ## tlog and tskip (R265, R266) -/

/-- R265: word w of an entry; `age` is its rank. -/
def logWord (en : LogEntry) (age w : Nat) : W32 :=
  let never := en.opcode = 0
  match w with
  | 0 => BitVec.ofNat 32 ((if en.valid then 2 ^ 31 else 0) + age * 2 ^ 29 + en.opcode * 2 ^ 22 + en.fn.toNat * 2 ^ 17 + en.space.toNat * 2 ^ 14
          + en.size.toNat * 2 ^ 11 + if never then 0 else en.dest.toNat)
  | 1 => BitVec.ofNat 32 (en.ty.toNat * 2 ^ 27 + en.scope.toNat * 2 ^ 25 + en.hint.toNat * 2 ^ 23)
  | 2 => en.ea.extractLsb' 0 32
  | 3 => en.ea.extractLsb' 32 32
  | 4 | 5 | 6 | 7 => en.opb.extractLsb' (32 * (w - 4)) 32
  | _ => en.opc.extractLsb' (32 * (w - 8)) 32

/-- R265: the rank of an entry among the valid ones. -/
def Thread.logAge (th : Thread) (en : LogEntry) : Nat := if en.valid then th.log.countP fun k => k.valid && k.order < en.order else 0

def tlogBody (c : Ctx) (s : State) : Effect :=
  let en := (c.th.log[c.e.a.toNat]?).getD {}
  .done (c.wr s 32 false (logWord en (c.th.logAge en) c.e.b.toNat).toNat)

/-- R266: the valid bit is cleared, and the destination leaves the scoreboard. -/
def State.clearEntry (s : State) (t : TRef) (k : Nat) (en : LogEntry) : State :=
  let s := s.modThread t fun th => th.modLog k fun en => { en with busy := false, valid := false, fault := none }
  match regOf en.dest with
  | .s j => s.modTeam t.team fun tm => { tm with sPending := tm.sPending.filter fun i => i ≠ j && !(en.size = 4 && i = j + 1) }
  | _ => s

/-- R266; x[0] is the write of a value. -/
def tskipBody (value : Bool) (c : Ctx) (s : State) : Effect :=
  let k := c.e.a.toNat
  let en := (c.th.log[k]?).getD {}
  if !en.valid then .done s
  else
    let s := s.clearEntry c.t k en
    if value && en.dest ≠ 2047 then
      let v := extendLoad en.ty (sizeBytes en.size) (c.val c.e.b (sizeBits en.size) % 2 ^ (8 * sizeBytes en.size))
      .done (s.wr c.t en.dest (sizeBits en.size) (signedType en.ty) v)
    else .done s

/-! ## Privileged registers (R268) -/

/-- R268: bits of a privileged register that can be set. DESIGN CHOICE (log entry 111): R268 wants the others written as 0 and gives no effect to a
csrw that does not; the model drops them. -/
def csrMask (n : Nat) : Nat :=
  match n with
  | 0 => 0
  | 1 => 0x000FFFFFFFFFF000
  | 2 => 0x1FF
  | 3 => 0xFFFFFFFF
  | _ => 0xFFFFFFFFFFFFFFFF

def csrrBody (c : Ctx) (s : State) : Effect :=
  let n := c.e.a.toNat
  .done (c.wr s 64 false (if n = 0 then 1 else (SMap.get 0 s.csr (16 * dieOf c.tm.core + n)).toNat))

/-- R91, R268: translations that a core would use leave its cache and its die's. -/
def State.dropOwnTlb (s : State) (core : Nat) : State :=
  { s with tlb := s.tlb.filter fun t => !(t.core = some core || (t.core = none && t.die = dieOf core)) }

/-- R268: a new context table is in force from the thread's next access on. -/
def csrwBody (c : Ctx) (s : State) : Effect :=
  let n := c.e.a.toNat
  let s := if n = 1 then s.dropOwnTlb c.tm.core else s
  .done { s with csr := SMap.set 0 s.csr (16 * dieOf c.tm.core + n) (BitVec.ofNat 64 (c.val c.e.b 64) &&& BitVec.ofNat 64 (csrMask n)) }

/-! ## Boundaries (R64, R66) -/

/-- R66: a wait of the first class is an instruction boundary. -/
def Wait.firstClass : Wait → Bool
  | .rclose _ _ | .fence _ _ | .reply _ | .accepted _ _ | .answer _ _ _ | .refused _ => false
  | _ => true

/-- R64, R264, R351: the thread is at an instruction boundary, and waits for no line (R308). -/
def Thread.atBoundary (th : Thread) : Bool :=
  !th.exited && !th.placing && match th.why with | none => true | some w => w.firstClass

/-! ## The instructions -/

/-- R264. -/
def execTrap (w : Words) (s : State) := issueWords 0x75 w (fun c _ => .trap c.softwareTrap) s
/-- R267. -/
def execTret (w : Words) (s : State) := issueWords 0x76 w tretBody s
/-- R265, R266. -/
def execTlog (w : Words) (s : State) := issueWords 0x77 w tlogBody s
/-- R266. -/
def execTskip (w : Words) (s : State) := issueWords 0x78 w (tskipBody false) s
/-- R266. -/
def execTskipValue (w : Words) (s : State) := issueWords 0x78 w (tskipBody true) s
/-- R268. -/
def execCsrr (w : Words) (s : State) := issueWords 0x79 w csrrBody s
/-- R268. -/
def execCsrw (w : Words) (s : State) := issueWords 0x7A w csrwBody s

end Sys2Proof.Machine
end

