-- ==== Sys2Proof/Machine/Signal.lean ====
section
/-!
DEFINITION. Events, time, signals and invalidation (R64, R269-R273, R369): evsig, time, sig, sigret, cinval and signal delivery.
-/
namespace Sys2Proof.Machine

/-! ## evsig and time (R269, R270, R404) -/

def evsigBody (c : Ctx) (s : State) : Effect :=
  let v := BitVec.ofNat 64 (c.r.valImm c.e false 64)
  match s.contextRing (c.tm.asid s) with
  | none => .done (c.revoke s)
  | some ring =>
    if s.ringFull ring then .wait s (.evsig v) true
    else .done (((c.revoke s).fwAfter (c.pts s)).writeRecord ring (s.threadEvent c.t 1 v))

def timeBody (c : Ctx) (s : State) : Effect := .done (c.wr s 64 false s.dtime.toNat)

/-! ## sig (R271) -/

/-- R271: the team of a launch with a team index. -/
def State.teamOf (s : State) (launch tix : Nat) : Option Nat :=
  ((s.launches[launch]?).getD {}).teams.find? fun i => match s.team i with | some tm => tm.tix = tix | none => false

/-- R271: the status, and the team when the signal becomes pending. -/
def Ctx.sigStatus (c : Ctx) (s : State) : Nat × Option Nat :=
  if (s.launchOf c.tm).body.sentry = 0 then (3, none)
  else
    match s.teamOf c.tm.launch (c.r.valImm c.e false 32) with
    | none => (2, none)
    | some i => match s.team i with
      | some tm => if tm.status = .retired then (1, none) else (0, some i)
      | none => (2, none)

def sigBody (c : Ctx) (s : State) : Effect :=
  let x := c.sigStatus s
  let s := c.revoke s
  let s := match x.2 with
    | none => s
    | some i => (s.modTeam i fun tm => { tm with signals := tm.signals ||| (1#16 <<< c.e.a.toNat), sigPts := max tm.sigPts (s.ptsOf c.t) }).offerSignals i
  .done (c.wr s 32 false x.1)

/-! ## Delivery and sigret (R64, R272) -/

/-- R64, R351: the thread may take signal n now. -/
def Thread.takes (th : Thread) (n : Nat) : Bool :=
  th.atBoundary && th.sigmask.getLsbD n && !th.inTrap && !th.inSignal && th.dueFaults.isEmpty

/-- R64, R66: the lowest-tid thread that may take signal n; one that awaits a result is in a wait of the second class. -/
def State.taker (s : State) (i : Nat) (tm : Team) (n : Nat) : Option Nat :=
  tm.tids.find? fun k => match tm.threads[k]? with | some th => th.takes n && !s.awaitsResult { team := i, tid := k } | none => false

/-- R272: where the thread resumes: the wait itself, after sleep the next instruction, else the next to issue. -/
def Thread.resumeAddr (th : Thread) : W32 :=
  match th.wait with
  | some w => match w.why with | .sleep _ => w.next | _ => th.pc
  | none => th.pc

def sigretBody (c : Ctx) (s : State) : Effect :=
  let off := s.laneSize c.tm - 8 * c.th.depth
  let l : Loc := .lane c.t off
  if s.poisoned l 16 then .trap (poisonFault l off)
  else
    let f := s.peek l 16
    let s := (s.setPts c.t (s.ptsOf c.t)).modThread c.t fun th =>
      { th with depth := th.depth - 2, inSignal := false, sigmask := BitVec.ofNat 32 (f / 2 ^ 32 % 65536), p := BitVec.ofNat 16 (f / 2 ^ 48) }
    .jump (s.offerSignals c.t.team) (BitVec.ofNat 32 f)

/-! ## cinval (R273, R369) -/

/-- R273: the translations that a kind removes. -/
def cinvalHits (kind asid operand : Nat) (t : Tlb) : Bool :=
  match kind with
  | 0 => false
  | 1 => t.asid = asid && t.page = operand / 2 ^ t.bits
  | 2 => t.asid = asid
  | 3 => t.asid = operand % 512
  | _ => true

/-- R369: the thread leaves its wait and executes the instruction again. -/
def State.repeatWait (s : State) (t : TRef) : State :=
  match s.thread t with
  | none => s
  | some th => (s.withdraw t).resumeAt t th.pc

/-- R273: translations go, and waits on them begin again. -/
def State.dropTranslations (s : State) (kind asid operand : Nat) : State :=
  let gone := s.tlb.filter (cinvalHits kind asid operand)
  let hit := s.monitors.filter fun m => (match m.loc with | .phys _ _ => true | _ => false)
    && gone.any fun t => t.asid = m.asid && t.page = m.va / 2 ^ t.bits
  hit.foldl (fun s m => s.repeatWait m.t) { s with tlb := s.tlb.filter fun t => !cinvalHits kind asid operand t }

/-- R273, kind 0: slot-0 code of the context's launches leaves every code store. -/
def State.dropCode (s : State) (asid : Nat) : State :=
  { s with cores := s.cores.map fun (n, k) => (n, { k with code := k.code.filter fun b =>
      !(b.slot = 0 && ((s.launches[b.owner]?).map (·.asid)) = some asid) }) }

def cinvalBody (c : Ctx) (s : State) : Effect :=
  let kind := c.e.a.toNat
  if kind = 0 then .done (s.dropCode (c.tm.asid s))
  else .done (s.dropTranslations kind (s.asidOf c.tm) (c.r.valImm c.e false 64))

/-! ## The instructions -/

/-- R269, R404. -/
def execEvsig (w : Words) (s : State) := issueWords 0x7B w (afterStores evsigBody) s
/-- R270. -/
def execTime (w : Words) (s : State) := issueWords 0x7C w (afterStores timeBody) s
/-- R271. -/
def execSig (w : Words) (s : State) := issueWords 0x7D w sigBody s
/-- R272. -/
def execSigret (w : Words) (s : State) := issueWords 0x7E w sigretBody s
/-- R273. -/
def execCinval (w : Words) (s : State) := issueWords 0x7F w (afterStores cinvalBody) s

end Sys2Proof.Machine
end

