-- ==== Sys2Proof/Machine/Grout.lean ====
section
/-!
DEFINITION. Grout calls, their waves and messages to hod cores (R237-R240, R301-R305, R395, R396): gcall,
gret, hmsg, the start of a wave, its cycle limit, and what a lane may issue.
-/
namespace Sys2Proof.Machine

/-! ## gcall and hmsg (R237, R240) -/

/-- R395: a caller without a destination is not told. -/
def callMissing (c : Ctx) (s : State) (object : W64) (f : TrapInfo) : Effect :=
  if c.e.d = 2047 then .done ((c.revoke s).failCall (c.tm.asid s) object c.t none f) else .trap f

/-- R237, R242. DEDUCED (log entry 126): a misaligned object is reported as code 0x42 reason 2, though that line of R365 does not name it. -/
def gcallBody (c : Ctx) (s : State) : Effect :=
  let object := BitVec.ofNat 64 (c.val c.e.a 64)
  let k := s.checkAt (c.agent s) 4 object 8 8 false true
  match k.faults, k.loc with
  | f :: _, _ => .trap f
  | [], some (.phys pa _) =>
    let s := k.s
    let m := c.e.x.toNat % 256
    match s.methodOf (s.homeOf pa) (c.tm.asid s) m with
    | .error f => callMissing c s object f
    | .ok _ =>
      let dest := if c.e.d = 2047 then none else some c.e.d
      let q : GroutReq := { asid := c.tm.asid s, object, method := m, arg0 := BitVec.ofNat 64 (c.val c.e.b 64), arg1 := BitVec.ofNat 64 (c.val c.e.c 64),
                            pts := s.ptsOf c.t, t := c.t, dest, meth := noMethod }
      let core := s.coreOf c.tm c.t.tid
      match s.send core (.grout (s.homeOf pa) q) with
      | none => .wait s (s.roomWait core (.grout (s.homeOf pa) q)) false
      | some x => if dest.isSome then .wait x.s (.reply c.e.d) true else .done x.s
  | [], _ => .trap (memFault 0x44 5 object.toNat)

/-- R240, R301: the message goes to the hod core of the slice that is the home of its effective address, whatever the type of the page: it is no access of a
size. With no handler the reply is the default's. -/
def hmsgBody (c : Ctx) (s : State) : Effect :=
  let ea := c.r.ea c.e c.e.a true
  match s.translate (s.coreOf c.tm c.t.tid) (s.asidOf c.tm) ea.toNat false (!s.privileged c.tm) with
  | .error f => .trap f
  | .ok (s, pa, _) =>
    let slice := s.homeOf pa
    let asid := c.tm.asid s
    let present := c.e.d ≠ 2047
    if (s.handlerOf asid slice 4).isNone then (if present then .done (c.wr (c.revoke s) 64 false noReply.toNat) else .done (c.revoke s))
    else
      let e : HodEvent := { kind := 4, asid, va := ea, a2 := BitVec.ofNat 64 (c.val c.e.b 64), a3 := BitVec.ofNat 64 (c.val c.e.c 64),
                            a4 := BitVec.ofNat 64 (s.coreOf c.tm c.t.tid), pts := s.ptsOf c.t, who := some (.thread c.t), dest := if present then some c.e.d else none,
                            entry := 0, top := 0, fill := none }
      let core := s.coreOf c.tm c.t.tid
      match s.send core (.hod slice e) with
      | none => .wait s (s.roomWait core (.hod slice e)) false
      | some x =>
        if present then .wait x.s (.reply c.e.d) true
        else match x.pending with
          | some id => .wait x.s (.accepted [id] none) true
          | none => .done x.s

/-! ## Waves (R238, R303, R305) -/

/-- The number of a slice's grout unit as an agent: no core has it. -/
def groutCore (slice : Nat) : Nat := 64 * (slice / 48) + 62

/-- R238: no wave on the object runs. -/
def State.objectFree (s : State) (slice : Nat) (q : GroutReq) : Bool :=
  s.teams.all fun tm => match tm.wave with
    | some w => tm.status = .retired || w.slice ≠ slice || w.asid ≠ q.asid || w.object ≠ q.object
    | none => true

/-- R238, R305: the requests of the next wave on the object of `q`, and what stays queued. -/
def packWave (q : GroutReq) (limit : Nat) : List GroutReq → List GroutReq × List GroutReq
  | [] => ([], [])
  | r :: rs =>
    if r.asid ≠ q.asid ∨ r.object ≠ q.object then let x := packWave q limit rs; (x.1, r :: x.2)
    else if r.method ≠ q.method ∨ r.meth ≠ q.meth ∨ limit = 0 then ([], r :: rs)
    else let x := packWave q (limit - 1) rs; (r :: x.1, x.2)

/-- R303: a lane's thread. -/
def laneThread (pts : Nat) (q : GroutReq) : Thread :=
  { v := [(0, q.arg0.extractLsb' 0 32), (1, q.arg0.extractLsb' 32 32), (2, q.arg1.extractLsb' 0 32), (3, q.arg1.extractLsb' 32 32)].filter (·.2 ≠ 0), pts }

/-- The launch number of a wave's team: no launch has it. -/
def noLaunch : Nat := 2 ^ 32

/-- R303: the team of a wave. -/
def State.waveTeam (s : State) (slice : Nat) (q : GroutReq) (reqs : List GroutReq) : Team :=
  let pts := reqs.foldl (fun m r => max m r.pts) 0
  { launch := noLaunch, tix := 0, status := .placed, core := groutCore slice, parts := [0],
    wave := some { asid := q.asid, slice, object := q.object, method := q.method, serial := q.meth.serial, code := q.meth.code, reqs, started := s.clk },
    threads := reqs.map (laneThread pts), s := [(0, q.object), (1, BitVec.ofNat 64 q.method)].filter (·.2 ≠ 0) }

def State.startWave (s : State) (slice : Nat) : State :=
  match (s.slice slice).groutq.find? (s.objectFree slice) with
  | none => s
  | some q =>
    let x := packWave q (if q.meth.serial then 1 else 32) (s.slice slice).groutq
    let s := { s.modSlice slice fun l => { l with groutq := x.2 } with teams := s.teams ++ [s.waveTeam slice q x.1] }
    if x.2.isEmpty then s else s.later [.groutWaveStart slice]

/-- R303: when every lane has ended, the replies are written. -/
def State.settleWave (s : State) (i : Nat) : State :=
  match s.team i with
  | none => s
  | some tm =>
    match tm.wave with
    | none => s
    | some w =>
      if tm.status = .retired || tm.threads.any (·.reply.isNone) then s
      else
        (numbers 0 w.reqs.length).foldl (fun s k =>
          match w.reqs[k]?, (tm.threads[k]?).bind (·.reply) with
          | some q, some v => s.replyTo q.t q.dest v tm.wavePts
          | _, _ => s) (s.closeWave i w)

/-- R239, R303: the lane ends. -/
def gretBody (c : Ctx) (s : State) : Effect :=
  let s := (s.forget c.t).modThread c.t fun th => { th with exited := true, reply := some (BitVec.ofNat 64 (c.val c.e.b 64)) }
  .handled ((s.settleCourse c.t.team 0).settleWave c.t.team)

/-! ## What a lane may issue (R304, R396) -/

def methodOp (op : Nat) (e : Ext) : Bool :=
  (0x01 ≤ op && op ≤ 0x1D && (op ≠ 0x1D || e.a = 0 || e.a = 2 || e.a = 5)) || (0x20 ≤ op && op ≤ 0x29) || (0x30 ≤ op && op ≤ 0x3F)
    || op = 0x40 || op = 0x48 || op = 0x5A || ((op = 0x50 || op = 0x51) && e.space = 4)

/-- R304: v0 to v31, s0 to s7 and the predicates. -/
def methodReg (k : Nat) : Bool := k < 32 || (1536 ≤ k && k < 1544) || 1600 ≤ k

/-- R304, R396: the reason an access is a method trap. -/
def State.laneAccess (s : State) (c : Ctx) (w : Wave) : Option Nat :=
  let ea := c.r.ea c.e c.e.a false
  let n := sizeBytes c.e.size
  if ea.toNat / 512 ≠ w.object.toNat / 512 ∨ (ea.toNat + n - 1) / 512 ≠ w.object.toNat / 512 then some 2
  else
    let k := s.checkAt (c.agent s) 4 ea n n (c.op = 0x51) true
    match k.loc with
    | none => some 4
    | some l => if c.op = 0x50 && k.s.poisoned l n then some 4 else none

/-- R304, R396: the reason that a lane's instruction is a method trap. -/
def State.laneInstr (s : State) (t : TRef) (tm : Team) (th : Thread) (w : Wave) (op : Nat) (e : Ext) (ws : List W32) : Option Nat :=
  if !methodOp op e || (guardCodes e ++ sourceCodes op e th ++ resultCodes op e 32).any (fun k => !methodReg k) then some 0
  else if !guardTrue e th.p then none
  else
    let c : Ctx := { t, op, e, ws, tm, th, r := RegView.ofThread tm th, next := th.pc + BitVec.ofNat 32 (4 * ws.length) }
    if op = 0x50 ∨ op = 0x51 then s.laneAccess c w
    else if op = 0x40 ∧ w.code.length ≤ offsetOf c.branchTarget then some 1
    else none

/-- R396: the reason that the next instruction of a lane is a method trap. -/
def State.laneTrap (s : State) (t : TRef) (tm : Team) (th : Thread) (w : Wave) : Option Nat :=
  match s.fetch t with
  | .error f => some (if f.aux.toNat / 2 ^ 32 = 1 then 0 else 1)
  | .ok (_, bytes) =>
    match decode bytes with
    | .error _ => some 0
    | .ok (i, _) =>
      match i.view with
      | .base op b => s.laneInstr t tm th w op (b.toExt op none) [baseWord 0 op b]
      | .words op x => s.laneInstr t tm th w op (x.toExt op) (wordsOf op x)
      | .event => some 0

/-- R396: before the first lane of a group issues, the lowest lane that would meet a method trap stops the wave. -/
def State.methodStop (s : State) (t : TRef) : Option State :=
  match s.team t.team with
  | none => none
  | some tm =>
    match tm.wave with
    | none => none
    | some w =>
      if s.pos ≠ 0 then none
      else
        ((s.group.filterMap fun r => match tm.threads[r.tid]? with
          | some th => (s.laneTrap r tm th w).map fun reason => s.stopWave t.team r.tid (offsetOf th.pc) reason
          | none => none)).head?

/-- R304: the lane at which a wave that has run too long stops: the lowest of those at the lowest pc. -/
def Team.nextLane (tm : Team) : Option (Nat × Nat) :=
  tm.alive.foldl (fun (m : Option (Nat × Nat)) k =>
    let pc := ((tm.threads[k]?).map (·.pc.toNat)).getD 0
    match m with
    | none => some (k, pc)
    | some x => if pc < x.2 then some (k, pc) else some x) none

/-! ## The instructions -/

/-- R237. -/
def execGcall (w : Words) (s : State) := issueWords 0x59 w gcallBody s
/-- R239. -/
def execGret (w : Words) (s : State) := issueWords 0x5A w gretBody s
/-- R240. -/
def execHmsg (w : Words) (s : State) := issueWords 0x5B w hmsgBody s
/-- R238. -/
def execGroutWaveStart (slice : Nat) (s : State) : Host.Outcome State Fault Refusal := .next (s.startWave slice)
/-- R304, R396. -/
def execMethodCycleLimit (team : Nat) (s : State) : Host.Outcome State Fault Refusal :=
  .next (match s.team team with
    | some tm => match tm.wave, tm.nextLane with
      | some w, some (lane, pc) => if w.started + 2048 ≤ s.clk then s.stopWave team lane (pc % 2 ^ 28) 3 else s
      | _, _ => s
    | none => s)

end Sys2Proof.Machine
end

