-- ==== Sys2Proof/Machine/Launch.lean ====
section
/-!
DEFINITION. Launches (R31, R32, R45, R47, R52, R53, R74, R79, R244, R281-R283, R321, R384): the launch body and its checks, the room of
a core, and the units in which teams come and go.
-/
namespace Sys2Proof.Machine

/-! ## The launch body (R281) -/

/-- Bits [hi:lo] of a word. -/
def field (w : W64) (hi lo : Nat) : Nat := w.toNat / 2 ^ lo % 2 ^ (hi + 1 - lo)
def wordAt (ws : List W64) (j : Nat) : W64 := (ws[j]?).getD 0

def LaunchBody.ofWords (ws : List W64) : LaunchBody :=
  let w := wordAt ws
  { kernel := field (w 0) 56 0, seglen := field (w 2) 58 32, woff := field (w 2) 31 18, kind := field (w 2) 17 16, rof := (w 2).getLsbD 13,
    chk := (w 2).getLsbD 12, idem := (w 2).getLsbD 11, pair := (w 2).getLsbD 10, quantum := field (w 2) 9 0, nring := field (w 1) 59 55,
    cset := field (w 1) 54 52, acc := field (w 1) 51 47, dscr := field (w 1) 46 36, scr := field (w 1) 35 28, lane := field (w 1) 27 22,
    regs := field (w 1) 21 14, wcode := field (w 1) 13 12, tsize := field (w 1) 11 0, grid := (w 3).toNat, plist := field (w 4) 56 0,
    rings := field (w 5) 56 0, sentry := (w 6).extractLsb' 32 32, tentry := (w 6).extractLsb' 0 32, deadline := (w 7).toNat,
    budget := (w 8).toNat, mask := w 12 ++ w 11 ++ w 10 ++ w 9, portion := field (w 13) 31 0, args := (ws.drop 14).take 8 }

/-- R281: the fields that must be 0. -/
def bodyReserved (ws : List W64) : Bool :=
  let w := wordAt ws
  field (w 0) 63 57 = 0 && field (w 1) 63 60 = 0 && field (w 2) 63 59 = 0 && field (w 2) 15 14 = 0 && field (w 4) 63 57 = 0
    && field (w 5) 63 57 = 0 && field (w 13) 63 32 = 0 && w 22 = 0

def LaunchBody.width (b : LaunchBody) : Nat := if b.wcode = 0 then 16 else if b.wcode = 1 then 32 else 64
def LaunchBody.teamSize (b : LaunchBody) : Nat := b.tsize + 1
def LaunchBody.courses (b : LaunchBody) : Nat := (b.teamSize + b.width - 1) / b.width
def LaunchBody.regCount (b : LaunchBody) : Nat := (b.regs + 1) * 8
def LaunchBody.laneBytes (b : LaunchBody) : Nat := (b.lane + 1) * 256
def LaunchBody.setSize (b : LaunchBody) : Nat := max 1 b.cset
/-- R53: in ns. -/
def LaunchBody.quantumNs (b : LaunchBody) : Nat := (if b.quantum = 0 then 50 else min (max b.quantum 10) 1000) * 1000

/-! ## Room on a core (R45, R47, R74, R79, R244) -/

/-- What one partition has free: thread slots, registers, bytes of lane store. -/
structure Room where
  slots : Nat
  regs  : Nat
  lane  : Nat
  deriving DecidableEq, Repr

def emptyRoom : Room := { slots := 256, regs := 65536, lane := 262144 }

/-- The teams that hold room on a core, with their launches. -/
def State.residents (s : State) (c : Nat) : List (Nat × Team × LaunchBody) :=
  (numbers 0 s.teams.length).filterMap fun i => match s.team i with
    | some tm =>
      let b := (s.launchOf tm).body
      if tm.status = .placed && tm.wave.isNone && (tm.core = c || (b.pair && tm.core + 1 = c)) then some (i, tm, b) else none
    | none => none

/-- R45: room of a partition, less what the courses placed on it take. -/
def roomLeft (teams : List (Nat × Team × LaunchBody)) (c p : Nat) : Room :=
  teams.foldl (fun r x =>
    let n := x.2.1.parts.countP fun q => x.2.1.core + q / 6 = c && q % 6 = p
    { slots := r.slots - n * x.2.2.width, regs := r.regs - n * x.2.2.width * x.2.2.regCount, lane := r.lane - n * x.2.2.width * x.2.2.laneBytes }) emptyRoom

/-- R47: granules of a team on its lower core and on the other. -/
def granules (b : LaunchBody) (upper : Bool) : Nat := if b.pair then (if upper then b.scr / 2 else (b.scr + 1) / 2) else if upper then 0 else b.scr

def granulesLeft (teams : List (Nat × Team × LaunchBody)) (c : Nat) : Nat :=
  teams.foldl (fun g x => g - granules x.2.2 (x.2.1.core ≠ c)) 127
/-- R79, R244: free ring descriptors, tiles and plane pairs; those of a pair team lie on its lower core. -/
def ringsLeft (teams : List (Nat × Team × LaunchBody)) (c : Nat) : Nat := teams.foldl (fun g x => if x.2.1.core = c then g - x.2.2.nring else g) 16
def tilesLeft (teams : List (Nat × Team × LaunchBody)) (c : Nat) : Nat := teams.foldl (fun g x => if x.2.1.core = c then g - x.2.2.acc else g) 16
def planesLeft (teams : List (Nat × Team × LaunchBody)) (c : Nat) : Nat :=
  teams.foldl (fun g x => if x.2.1.core = c ∧ x.2.2.acc ≠ 0 then g - 1 else g) 8

def Room.holds (r : Room) (b : LaunchBody) : Bool := b.width ≤ r.slots && b.width * b.regCount ≤ r.regs && b.width * b.laneBytes ≤ r.lane
def Room.less (r : Room) (b : LaunchBody) : Room :=
  { slots := r.slots - b.width, regs := r.regs - b.width * b.regCount, lane := r.lane - b.width * b.laneBytes }

/-- R45: the partition for the next course: the one with the most free slots that has room, ties to the lowest. -/
def bestPart (b : LaunchBody) (rooms : List Room) : Option Nat :=
  (numbers 0 rooms.length).foldl (fun (m : Option Nat) k =>
    match rooms[k]? with
    | none => m
    | some r =>
      if !r.holds b then m
      else match m with
        | none => some k
        | some j => if ((rooms[j]?).map (·.slots)).getD 0 < r.slots then some k else m) none

/-- R45: the partitions of the courses, in ascending course number. Structural on the number of courses. -/
def assignParts (b : LaunchBody) : Nat → List Room → Option (List Nat)
  | 0, _ => some []
  | n + 1, rooms =>
    match bestPart b rooms with
    | none => none
    | some k => (assignParts b n (rooms.modify k (·.less b))).map fun l => k :: l

/-- R45, R47, R79, R244: the partitions of a team on core `c`, given the teams that hold room there (and on `c` + 1 for a pair). -/
def fitOn (b : LaunchBody) (c : Nat) (low high : List (Nat × Team × LaunchBody)) : Option (List Nat) :=
  if granulesLeft low c < granules b false || (b.pair && granulesLeft high (c + 1) < granules b true) || ringsLeft low c < b.nring
      || tilesLeft low c < b.acc || (b.acc ≠ 0 && planesLeft low c = 0) then none
  else
    assignParts b b.courses ((numbers 0 6).map (roomLeft low c) ++ if b.pair then (numbers 0 6).map (roomLeft high (c + 1)) else [])

/-- R46: the granules of a core's scratchpad that no resident team holds, in rising order. -/
def State.freeGranules (s : State) (c : Nat) : List Nat :=
  let taken := (s.residents c).flatMap (·.2.1.grans)
  ((numbers 0 127).map (128 * c + ·)).filter fun g => !taken.contains g
/-- R46, R47: the granules that a team takes on core `c`. DESIGN CHOICE (log entry 88): the lowest-numbered free ones. -/
def State.takeGranules (s : State) (b : LaunchBody) (c : Nat) : List Nat :=
  (s.freeGranules c).take (granules b false) ++ if b.pair then (s.freeGranules (c + 1)).take (granules b true) else []
/-- R115: the timestamp of a physical granule, and its change. -/
def State.granuleTs (s : State) (g : Nat) : Nat := SMap.get 0 (s.core (g / 128)).gts (g % 128)
def State.setGranuleTs (s : State) (g ts : Nat) : State := s.modCore (g / 128) fun k => { k with gts := SMap.set 0 k.gts (g % 128) ts }

/-- R115: the granules' timestamps are never reset: those of a team that takes its place are the later of its own and the granules'. -/
def State.granuleStamps (s : State) (gts : SMap Nat) (grans : List Nat) : SMap Nat :=
  (numbers 0 grans.length).foldl (fun (m : SMap Nat) j => SMap.modify 0 m j fun ts => max ts (s.granuleTs ((grans[j]?).getD 0))) gts
/-- R115: a team's timestamps go back to the granules it gives up. -/
def State.returnGranules (s : State) (tm : Team) : State :=
  (numbers 0 tm.grans.length).foldl (fun (s : State) j => s.setGranuleTs ((tm.grans[j]?).getD 0) (SMap.get 0 tm.gts j)) s

/-- R74, R115: a launch's copy on a die that it first reaches, in free units (log entry 88) whose timestamps it takes over. -/
def State.newCopy (s : State) (la : Launch) (die : Nat) : DCopy :=
  let taken := s.launches.flatMap fun l => (SMap.get {} l.dcopies die).units
  let units := ((numbers 0 1024).filter fun u => !taken.contains u).take la.body.dscr
  { units, gts := (numbers 0 units.length).foldl (fun (m : SMap Nat) j => SMap.set 0 m j (SMap.get 0 s.units (1024 * die + (units[j]?).getD 0))) [] }
/-- R115: a copy's timestamps go back to its units. -/
def DCopy.giveBack (c : DCopy) (die : Nat) (units : SMap Nat) : SMap Nat :=
  (numbers 0 c.units.length).foldl (fun (m : SMap Nat) j => SMap.set 0 m (1024 * die + (c.units[j]?).getD 0) (SMap.get 0 c.gts j)) units

/-- R74: units of 64 KiB of a die's chip scratchpad that launches hold. -/
def State.dieUnits (s : State) (die : Nat) : Nat :=
  s.launches.foldl (fun n la => if !la.complete && la.dies.contains die then n + la.body.dscr else n) 0
/-- R74: the launch has its copy on the die, or it can be allocated. -/
def State.dieRoom (s : State) (la : Launch) (die : Nat) : Bool :=
  la.body.dscr = 0 || la.dies.contains die || s.dieUnits die + la.body.dscr ≤ 1024

/-- The partitions of a team of the launch on core `c`, without the teams `gone`. -/
def State.fits (s : State) (la : Launch) (c : Nat) (gone : List Nat := []) : Option (List Nat) :=
  if !s.dieRoom la (dieOf c) then none
  else
    let left (k : Nat) := (s.residents k).filter fun x => !gone.contains x.1
    fitOn la.body c (left c) (if la.body.pair then left (c + 1) else [])

/-! ## Checks of a launch (R31, R32, R79, R282, R321, R384) -/

/-- R11, R31: the limits of the levels of work. DESIGN CHOICE (log entry 125): a seglen outside the range of R281, which no refusal names, is taken as it is. -/
def LaunchBody.limits (b : LaunchBody) : Bool :=
  b.teamSize ≤ (if b.pair then 3072 else 1536) && b.regCount ≤ 1536 && b.width * b.regCount ≤ 65536 && b.width * b.laneBytes ≤ 262144
    && b.scr ≤ (if b.pair then 254 else 127)
    && b.cset ≤ 4 && b.nring ≤ 16 && b.acc ≤ 16 && b.dscr ≤ 1024 && b.wcode ≠ 3 && !(b.pair && 1 < b.cset)
    && (!b.pageGrid || b.woff * 64 + 16384 ≤ b.scr * 4096)

/-- R282: bits of cluster values 12 to 15. -/
def noCluster : BitVec 256 := (numbers 0 4).foldl (fun m d => m ||| (BitVec.ofNat 256 (0xFFFF * 2 ^ 48) <<< (64 * d))) 0

/-- The cores of a mask on which a team may be placed: for a pair launch the lower cores of whole pairs (R24). -/
def sites (b : LaunchBody) (mask : BitVec 256) : List Nat :=
  (numbers 0 256).filter fun c => mask.getLsbD c && isUserCore c && (!b.pair || (c % 2 = 0 && mask.getLsbD (c + 1)))

/-- R32: a core of the mask could hold one team while it is empty. -/
def couldHold (b : LaunchBody) (mask : BitVec 256) : Bool := (sites b mask).any fun c => (fitOn b c [] []).isSome

/-- A firmware access for a context at a .g address: the physical address in a writable or readable type 0 page. -/
def State.bodyPlace (s : State) (die asid va n : Nat) (store : Bool) : Except TrapInfo (State × Nat) :=
  match s.translate (firmwareCore die) asid va store true with
  | .error f => .error f
  | .ok (s', pa, type, bits, _) =>
    if type ≠ 0 then .error (memFault 0x44 5 va)
    else if va % 2 ^ bits + n > 2 ^ bits then .error (memFault 0x42 1 va)
    else .ok (s', pa)

/-- The same, read as an ordinary load; poison is a fault (R372). -/
def State.bodyRead (s : State) (die asid va n : Nat) : Except TrapInfo (State × Nat) :=
  match s.bodyPlace die asid va n false with
  | .error f => .error f
  | .ok (s', pa) =>
    if s'.physPoisoned pa n then .error (memFault 0x46 0 va)
    else .ok (s'.fwLoad pa n (fwReq die asid va))

/-- R79: a ring table entry of a scratchpad of `size` bytes. -/
def ringEntryOk (e size : Nat) : Bool :=
  e / 2 ^ 48 = 0 && e / 2 ^ 19 % 512 = 0 && e % 16 = 0
    && e / 16 % 2 ^ 15 * 16 + (e / 2 ^ 40 % 256 + 1) * ((e / 2 ^ 28 % 4096 + 1) * 16) ≤ size

/-- R80: a new descriptor. -/
def ringOfEntry (e : Nat) : Ring :=
  let n := e / 2 ^ 40 % 256 + 1
  { base := e / 16 % 2 ^ 15 * 16, size := (e / 2 ^ 28 % 4096 + 1) * 16, count := n, res := 0, head := 0, free := n, filled := 0, prod := 0, tok := 0,
    eos := false, fill := [], held := [], reqs := [] }

/-- R79: the ring table, as read; structural on the number of entries still to read. -/
def State.ringTable (s : State) (die asid va : Nat) : Nat → Except TrapInfo (State × List Nat)
  | 0 => .ok (s, [])
  | n + 1 =>
    match s.bodyRead die asid va 8 with
    | .error f => .error f
    | .ok (s', e) => match s'.ringTable die asid (va + 8) n with
      | .error f => .error f
      | .ok (s2, l) => .ok (s2, e :: l)

/-- R384: 16 bytes of the fault record list, which is 8-aligned: the places of its two words, each in a writable type 0 page. -/
def State.listPlace (s : State) (die asid va : Nat) : Option (State × Nat × Nat) :=
  match s.bodyPlace die asid va 8 true with
  | .error _ => none
  | .ok (s, a) => match s.bodyPlace die asid (va + 8) 8 true with
    | .error _ => none
    | .ok (s, b) => some (s, a, b)

/-- R79, R384: the ring table and the header of the fault record list. -/
def State.tablesOk (s : State) (die asid : Nat) (b : LaunchBody) (count : Nat) : Option State :=
  match s.ringTable die asid b.rings b.nring with
  | .error _ => none
  | .ok (s, l) =>
    if !l.all (fun e => ringEntryOk e (b.scr * 4096)) then none
    else if !b.pageGrid then some s
    else (s.listPlace die asid (b.plist + 8 * count)).map (·.1)

/-- R279: the addresses of a launch body lie in type 0 pages and are aligned: the code segment, the ring table, the page list. -/
def State.bodyAddresses (s : State) (die asid : Nat) (b : LaunchBody) : Option State :=
  let at' (s : State) (va align : Nat) : Option State :=
    if va % align ≠ 0 then none else match s.bodyPlace die asid va align false with | .ok x => some x.1 | .error _ => none
  (at' s b.kernel 256).bind fun s =>
    (if b.nring = 0 then some s else at' s b.rings 8).bind fun s =>
      if b.pageGrid then at' s b.plist 8 else some s

/-- R31, R32, R79, R282, R321, R384: the state after the checks when they pass. `count` is the number of teams, which may be 0 where it is read from
memory. -/
def State.checkLaunch (s : State) (die asid bay : Nat) (ws : List W64) (count : Nat) : Option State :=
  let b := LaunchBody.ofWords ws
  if bodyReserved ws && b.limits && b.mask &&& noCluster = 0 && couldHold b (b.mask &&& s.launchCores bay) && (count ≠ 0 || 2 ≤ b.kind)
      && (!b.pageGrid || count < 2 ^ 24) then s.tablesOk die asid b count
  else none

/-! ## Launches become job slices (R280, R283) -/

/-- R399: a tag for a new launch, unique among the context's live ones. -/
def State.takeTag (s : State) (asid : Nat) : State × Nat :=
  match s.context asid with
  | some c => (s.modContext asid fun c => { c with nextTag := (c.nextTag + 1) % 2 ^ 32 }, c.nextTag)
  | none => (s, 0)

/-- R281, R283: the launch with its teams; those of a page grid await their pages. DEDUCED (log entry 81): while feature 9 is not accepted the
launch's idem flag is ignored, since R63 and R328 name no packet fault for it. -/
def State.addLaunch (s : State) (la : Launch) (count : Nat) : State :=
  let k := s.launches.length
  let x := s.takeTag la.asid
  let n := s.teams.length
  let fresh (i : Nat) : Team := { launch := k, tix := i, slice := if la.body.portion = 0 then 0 else i / la.body.portion,
                                  status := if la.body.pageGrid then .awaitingPage else .unplaced, idem := la.body.idem && s.feature 9 }
  let s := { x.1 with launches := x.1.launches ++ [{ la with tag := x.2, teams := numbers n count }], teams := x.1.teams ++ (numbers 0 count).map fresh }
  if count = 0 then s.later [.launchComplete k] else s

/-! ## Units (R48, R52) -/

/-- R48: the members of a team's cluster set that have not retired, in ascending member number; a team alone otherwise. -/
def State.unit (s : State) (i : Nat) : List Nat :=
  match s.team i with
  | none => []
  | some tm =>
    let c := s.setSize tm
    if c = 1 then [i]
    else (s.launchOf tm).teams.filter fun j => match s.team j with | some t => t.tix / c = tm.tix / c && t.status ≠ .retired | none => false

/-- R291: the context places and restores teams. -/
def State.contextRuns (s : State) (asid : Nat) : Bool := match s.context asid with | some c => c.state = .active | none => true

end Sys2Proof.Machine
end

