-- ==== Sys2Proof/Machine/Pages.lean ====
section
/-!
DEFINITION. The pages of page launches (R35, R51, R52, R287, R288, R379-R385): taking page-list entries, reads and retries, delivery and
faults, the fault record list, and the pages that kilns hold.
-/
namespace Sys2Proof.Machine

/-! ## Checks of a page (R379, R381) -/

/-- R379: CRC-32C, one bit, one byte, a list of bytes. -/
def crc32Bit (c : W32) : W32 := if c.getLsbD 0 then (c >>> 1) ^^^ 0x82F63B78 else c >>> 1
def crc32Byte (c : W32) (b : Byte) : W32 := (numbers 0 8).foldl (fun c _ => crc32Bit c) (c ^^^ b.zeroExtend 32)
def crc32c (l : List Byte) : W32 := ~~~ l.foldl crc32Byte 0xFFFFFFFF

/-- R287: an entry that names no page. -/
def entryBad (e : W64) : Bool := e.toNat / 2 ^ 33 ≠ 0
def entryChan (e : W64) : Nat := e.toNat % 128
def entryPage (e : W64) : Nat := e.toNat / 128 % 2 ^ 26

/-- R379, R381: the check and the identity of a decoded page. -/
def pageMatches (e : W64) (data : List Byte) (w0 w1 : W64) : Bool :=
  crc32c (data ++ natBytes 8 w1.toNat) = w0.extractLsb' 0 32 && w1.toNat % 128 = entryChan e && w1.toNat / 128 % 2 ^ 26 = entryPage e

/-! ## Arrival (R51, R52) -/

/-- R51, R52: a page has come, or has faulted: once every member of the unit has its page the unit is runnable. -/
def State.settlePages (s : State) (l : List Nat) : State :=
  if l.any (fun j => match s.team j with | some tm => tm.status = .awaitingPage | none => false) then s
  else
    let n := s.clk
    l.foldl (fun (s : State) j => s.modTeam j fun tm => if tm.status = .unplaced then { tm with runnable := some n } else tm) s

/-- R35, R51, R52: the page of a team that may be placed has come from a kiln. -/
def State.pageCame (s : State) (i chan status retries : Nat) : State :=
  let s := s.modTeam i fun tm => { tm with status := .unplaced, pstat := BitVec.ofNat 32 (status + min retries 255 * 2 ^ 8) }
  let l := s.unit i
  (l.foldl (fun (s : State) j => s.modTeam j fun tm => { tm with kiln := some chan }) s).settlePages l

/-! ## The fault record list (R384, R385) -/

/-- R384: word 0 of a fault record. -/
def faultWord (index status retries : Nat) (tmo : Bool) : Nat :=
  index % 2 ^ 32 + status * 2 ^ 32 + (if tmo then 2 ^ 35 else 0) + min retries 255 * 2 ^ 40

/-- R385: firmware's write to the list for one faulted page; none when the list cannot be written. -/
def State.listFault (s : State) (die asid header : Nat) (word : Nat) (entry : W64) : Option State :=
  match s.listPlace die asid header with
  | none => none
  | some (s, h, lost) =>
    let q (k : Nat) : Req := fwReq die asid (header + k)
    let x := s.fwLoad h 8 (q 0)
    let s := x.1
    let cap := x.2 % 2 ^ 32
    let count := x.2 / 2 ^ 32 % 2 ^ 32
    if cap ≤ count then let y := s.fwLoad lost 8 (q 8); some (y.1.fwStore lost 8 (y.2 + 1) (q 8))
    else
      match s.listPlace die asid (header + 16 + 16 * count) with
      | none => none
      | some (s, r, e) => some (((s.fwStore r 8 word (q (16 + 16 * count))).fwStore e 8 entry.toNat (q (24 + 16 * count))).fwStore (h + 4) 4 (count + 1) (q 4))

/-- R385: the record and the event of a faulted page. -/
def State.recordPage (s : State) (la : Launch) (r : PageReq) (status retries : Nat) (tmo : Bool) : State :=
  let die := match la.queue.bind (s.queues[·]?) with | some q => q.die | none => 0
  let word := faultWord r.index status retries tmo
  let written := s.listFault die la.asid (la.body.plist + 8 * la.teams.length) word r.entry
  (written.getD s).record la.asid (firmwareEvent 6 la.asid (BitVec.ofNat 64 (word + if written.isSome then 0 else 2 ^ 48)))

/-! ## Settling a page (R380-R383) -/

/-- The team of a page. -/
def State.pageTeam (s : State) (r : PageReq) : Option Nat := (((s.launches[r.launch]?).getD {}).teams)[r.index]?

def zeroPage : List Byte := List.replicate 16384 0

/-- R382, R383: a faulted page. -/
def State.faultPage (s : State) (chan : Nat) (r : PageReq) (status retries : Nat) (tmo : Bool) (data : List Byte) : State :=
  match s.launches[r.launch]?, s.pageTeam r with
  | some la, some i =>
    let s := s.recordPage la r status retries tmo
    if la.body.rof then
      (s.modKiln chan fun k => { k with held := k.held ++ [{ team := i, status, retries, data, counts := false, entry := r.entry }] }).pageCame i chan status retries
    else
      let l := s.unit i
      ((s.modTeam i fun tm => { tm with status := .retired }).settlePages (l.filter (· ≠ i))).later [.launchComplete r.launch]
  | _, _ => s

/-- R51: a page that has been corrected. -/
def State.deliverPage (s : State) (chan : Nat) (r : PageReq) (retries : Nat) (data : List Byte) : State :=
  match s.pageTeam r with
  | some i => (s.modKiln chan fun k => { k with held := k.held ++ [{ team := i, status := 1, retries, data, counts := true, entry := r.entry }] }).pageCame i chan 1 retries
  | none => s

/-! ## Sensing (R51, R288, R291) -/

/-- R326: what has been sensed since the last update of the wear registers: pages, and retries. -/
def addSensed (retry : Bool) : List (Nat × Nat) → List (Nat × Nat)
  | [] => [if retry then (0, 1) else (1, 0)]
  | x :: l => (if retry then (x.1, x.2 + 1) else (x.1 + 1, x.2)) :: l

/-- R322, R326: a page sensed, or a retry, for the bay of its launch. -/
def State.notePage (s : State) (chan : Nat) (r : PageReq) (retry : Bool) : State := { s with sensed := addSensed retry s.sensed }.noteUse (srcKiln chan) (s.bayOfAsid ((s.launches[r.launch]?).getD {}).asid) 1

/-- R51, R288, R291: the kiln takes its next entry, unless it holds four pages; one that names no page is faulted at once (R287).
Structural on the number of entries. -/
def State.senseFrom (s : State) (chan : Nat) : Nat → State
  | 0 => s
  | n + 1 =>
    let k := s.kiln chan
    if k.cur.isSome || 4 ≤ k.held.countP (·.counts) then s
    else
      match k.todo.find? fun r => s.contextRuns (((s.launches[r.launch]?).getD {}).asid) with
      | none => s
      | some r =>
        let s := s.modKiln chan fun k => { k with todo := k.todo.erase r }
        if entryBad r.entry then (s.faultPage chan r 3 0 false zeroPage).senseFrom chan n
        else (s.notePage chan r false).modKiln chan fun k => { k with cur := some { req := r, retries := 0, since := s.ns } }

def State.sense (s : State) (chan : Nat) : State := s.senseFrom chan (s.kiln chan).todo.length

/-- R380, R381: the read that is in progress is over, and the kiln goes on. -/
def State.endRead (s : State) (chan : Nat) (f : State → State) : State := (f (s.modKiln chan fun k => { k with cur := none })).sense chan

/-- R381, R417: firmware has marked the channel failed: its training failed three times. `tries` numbers the parts by kind and index. -/
def State.channelFailed (s : State) (chan : Nat) : Bool := 3 ≤ SMap.get 0 s.tries (3 * 256 + chan)

/-- R380: the header of a page reads as erased: all ones. -/
def headerErased (w0 w1 : W64) : Bool := w0 = BitVec.allOnes 64 && w1 = BitVec.allOnes 64

/-- R381, R416: the page's block has been retired. -/
def State.blockGone (s : State) (e : W64) : Bool := s.blocksGone.contains (Config.pageBlock (e.toNat % 2 ^ 33))

/-- R416: a page has needed soft-decision reads; three times in 24 h retire its block. -/
def State.noteSoft (s : State) (e : W64) : State :=
  let page := e.toNat % 2 ^ 33
  let l := (s.ns :: (SMap.get [] s.softReads page).filter fun t => s.ns < t + 86400000000000).take 3
  let s : State := { s with softReads := SMap.set [] s.softReads page l }
  if l.length = 3 then { s with blocksGone := addNat s.blocksGone (Config.pageBlock page) } else s

/-- R380: how the kiln goes on after a read, of whose page the fifteenth retry is the first soft-decision read. -/
def State.readDone (s : State) (chan : Nat) (x : KilnRead) : State :=
  match (s.kiln chan).cur with
  | none => s
  | some c =>
    match (if s.channelFailed chan || s.blockGone c.req.entry then .lost else x) with
    | .failed =>
      if c.retries < 16 then
        let s := if c.retries = 14 then s.noteSoft c.req.entry else s
        (s.notePage chan c.req true).modKiln chan fun k => { k with cur := some { c with retries := c.retries + 1 } }
      else s.endRead chan fun s => s.faultPage chan c.req 2 c.retries false zeroPage
    | .erased | .lost => s.endRead chan fun s => s.faultPage chan c.req 3 c.retries false zeroPage
    | .decoded data w0 w1 =>
      let data := (data ++ zeroPage).take 16384
      s.endRead chan fun s => if headerErased w0 w1 then s.faultPage chan c.req 3 c.retries false zeroPage
        else if pageMatches c.req.entry data w0 w1 then s.deliverPage chan c.req c.retries data else s.faultPage chan c.req 4 c.retries false data

/-- R381: 200 ms after the first read. -/
def State.readLate (s : State) (chan : Nat) : State :=
  match (s.kiln chan).cur with
  | some c => if c.since + 200000000 ≤ s.ns then s.endRead chan fun s => s.faultPage chan c.req 3 c.retries true zeroPage else s
  | none => s

/-- R287, R288: the entry of page `i` of launch `k` goes to its kiln; one that cannot be read names no page. -/
def State.takeEntry (s : State) (die k : Nat) (la : Launch) (i : Nat) : State :=
  let x := match s.bodyRead die la.asid (la.body.plist + 8 * i) 8 with
    | .ok (s, e) => (s, BitVec.ofNat 64 e)
    | .error _ => (s, (2 ^ 33 : W64))
  x.1.modKiln (entryChan x.2) fun y => { y with todo := y.todo ++ [{ launch := k, index := i, entry := x.2 }] }

/-- R288: every kiln goes on with its entries. -/
def State.senseAll (s : State) : State := (numbers 0 128).foldl State.sense s

/-- R288: the entries of a page list go to their kilns, in ascending index. -/
def State.startPages (s : State) (die k : Nat) (la : Launch) (count : Nat) : State :=
  ((numbers 0 count).foldl (fun (s : State) i => s.takeEntry die k la i) s).senseAll

/-- The kiln that holds a page for a team. -/
def State.holder (s : State) (i : Nat) : Option (Nat × HeldPage) :=
  (s.kilns.filterMap fun (c, k) => (k.held.find? (·.team = i)).map fun h => (c, h)).head?

end Sys2Proof.Machine
end

