-- ==== Sys2Proof/Machine/Placement.lean ====
section
/-!
DEFINITION. The residence of teams (R45-R62, R67, R74, R79, R127, R218, R229, R244, R283-R286): job slices, the grant of cores, placement, saving, restoration, restart, retirement and the
completion of a launch.
-/
namespace Sys2Proof.Machine

/-- A saved team that is runnable, or an unplaced one (whose page, in a page grid, has come). -/
def State.awaits (s : State) (tm : Team) : Bool :=
  tm.wave.isNone && match tm.status with
    | .saved => tm.runnable.isSome
    | .unplaced => !(s.launchOf tm).body.pageGrid || tm.runnable.isSome
    | _ => false

/-- R57: the key by which awaiting teams of one launch are taken: saved first, in the order in which they became runnable; then
unplaced ones by index (R49) or by arrival, and in one cycle by flash channel (R51). DESIGN CHOICE (log entry 72): of saved teams that
became runnable in one cycle the lower index comes first. -/
def State.queueKey (s : State) (tm : Team) : List Nat :=
  if tm.status = .saved then [0, tm.runnable.getD 0, 0, tm.tix]
  else if (s.launchOf tm).body.pageGrid then [1, tm.runnable.getD 0, tm.kiln.getD 0, tm.tix]
  else [1, 0, 0, tm.tix]

/-- R285: the budget of a slice of the launch. -/
def Launch.budget (la : Launch) (slice : Nat) : Budget := SMap.get { left := la.body.budget } la.budgets slice

/-- R286, R399: nothing of the budget is left, or the slice has been cancelled: no team of the slice is placed or restored. -/
def Launch.spent (la : Launch) (slice : Nat) : Bool :=
  (la.body.budget ≠ 0 && (la.budget slice).left = 0) || (la.budget slice).exhausted || (la.budget slice).cancelled

/-- R57: the next team of a slice. -/
def State.nextOf (s : State) (launch slice : Nat) : Option Nat :=
  match s.launches[launch]? with
  | none => none
  | some la =>
    if la.complete || !s.contextRuns la.asid || la.spent slice then none
    else
      ((la.teams.filterMap fun i => match s.team i with
        | some tm => if tm.slice = slice && s.awaits tm then some (i, s.queueKey tm) else none
        | none => none).foldl (fun (m : Option (Nat × List Nat)) x =>
          match m with
          | none => some x
          | some y => if keyLe y.2 x.2 then some y else some x) none).map (·.1)

/-! ## Grants (R284) -/

/-- R283: the slices that are ready, exhausted ones among them. -/
def State.readySlices (s : State) : List (Nat × Nat) :=
  (numbers 0 s.launches.length).flatMap fun k =>
    match s.launches[k]? with
    | none => []
    | some la =>
      let slices := la.teams.foldl (fun l i => match s.team i with | some tm => if s.awaits tm then addNat l tm.slice else l | none => l) []
      if la.complete || !s.contextRuns la.asid then [] else slices.map fun j => (k, j)

def State.launchBay (s : State) (k : Nat) : Nat := match s.context (((s.launches[k]?).getD {}).asid) with | some c => c.bay | none => 0
def State.launchMask (s : State) (k : Nat) : BitVec 256 := ((s.launches[k]?).getD {}).mask &&& ~~~ s.retired

/-- R284: the bay has used more than its share on the die in this window; the sum runs over the bays with ready slices there. -/
def State.overShare (s : State) (die bay : Nat) (ready : List (Nat × Nat)) : Bool :=
  let bays := (ready.filter fun x => (sites ((s.launches[x.1]?).getD {}).body (s.launchMask x.1)).any (fun c => dieOf c = die)).foldl (fun l x => addNat l (s.launchBay x.1)) []
  let total := (numbers 0 64).foldl (fun n b => n + SMap.get 0 s.qosUse (64 * die + b)) 0
  s.share bay * total < SMap.get 0 s.qosUse (64 * die + bay) * bays.foldl (fun n b => n + s.share b) 0

/-- R284: the order in which slices are granted a core: deadline (none is last), bay, launch, slice. -/
def State.grantKey (s : State) (x : Nat × Nat) : List Nat :=
  let d := ((s.launches[x.1]?).getD {}).body.deadline
  [if d = 0 then 2 ^ 64 else d, s.launchBay x.1, x.1, x.2]

/-- R284: the slice that a free core is granted to. -/
def State.grantee (s : State) (ready : List (Nat × Nat)) (c : Nat) : Option (Nat × Nat) :=
  let l := ready.filter fun x => (s.launchMask x.1).getLsbD c && (s.nextOf x.1 x.2).isSome
  let under := l.filter fun x => !s.overShare (dieOf c) (s.launchBay x.1) ready
  ((if under.isEmpty then l else under).foldl (fun (m : Option (Nat × Nat)) x =>
    match m with
    | none => some x
    | some y => if keyLe (s.grantKey x) (s.grantKey y) then some x else some y) none)

/-- R284: the core is free, or a quantum on it has expired. -/
def State.grantable (s : State) (c : Nat) : Bool :=
  match (s.core c).holder with
  | none => true
  | some (k, j) =>
    let mine := (s.residents c).filter fun x => x.2.1.launch = k && x.2.1.slice = j
    mine.isEmpty || (s.residents c).any (·.2.1.expired.isSome)

/-- R284: every core that is free, or on which a quantum has expired, is granted. -/
def State.grantCores (s : State) : State :=
  let ready := s.readySlices
  ((numbers 0 256).filter fun c => isUserCore c && !s.retired.getLsbD c).foldl (fun (s : State) c =>
    if !s.grantable c then s
    else match s.grantee ready c with
      | none => s
      | some x => s.modCore c fun k => { k with holder := some x }) s

/-! ## Placing (R48-R52, R57, R74, R79) -/

/-- R49: the cores a team is offered to, from the one after the pointer, the preferred dies of R51 first. -/
def State.offerOrder (s : State) (k : Nat) (la : Launch) (tm : Team) : List Nat :=
  let l := sites la.body (s.launchMask k)
  let p := la.lastCore.getD (l.head?.getD 0)
  let rot := l.filter (p < ·) ++ l.filter (· ≤ p)
  match tm.kiln with
  | some chan =>
    if tm.status = .saved then rot
    else
      let near (c : Nat) : Bool := (dieOf c) / 2 = chan / 64
      rot.filter near ++ rot.filter fun c => !near c
  | none => rot

/-- R284: the core, and the other of a pair, are held by the slice. -/
def State.heldBy (s : State) (la : Launch) (x : Nat × Nat) (c : Nat) : Bool :=
  (s.core c).holder = some x && (!la.body.pair || (s.core (c + 1)).holder = some x)

/-- R48: the cores for the `n` members of a unit, first in the order given, and their partitions. -/
def State.chooseCores (s : State) (la : Launch) (x : Nat × Nat) (n : Nat) (order : List Nat) (gone : List Nat := []) : Option (List (Nat × List Nat)) :=
  let ok := order.filterMap fun c => if s.heldBy la x c then (s.fits la c gone).map fun p => (c, p) else none
  if la.body.setSize = 1 then ok.head?.map fun y => [y]
  else
    (ok.find? fun y => n ≤ ok.countP fun z => z.1 / 4 = y.1 / 4).map fun y =>
      (sortBy (fun a b => a.1 ≤ b.1) ((ok.filter fun z => z.1 / 4 = y.1 / 4).take n))

/-- R33: a team at its first instruction; R79: its rings. -/
def freshTeam (la : Launch) (rings : List Ring) (tm : Team) : Team :=
  { tm with
    threads := List.replicate la.body.teamSize { pts := la.start },
    s := (numbers 0 8).foldl (fun m k => SMap.set 0 m k (wordAt la.body.args k)) [],
    scratch := [], scratchPoison := [], gts := [], uni := [], sPending := [], colls := [], barns := [], slots := [], rings, mat := {} }

/-- R79: the rings of a new team, from the ring table as it reads now. DESIGN CHOICE (log entry 78): the table is not checked again, and one
that can no longer be read gives the team no rings. -/
def State.newRings (s : State) (die : Nat) (la : Launch) : State × List Ring :=
  match s.ringTable die la.asid la.body.rings la.body.nring with
  | .ok (s, l) => (s, l.map ringOfEntry)
  | .error _ => (s, [])

/-- R46, R74: a team is placed or restored on core `c`, in granules of its scratchpad, with the launch's copy on the die; the window of one whose kiln still holds its page is filled there (R18, R288). -/
def State.settleOn (s : State) (i : Nat) (tm : Team) (la : Launch) (c : Nat) (parts : List Nat) : State :=
  let r := if tm.threads.isEmpty then s.newRings (dieOf c) la else (s, [])
  let s := r.1
  let grans := s.takeGranules la.body c
  let s := s.modTeam i fun tm =>
    let tm := if tm.threads.isEmpty then freshTeam la r.2 tm else tm
    { tm with status := .placed, core := c, parts, grans, gts := s.granuleStamps tm.gts grans, since := s.ns, expired := none, yielded := false, saving := false, waitSince := none,
              runnable := none, age := some (tm.age.getD s.clk) }
  let s := s.modLaunch tm.launch fun la =>
    let la := { la with lastCore := some c }
    if la.body.dscr = 0 ∨ la.dies.contains (dieOf c) then la
    else { la with dies := addNat la.dies (dieOf c), dcopies := SMap.set {} la.dcopies (dieOf c) (s.newCopy la (dieOf c)) }
  if (s.holder i).isSome then s.later [.windowFillComplete i] else s

/-- The members of a unit take their places, in ascending member number. DESIGN CHOICE (log entry 73): the last-core pointer of R49 then names
the core of the highest-numbered member. -/
def State.settleUnit (s : State) (la : Launch) : List Nat → List (Nat × List Nat) → State
  | i :: is, y :: ys =>
    match s.team i with
    | some tm => (s.settleOn i tm ((s.launches[tm.launch]?).getD la) y.1 y.2).settleUnit la is ys
    | none => s.settleUnit la is ys
  | _, _ => s

/-- R50: the freed cores in ascending coreid order, which are offered first to an unplaced team. -/
def freedCores (la : Launch) (tm : Team) (order : List Nat) : List Nat :=
  if tm.status = .saved then [] else sortBy (fun a b => a ≤ b) (la.freed.filter order.contains)
def freedFirst (la : Launch) (tm : Team) (order : List Nat) : List Nat :=
  let f := freedCores la tm order
  f ++ order.filter fun c => !f.contains c
/-- R50: the freed cores still to be offered once a team has taken the cores `used`: those after the one it took; none after a team that
went elsewhere, which every freed core had been offered to. -/
def freedLeft (la : Launch) (tm : Team) (order used : List Nat) : List Nat :=
  if tm.status = .saved then la.freed.filter fun c => !used.contains c
  else ((freedCores la tm order).dropWhile fun c => !used.contains c).filter fun c => !used.contains c

/-! ## Saving (R54-R56, R62) -/

/-- R56, R66, R402, R404: the waits that let a team be saved: monitors, rings, the trowel, a full event ring, an entry of its own refused for 1 ms, or
1 ms behind refused entries. -/
def State.waitCounts (s : State) (t : TRef) : Wait → Bool
  | .monitor | .rget _ _ | .ringSlot _ | .reos _ | .mtake | .evsig _ => true
  | .reply _ | .accepted _ _ | .refused _ => s.senders.any fun k => k.window.any fun x => x.held && x.what.thread = some t
  | .room _ _ _ => match (s.thread t).bind (·.wait) with | some w => decide (w.group.1 * 5 / 12 + 1000000 ≤ s.ns) | none => false
  | _ => false

/-- Every non-exited thread of the team waits in a way that `ok` admits. -/
def State.allWait (s : State) (i : Nat) (ok : TRef → Wait → Bool) : Bool :=
  match s.team i with
  | none => false
  | some tm => !tm.alive.isEmpty && tm.alive.all fun k => match (tm.threads[k]?).bind Thread.why with
    | some w => ok { team := i, tid := k } w
    | none => false

/-- R56: the condition of the whole unit. -/
def State.idleUnit (s : State) (i : Nat) : Bool := (s.unit i).all fun j => s.allWait j s.waitCounts

/-- R55: the unit's threads stop, and it is saved once its results are in. -/
def State.beginSave (s : State) (i : Nat) : State :=
  ((s.unit i).foldl (fun (s : State) j => s.modTeam j fun tm => if tm.status = .placed then { tm with saving := true } else tm) s).later [.teamSave i]

/-- R55: a wait that the team is itself doing. -/
def State.ownWait (s : State) (t : TRef) (w : Wait) : Bool := w.firstClass || s.waitCounts t w

/-- R55: the s registers that such waits will write. -/
def State.ownDests (s : State) (i : Nat) (tm : Team) : List Nat :=
  tm.tids.filterMap fun k => match (tm.threads[k]?).bind Thread.why with
    | some w => if s.ownWait { team := i, tid := k } w then (match regOf (w.dest s { team := i, tid := k }) with | .s j => some j | _ => none) else none
    | none => none

/-- R55: a result or an engine operation of the team is still due. -/
def State.resultsDue (s : State) (i : Nat) : Bool :=
  match s.team i with
  | none => false
  | some tm =>
    tm.sPending.any (fun j => !(s.ownDests i tm).contains j) || s.ops.any (·.t.team = i)
      || tm.tids.any fun k => match tm.threads[k]? with
        | some th => !th.exited && (th.log.any (·.busy) || match th.why with
          | some w => !s.ownWait { team := i, tid := k } w
          | none => false)
        | none => false

/-- R50, R67: the team gives up its place. -/
def State.leaveCore (s : State) (i : Nat) (tm : Team) : State :=
  let s := tm.tids.foldl (fun (s : State) k => s.leavePool { team := i, tid := k }) s
  let s := (s.returnGranules tm).modTeam i fun tm => { tm with grans := [] }
  s.modLaunch tm.launch fun la => { la with freed := addNat la.freed tm.core }

/-- R371, R372: a word of the team's lane slices or scratchpad has an uncorrectable error: the first thread concerned. -/
def Team.spoilt (tm : Team) : Option Nat :=
  match tm.alive.find? fun k => match tm.threads[k]? with | some th => !th.lanePoison.isEmpty | none => false with
  | some k => some k
  | none => if tm.scratchPoison.isEmpty then none else tm.alive.head?

/-- R353, R419: a team ends whose save from a core that has been retired reads an uncorrectable error. DEDUCED (log entry 116): it reads one where a
word that it saves is marked. -/
def State.endSpoilt (s : State) (i : Nat) (tm : Team) (k : Nat) : State :=
  let t : TRef := { team := i, tid := k }
  let nested := match tm.threads[k]? with | some th => th.inTrap | none => false
  (s.record (tm.asid s) (s.threadEvent t 4 (unhandledValue { code := 0x46, aux := 0 } nested (((s.thread t).map (·.pc)).getD 0)))).endTeam i

/-- R55, R60: the team leaves with its context. -/
def State.saveTeam (s : State) (i : Nat) : State :=
  match s.team i with
  | none => s
  | some tm =>
    let s := tm.alive.foldl (fun (s : State) k => s.flushPoint { team := i, tid := k }) s
    let s := s.leaveCore i tm
    let ready := tm.alive.any fun k => match tm.threads[k]? with | some th => th.wait.isNone | none => false
    s.modTeam i fun tm => { tm with status := .saved, saving := false, parts := [], rser := tm.rser + 1, waitSince := none,
                                    runnable := if ready then some s.clk else none }

/-- R55, R419: the team is saved, or ends where its save reads an uncorrectable error. -/
def State.saveOne (s : State) (i : Nat) : State :=
  match s.team i with
  | none => s
  | some tm =>
    match (if s.retired.getLsbD tm.core || ((s.launchOf tm).body.pair && s.retired.getLsbD (tm.core + 1)) then tm.spoilt else none) with
    | some k => s.endSpoilt i tm k
    | none => s.saveTeam i

/-- R62, R288: the page of a team is sensed and delivered again, from its entry; one that its kiln still holds is given up. DESIGN CHOICE (log entry 131):
the entry is read from the page list again. -/
def State.askPage (s : State) (i : Nat) (tm : Team) : State :=
  let s := match s.holder i with | some (chan, _) => s.modKiln chan fun k => { k with held := k.held.filter (·.team ≠ i) } | none => s
  s.takeEntry (dieOf tm.core) tm.launch (s.launchOf tm) tm.tix

/-- The team whose thread's request an entry is: not one of a slice for the request of a thread (R300). -/
def Sent.team (x : Sent) : Option Nat :=
  match x with
  | .hod _ e => if e.kind = 4 then x.thread.map (·.team) else none
  | _ => x.thread.map (·.team)

/-- R62, R63: what a team has sent and no receiver has accepted is not sent again. -/
def State.dropSent (s : State) (i : Nat) : State :=
  { s with senders := (s.senders.map fun (k : Sender) => { k with window := k.window.filter fun x => x.what.team ≠ some i }).filter (!·.window.isEmpty) }

/-- R62: the team gives up everything, what its first life has sent included, and will run again from its first instruction. -/
def State.restartOne (s : State) (i : Nat) : State :=
  match s.team i with
  | none => s
  | some tm =>
    let s := tm.tids.foldl (fun (s : State) k => s.forget { team := i, tid := k }) (s.discardReds i)
    let s := (s.leaveCore i tm).dropSent i
    let page := (s.launchOf tm).body.pageGrid
    let s := s.modTeam i fun tm => { tm with status := if page then .awaitingPage else .unplaced, saving := false, parts := [], threads := [], colls := [],
                                             rser := tm.rser + 1, waitSince := none, runnable := none, kiln := none }
    if page then (s.askPage i tm).senseAll else s

/-- R62: the unit still holds its flag everywhere. -/
def State.idemUnit (s : State) (i : Nat) : Bool := (s.unit i).all fun j => match s.team j with | some tm => tm.idem | none => false

/-- R291: the context drains. -/
def State.draining (s : State) (asid : Nat) : Bool := match s.context asid with | some { state := .draining _ _, .. } => true | _ => false

/-- R67: a placed team with no thread left. -/
def State.ended (s : State) (i : Nat) : Bool := match s.team i with | some tm => tm.status = .placed && tm.alive.isEmpty | none => false

/-- R55, R62: the unit is saved, or restarted when it may be. -/
def State.saveUnit (s : State) (i : Nat) : State :=
  match s.team i with
  | none => s
  | some tm =>
    if tm.status ≠ .placed || !tm.saving then s
    else if (s.unit i).any s.ended then s.later (((s.unit i).filter s.ended).map .teamRetire ++ [.teamSave i])
    else if (s.unit i).any s.resultsDue then s.later [.teamSave i]
    else
      let l := s.unit i
      if s.idemUnit i && (s.draining (tm.asid s) || Config.restarts s.free) then l.foldl State.restartOne s.tick
      else l.foldl State.saveOne s.tick

/-- R291, step 3: in a drain a unit whose threads all wait, or that still holds its flag, leaves at once. -/
def State.drainUnit (s : State) (i : Nat) (tm : Team) : State :=
  if tm.status = .placed && tm.wave.isNone && !tm.saving && s.draining (tm.asid s) && ((s.unit i).all (fun j => s.allWait j fun _ _ => true) || s.idemUnit i) then s.beginSave i
  else s

/-! ## Making room (R54, R56) -/

/-- R47, R48: the cores that a unit offered core `c` would take or share: the core, its pair, or the cores of its cluster. -/
def placeCores (la : Launch) (order : List Nat) (c : Nat) : List Nat :=
  if la.body.setSize ≠ 1 then order.filter fun d => d / 4 = c / 4 else if la.body.pair then [c, c + 1] else [c]

/-- R56: the all-waiting teams of a place, longest first. DESIGN CHOICE (log entry 74): of those that have waited equally long the older one
comes first. -/
def State.waitersOn (s : State) (cores : List Nat) : List Nat :=
  let l := (cores.flatMap s.residents).filter fun x => !x.2.1.saving && s.idleUnit x.1
  ((sortBy (fun a b => keyLe [a.2.1.waitSince.getD s.ns, a.2.1.age.getD 0, a.1] [b.2.1.waitSince.getD s.ns, b.2.1.age.getD 0, b.1]) l).map (·.1)).dedup

/-- R54-R56: teams of a place that are being saved already. -/
def State.leaving (s : State) (cores : List Nat) : List Nat := ((cores.flatMap s.residents).filter (·.2.1.saving)).map (·.1)

/-- R56: at the first core of the order where the room already free, with what teams being saved and all-waiting teams would release, lets
the unit of `n` teams fit: the all-waiting team to save next, none while those being saved are enough. -/
def State.roomByWaiters (s : State) (la : Launch) (x : Nat × Nat) (n : Nat) (order : List Nat) : Option (Option Nat) :=
  (order.filterMap fun c =>
    let cores := placeCores la order c
    let going := s.leaving cores
    let l := s.waitersOn cores
    if (s.chooseCores la x n (order.filter cores.contains) ((going ++ l).flatMap s.unit)).isNone then none
    else if going.isEmpty then some l.head? else some none).head?

/-- R54, R193: the resident team on a core of the slice whose quantum expired earliest, the lowest coreid first. -/
def State.expiredOn (s : State) (x : Nat × Nat) (cores : List Nat) : Option Nat :=
  ((cores.flatMap fun c => if (s.core c).holder = some x then (s.residents c).filter (fun y => !y.2.1.saving) else []).foldl
    (fun (m : Option (Nat × Nat)) y =>
      match m, y.2.1.expired with
      | m, none => m
      | none, some e => some (y.1, e)
      | some z, some e => if e < z.2 then some (y.1, e) else some z) none).map (·.1)

/-- R49-R57: a team of a launch that awaits a place is offered the cores. Teams are saved for it one at a time (R54, R56). DESIGN CHOICE (log entry
112): where all-waiting teams make room (R56), no team whose quantum has expired is saved for it (R54). -/
def State.offerTeam (s : State) (i : Nat) : State :=
  let s := s.grantCores
  match s.team i with
  | none => s
  | some tm =>
    match s.launches[tm.launch]? with
    | none => s
    | some la =>
      if s.nextOf tm.launch tm.slice ≠ some i then s
      else
        let x := (tm.launch, tm.slice)
        let order := s.offerOrder tm.launch la tm
        let l := s.unit i
        match s.chooseCores la x l.length (freedFirst la tm order) with
        | some ys => (s.modLaunch tm.launch fun la => { la with freed := freedLeft la tm order (ys.map (·.1)) }).settleUnit la l ys
        | none =>
          let s := s.modLaunch tm.launch fun la => { la with freed := [] }
          match s.roomByWaiters la x l.length order with
          | some v => (v.map s.beginSave).getD s
          | none =>
            let held := order.filter fun c => (s.core c).holder = some x
            if !(s.leaving held).isEmpty then s
            else match s.expiredOn x (sites la.body (s.launchMask tm.launch)) with
              | some v => s.beginSave v
              | none => s

/-! ## Retirement and completion (R67, R127, R218) -/

def State.retireTeam (s : State) (i : Nat) : State :=
  match s.team i with
  | none => s
  | some tm =>
    if tm.status ≠ .placed || tm.wave.isSome || tm.threads.isEmpty || !tm.alive.isEmpty || s.ops.any (·.t.team = i) then s
    else
      let s := s.leaveCore i tm
      (s.modTeam i fun tm => { tm with status := .retired, saving := false, parts := [] }).later [.launchComplete tm.launch]

/-- R127: what the release scope adds: markers for fabric stores, and flushes too for system; the markers and ports to wait for. -/
def State.releaseScope (s : State) (asid rel : Nat) (mine : Marker → Bool) : State × List Nat × List Nat :=
  if 2 ≤ rel then s.startFence (s.bayOfAsid asid) (rel = 3) mine else (s, [], [])

/-- R74, R115, R284: what a launch gives back. -/
def State.freeLaunch (s : State) (k : Nat) : State :=
  let copies : SMap DCopy := ((s.launches[k]?).getD {}).dcopies
  let s : State := { s with units := copies.foldl (fun m (x : Nat × DCopy) => x.2.giveBack x.1 m) s.units }
  let s : State := s.modLaunch k fun la => { la with complete := true, closing := none, dcopies := [], dies := [] }
  { s with cores := s.cores.filterMap fun (c, x) =>
      let y := if (x.holder.map (·.1)) = some k then { x with holder := none } else x
      if y = ({} : Core) then none else some (c, y) }

/-- R127, R385: the queue joins the launch's teams, their operations, the closes of their regions and firmware's writes to its fault record list. -/
def State.joinQueue (s : State) (la : Launch) : State :=
  match la.queue with
  | none => s
  | some k =>
    let list := if la.body.pageGrid then s.fwPts else 0
    let pts := la.teams.foldl (fun m i => match s.team i with | some tm => tm.threads.foldl (fun m th => max m th.pts) (max m tm.opPts) | none => m) (max la.closePts list)
    s.modQueue k fun q => { q with pts := max q.pts pts }

/-- R127: the release is done, and the completion effects may follow. -/
def State.endLaunch (s : State) (k : Nat) (la : Launch) : State := (s.joinQueue la).freeLaunch k

/-- R67, R127, R218: once every team has retired, firmware closes the launch's regions, its release scope takes effect, and it completes when
the markers and flushes of that have been answered. -/
def State.completeLaunch (s : State) (k : Nat) : State :=
  match s.launches[k]? with
  | none => s
  | some la =>
    if la.complete || la.teams.any (fun i => match s.team i with | some tm => tm.status ≠ .retired | none => false) then s
    else match la.closing with
      | some ([], []) => s.endLaunch k la
      | some _ => s
      | none =>
        let x := s.closeLaunch k
        let la := { la with closePts := x.2 }
        let y := (x.1.modLaunch k fun l => { l with closePts := x.2 }).releaseScope la.asid la.rel (s.ofLaunch k)
        if y.2.1.isEmpty && y.2.2.isEmpty then y.1.endLaunch k la else y.1.modLaunch k fun l => { l with closing := some y.2 }

/-! ## Tasks (R229, R394) -/

/-- R225, R229, R394: the launch of a task record, or the record of kind 9. -/
def State.startTask (s : State) (asid rec : Nat) : State :=
  let refuse (s : State) : State := s.record asid (firmwareEvent 9 asid (BitVec.ofNat 64 (rec % 2 ^ 57)))
  let bay := ((s.context asid).map (·.bay)).getD 0
  match s.bodyPlace 0 asid rec 64 false with
  | .error _ => refuse s
  | .ok (s, pa) =>
    let die := s.homeOf pa / 48
    let va := s.mem.read (pa + 8) 8 % 2 ^ 57
    if va % 8 ≠ 0 then refuse s
    else
      let r := (numbers 0 23).foldl (fun (r : Except TrapInfo (State × List W64)) j =>
        match r with
        | .error f => .error f
        | .ok (s, ws) => match s.bodyRead die asid (va + 8 * j) 8 with
          | .error f => .error f
          | .ok (s, w) => .ok (s, ws ++ [BitVec.ofNat 64 w])) (.ok (s, []))
      match r with
      | .error _ => refuse s
      | .ok (s, ws) =>
        let b := LaunchBody.ofWords ws
        let count : Except TrapInfo (State × Nat) := match b.kind with
          | 0 => .ok (s, b.grid % 2 ^ 32)
          | 1 => .ok (s, b.grid % 2 ^ 24)
          | _ => s.bodyRead die asid (b.grid % 2 ^ 57) 4
        match count with
        | .error _ => refuse s
        | .ok (s, n) =>
          let la : Launch := { asid, body := b, mask := b.mask &&& s.launchCores bay, start := (s.line pa).1, task := some rec }
          if b.pageGrid && !s.present 11 then refuse s
          else match s.checkLaunch die asid bay ws n with
            | none => refuse s
            | some s =>
              let k := s.launches.length
              let s := s.addLaunch la n
              if b.pageGrid then s.startPages die k la n else s

/-! ## The events -/

/-- R49-R52, R57. -/
def execTeamPlacement (team : Nat) (s : State) : Host.Outcome State Fault Refusal := .next (s.offerTeam team)
/-- R57. -/
def execTeamRestore (team : Nat) (s : State) : Host.Outcome State Fault Refusal := .next (s.offerTeam team)
/-- R56: the condition has held for one quantum; in a drain, R291. -/
def execAllWaitingQuantum (team : Nat) (s : State) : Host.Outcome State Fault Refusal :=
  .next (match s.team team with
    | some tm => match tm.waitSince with
      | some w =>
        if tm.status = .placed && tm.wave.isNone && !tm.saving && s.idleUnit team && w + (s.launchOf tm).body.quantumNs ≤ s.ns then s.beginSave team
        else s.drainUnit team tm
      | none => s.drainUnit team tm
    | none => s)
/-- R54, R286, R291: the team's quantum has expired; in a drain it is saved. -/
def execQuantumExpiry (team : Nat) (s : State) : Host.Outcome State Fault Refusal :=
  .next (match s.team team with
    | some tm =>
      if tm.status = .placed && tm.wave.isNone && (tm.yielded || tm.since + (s.launchOf tm).body.quantumNs ≤ s.ns) then
        let s := s.modTeam team fun tm => { tm with expired := some (tm.expired.getD (tm.since + (s.launchOf tm).body.quantumNs)) }
        if s.draining (tm.asid s) && !tm.saving then s.beginSave team else s
      else s
    | none => s)
/-- R55. -/
def execTeamSave (team : Nat) (s : State) : Host.Outcome State Fault Refusal := .next (s.saveUnit team)
/-- R62: a team chosen to be saved that still holds its flag is restarted. -/
def execTeamRestart (team : Nat) (s : State) : Host.Outcome State Fault Refusal :=
  .next (match s.team team with
    | some tm => if tm.status = .placed && tm.saving && s.idemUnit team && !(s.unit team).any s.resultsDue then (s.unit team).foldl State.restartOne s else s
    | none => s)
/-- R67. -/
def execTeamRetire (team : Nat) (s : State) : Host.Outcome State Fault Refusal := .next (s.retireTeam team)
/-- R67, R127, R218. -/
def execLaunchComplete (launch : Nat) (s : State) : Host.Outcome State Fault Refusal := .next (s.completeLaunch launch)
/-- R229, R394. -/
def execTaskLaunch (asid record : Nat) (s : State) : Host.Outcome State Fault Refusal := .next (s.startTask asid record)

end Sys2Proof.Machine
end

