-- ==== Sys2Proof/Machine/Slices.lean ====
section
/-!
DEFINITION. L2 slices and their hod cores (R76, R88, R293-R301, R321, R397, R398): walks, misses and fills, evictions, the events
and the beginning and end of handlers' invocations, the slice port, and the installation of slice programs. What a handler does between them
is in `Machine/Hod.lean`.
-/
namespace Sys2Proof.Machine

/-! ## Hod events (R300, R301) -/

/-- R297: a .g address as a handler sees it. -/
def tagged (va : Nat) : W64 := BitVec.ofNat 64 (2 ^ 63 + va % 2 ^ 57)

/-- R290: the window of a slice for its hod core's queue has room for all that one request can raise: the events of a frame's four lines, and its own.
DEDUCED (log entry 90): while it has not, the request waits. -/
def State.eventRoom (s : State) (slice : Nat) : Bool := s.windowLoad 0xFF slice 2 + 5 ≤ 32

/-- R290, R300: an event of the ASID that owns a line, where a handler is installed for it. A slice raises events in its own window, which has room
(`eventRoom`). -/
def State.raiseHod (s : State) (slice : Nat) (e : HodEvent) : State :=
  if (s.handlerOf e.asid slice e.kind).isNone then s
  else match s.send 0xFF (.hod slice e) with
    | some p => p.s
    | none => s

/-- R119, R300: the event of a line, at the timestamp of the access that it comes from. -/
def lineEvent (kind asid va a2 a4 pts : Nat) (who : Option Requester) (fill : Option FillReq) : HodEvent :=
  { kind, asid, va := BitVec.ofNat 64 (va / 128 * 128), a2 := BitVec.ofNat 64 a2, a3 := 0, a4 := BitVec.ofNat 64 a4, pts, who, dest := none, entry := 0, top := 0, fill }

/-- R300: the event of a request's line. -/
def FillReq.event (f : FillReq) (kind : Nat) (fill : Option FillReq) : HodEvent :=
  lineEvent kind f.asid f.va (if f.store then 1 else 0) f.coreid f.pts f.who fill

/-! ## Frames (R76, R321) -/

/-- R300: one eviction event for each valid line of a frame, in ascending line order, at the timestamp of the access that claimed it. -/
def State.evictionEvents (s : State) (slice : Nat) (f : Frame) (lines : BitVec 4) (pts : Nat) (who : Option Requester) : State :=
  (numbers 0 4).foldl (fun (s : State) j =>
    if lines.getLsbD j && f.valid.getLsbD j then
      s.raiseHod slice (lineEvent 3 f.asid (f.va + 128 * j) (if f.dirty.getLsbD j then 1 else 0) 0xFF pts who none)
    else s) s

/-- R298: a request whose claim of a frame, or miss, raises events: a handler's does not, nor a grout wave's. -/
def FillReq.raises (f : FillReq) : Bool := f.coreid % 64 ≠ 61 && f.coreid % 64 ≠ 62

/-- R321: the largest number of ways of a bay. -/
def State.waysOf (s : State) (bay : Nat) : Nat := (s.bayWord bay).toNat / 2 ^ 40 % 32

/-- R322: bytes moved between a slice and the memory of a line, for a bay, with the operations of the slice and of the L3 or host port that it takes. -/
def State.noteMoved (s : State) (pa bay lines : Nat) : State :=
  let s := s.noteUse (srcSlice (s.homeOf pa)) bay lines
  if s.region pa = .host then s.noteUse (srcHost (hostPort pa)) bay lines
  else (s.noteUse (srcStack (stackOf pa)) bay (128 * lines)).noteUse (srcL3 (baseOf pa)) bay lines

/-- R76: the dirty lines of a frame that leave are written back. -/
def State.noteBack (s : State) (f : Frame) (lines : BitVec 4) : State :=
  s.noteMoved (512 * f.sb) f.bay ((numbers 0 4).countP fun j => (f.dirty &&& lines).getLsbD j)

/-- R76, R321: the frame that a fill for a bay evicts: the least recently used one of those it may claim, one not kept where there is one. -/
def Slice.victim (l : Slice) (sb bay ways : Nat) : Option Frame :=
  let set := l.frames.filter fun f => l2Set f.sb = l2Set sb
  let mine := set.filter fun f => f.bay = bay
  let choose (fs : List Frame) : Option Frame := match (fs.filter fun f => !f.kept).getLast? with | some f => some f | none => fs.getLast?
  if ways ≠ 0 ∧ ways ≤ mine.length then choose mine
  else if set.length < 16 then none else choose set

def State.frameOf (s : State) (pa : Nat) : Option Frame := (s.slice (s.homeOf pa)).frames.find? (·.sb = pa / 512)

/-- R76, R78: the lines that the fill of a request fetches: those of its frame that are not there, of its own line alone but under .grp. -/
def State.fetches (s : State) (f : FillReq) : List Nat :=
  let held := ((s.frameOf f.pa).map (·.valid)).getD 0
  (if f.hint = 3 then numbers 0 4 else [f.pa / 128 % 4]).filter fun j => !held.getLsbD j

/-- R76: the request's lines in its frame. -/
def FillReq.into (f : FillReq) (y : Frame) : Frame :=
  let bit : BitVec 4 := 1#4 <<< (f.pa / 128 % 4)
  let x := y.ownedBy f.asid f.va
  { x with
    valid := x.valid ||| (if f.hint = 3 then 15 else bit), dirty := if f.store then x.dirty ||| bit else x.dirty,
    strm := if f.hint = 2 then x.strm ||| bit else x.strm, kept := x.kept || f.hint = 1 }

/-- R76, R78, R300, R321: the frame of a request's superblock holds its lines, claimed for a bay where there was none. -/
def State.claimFrame (s : State) (f : FillReq) (bay : Nat) : State :=
  let k := s.homeOf f.pa
  if (s.frameOf f.pa).isSome then s.modSlice k fun l => l.use (f.pa / 512) f.into
  else
    let fresh : Frame := f.into { sb := f.pa / 512, va := f.va / 512 * 512, valid := 0, dirty := 0, strm := 0, kept := false, asid := f.asid, bay }
    match (s.slice k).victim (f.pa / 512) bay (s.waysOf bay) with
    | none => s.modSlice k fun l => { l with frames := fresh :: l.frames }
    | some v =>
      let s := (s.noteBack v 15).modSlice k fun l => { l with frames := fresh :: l.frames.filter (·.sb ≠ v.sb) }
      if f.raises then s.evictionEvents k v 15 f.pts f.who else s

/-- R25, R76, R78, R318: the line is filled, at the charge of the requester's bay; a line of host memory that is fetched is evaluated by the monitors on
it (R311). -/
def State.fillLine (s : State) (f : FillReq) : State :=
  let bay := f.bay.getD (s.chargedBay f.coreid f.asid)
  let new := s.fetches f
  let s := (s.noteMoved f.pa bay new.length).claimFrame f bay
  if s.region f.pa = .host then new.foldl (fun (s : State) j => s.evaluate (.phys (f.pa / 512 * 512 + 128 * j) 2) 128 0) s else s

/-- R76: one line leaves its frame, which goes when it was the last. -/
def Frame.without (f : Frame) (bit : BitVec 4) : Option Frame :=
  if f.valid &&& ~~~ bit = 0 then none
  else some { f with valid := f.valid &&& ~~~ bit, dirty := f.dirty &&& ~~~ bit, strm := f.strm &&& ~~~ bit }

def State.dropLine (s : State) (pa : Nat) : State :=
  let go (f : Frame) : Option Frame := if f.sb = pa / 512 then f.without (1#4 <<< (pa / 128 % 4)) else some f
  s.modSlice (s.homeOf pa) fun l => { l with frames := l.frames.filterMap go }

/-- R300: the ASID that owns the line of a request by physical address (512): that of its superblock's frame, if it has one. -/
def State.ownedLine (s : State) (f : FillReq) : FillReq :=
  if f.asid ≠ 512 then f
  else match s.frameOf f.pa with
    | some x => { f with asid := x.asid, va := x.va + f.pa % 512 }
    | none => f

/-- The step that the request of a miss goes on with; `missed` once the invocation for it is over. -/
def FillReq.again (f : FillReq) (missed : Bool) : Instr := .l2MissFill f.pa f.va f.store f.hint f.asid f.coreid { who := f.who, pts := f.pts, bay := f.bay, missed }

/-- R290, R300: a miss of a type 0 line raises its event first, and is filled after the invocation; where no handler is installed it is filled
at once. While the window of the slice has no room the request waits. Where another request has had the line filled meanwhile, it uses the line, and under
.grp the others of the superblock are still filled (R76, R78). -/
def State.missLine (s : State) (f : FillReq) : State :=
  let k := s.homeOf f.pa
  if s.l2Holds f.pa then (if f.hint = 3 then s.fillLine (s.ownedLine f) else s.useLine f.pa f.store f.hint f.asid f.va)
  else if !s.eventRoom k then s.later [f.again false]
  else
    let f := s.ownedLine f
    if f.raises && s.region f.pa = .hbm && (s.handlerOf f.asid k 1).isSome then
      match s.send 0xFF (.hod k (f.event 1 (some f))) with
      | some p => p.s
      | none => s.requestFill f
    else s.fillLine f

/-- R290, R300: the fill that follows a miss invocation, and its event. -/
def State.fillAfterMiss (s : State) (f : FillReq) : State :=
  if s.eventRoom (s.homeOf f.pa) then (s.fillLine f).raiseHod (s.homeOf f.pa) (f.event 2 none) else s.later [f.again true]

/-- The pts of the agents whose loads a cache may answer: the threads of a core, a service core, or all of these. -/
def State.cacheUsers (s : State) (cache : Nat) : List Nat :=
  if cache < hartCache 0 then (s.residents cache).flatMap fun y => (y.2.1.threads.filter (!·.exited)).map (·.pts)
  else if cache < sharedCache then [(SMap.get {} s.harts (cache - hartCache 0)).pts]
  else (numbers 0 32).map fun h => (SMap.get {} s.harts h).pts

/-- R76: every lease granted on a line has ended: no cache holds a copy that still answers a load. -/
def State.leasesOver (s : State) (pa : Nat) : Bool :=
  s.cores.all fun x => match x.2.l1.find? (·.line = pa / 128) with
    | none => true
    | some c => (s.cacheUsers x.1).all (c.rts < ·)

/-- R76: a .strm line is evicted alone. -/
def State.evictStream (s : State) (pa : Nat) : State :=
  match s.frameOf pa with
  | none => s
  | some f =>
    let bit : BitVec 4 := 1#4 <<< (pa / 128 % 4)
    if f.strm &&& f.valid &&& bit ≠ 0 && s.leasesOver pa && s.eventRoom (s.homeOf pa) then ((s.noteBack f bit).dropLine pa).evictionEvents (s.homeOf pa) f bit (s.line pa).1 none else s

/-! ## Invocations (R296, R300, R301, R397, R398) -/

/-- R119, R300: the registers at the start of an invocation, which begins at the timestamp of its access: a0 to a4 are x10 to x14, sp is x2. -/
def hodRegs (e : HodEvent) : SMap W64 :=
  [(2, BitVec.ofNat 64 e.top), (10, BitVec.ofNat 64 e.kind), (11, tagged e.va.toNat), (12, e.a2), (13, e.a3), (14, e.a4)].filter (·.2 ≠ 0)

/-- R298, R301, R328, R398: the next event of the queue starts its invocation, or takes its default action where its ASID's handlers are disabled. -/
def State.startInvocation (s : State) (k : Nat) : State :=
  match (s.slice k).hod, (s.slice k).hodq with
  | none, e :: es =>
    if s.hodDisabled e.asid k then
      let s := (s.modSlice k fun l => { l with hodq := es }).defaultAction e
      if es.isEmpty then s else s.later [.hodInvocationStart k]
    else s.modSlice k fun l =>
      { l with hodq := es, hod := some { event := e, started := s.clk, regs := hodRegs e, pc := BitVec.ofNat 64 e.entry, pts := e.pts } }
  | _, _ => s

/-- R398: the events of an ASID that a slice has accepted take their default action at once. -/
def State.dropEvents (s : State) (k asid : Nat) : State :=
  ((s.slice k).hodq.filter (·.asid = asid)).foldl State.defaultAction (s.modSlice k fun l => { l with hodq := l.hodq.filter (·.asid ≠ asid) })

/-- R301: the invocation is over; the queue's next event may start. -/
def State.closeInvocation (s : State) (k : Nat) : State :=
  let s := s.modSlice k fun l => { l with hod := none }
  let mine (x : Entry) : Bool := match x.what with | .request _ _ who => who = .hod k | _ => false
  let s := { s with senders := s.senders.map fun (w : Sender) => { w with window := w.window.filter (!mine ·) } }
  if (s.slice k).hodq.isEmpty then s else s.later [.hodInvocationStart k]

/-- R301: the request that the event stems from goes on; `reply` is the message's. -/
def State.finishEvent (s : State) (e : HodEvent) (reply : W64) (pts : Nat) : State :=
  match e.kind, e.who, e.fill with
  | 4, some (.thread t), _ => s.replyTo t e.dest reply pts
  | 1, _, some f => s.fillAfterMiss f
  | _, _, _ => s

/-- R298: the number of a hod core as an agent: no core has it. -/
def hodCore (slice : Nat) : Nat := 64 * (slice / 48) + 61

/-- R298: the place of a handler's access to .g, or what it meets. -/
def State.handlerPlace (s : State) (slice asid va n : Nat) (store : Bool) : Except TrapInfo (State × Nat) :=
  match s.translate (hodCore slice) asid va store true with
  | .error f => .error f
  | .ok (s', pa, type, _, _) => if type ≠ 0 then .error (memFault 0x44 5 va) else if n = 0 ∨ va % n ≠ 0 then .error (memFault 0x42 0 va) else .ok (s', pa)

/-- R397: the record of kind 10. -/
def State.hodRecord (s : State) (k : Nat) (e : HodEvent) (reason pc : Nat) : State :=
  s.record e.asid { firmwareEvent 10 e.asid (BitVec.ofNat 64 (reason + e.kind * 2 ^ 8 + pc % 65536 * 2 ^ 16)) with tix := k }

/-- R398: sixteen faults of an ASID's handlers on a slice within 1 ms, or reason 6 once, disable them there. -/
def State.noteHodFault (s : State) (k : Nat) (e : HodEvent) (reason : Nat) : State :=
  let recent := ((SMap.get [] s.hodFaults e.asid).filter fun x => x.1 ≠ k || s.ns < x.2 + 1000000) ++ [(k, s.ns)]
  let s := { s with hodFaults := SMap.set [] s.hodFaults e.asid recent }
  if (reason = 6 ∨ 16 ≤ recent.countP (·.1 = k)) ∧ !(SMap.get [] s.hodOff e.asid).contains k then
    (State.dropEvents { s with hodOff := SMap.modify [] s.hodOff e.asid fun l => addNat l k } k e.asid).hodRecord k e 7 0
  else s

/-- R397: an invocation that stops; its event takes the default action. -/
def State.stopInvocation (s : State) (k : Nat) (r : HodRun) (reason pc : Nat) : State :=
  let s := ((s.closeInvocation k).fwAfter r.pts).hodRecord k r.event reason pc
  let s := if reason = 0 then s else s.noteHodFault k r.event reason
  s.finishEvent r.event noReply r.pts

/-- R301: the invocation for an event of that kind of an ASID ends, once it has reached its ECALL; a0 is the reply of a message. -/
def State.endInvocation (s : State) (k asid kind : Nat) : State :=
  match (s.slice k).hod with
  | none => s
  | some r =>
    if r.ended && r.event.asid = asid && r.event.kind = kind then (s.closeInvocation k).finishEvent r.event (SMap.get 0 r.regs 10) r.pts else s

/-! ## The slice port (R299) -/

/-- R299: a write of the port that the handler has made is performed. -/
def State.portWrite (s : State) (k off : Nat) (v : W64) (f : State → State) : State :=
  match (s.slice k).hod with
  | none => s
  | some r => if r.port = some (off, v) then (f s).modSlice k fun l => { l with hod := l.hod.map fun r => { r with port := none } } else s


/-- R299: a tagged VA of the running invocation's ASID, as a physical address of a type 0 page. -/
def State.portPlace (s : State) (k : Nat) (v : W64) : Option (State × Nat × Nat × HodEvent) :=
  match (s.slice k).hod with
  | none => none
  | some r => match s.handlerPlace k r.event.asid (v.toNat % 2 ^ 57 / 128 * 128) 1 false with
    | .error _ => none
    | .ok (s, pa) => some (s, pa, v.toNat % 2 ^ 57 / 128 * 128, r.event)

/-- R290, R299: a prefetch that would claim a frame waits while the window of the line's slice has no room for the events of an eviction. -/
def State.portWaits (s : State) (k : Nat) (v : W64) : Bool :=
  ((s.slice k).hod.map (fun r => decide (r.port = some (0, v)))).getD false && match s.portPlace k v with
    | none => false
    | some (s, pa, _, _) => !(s.l2Holds pa && !v.getLsbD 0) && !s.eventRoom (s.homeOf pa)

/-- R299. DEDUCED (log entry 91): the eviction of a frame that a prefetch claims raises its events (R300 leaves out the handler's own evict
only); the prefetch raises no miss event (R298). -/
def State.portPrefetch (s : State) (k : Nat) (v : W64) : State :=
  match s.portPlace k v with
  | none => s
  | some (s, pa, va, e) =>
    if s.l2Holds pa && !v.getLsbD 0 then s
    else s.fillLine { pa, va, store := false, hint := if v.getLsbD 0 then 3 else 0, asid := e.asid, coreid := 0xFF, who := none, pts := e.pts }

def State.portKeep (s : State) (k : Nat) (v : W64) : State :=
  match s.portPlace k v with
  | none => s
  | some (s, pa, _, _) =>
    if s.homeOf pa = k && s.l2Holds pa then
      s.modSlice k fun l => { l with frames := l.frames.map fun f => if f.sb = pa / 512 then { f with kept := v.getLsbD 0 } else f }
    else s

def State.portEvict (s : State) (k : Nat) (v : W64) : State :=
  match s.portPlace k v with
  | none => s
  | some (s, pa, _, _) =>
    match s.frameOf pa with
    | some f => if s.homeOf pa = k && s.l2Holds pa then (s.noteBack f (1#4 <<< (pa / 128 % 4))).dropLine pa else s
    | none => s

/-! ## Slice programs (R293-R296, R302, R328) -/

/-- R115, R116: firmware loads whole lines. Structural on their number. -/
def State.fwLines (s : State) (pa : Nat) (q : Req) : Nat → State × List Byte
  | 0 => (s, [])
  | n + 1 => let a := s.fwLoad pa 128 q; let r := a.1.fwLines (pa + 128) { q with va := q.va + 128 } n; (r.1, natBytes 128 a.2 ++ r.2)

/-- R302: code bytes as read at installation, in blocks of 256 from a type 0 page with x = 1. Structural on the number of blocks. -/
def State.methodCode (s : State) (asid va : Nat) : Nat → Option (State × List Byte)
  | 0 => some (s, [])
  | n + 1 =>
    match s.translate (firmwareCore 0) asid va false true with
    | .error _ => none
    | .ok (s, pa, type, _, x) =>
      if type ≠ 0 || !x then none
      else
        let r := s.fwLines pa (fwReq 0 asid va) 2
        (r.1.methodCode asid (va + 256) n).map fun y => (y.1, r.2 ++ y.2)

/-- R302: one entry of a method table. -/
def State.readMethod (s : State) (asid w0 w1 : Nat) : Option (State × Method) :=
  if w1 / 2 ^ 14 ≠ 0 ∨ w1 / 2 ^ 10 % 4 ≠ 0 ∨ w0 / 2 ^ 57 ≠ 0 then none
  else if w1 / 2 ^ 13 % 2 = 0 then some (s, noMethod)
  else
    let len := 4 * (w1 % 1024 + 1)
    if w0 % 256 ≠ 0 then none
    else (s.methodCode asid w0 ((len + 255) / 256)).map fun x => (x.1, { valid := true, serial := w1 / 2 ^ 12 % 2 = 1, code := x.2.take len })

/-- The method table; structural on the number of entries. -/
def State.readMethods (s : State) (asid table : Nat) : Nat → Option (State × List Method)
  | 0 => some (s, [])
  | n + 1 =>
    let r := s.fwLoad table 16 (fwReq 0)
    match r.1.readMethod asid (r.2 % 2 ^ 64) (r.2 / 2 ^ 64) with
    | none => none
    | some (s, m) => (s.readMethods asid (table + 16) n).map fun x => (x.1, m :: x.2)

/-- R295: an entry offset may be 0xFFFF, or even and below the image's length. -/
def entryOk (ilen e : Nat) : Bool := e = 0xFFFF || (e % 2 = 0 && e < 1024 * ilen)

/-- R296: the regions of hod local memory, in KiB, that other ASIDs hold. -/
def State.hodRegions (s : State) (asid : Nat) : List (Nat × Nat) :=
  s.programs.filterMap fun x => if x.1 = asid then none else x.2.map fun p => (p.base, p.ilen)

/-- R296: the lowest region of `n` KiB that no other ASID holds, of 56. DEDUCED (log entry 92): the ASID's own previous image gives its
place up, since a slice copies the new one over it. -/
def State.hodPlace (s : State) (asid n : Nat) : Option Nat :=
  (numbers 0 (57 - n)).find? fun b => (s.hodRegions asid).all fun r => b + n ≤ r.1 || r.1 + r.2 ≤ b

/-- R293, R295: the status of an installation, and what it installs. DESIGN CHOICE (log entry 132): where several of the statuses 1 to 4 hold, the lowest.
DESIGN CHOICE (log entry 122): the method table is read, and may refuse the installation with status 4, also while feature 8 is not accepted; R328 says
what is ignored without feature 7 only. -/
def State.readProgram (s : State) (asid pa : Nat) : Nat × State × SliceProgram :=
  let d := s.fwLoad pa 64 (fwReq 0)
  let s := d.1
  let w (j : Nat) : Nat := d.2 / 2 ^ (64 * j) % 2 ^ 64
  let ilen := w 0 % 32
  let nmeth := w 3 % 512
  let e (j : Nat) : Nat := w 1 / 2 ^ (16 * j) % 65536
  let none' : SliceProgram := { ilen := 0, image := [], emiss := 0xFFFF, efill := 0xFFFF, eevict := 0xFFFF, emsg := 0xFFFF, methods := [] }
  if w 0 / 2 ^ 52 ≠ 0 ∨ w 0 / 32 % 128 ≠ 0 ∨ w 2 / 2 ^ 52 ≠ 0 ∨ w 2 % 16 ≠ 0 ∨ w 3 / 512 ≠ 0 ∨ w 4 ≠ 0 ∨ w 5 ≠ 0 ∨ w 6 ≠ 0 ∨ w 7 ≠ 0 then (1, s, none')
  else if !(entryOk ilen (e 0) && entryOk ilen (e 1) && entryOk ilen (e 2) && entryOk ilen (e 3)) then (2, s, none')
  else if 16 < ilen ∨ s.hodPlace asid ilen = none then (3, s, none')
  else if 256 < nmeth then (4, s, none')
  else match s.readMethods asid (w 2 % 2 ^ 52) nmeth with
    | none => (4, s, none')
    | some (s, ms) =>
      let on := s.present 7
      let x := if on then s.fwLines (w 0 / 4096 % 2 ^ 40 * 4096) (fwReq 0) (8 * ilen) else (s, [])
      (0, x.1, { ilen := if on then ilen else 0, base := (s.hodPlace asid ilen).getD 0, image := x.2, emiss := e 0, efill := e 1, eevict := e 2, emsg := e 3, methods := ms })

/-- R295: the installation that `start` begins. -/
def State.installProgram (s : State) : State :=
  let ctl := Dev.sliceBase + 8
  if !(Dev.stored s ctl).getLsbD 0 then s
  else
    let asid := (Dev.stored s (Dev.sliceBase + 0x10)).toNat % 512
    let r := s.readProgram asid (Dev.stored s Dev.sliceBase).toNat
    let s := r.2.1
    if r.1 ≠ 0 then Dev.store s ctl (BitVec.ofNat 64 (16 * r.1))
    else
      let p := r.2.2
      let s := { s with
        programs := SMap.set none s.programs asid (if p.ilen = 0 ∧ p.methods = [] then none else some p),
        installing := some { asid, old := SMap.get none s.programs asid, left := numbers 0 192 } }
      Dev.store s ctl 1

/-- R295: a slice may copy: between two invocations and between two waves. DEDUCED (log entry 92): the events of the ASID that it has accepted run
their image first. -/
def State.mayCopy (s : State) (asid k : Nat) : Bool :=
  (s.slice k).hod.isNone && (s.slice k).hodq.all (·.asid ≠ asid)
    && s.teams.all fun tm => match tm.wave with | some w => w.slice ≠ k || tm.status = .retired | none => true

/-- R295, R398: one slice copies the image into its local memory and the method table into its grout unit, and its handlers are enabled again;
after the last, the installation is over. -/
def State.copySlice (s : State) (k : Nat) : State :=
  match s.installing with
  | none => s
  | some i =>
    if !i.left.contains k || !s.mayCopy i.asid k then s
    else
      let s := s.modSlice k fun l => match SMap.get none s.programs i.asid with
        | some p => { l with hodMem := l.hodMem.writeBytes (8192 + 1024 * p.base) p.image }
        | none => l
      let left := i.left.filter (· ≠ k)
      let s := { s with
        installing := some { i with left },
        hodOff := SMap.modify [] s.hodOff i.asid fun l => l.filter (· ≠ k),
        hodFaults := SMap.modify [] s.hodFaults i.asid fun l => l.filter (·.1 ≠ k) }
      if left = [] then s.later [.sliceProgramCopied] else s

/-! ## The events -/

/-- R88-R91: a walk for a translation that a core does not cache. -/
def execTranslationWalk (core asid va : Nat) (store : Bool) (s : State) : Host.Outcome State Fault Refusal :=
  .next (match s.walkFor core asid va store true with | .ok (s', _) => s' | .error _ => s)
/-- R76, R300. -/
def execL2MissFill (pa va : Nat) (store : Bool) (hint : BitVec 2) (asid coreid : Nat) (asker : Asker) (s : State) :
    Host.Outcome State Fault Refusal :=
  let f : FillReq := { pa, va, store, hint, asid, coreid, who := asker.who, pts := asker.pts, bay := asker.bay }
  .next (if asker.missed then s.fillAfterMiss f else s.missLine f)
/-- R76. -/
def execStreamLineEvict (pa : Nat) (s : State) : Host.Outcome State Fault Refusal := .next (s.evictStream pa)
/-- R296, R300, R301. -/
def execHodInvocationStart (slice : Nat) (s : State) : Host.Outcome State Fault Refusal := .next (s.startInvocation slice)
/-- R298, R301. -/
def execHodInvocationEnd (slice asid kind : Nat) (s : State) : Host.Outcome State Fault Refusal := .next (s.endInvocation slice asid kind)
/-- R301, R397: 4,096 cycles at 1.2 GHz. -/
def execHodCycleLimit (slice : Nat) (s : State) : Host.Outcome State Fault Refusal :=
  .next (match (s.slice slice).hod with
    | some r => if r.started + 8192 ≤ s.clk && !r.ended then s.stopInvocation slice r 0 r.pc.toNat else s
    | none => s)
/-- R397, R398: the fault that the invocation has met, or reason 6, an uncorrectable error in local memory. -/
def execHodHandlerFault (slice reason pc : Nat) (s : State) : Host.Outcome State Fault Refusal :=
  .next (match (s.slice slice).hod with
    | some r => if r.fault = some reason ∨ reason = 6 then s.stopInvocation slice r reason pc else s
    | none => s)
/-- R299. -/
def execSlicePortPref (slice : Nat) (v : W64) (s : State) : Host.Outcome State Fault Refusal := 
  .next (if s.portWaits slice v then s.later [.slicePortPref slice v] else s.portWrite slice 0x00 v fun s => s.portPrefetch slice v)
/-- R299. -/
def execSlicePortKeep (slice : Nat) (v : W64) (s : State) : Host.Outcome State Fault Refusal := .next (s.portWrite slice 0x08 v fun s => s.portKeep slice v)
/-- R299. -/
def execSlicePortEvict (slice : Nat) (v : W64) (s : State) : Host.Outcome State Fault Refusal := .next (s.portWrite slice 0x10 v fun s => s.portEvict slice v)
/-- R295. -/
def execSliceProgramInstall (s : State) : Host.Outcome State Fault Refusal := .next s.installProgram
/-- R295. -/
def execSliceProgramCopied (s : State) : Host.Outcome State Fault Refusal :=
  .next (let ctl := Dev.sliceBase + 8
    match s.installing with
    | some { left := [], .. } => Dev.store { s with installing := none } ctl (Dev.stored s ctl &&& ~~~ 1)
    | _ => s)

end Sys2Proof.Machine
end

