-- ==== Sys2Proof/Machine/Queue.lean ====
section
/-!
DEFINITION. Command queues (R87, R128, R276-R279, R321, R400, R401): registration and unregistration, the fetcher, rejected
slots, and queue faults.
-/
namespace Sys2Proof.Machine

/-! ## Registration (R276, R277) -/

/-- A power of two from 2^lo to 2^hi. -/
def isPow2 (lo hi n : Nat) : Bool := (numbers lo (hi + 1 - lo)).any fun k => n = 2 ^ k

/-- R87: the address of a context table entry, found through the die's firmware core, and its two words. -/
def State.entryAddr (s : State) (die asid : Nat) : Nat := (SMap.get 0 s.csr (16 * die + 1)).toNat / 4096 % 2 ^ 40 * 4096 + 16 * asid
def State.contextEntry (s : State) (die asid : Nat) : Nat × Nat :=
  (s.mem.read (s.entryAddr die asid) 8, s.mem.read (s.entryAddr die asid + 8) 8)

/-- R277, R292, R321: the event ring descriptor is well formed and its vector lies in the bay's range. -/
def State.ringOk (s : State) (pa bay : Nat) : Bool :=
  let w0 := s.mem.read pa 8
  let w1 := s.mem.read (pa + 8) 8
  let v := bayVectors (s.bayWord bay)
  s.region pa = .hbm && w0 % 4096 = 0 && w0 / 2 ^ 52 = 0 && w1 / 2 ^ 27 = 0 && isPow2 6 16 (w1 % 65536 + 1)
    && v.1 ≤ w1 / 65536 % 2048 && w1 / 65536 % 2048 < v.1 + v.2

def State.liveQueue (s : State) (desc : Nat) : Option Nat :=
  (numbers 0 s.queues.length).find? fun k => match s.queues[k]? with | some q => q.registered && q.desc = desc | none => false

/-- R276: a queue descriptor as words. -/
def State.descWord (s : State) (pa j : Nat) : Nat := s.mem.read (pa + 8 * j) 8

/-- R276: the queue that a descriptor names. -/
def State.queueOf (s : State) (pa : Nat) : Queue :=
  let w1 := s.descWord pa 1
  { desc := pa, die := w1 / 2 ^ 32 % 4, asid := w1 / 2 ^ 16 % 512, bay := w1 / 2 ^ 26 % 64, ctl := w1 / 2 ^ 25 % 2 = 1, base := s.descWord pa 0,
    nblk := w1 % 65536 + 1, evring := s.descWord pa 3, rdix := s.descWord pa 2 % 2 ^ 32, seq := s.descWord pa 2 / 2 ^ 32 }

/-- R277: the bay of a context: that which firmware keeps, or its entry's. -/
def State.bayOf (s : State) (die asid : Nat) : Nat :=
  match s.context asid with
  | some c => c.bay
  | none => (s.contextEntry die asid).2 % 64

/-- R277: the status of a registration: the first check of the table that fails. -/
def State.registrationStatus (s : State) (die pa : Nat) : Nat :=
  let w (j : Nat) := s.descWord pa j
  let q := s.queueOf pa
  if w 0 / 2 ^ 52 ≠ 0 ∨ w 0 % 4096 ≠ 0 ∨ w 1 / 2 ^ 34 ≠ 0 ∨ w 4 ≠ 0 ∨ w 5 ≠ 0 ∨ w 6 ≠ 0 ∨ w 7 ≠ 0 ∨ !isPow2 4 16 q.nblk then 1
  else if q.die ≠ die then 2
  else if (s.contextEntry die q.asid).1 / 2 ^ 12 % 2 ^ 40 = 0 ∨ !s.bayEnabled (s.bayOf die q.asid) ∨ q.bay ≠ s.bayOf die q.asid then 3
  else if q.ctl ∧ (q.bay ≠ 0 ∨ (s.operatorQueue die).isSome) then 4
  else if !s.ringOk q.evring q.bay then 5
  else if (s.liveQueue pa).isSome then 6
  else if s.fwfail.getLsbD die then 8
  else 0

/-- R277: a launch of the queue, or another packet, has started and not completed. -/
def State.launchesDone (s : State) (k : Nat) : Bool := s.launches.all fun la => la.complete || la.queue ≠ some k
def State.queueBusy (s : State) (k : Nat) (q : Queue) : Bool :=
  !s.launchesDone k || !q.effects.isEmpty || q.waiting.isSome || q.relay.isSome || q.closing.isSome || !q.gates.isEmpty || q.loop.isSome || q.skip ≠ 0

def queueCtl (die : Nat) : Nat := Dev.queueBase + 0x40 * die + 8
/-- R277: the operation ends with a status, and start clears. -/
def State.endOperation (s : State) (die status : Nat) : State :=
  Dev.store s (queueCtl die) ((Dev.stored s (queueCtl die) &&& 2) ||| BitVec.ofNat 64 (16 * status))

def queueAddr (s : State) (die : Nat) : Nat := (Dev.stored s (Dev.queueBase + 0x40 * die)).toNat

/-- R327: while reduced service holds, no firmware core runs but die 0's. DEDUCED (log entry 96): an operation of another die stays at start = 1
until full service. -/
def State.dieRuns (s : State) (die : Nat) : Bool := s.phase = .full || die = 0

/-- R278: where a packet that begins at a block index has its header word. -/
def Queue.slotHeader (q : Queue) (rdix : Nat) : Nat := q.base + 64 * (rdix % q.nblk)

/-- R115, R116: firmware has read a queue's descriptor, its event ring's, and the context table entry of its ASID. -/
def State.descRead (s : State) (die pa : Nat) : State :=
  let q := fwReq die
  ((((s.fwLoad pa 64 q).1).fwLoad (s.queueOf pa).evring 32 q).1.fwLoad (s.entryAddr die (s.queueOf pa).asid) 16 q).1

/-- R277: the context of a queue that is registered: it exists already, or from now on. -/
def State.joinContext (s : State) (q : Queue) : State :=
  if s.contexts.any (·.asid = q.asid) then s.modContext q.asid fun c => if c.gone then { c with gone := false, bay := q.bay } else c
  else { s with contexts := s.contexts ++ [{ asid := q.asid, bay := q.bay }] }

/-- R277, R280: what a packet started at a context is over. -/
def State.effectsOver (s : State) (asid : Nat) : State :=
  { s with queues := s.queues.map fun q => { q with effects := q.effects.filter (· ≠ asid) } }

/-- R277: the context goes with its last queue, once a forced reset of it is over. -/
def State.leaveContext (s : State) (asid : Nat) : State :=
  match s.context asid with
  | some { state := .resetting _, .. } => s.modContext asid fun c => { c with gone := true }
  | _ => { s.effectsOver asid with contexts := s.contexts.filter (·.asid ≠ asid) }

/-- R277. DESIGN CHOICE (log entry 130): the record of reason 8, for which there is no packet, has 0 in the fields of type and sequence. -/
def State.registerQueue (s : State) (die : Nat) : State :=
  if !(Dev.stored s (queueCtl die)).getLsbD 0 then s
  else if !s.dieRuns die then s.later [.queueRegister die]
  else
    let pa := queueAddr s die
    let s := s.descRead die pa
    let status := s.registrationStatus die pa
    let s' := s.endOperation die status
    if status ≠ 0 then s'.operatorRecord die (firmwareEvent 13 (s.queueOf pa).asid 8)
    else
      let q := s.queueOf pa
      let s' := s'.joinContext q
      { s' with queues := s'.queues ++ [q] }

def State.unregistrationStatus (s : State) (die pa : Nat) : Nat :=
  match s.liveQueue pa with
  | none => 6
  | some k => match s.queues[k]? with
    | none => 6
    | some q => if s.queueBusy k q then 7 else if s.fwfail.getLsbD die then 8 else 0

/-- R277: the context goes with its last queue. -/
def State.unregisterQueue (s : State) (die : Nat) : State :=
  if !(Dev.stored s (queueCtl die)).getLsbD 0 then s
  else if !s.dieRuns die then s.later [.queueUnregister die]
  else
    let pa := queueAddr s die
    let status := s.unregistrationStatus die pa
    let s' := s.endOperation die status
    match status, s.liveQueue pa with
    | 0, some k =>
      let asid := ((s.queues[k]?).map (·.asid)).getD 0
      let s' := s'.modQueue k fun q => { q with registered := false }
      if s'.queues.any (fun q => q.registered && q.asid = asid) then s' else s'.leaveContext asid
    | _, _ => s'

/-! ## The fetcher (R128, R278, R400) -/

/-- R278: CRC-16/CCITT-FALSE: one bit, one byte, a list of bytes. -/
def crcBit (c : BitVec 16) : BitVec 16 := if c.getLsbD 15 then (c <<< 1) ^^^ 0x1021 else c <<< 1
def crcByte (c : BitVec 16) (b : Byte) : BitVec 16 := (numbers 0 8).foldl (fun c _ => crcBit c) (c ^^^ (b.zeroExtend 16 <<< 8))
def crc16 (l : List Byte) : BitVec 16 := l.foldl crcByte 0xFFFF

def Queue.slotAddr (q : Queue) (k : Nat) : Nat := q.slotHeader (q.rdix + k)
def State.header (s : State) (q : Queue) : Nat := s.mem.read (q.slotAddr 0) 8
def headerBlocks (h : Nat) : Nat := h / 2 ^ 12 % 8 + 1

/-- The bytes of the packet at the slot. -/
def State.packetBytes (s : State) (q : Queue) (h : Nat) : List Byte := (numbers 0 (headerBlocks h)).flatMap fun k => s.mem.bytes (q.slotAddr k) 64

/-- R278, R401: why the slot is not accepted: 0 its sequence number, 1 its check; none when it is. -/
def State.slotReason (s : State) (q : Queue) : Option Nat :=
  let h := s.header q
  if h / 2 ^ 32 ≠ q.seq then some 0
  else if (crc16 ((s.packetBytes q h).drop 8)).toNat ≠ h / 2 ^ 16 % 65536 then some 1
  else none

/-- R128, R278, R400: the slot may hold a packet that has not been read yet: its header word is not 0, and has changed since it was last
looked at, or carries the sequence number that the queue expects. DEDUCED (log entry 117): a word that stands there since a packet was accepted
from the block is no packet. -/
def State.slotNews (s : State) (q : Queue) : Bool :=
  let h := s.header q
  h ≠ 0 && (h / 2 ^ 32 = q.seq || (h ≠ q.seen && h ≠ SMap.get 0 q.passed (q.rdix % q.nblk)))

/-- R126: a store that has come to the module's fabric ports and is not performed yet, for an acquire scope of fabric; a host write too, for system. -/
def comesFor (acq : Nat) : Instr → Bool
  | .fabricStoreArrival _ _ _ | .relayChunkArrival _ _ _ _ => 2 ≤ acq
  | .hostWrite _ _ => acq = 3
  | _ => false

/-- R126, R278: the packet of a header. -/
def State.packetAt (s : State) (q : Queue) : Packet :=
  let h := s.header q
  let bytes := (s.packetBytes q h).drop 8
  { type := h % 256, acq := h / 2 ^ 8 % 4, rel := h / 2 ^ 10 % 4, dep := h / 2 ^ 15 % 2 = 1, seq := h / 2 ^ 32, len := headerBlocks h,
    body := (numbers 0 (8 * headerBlocks h - 1)).map fun j => BitVec.ofNat 64 (bytesNat ((bytes.drop (8 * j)).take 8)), pts := q.pts, due := s.agenda.filter (comesFor (h / 2 ^ 8 % 4)) }

/-- R116, R126: the fetcher's loads of the blocks of a packet: its pts. Structural on their number. -/
def State.readBlocks (s : State) (q : Queue) (pts : Nat) : Nat → State × Nat
  | 0 => (s, pts)
  | n + 1 =>
    let r := s.readBlocks q pts n
    let x := r.1.loadHome none r.2 (q.slotAddr n) 64 (fwReq q.die)
    (x.1, x.2.2)

/-- R280: the packets under the innermost gate may go on: as many as it guards, and a loop among them to its end. -/
def Queue.gateOpen (q : Queue) : Bool :=
  match q.gates with
  | [] => true
  | g :: _ => g.zero && (0 < g.left || (!g.inLoop && q.loop.isSome))

/-- R278, R280: the fetcher takes a packet at a time. -/
def Queue.wants (q : Queue) : Bool :=
  q.registered && q.ready.isEmpty && q.waiting.isNone && q.closing.isNone && !(match q.loop with | some (0, k, _) => 0 < k | _ => false) && q.gateOpen

/-- R278: rdix and seq in one store of descriptor word 2. -/
def State.advanceQueue (s : State) (k : Nat) (q : Queue) (blocks pts : Nat) : State :=
  let rdix := (q.rdix + blocks) % 2 ^ 32
  let seq := (q.seq + 1) % 2 ^ 32
  let passed := (numbers 0 blocks).foldl (fun (m : SMap Nat) j => SMap.set 0 m ((q.rdix + j) % q.nblk) (s.mem.read (q.slotAddr j) 8)) q.passed
  let r := s.store none pts (.phys (q.desc + 16) 0) 8 (rdix + seq * 2 ^ 32) (fwReq q.die)
  r.1.modQueue k fun q => { q with rdix, seq, rejected := none, pts := max pts r.2, seen := 0, passed }

/-- R401: a queue fault, to the ring that the queue names; for reasons 2 to 7 the queue halts. -/
def State.queueFault (s : State) (k : Nat) (reason type seq : Nat) : State :=
  match s.queues[k]? with
  | none => s
  | some q =>
    let s := s.recordTo q.asid q.evring (firmwareEvent 13 q.asid (BitVec.ofNat 64 (reason + type % 256 * 2 ^ 8 + seq % 2 ^ 32 * 2 ^ 16)))
    if 2 ≤ reason ∧ reason ≤ 7 then s.modQueue k fun q => { q with halted := true } else s

/-- R279: blocks of each listed type. -/
def typeBlocks (type : Nat) : Option Nat := if 1 ≤ type ∧ type ≤ 3 then some 3 else if 4 ≤ type ∧ type ≤ 15 then some 1 else none

/-- R280: a gate's count of guarded packets goes down as one is taken, in the loop or outside as the gate was. -/
def Queue.countGates (q : Queue) (inLoop : Bool) : Queue :=
  { q with gates := q.gates.map fun g => if g.inLoop = inLoop then { g with left := g.left - 1 } else g }

/-- R280: the queue reads from a loop's kept packets. -/
def Queue.replaying (q : Queue) : Bool := match q.loop with | some (0, _, _) => true | _ => false

/-- R280: skipped packets pass, and a loop begins its next iteration. Structural on fuel. -/
def Queue.settle (q : Queue) : Nat → Queue
  | 0 => q
  | n + 1 =>
    match q.ready with
    | _ :: ps => if q.skip = 0 then q else ({ q.countGates q.replaying with ready := ps, skip := q.skip - 1 } : Queue).settle n
    | [] => match q.loop with
      | some (0, 0, _) => { q with loop := none, gates := q.gates.map fun g => { g with inLoop := false } }
      | some (0, i + 1, kept) => ({ q with ready := kept, loop := some (0, i, kept) } : Queue).settle n
      | _ => q

def State.settleQueue (s : State) (k : Nat) : State := s.modQueue k fun q => q.settle (2 * q.skip + 2)

/-- R279, R280: a packet that a loop keeps: a loop among them, more than 32 blocks, or a type that is not listed is a fault.
A gate counts the packet that faults, too. -/
def State.keepPacket (s : State) (k : Nat) (q : Queue) (left iterations : Nat) (kept : List Packet) (p : Packet) : State :=
  let kept := kept ++ [p]
  if (typeBlocks p.type).isNone then (s.modQueue k fun q => { q.countGates false with loop := none }).queueFault k 2 p.type p.seq
  else if p.type = 4 ∨ 32 < kept.foldl (fun n p => n + p.len) 0 then (s.modQueue k fun q => { q.countGates false with loop := none }).queueFault k 3 p.type p.seq
  else s.modQueue k fun _ => { q.countGates false with loop := some (left - 1, iterations, kept) }

/-- R278, R400: the slot is rejected from now on; a header word of 0 is no packet. -/
def State.rejectSlot (s : State) (k : Nat) (reason : Nat) : State :=
  s.modQueue k fun q =>
    let since := match q.rejected with | some (t, told, _) => (t, told, reason) | none => (s.ns, false, reason)
    { q with seen := s.header q, rejected := if s.header q = 0 then none else some since }

/-- R116: the queue has made an access, after which its pts is at least `pts`. -/
def State.queueAt (s : State) (k pts : Nat) : State := s.modQueue k fun q => { q with pts := max q.pts pts }

/-- R116, R128: the fetcher's loads of what it discards: the header word, and the blocks too where their check does not match. -/
def State.readSlotAgain (s : State) (k : Nat) (q : Queue) (reason : Nat) : State :=
  if reason = 0 then let x := s.loadHome none q.pts (q.slotAddr 0) 8 (fwReq q.die); x.1.queueAt k x.2.2
  else let x := s.readBlocks q q.pts (headerBlocks (s.header q)); x.1.queueAt k x.2

/-- R278: the slot is read: accepted, or rejected. -/
def State.fetchSlot (s : State) (k : Nat) : State :=
  match s.queues[k]? with
  | none => s
  | some q =>
    if !q.wants || s.fwfail.getLsbD q.die then s
    else match s.slotReason q with
      | some r => (s.readSlotAgain k q r).rejectSlot k r
      | none =>
        let x := s.readBlocks q q.pts (headerBlocks (s.header q))
        let p := { s.packetAt q with pts := x.2 }
        let s := x.1.advanceQueue k q p.len p.pts
        match s.queues[k]?, q.loop with
        | some q, some (n + 1, iterations, kept) => (s.keepPacket k q (n + 1) iterations kept p).settleQueue k
        | some q, _ =>
          if q.skip ≠ 0 then s.modQueue k fun q => { q.countGates false with skip := q.skip - 1 }
          else if (typeBlocks p.type).isNone then (s.modQueue k fun q => q.countGates false).queueFault k 2 p.type p.seq
          else s.modQueue k fun q => { q with ready := [p] }
        | none, _ => s

/-! ## The events -/

/-- R277. -/
def execQueueRegister (die : Nat) (s : State) : Host.Outcome State Fault Refusal := .next (s.registerQueue die)
/-- R277. -/
def execQueueUnregister (die : Nat) (s : State) : Host.Outcome State Fault Refusal := .next (s.unregisterQueue die)
/-- R128, R278. -/
def execPacketFetch (queue : Nat) (s : State) : Host.Outcome State Fault Refusal := .next (s.fetchSlot queue)
/-- R400. -/
def execSlotReread (queue : Nat) (s : State) : Host.Outcome State Fault Refusal :=
  .next (match (s.queues[queue]?).bind (·.rejected) with | some _ => s.fetchSlot queue | none => s)
/-- R400: a slot rejected for 100 ms is reported once. -/
def execSlotRejectTimeout (queue : Nat) (s : State) : Host.Outcome State Fault Refusal :=
  .next (match s.queues[queue]? with
    | some q => match q.rejected with
      | some (since, false, r) =>
        if since + 100000000 ≤ s.ns then
          let h := q.seen
          (s.modQueue queue fun q => { q with rejected := some (since, true, r) }).queueFault queue r h (h / 2 ^ 32)
        else s
      | _ => s
    | none => s)

end Sys2Proof.Machine
end

