-- ==== Sys2Proof/Machine/Kilns.lean ====
section
/-!
DEFINITION. Kilns (R18, R72, R288, R291, R380-R383, R386, R411): the filling of a page window, pages dropped, and the kilns' events.
-/
namespace Sys2Proof.Machine

/-! ## Windows (R18, R72, R288, R383) -/

/-- R288: 8 bytes of the page go to the window, as an access under R72; the timestamp of the last one. -/
def State.writeWindow (s : State) (i off pts : Nat) : List W64 → State × Nat
  | [] => (s, pts)
  | w :: ws => let r := s.store none pts (.scr i off) 8 w.toNat; r.1.writeWindow i (off + 8) r.2 ws

def pageWords (data : List Byte) : List W64 := (numbers 0 2048).map fun j => BitVec.ofNat 64 (bytesNat ((data.drop (8 * j)).take 8))

/-- R288: the window is written, the threads start, the hold is released. -/
def State.fillWindow (s : State) (i : Nat) : State :=
  match s.team i, s.holder i with
  | some tm, some (chan, h) =>
    if tm.status ≠ .placed then s
    else
      let r := s.writeWindow i (64 * (s.launchOf tm).body.woff) 0 (pageWords h.data)
      let s := r.1.modTeam i fun tm => { tm with threads := tm.threads.map fun th => { th with pts := max th.pts r.2 } }
      (s.modKiln chan fun k => { k with held := k.held.filter (·.team ≠ i) }).sense chan
  | _, _ => s

/-! ## Dropping pages (R291, R386, R411) -/

def State.launchAsid (s : State) (k : Nat) : Nat := ((s.launches[k]?).getD {}).asid

/-- R287, R291: the request of a held page, for the entry that it was sensed for. -/
def State.requestOf (s : State) (h : HeldPage) : Option PageReq :=
  (s.team h.team).map fun tm => { launch := tm.launch, index := tm.tix, entry := h.entry }

/-- A page held for a team that has not been placed, and not faulted, which a drain drops. -/
def State.dropped (s : State) (asid : Nat) (h : HeldPage) : Bool :=
  h.counts && match s.team h.team with | some tm => tm.asid s = asid && tm.status ≠ .placed | none => false

/-- R291, step 4: the kilns drop the context's pages, to sense them again after resumption. -/
def State.dropPages (s : State) (asid : Nat) : State :=
  (numbers 0 128).foldl (fun (s : State) chan =>
    let k := s.kiln chan
    let gone := k.held.filter (s.dropped asid)
    let cur := match k.cur with | some c => if s.launchAsid c.req.launch = asid then [c.req] else [] | none => []
    let again := gone.filterMap s.requestOf ++ cur
    let s := s.modKiln chan fun k =>
      { k with cur := if cur.isEmpty then k.cur else none, held := k.held.filter (fun h => !gone.contains h), todo := again ++ k.todo }
    let s := gone.foldl (fun (s : State) h =>
      (s.unit h.team).foldl (fun (s : State) j => s.modTeam j fun tm =>
        if j = h.team then { tm with status := .awaitingPage, runnable := none, kiln := none }
        else if tm.status = .unplaced then { tm with runnable := none } else tm) s) s
    s.sense chan) s

/-- The kilns forget entries that `req` names, and the pages of teams that `team` names. -/
def State.forgetWhere (s : State) (req : PageReq → Bool) (team : Nat → Bool) : State :=
  (numbers 0 128).foldl (fun (s : State) chan =>
    (s.modKiln chan fun k => { k with cur := k.cur.filter (fun c => !req c.req), todo := k.todo.filter (fun r => !req r), held := k.held.filter (fun h => !team h.team) }).sense chan) s

/-- R386, R411: a reset ends what the kilns do for a context. -/
def State.forgetPages (s : State) (asid : Nat) : State :=
  s.forgetWhere (fun r => s.launchAsid r.launch = asid) fun i => match s.team i with | some tm => tm.asid s = asid | none => true

/-- R399: no page is sensed, or kept, for teams that are discarded. -/
def State.forgetTeams (s : State) (l : List Nat) : State :=
  s.forgetWhere (fun r => match s.pageTeam r with | some i => l.contains i | none => false) l.contains

/-! ## The events -/

/-- R380-R383. -/
def execKilnReadComplete (chan : Nat) (read : KilnRead) (s : State) : Host.Outcome State Fault Refusal := .next (s.readDone chan read)
/-- R381. -/
def execPageMissingTimeout (chan : Nat) (s : State) : Host.Outcome State Fault Refusal := .next (s.readLate chan)
/-- R18, R288, R383. -/
def execWindowFillComplete (team : Nat) (s : State) : Host.Outcome State Fault Refusal := .next (s.fillWindow team)

end Sys2Proof.Machine
end

