-- ==== Sys2Proof/Machine/Meters.lean ====
section
/-!
DEFINITION. Energy meters, signed readings, checkpoints and wear (R322, R324-R326, R414-R416). What is measured, and a signature's
bytes, come with the event (log entry 31).
-/
namespace Sys2Proof.Machine

/-! ## The operator (R401, R410) -/

/-- R410: a record to the operator's: the earliest registered control queue. -/
def State.toOperator (s : State) (kind : Nat) (value : Nat) : State :=
  match s.queues.find? fun q => q.registered && q.ctl with
  | none => s
  | some q => s.recordTo q.asid q.evring (firmwareEvent kind q.asid (BitVec.ofNat 64 value))

/-! ## Attribution (R322) -/

/-- The kinds of source of R324: 0 core, 1 memory, 2 links, 3 flash, 4 idle and leakage. -/
def Meter.add (m : Meter) (kind uj : Nat) : Meter :=
  let m := { m with acc := m.acc + uj }
  match kind with
  | 0 => { m with core := m.core + uj }
  | 1 => { m with mem := m.mem + uj }
  | 2 => { m with link := m.link + uj }
  | 3 => { m with flash := m.flash + uj }
  | _ => { m with idle := m.idle + uj }

/-- R322: a bay's share of a source's energy, in µJ, by weight. -/
def shareOf (total weight all : Nat) : Nat := if all = 0 then 0 else total * weight / all

/-- R318, R322: the energy of one source in a window, split by weight; what the shares of the enabled bays leave goes to bay 0. -/
def State.splitEnergy (s : State) (kind total : Nat) (moved : List (Nat × Nat)) : State :=
  let all := moved.foldl (fun n x => n + x.2) 0
  let weights := moved.filter fun x => s.bayEnabled x.1
  let given := weights.foldl (fun n x => n + shareOf total x.2 all) 0
  let add (s : State) (b uj : Nat) : State := { s with meters := SMap.modify {} s.meters b fun m => m.add kind uj }
  add (weights.foldl (fun s x => add s x.1 (shareOf total x.2 all)) s) 0 (total - given)

/-- R322: the energy of a window: of each source its kind, its µJ, and its weights. -/
def State.meterEnergy (s : State) (sources : List (Nat × Nat × List (Nat × Nat))) : State :=
  sources.foldl (fun (s : State) x => s.splitEnergy x.1 x.2.1 x.2.2) s

/-- R324: the kind of a source by its number. -/
def srcKind (src : Nat) : Nat := if src < 256 ∨ 1536 ≤ src then 0 else if src < 1280 then 1 else if src < 1408 then 2 else 3
/-- R5, R322: every source. -/
def meterSources : List Nat :=
  (numbers 0 256).filter isUserCore ++ (numbers 0 4).map firmwareCore ++ numbers (srcStack 0) 8 ++ numbers (srcL3 0) 2 ++ numbers (srcSlice 0) 192 ++ numbers (srcUnits 0) 192
    ++ numbers (srcFabric 0) 18 ++ numbers (srcHost 0) 2 ++ numbers (srcKiln 0) 128 ++ numbers (srcService 0) 32

/-- R322: what a source has done for each bay in this window. -/
def State.usedBy (s : State) (src : Nat) : List (Nat × Nat) :=
  (numbers 0 64).filterMap fun b => let n := SMap.get 0 s.activity (64 * src + b); if n = 0 then none else some (b, n)

/-- R318, R322: the weights of a source's dynamic energy; those of a user core are weighted by its activity counters. A firmware core's are none, so
that bay 0 is charged. -/
def State.dynamicWeights (s : State) (src : Nat) : List (Nat × Nat) :=
  if src < 256 then (if isUserCore src then (s.usedBy src).map fun x => (x.1, x.2 * Config.coreActivity s.free src x.1) else [])
  else s.usedBy src

/-- Core cycles in a window of 1 ms. -/
def windowCycles : Nat := 2400000
/-- R322: the units of a source, of which bays hold some: a core is one; a slice has its frames, a kiln its four pages, and a slice's hod core and
grout unit are two. DEDUCED (log entry 98): of the other sources no bay holds any. -/
def unitsOf (src : Nat) : Nat :=
  if src < 256 then 1
  else if srcSlice 0 ≤ src ∧ src < srcSlice 192 then 4096
  else if srcUnits 0 ≤ src ∧ src < srcUnits 192 then 2
  else if srcKiln 0 ≤ src ∧ src < srcKiln 128 then 4
  else 0
/-- R322: what each bay held of a source in this window, by cycle. -/
def State.heldOf (s : State) (src : Nat) : List (Nat × Nat) :=
  match unitsOf src with
  | 0 => []
  | 4096 => s.usedBy (heldFrames (src - srcSlice 0))
  | 4 => s.usedBy (heldPages (src - srcKiln 0))
  | _ => if src < 256 && !isUserCore src then [] else s.usedBy src
/-- R322: the weights of a source's idle power and leakage: each bay's time-weighted share of the source's units, what none holds being bay 0's. -/
def State.idleWeights (s : State) (src : Nat) : List (Nat × Nat) :=
  let l := s.heldOf src
  l ++ [(0, unitsOf src * windowCycles - l.foldl (fun n x => n + x.2) 0)]

/-- R322: a window ends: firmware measures every source and splits what it measures. -/
def State.endWindow (s : State) : State :=
  let l := meterSources.flatMap fun src =>
    [(srcKind src, Config.energy s.free src, s.dynamicWeights src), (4, Config.idleEnergy s.free src, s.idleWeights src)]
  { s.tick.meterEnergy l with activity := [] }

/-! ## Signing indices (R325, R415) -/

def indexLimit : Nat := 2 ^ 40

/-- R325, R415: when the last index has been used, or a reset finds no block left, kind 21 reason 3 is written once. -/
def State.tellGone (s : State) : State := if indexLimit ≤ s.sidx ∧ !s.sigGone then { s with sigGone := true }.toOperator 21 3 else s

/-- R325: the next index, reserving its block first; none when the last has been used or the reservation cannot be written. -/
def State.takeIndex (s : State) : State × Option Nat :=
  if indexLimit ≤ s.sidx then (s.tellGone, none)
  else if s.sidx < s.reserved then ({ s with sidx := s.sidx + 1 }.tellGone, some s.sidx)
  else if Config.reservationFails s.free then (s.tick.toOperator 21 1, none)
  else ({ s.tick with reserved := s.sidx + 1024, sidx := s.sidx + 1 }.tellGone, some s.sidx)

/-! ## Records (R324) -/

/-- R324: the words of a reading record. -/
def readingWords (bay : Nat) (src : Bool) (nonce : W64) (m : Meter) (time sidx enab resets : Nat) : List Nat :=
  let part := m.core / 1000 + m.mem / 1000 + m.link / 1000 + m.flash / 1000
  [bay + (if src then 64 else 0) + 2 ^ 16 + 0x5A5A0960 * 2 ^ 32, Config.moduleSerial.toNat, nonce.toNat, time, m.acc / 1000, m.gaplo.toNat, m.gaphi.toNat,
   enab % 2 ^ 32 + resets % 2 ^ 32 * 2 ^ 32, sidx, m.core / 1000, m.mem / 1000, m.link / 1000, m.flash / 1000, m.acc / 1000 - part, 0, 0]

def meterCtl : Nat := Dev.meterBase + 0x10
/-- R324: a request ends with a status, and start clears. -/
def State.endReading (s : State) (status : Nat) : State :=
  { Dev.store s meterCtl ((Dev.stored s meterCtl &&& 0x13F) ||| BitVec.ofNat 64 (status * 2 ^ 12)) with reading := none }

/-- R324: the request of the registers is read: its record waits for its signature, or a status ends it. -/
def State.startReading (s : State) (src : Bool) : State :=
  let ctl := Dev.stored s meterCtl
  if !ctl.getLsbD 7 || ctl.getLsbD 8 ≠ src || s.reading.isSome then s
  else
    let bay := ctl.toNat % 64
    if !s.bayEnabled bay then s.endReading 1
    else
      let values := if src then (s.checkpoints.reverse.find? (·.bay = bay)).map fun c => (c.meter, c.time) else some (SMap.get {} s.meters bay, s.ns)
      match values with
      | none => s.endReading 2
      | some v =>
        match s.takeIndex with
        | (s, none) => s.endReading 3
        | (s, some k) =>
          { s with reading := some ((readingWords bay src (Dev.stored s (Dev.meterBase + 8)) v.1 v.2 k (SMap.get 0 s.enablings bay) s.resets).flatMap (natBytes 8), (Dev.stored s Dev.meterBase).toNat) }

/-- Bytes to memory, as ordinary stores of firmware. -/
def State.storeBytes (s : State) (pa : Nat) : List Byte → State
  | [] => s
  | b :: bs => (s.fwStore pa 1 b.toNat (fwReq 0)).storeBytes (pa + 1) bs

/-- R324: the record, then its signature of 9,893 bytes at dst + 128; then start clears. -/
def State.finishReading (s : State) (signature : List Byte) : State :=
  match s.reading with
  | none => s
  | some (record, dst) => if signature.length = 9893 then ((s.storeBytes dst record).storeBytes (dst + 128) signature).endReading 0 else s

/-! ## Checkpoints (R325, R414, R415) -/

/-- The user cores of a set. -/
def countCores (m : BitVec 256) : Nat := (numbers 0 256).countP fun c => m.getLsbD c

/-- R415: the oldest checkpoints of each bay go, but for the newest four. -/
def keepFour : List Checkpoint → List Checkpoint
  | [] => []
  | c :: cs => if 4 ≤ cs.countP (·.bay = c.bay) then keepFour cs else c :: keepFour cs

/-- R414: the cores of a bay as a checkpoint counts them: those of bay 0 are all that the other enabled bays leave of 192. -/
def State.countedCores (s : State) (b : Nat) : Nat :=
  if b = 0 then 192 - (enabledBays s).foldl (fun n i => n + countCores (s.bayCores i)) 0 else countCores (s.bayCores b)

/-- R325: the check of a record. -/
def wordsCheck (words : List Nat) : W32 := crc32c (words.flatMap (natBytes 8))

/-- R318, R325: a bay's record, signed; past the last index, with the check of its record. Without either there is none. Its write is charged to
bay 0. -/
def State.checkpointBay (s : State) (b : Nat) : State :=
  let r := s.takeIndex
  let s := r.1
  let m := SMap.get {} s.meters b
  let words := readingWords b true 0 m s.ns (r.2.getD 0) (SMap.get 0 s.enablings b) s.resets
  if r.2.isNone ∧ s.sidx < indexLimit then s
  else
    { s.noteUse (srcKiln (Config.storeKiln % 128)) 0 1 with checkpoints := s.checkpoints ++
        [{ bay := b, meter := m, cores := s.countedCores b, time := s.ns, sidx := r.2, words, crc := if r.2.isNone then some (wordsCheck words) else none }] }

/-- R325: a checkpoint of every enabled bay. -/
def State.checkpointMeters (s : State) : State :=
  let s := (0 :: enabledBays s).foldl State.checkpointBay s
  if Config.storeCapacity < s.checkpoints.length then { s with checkpoints := keepFour s.checkpoints }.toOperator 21 2 else s

/-- R325, R415: a checkpoint whose write fails takes its indices and leaves no record. -/
def State.meterPoint (s : State) (written : Bool) : State :=
  if written then s.checkpointMeters
  else ((0 :: enabledBays s).foldl (fun (s : State) _ => s.takeIndex.1) s).toOperator 21 0

/-- R325, R415: a checkpoint, which the store takes or not. -/
def State.checkpointNow (s : State) : State := s.tick.meterPoint (Config.checkpointWritten s.free)

/-- R414: the checkpoint's signature verifies, or its CRC-32C matches. -/
def Checkpoint.valid (c : Checkpoint) : Bool :=
  match c.sidx, c.crc with
  | some k, _ => Config.signatureVerifies k
  | none, some w => w = wordsCheck c.words
  | none, none => false

/-- R414: what a meter resumes from at a module reset. -/
def State.resumeMeter (s : State) (b : Nat) : Meter :=
  match s.checkpoints.reverse.find? fun c => c.bay = b && c.valid with
  | some c => { c.meter with gaphi := BitVec.ofNat 64 (min (c.meter.gaphi.toNat + 330000 * c.cores / 192) (2 ^ 64 - 1)) }
  | none => { gaphi := 0xFFFFFFFFFFFFFFFF }

/-! ## Wear (R326, R416) -/

/-- R416: the indicators beyond their thresholds, with the values that stand there. -/
def State.worn (s : State) (w0 w1 w2 w3 : W64) : List (Nat × Nat) :=
  let left := (indexLimit - s.sidx) / 1024
  let f (w : W64) (lo n : Nat) : Nat := w.toNat / 2 ^ lo % 2 ^ n
  ([(0, f w1 32 32, decide (2700 ≤ f w1 32 32)), (1, f w2 32 32, decide (1000 ≤ f w2 32 32)),
    (2, f w2 0 32, decide (2 * Config.flashBlocks ≤ 100 * f w2 0 32)), (3, f w0 32 16, decide (f w0 32 16 ≤ 6))]
   ++ (numbers 0 4).map (fun j => (4 + j, f w3 (16 * j) 16, decide (500 ≤ f w3 (16 * j) 16)))
   ++ [(8, left, decide (indexLimit - s.sidx ≤ 2 ^ 34))]).filterMap fun (x : Nat × Nat × Bool) => if x.2.2 then some (x.1, x.2.1) else none

/-- R326: sense retries per million pages read over the last 24 h, by the windows of 10 minutes. DESIGN CHOICE (log entry 133): 0 where no page has
been read. -/
def retryRate (l : List (Nat × Nat)) : Nat :=
  let x := l.foldl (fun (n : Nat × Nat) y => (n.1 + y.1, n.2 + y.2)) (0, 0)
  min (x.2 * 1000000 / x.1) (2 ^ 32 - 1)

/-- R326: the word of the retries and of the flash blocks retired. -/
def State.flashWord (s : State) : W64 := BitVec.ofNat 64 (s.blocksGone.length % 2 ^ 32 + retryRate s.sensed * 2 ^ 32)

/-- R416: a block whose count has reached 3,000 is retired. -/
def State.retireWorn (s : State) (w1 : W64) : State :=
  if 3000 ≤ w1.toNat / 2 ^ 32 then { s.tick with blocksGone := addNat s.blocksGone (Config.wornBlock s.free) } else s

/-- R326, R416: the registers are written, the word of the retries and of the retired blocks from what the kilns have met, and an indicator that has
newly crossed its threshold warns. -/
def State.updateWear (s : State) (w0 w1 w3 : W64) : State :=
  let at' (j : Nat) : Nat := Dev.wearBase + 8 * j
  let s := s.retireWorn w1
  let w2 := s.flashWord
  let s := Dev.store (Dev.store (Dev.store (Dev.store s (at' 0) w0) (at' 1) w1) (at' 2) w2) (at' 3) w3
  let l := s.worn w0 w1 w2 w3
  let fresh := l.filter fun x => !s.warned.contains x.1
  fresh.foldl (fun (s : State) x => s.toOperator 18 (x.1 + x.2 % 2 ^ 32 * 2 ^ 32)) { s with warned := l.map (·.1), sensed := ((0, 0) :: s.sensed).take 144 }

/-! ## The events -/

/-- R322. -/
def execMeterWindow (sources : List (Nat × Nat × List (Nat × Nat))) (s : State) : Host.Outcome State Fault Refusal :=
  .next (s.meterEnergy sources)
/-- R324. -/
def execMeterReadLive (s : State) : Host.Outcome State Fault Refusal := .next (s.startReading false)
/-- R324. -/
def execMeterReadCheckpoint (s : State) : Host.Outcome State Fault Refusal := .next (s.startReading true)
/-- R324. -/
def execMeterReadingSigned (signature : List Byte) (s : State) : Host.Outcome State Fault Refusal := .next (s.finishReading signature)
/-- R325, R415. -/
def execMeterCheckpoint (written : Bool) (s : State) : Host.Outcome State Fault Refusal := .next (s.meterPoint written)
/-- R326, R416: with the predicted life, the counts of programs and erases, and the age of the dies as firmware finds them. -/
def execWearUpdate (life : W64) (pemax pemean : W32) (age : W64) (s : State) : Host.Outcome State Fault Refusal := .next (s.updateWear life (pemax ++ pemean) age)

end Sys2Proof.Machine
end

