-- ==== Sys2Proof/Machine/Relay.lean ====
section
/-!
DEFINITION. Relay packets at work (R317, R378): chunks that land, are forwarded and are given up, and the completion word.
-/
namespace Sys2Proof.Machine

/-! ## Relay packets (R317, R378) -/

/-- R317, R372: bytes performed at their homes in the queue's context as fabric stores, one for each line; the timestamp of the last, none
when an address is not that of a writable type 0 page. Structural on the number of lines. -/
def State.landBytes (s : State) (q : Queue) (va pts : Nat) (bytes : List Byte) : Nat → Option (State × Nat)
  | 0 => some (s, pts)
  | n + 1 =>
    let k := min bytes.length (128 - va % 128)
    if k = 0 then some (s, pts)
    else match s.bodyPlace q.die q.asid va k true with
      | .error _ => none
      | .ok (s, pa) =>
        let r := s.store none 0 (.phys pa 0) k (bytesNat (bytes.take k)) { asid := q.asid, va, who := some .firmware }
        r.1.landBytes q (va + k) (max pts r.2) (bytes.drop k) n

/-- R314: the fabric address of a .g address at a module. -/
def relayLine (module va : Nat) : Nat := 0x8000000000000 + module % 1024 * 2 ^ 41 + va % 2 ^ 41

/-- R314, R317: a chunk leaves as fabric stores of at most one line each, to the same buffer address; each line is read in the packet's ASID.
It is delivered when none of them is lost (R377). DEDUCED (log entry 134): a line that cannot be read is not sent, and the chunk is not delivered. -/
def State.sendChunk (s : State) (k : Nat) (q : Queue) (r : Relay) (j : Nat) : State × Bool :=
  let a := r.buffer + r.chunk * j
  (numbers 0 (if r.chunk = 0 then 0 else (a % 128 + r.chunk + 127) / 128)).foldl (fun (x : State × Bool) i =>
    let va := if i = 0 then a else a / 128 * 128 + 128 * i
    match x.1.bodyRead q.die q.asid va (min (128 - va % 128) (a + r.chunk - va)) with
    | .error _ => (x.1, false)
    | .ok (s, _) =>
      let y := (s.noteLink (.phys (relayLine r.next va) 3) (s.bayOfAsid q.asid)).fabricLeave (relayLine r.next va) (.relay (some k))
      (y.1, x.2 && !y.2)) (s, true)

/-- R300: the request of the queue's firmware for a .g address of its context. -/
def Queue.req (q : Queue) (va : Nat) : Req := { asid := q.asid, va, coreid := firmwareCore q.die, port := some (firmwareCore q.die), who := some .firmware }

/-- R317, R378: the relay ends: `v` is added to its completion word, after every chunk write of this module. -/
def State.endRelay (s : State) (k : Nat) (q : Queue) (r : Relay) (v : Nat) : State :=
  let s := match s.bodyPlace q.die q.asid r.word 8 true with
    | .error _ => s
    | .ok (s, pa) =>
      let x := s.store none q.pts (.phys pa 0) 8 (s.mem.read pa 8 + v) (q.req r.word)
      x.1.modQueue k fun q => { q with pts := max q.pts x.2 }
  (s.modQueue k fun q => { q with relay := none }).settleQueue k

/-- R317: this module is the last of the chain. -/
def Relay.last (r : Relay) : Bool := r.next = 0xFFFF
def Relay.over (r : Relay) : Bool := if r.last then (numbers 0 r.count).all r.landed.contains else r.count ≤ r.forwarded

/-- R317, R378: chunk j is offered to the next module once it has landed and chunk j - 1 has been forwarded; whether it has gone on: the module takes
it, or not, and its stores arrive, or are lost. -/
def State.offerChunk (s : State) (k : Nat) (q : Queue) (r : Relay) (taken : Bool) : State × Bool :=
  let x := if s.present 3 then s.sendChunk k q r r.forwarded else (s, false)
  if taken && x.2 then
    let r := { r with forwarded := r.forwarded + 1, since := s.ns }
    (if r.over then x.1.endRelay k q r 1 else x.1.modQueue k fun q => { q with relay := some r }, true)
  else (x.1, false)

/-- R317: the relay goes on as far as it can. Structural on the chunks still to forward. -/
def State.runRelay (s : State) (k : Nat) : Nat → State
  | 0 => s
  | n + 1 =>
    match s.queues[k]? with
    | none => s
    | some q => match q.relay with
      | none => s
      | some r =>
        if r.over then s.endRelay k q r 1
        else if r.last || !r.landed.contains r.forwarded then s
        else
          let x := s.tick.offerChunk k q r (Config.chunkTaken s.free)
          if x.2 then x.1.runRelay k n else x.1

def State.goRelay (s : State) (k : Nat) : State :=
  s.runRelay k ((match (s.queues[k]?).bind (·.relay) with | some r => r.count | none => 0) + 1)

/-- R317: a running relay packet that an arriving chunk matches; the first module of a chain takes none. -/
def Relay.takes (r : Relay) (pred buffer chunk : Nat) : Bool :=
  !r.first && r.buffer = buffer && (r.pred = none || r.pred = some pred) && chunk < r.count

/-- R317: the oldest of them. -/
def State.relayFor (s : State) (pred buffer chunk : Nat) : Option Nat :=
  ((numbers 0 s.queues.length).foldl (fun (m : Option (Nat × Nat)) k =>
    match (s.queues[k]?).bind (·.relay) with
    | some r => if !r.takes pred buffer chunk then m else match m with
      | none => some (k, r.started)
      | some x => if r.started < x.2 then some (k, r.started) else some x
    | none => m) none).map (·.1)

/-- R322: the flits of bytes that arrive for a .g address. -/
def State.noteChunk (s : State) (bay va n : Nat) : State :=
  (numbers (va / 128) ((va % 128 + n + 127) / 128)).foldl (fun (s : State) l => s.noteLink (.phys (relayLine Config.moduleNumber (128 * l)) 3) bay) s

/-- R317, R328: a chunk lands, or is refused; it has landed once all its bytes have been performed. None arrives without the fabric. -/
def State.chunkArrives (s : State) (pred buffer chunk : Nat) (bytes : List Byte) : State :=
  match if s.present 3 then s.relayFor pred buffer chunk else none with
  | none => s
  | some k => match s.queues[k]? with
    | none => s
    | some q => match q.relay with
      | none => s
      | some r =>
        match s.landBytes q (r.buffer + r.chunk * chunk) 0 (bytes.take r.chunk) (bytes.length / 128 + 2) with
        | none => s
        | some (s, ts) =>
          let r := { r with pred := some pred, landed := if r.chunk ≤ bytes.length then addNat r.landed chunk else r.landed, heard := s.ns, since := if chunk = r.forwarded then s.ns else r.since }
          ((s.noteChunk (s.bayOfAsid q.asid) (r.buffer + r.chunk * chunk) (min r.chunk bytes.length)).modQueue k fun q =>
            { q with relay := some r, pts := max q.pts ts }).goRelay k

/-- R378: the next chunk is offered again. -/
def State.reofferChunk (s : State) (k chunk : Nat) (accepted : Bool) : State :=
  match s.queues[k]? with
  | none => s
  | some q => match q.relay with
    | none => s
    | some r =>
      if r.last || chunk ≠ r.forwarded || !r.landed.contains chunk then s
      else if accepted then (s.offerChunk k q r true).1.goRelay k else (s.offerChunk k q r false).1

/-- R378: the chunk that is awaited or on offer, and since when. -/
def Relay.stuck (r : Relay) : Nat × Nat :=
  if r.last then (((numbers 0 r.count).find? fun j => !r.landed.contains j).getD r.count, r.heard)
  else (r.forwarded, if r.landed.contains r.forwarded then r.since else r.heard)

/-- R378: after 1 s. -/
def State.giveUpChunk (s : State) (k chunk : Nat) : State :=
  match s.queues[k]? with
  | none => s
  | some q => match q.relay with
    | none => s
    | some r =>
      if r.stuck.1 = chunk && r.stuck.2 + 1000000000 ≤ s.ns then
        (s.endRelay k q r 0x0000000100000001).recordTo q.asid q.evring (firmwareEvent 7 q.asid (BitVec.ofNat 64 chunk))
      else s

end Sys2Proof.Machine
end

