-- ==== Sys2Proof/Machine/Packets.lean ====
section
/-!
DEFINITION. Packets (R279-R282, R286, R291, R316, R399, R401, R404, R411, R412): what each type does when it starts, the drain and the
forced reset of a context, and the exhaustion and grant of budgets.
-/
namespace Sys2Proof.Machine

/-! ## Starting (R279, R280) -/

/-- R279: the bits of each body word that a type names. -/
def bodyMask (type : Nat) : List Nat :=
  match type with
  | 4 => [2 ^ 48 - 1]
  | 5 => [2 ^ 57 - 1, 2 ^ 64 - 1, 0xFFFF001F]
  | 6 => [2 ^ 57 - 1, 2 ^ 64 - 1, 0x1F]
  | 7 => [2 ^ 57 - 1, 2 ^ 64 - 1, 1]
  | 8 => [2 ^ 64 - 1]
  | 10 => [2 ^ 57 - 1, 0xFFFF, 2 ^ 32 - 1, 2 ^ 32 - 1, 2 ^ 57 - 1]
  | 11 => [2 ^ 57 - 1, 0xFFFF]
  | 12 => [0x1FF, 2 ^ 32 - 1]
  | 13 | 15 => [0x1FF]
  | 14 => [0x1FF, 2 ^ 64 - 1, 2 ^ 64 - 1]
  | _ => []

/-- R279: the fields that the table names are all that is set; launch bodies are checked by R282. -/
def Packet.bodyOk (p : Packet) : Bool :=
  p.type ≤ 3 || (numbers 0 p.body.length).all fun j => (wordAt p.body j) &&& ~~~ (BitVec.ofNat 64 (((bodyMask p.type)[j]?).getD 0)) = 0

def Packet.word (p : Packet) (j : Nat) : Nat := (wordAt p.body j).toNat

/-- R279: the packets of a control queue. -/
def isControl (type : Nat) : Bool := 12 ≤ type && type ≤ 15
/-- R280: types that start only after every earlier packet has completed. -/
def isBarrier (type : Nat) : Bool := 7 ≤ type && type ≤ 11

/-- R280: every earlier packet of the queue has completed, but for the gates that are at work. -/
def State.earlierDone (s : State) (k : Nat) (q : Queue) : Bool :=
  s.launchesDone k && q.relay.isNone && q.waiting.isNone && q.closing.isNone && q.effects.isEmpty

/-- R126, R280, R291, R401, R404: the packet may start. DEDUCED (log entry 135): a launch whose acquire scope waits for stores starts after them. -/
def State.mayStart (s : State) (k : Nat) (q : Queue) (p : Packet) : Bool :=
  q.registered && !q.halted && q.waiting.isNone && q.closing.isNone && q.gateOpen && !s.fwfail.getLsbD q.die
    && (s.contextRuns q.asid || (q.ctl && isControl p.type))
    && (!(p.dep || isBarrier p.type) || s.earlierDone k q) && !(p.type ≤ 3 && p.due.any s.agenda.contains)
    && (p.type ≠ 8 || (!s.ringFull q.evring && !(match s.context q.asid with | some c => c.held.any (·.1 = q.evring) | none => false)))

/-- R280: the packet at the head starts: it is taken, checked against R279, and has the effect `f`, which may be a queue fault. -/
def State.startPacket (s : State) (k : Nat) (type : Nat) (f : State → Queue → Packet → Except Nat State) : State :=
  match s.queues[k]? with
  | none => s
  | some q =>
    match q.ready with
    | [] => s
    | p :: ps =>
      if p.type ≠ type || !s.mayStart k q p then s
      else
        let s := s.modQueue k fun q => { q.countGates q.replaying with ready := ps }
        let r : Except Nat State :=
          if typeBlocks type ≠ some p.len || !p.bodyOk || (isControl type && !q.ctl) then .error 2 else f s q p
        (match r with
         | .ok s => s
         | .error reason => s.queueFault k reason p.type p.seq).settleQueue k

/-- R401: the reason of a body address that cannot be used; `word` for a word that is read. -/
def addressReason (word : Bool) (f : TrapInfo) : Nat := if word && f.code ≠ 0x44 && f.code ≠ 0x42 then 7 else 6

/-- R279, R401: a body address of a naturally aligned word. -/
def State.bodyWordAt (s : State) (q : Queue) (va n : Nat) (store word : Bool) : Except Nat (State × Nat) :=
  if va % n ≠ 0 then .error 6
  else match s.bodyPlace q.die q.asid va n store with
    | .error f => .error (addressReason word f)
    | .ok (s, pa) => if word && s.physPoisoned pa n then .error 7 else .ok (s, pa)

/-! ## Launches (R282, R288) -/

/-- R116, R282: the number of teams: in the body, or in the word that it names. DEDUCED (log entry 40): bits of the grid word that its kind does
not name ([63:32] of kind 0, [63:24] of kind 1, [63:57] of kinds 2 and 3) are ignored. -/
def State.launchCount (s : State) (k : Nat) (q : Queue) (b : LaunchBody) : Except Nat (State × Nat) :=
  match b.kind with
  | 0 => .ok (s, b.grid % 2 ^ 32)
  | 1 => .ok (s, b.grid % 2 ^ 24)
  | _ => match s.bodyWordAt q (b.grid % 2 ^ 57) 4 false true with
    | .error r => .error r
    | .ok (s, pa) => let x := s.loadHome none q.pts pa 4 (q.req (b.grid % 2 ^ 57)); .ok (x.1.queueAt k x.2.2, x.2.1)

/-- R126, R127, R279, R282: a launch starts at the fetcher's pts at its read of the header, and after what the packet waited for. -/
def launchEffect (k : Nat) (s : State) (q : Queue) (p : Packet) : Except Nat State :=
  let b := LaunchBody.ofWords p.body
  if !(p.type = 1 && b.kind = 0 || p.type = 2 && b.kind = 1 || p.type = 3 && 2 ≤ b.kind) then .error 4
  else if b.pageGrid && !s.present 11 then .error 5
  else match s.launchCount k q b with
    | .error r => .error r
    | .ok (s, n) =>
      let bay := ((s.context q.asid).map (·.bay)).getD 0
      let start := if p.dep then max p.pts q.pts else p.pts
      let la : Launch := { asid := q.asid, queue := some k, rel := p.rel, body := b, mask := b.mask &&& s.launchCores bay, start }
      match s.checkLaunch q.die q.asid bay p.body n with
      | none => .error 4
      | some s => match s.bodyAddresses q.die q.asid b with
        | none => .error 6
        | some s =>
          let i := s.launches.length
          let s := s.addLaunch la n
          .ok (if b.pageGrid then s.startPages q.die i la n else s)

/-! ## Loops, tests and waits (R280) -/

def loopEffect (k : Nat) (s : State) (q : Queue) (p : Packet) : Except Nat State :=
  let iterations := p.word 0 % 2 ^ 32
  let n := p.word 0 / 2 ^ 32 % 2 ^ 16
  if iterations = 0 ∨ n = 0 ∨ q.loop.isSome then .error 3
  else .ok (s.modQueue k fun q => { q with loop := some (n, iterations, []) })

/-- The word that a conditional or wait-value packet tests, as an ordinary load: the monitor that the packet asks for, and whether its
condition holds. -/
def State.testWord (s : State) (k : Nat) (q : Queue) (p : Packet) : Except Nat (State × QueueWatch × Bool) :=
  let c := p.word 2
  if 6 ≤ c % 8 then .error 2
  else
    let n := if c / 8 % 2 = 1 then 8 else 4
    match s.bodyWordAt q (p.word 0 % 2 ^ 57) n false true with
    | .error r => .error r
    | .ok (s, pa) =>
      let w : QueueWatch := { pa, n, fn := c % 8, signed := c / 16 % 2 = 1, value := p.word 1 % 2 ^ (8 * n) }
      let x := s.loadHome none q.pts pa n (q.req (p.word 0 % 2 ^ 57))
      .ok (x.1.queueAt k x.2.2, w, condHolds w.fn w.signed (8 * n) x.2.1 w.value)

def conditionalEffect (k : Nat) (s : State) (q : Queue) (p : Packet) : Except Nat State :=
  match s.testWord k q p with
  | .error r => .error r
  | .ok (s, _, true) => .ok s
  | .ok (s, _, false) => .ok (s.modQueue k fun q => { q with skip := p.word 2 / 2 ^ 16 % 2 ^ 16 })

/-- R84, R280: a wait-value packet waits by a monitor. -/
def waitEffect (k : Nat) (s : State) (q : Queue) (p : Packet) : Except Nat State :=
  match s.testWord k q p with
  | .error r => .error r
  | .ok (s, _, true) => .ok s
  | .ok (s, w, false) => .ok (s.modQueue k fun q => { q with waiting := some p, watch := some w })

/-- R84, R119, R280: a write has met the condition of a waiting packet, which joins it. -/
def State.endWait (s : State) (k : Nat) : State :=
  match ((s.queues[k]?).bind (·.watch)).bind (·.met) with
  | none => s
  | some ts => ((s.modQueue k fun q => { q with waiting := none, watch := none }).queueAt k ts).settleQueue k

/-! ## Stores, signals, fences and gates (R280, R292, R316) -/

/-- R116: an ordinary store of the queue. -/
def State.queueStore (s : State) (k : Nat) (q : Queue) (va pa n w : Nat) : State :=
  let r := s.store none q.pts (.phys pa 0) n w (q.req va)
  r.1.queueAt k r.2

def writeEffect (k : Nat) (s : State) (q : Queue) (p : Packet) : Except Nat State :=
  let n := if p.word 2 % 2 = 1 then 8 else 4
  match s.bodyWordAt q (p.word 0) n true false with
  | .error r => .error r
  | .ok (s, pa) => .ok (s.queueStore k q (p.word 0) pa n (p.word 1))

def signalEffect (s : State) (q : Queue) (p : Packet) : Except Nat State :=
  .ok ((s.fwAfter q.pts).writeRecord q.evring (firmwareEvent 2 q.asid (wordAt p.body 0)))

/-- R127, R280: a fence packet is over when the markers and the flushes of its release scope have been answered. -/
def fenceEffect (k : Nat) (s : State) (q : Queue) (p : Packet) : Except Nat State :=
  let x := s.releaseScope q.asid p.rel (s.ofQueue k)
  .ok (if x.2.1.isEmpty && x.2.2.isEmpty then x.1 else x.1.modQueue k fun q => { q with closing := some x.2 })

/-- R280: the users word of a gate, at its word plus 8, holds 0. -/
def State.usersZero (s : State) (g : Gate) : Bool := s.mem.read (g.word + 8) 8 = 0

/-- R116, R280, R316: the users word of the innermost gate is loaded; when it reads 0 the gate's packets may run. -/
def State.openGate (s : State) (k : Nat) : State :=
  match s.queues[k]? with
  | some q => match q.gates with
    | g :: gs =>
      if g.zero then s
      else
        let x := s.loadHome none q.pts (g.word + 8) 8 (q.req (g.va + 8))
        (x.1.queueAt k x.2.2).modQueue k fun q => { q with gates := { g with zero := x.2.1 = 0 } :: gs }
    | [] => s
  | none => s

def gateEffect (k : Nat) (s : State) (q : Queue) (p : Packet) : Except Nat State :=
  match s.bodyWordAt q (p.word 0) 8 true false with
  | .error r => .error r
  | .ok (s, pa) => match s.bodyWordAt q (p.word 0 + 8) 8 false false with
    | .error r => .error r
    | .ok (s, _) =>
      let g : Gate := { word := pa, va := p.word 0, left := p.word 1 % 2 ^ 16, zero := false, inLoop := q.replaying }
      let s := (s.queueStore k q (p.word 0) pa 8 1).modQueue k fun q => { q with gates := g :: q.gates }
      .ok (s.openGate k)

/-- R280, R316: the guarded packets have completed. -/
def State.gateDone (s : State) (k : Nat) (q : Queue) (g : Gate) : Bool :=
  g.zero && g.left = 0 && s.earlierDone k q && (g.inLoop || (q.loop.isNone && q.ready.isEmpty))

def State.reopenGate (s : State) (k : Nat) : State :=
  match s.queues[k]? with
  | none => s
  | some q => match q.gates with
    | g :: gs => if s.gateDone k q g then (s.queueStore k q g.va g.word 8 0).modQueue k fun q => { q with gates := gs } else s
    | [] => s

/-! ## Relay packets (R317) -/

/-- R279, R317. The buffer, which has no size of its own, is aligned like a word (log entry 97). DEDUCED (log entry 115): a chunk size that is
not a multiple of 4 KiB is a packet fault of reason 2. -/
def relayEffect (k : Nat) (s : State) (q : Queue) (p : Packet) : Except Nat State :=
  if !s.present 10 || !s.present 3 then .error 5
  else if p.word 2 % 4096 ≠ 0 then .error 2
  else match s.bodyWordAt q (p.word 4) 8 true false with
    | .error r => .error r
    | .ok (s, _) => match s.bodyWordAt q (p.word 0) 8 false false with
    | .error r => .error r
    | .ok (s, _) =>
      let first := Config.relayFirst s.free
      let r : Relay := { buffer := p.word 0, next := p.word 1, chunk := p.word 2, count := p.word 3, word := p.word 4,
                         landed := if first then numbers 0 (p.word 3) else [], forwarded := 0, first, pred := none, started := s.clk, heard := s.ns, since := s.ns }
      .ok ((s.tick.modQueue k fun q => { q with relay := some r }).goRelay k)

/-! ## Draining a context (R291) -/

/-- R291: the drain begins. -/
def State.startDrain (s : State) (asid us : Nat) : State :=
  match s.context asid with
  | none => s
  | some c =>
    if c.state ≠ .active then s
    else
      let us := if us = 0 then 5000 else min (max us 100) 1000000
      ((s.modContext asid fun c => { c with state := .draining s.ns (s.ns + 1000 * us) }).dropPages asid).later [.drainComplete asid]

/-- The launches of a context that have not completed. -/
def State.contextLaunches (s : State) (asid : Nat) : List Nat :=
  (numbers 0 s.launches.length).filter fun k => match s.launches[k]? with | some la => la.asid = asid && !la.complete && !la.priv | none => false

/-- R291: none of the context's teams is resident and none of its engine operations is in flight. -/
def State.quietContext (s : State) (asid : Nat) : Bool :=
  s.teams.all (fun tm => tm.status ≠ .placed || tm.wave.isSome || tm.asid s ≠ asid) && s.ops.all (·.asid ≠ asid)

/-- R284, R291: the cores that slices of the given launches hold are free. -/
def State.freeCores (s : State) (l : List Nat) : State :=
  l.foldl (fun (s : State) k => (numbers 0 256).foldl (fun (s : State) c =>
    if ((s.core c).holder.map (·.1)) = some k then s.modCore c fun x => { x with holder := none } else s) s) s

/-- R399: the record of an exhausted slice. -/
def State.tellBudget (s : State) (k j : Nat) : State :=
  match s.launches[k]? with
  | none => s
  | some la =>
    (s.modLaunch k fun la => { la with budgets := SMap.modify { left := la.body.budget } la.budgets j fun b => { b with told := true } }).record la.asid
      (firmwareEvent 11 la.asid (BitVec.ofNat 64 (la.tag + j * 2 ^ 32)))

/-- R291, R399: exhaustions during the drain are reported after it. -/
def State.tellBudgets (s : State) (asid : Nat) : State :=
  (s.contextLaunches asid).foldl (fun (s : State) k =>
    (((s.launches[k]?).map (·.budgets)).getD []).foldl (fun (s : State) x => if x.2.exhausted && !x.2.told then s.tellBudget k x.1 else s) s) s

/-- R291, step 5. DESIGN CHOICE (log entry 129): the value of the record of kind 3 is 0. -/
def State.endDrain (s : State) (asid : Nat) : State :=
  if !s.draining asid || !s.quietContext asid then s
  else
    let s := ((s.checkpointNow.freeCores (s.contextLaunches asid)).modContext asid fun c => { c with state := .preempted }).effectsOver asid
    (s.record asid (firmwareEvent 3 asid 0)).tellBudgets asid

/-- R291, R401, R412: the context runs again and its queues go on. -/
def State.resumeContext (s : State) (asid : Nat) : State :=
  match s.context asid with
  | none => s
  | some c =>
    let go (s : State) : State := { s with queues := s.queues.map fun q => if q.asid = asid then { q with halted := false } else q }
    match c.state with
    | .draining _ _ | .resetting _ => s
    | .active => go s
    | .preempted => (numbers 0 128).foldl State.sense (go (s.modContext asid fun c => { c with state := .active }))

/-! ## Forced reset (R411, R412) -/

/-- R411, steps 2, 4 and 6: the launch ends, with no release scope. -/
def State.forceEnd (s : State) (k : Nat) : State :=
  match s.launches[k]? with
  | none => s
  | some la => (la.teams.foldl State.endTeam s).freeLaunch k

def emptyQueue (q : Queue) : Queue := { q with halted := true, ready := [], skip := 0, loop := none, waiting := none, watch := none, closing := none, gates := [], relay := none, effects := [] }

/-- R411, R412: what slices have accepted for the context and not begun, and launches of its tasks that have not begun, are discarded. -/
def State.forgetRequests (s : State) (asid : Nat) : State :=
  let s : State := (numbers 0 192).foldl (fun (s : State) k =>
    (s.modSlice k fun l => { l with groutq := l.groutq.filter (·.asid ≠ asid) }).dropEvents k asid) s
  { s with agenda := s.agenda.filter fun i => match i with | .taskLaunch a _ => a ≠ asid | _ => true }

/-- R411: a forced reset begins; one of a context that is being reset has no effect. -/
def State.startReset (s : State) (asid reason : Nat) : State :=
  match s.context asid with
  | none => s
  | some { state := .resetting _, .. } => s
  | some _ =>
    let s := (s.checkpointNow.forgetPages asid).forgetRequests asid
    let l := s.contextLaunches asid
    let s := { s with ops := s.ops.filter (·.asid ≠ asid) }
    let s := (l.foldl State.forceEnd s).freeCores l
    let s := s.modContext asid fun c => { c with state := .resetting reason, handles := [], hts := [], pending := [], regs := [], ended := l.length }
    let s := { s with
      monitors := s.monitors.filter (fun m => match s.team m.t.team with | some tm => s.privileged tm || tm.asid s ≠ asid | none => true),
      senders := s.senders.map fun (k : Sender) => { k with window := k.window.filter fun x => s.sentAsid x.what ≠ asid },
      queues := s.queues.map fun (q : Queue) => if q.asid = asid then emptyQueue q else q,
      teams := s.teams.map fun (tm : Team) => if tm.wave.isNone && tm.asid s = asid then { tm with signals := 0, slots := [], rings := [], mat := {}, sPending := [] } else tm }
    s.later [.forcedResetComplete asid]

/-- R411: no agent of the context is running. -/
def State.resetDone (s : State) (asid : Nat) : Bool :=
  s.quietContext asid && s.teams.all (fun tm => match tm.wave with | some w => w.asid ≠ asid || tm.status = .retired | none => true)
    && s.slices.all fun k => match k.2.hod with | some r => r.event.asid ≠ asid | none => true

/-- R410, R413: rst clears when every context of the bay has completed; the record has the number of contexts that were reset. -/
def State.endBayReset (s : State) (b : Nat) : State :=
  if (s.bayWord b).getLsbD 62 && s.contexts.all (fun c => c.bay ≠ b || (match c.state with | .resetting _ => false | _ => true)) then
    let n := SMap.get 0 s.bayResets b
    let s : State := { s with bayResets := SMap.set 0 s.bayResets b 0 }
    (Dev.store s (bayAddr b 0x20) (s.bayWord b &&& ~~~ bayRst)).toOperator 17 (b + n * 2 ^ 32)
  else s

/-- R411, R412. -/
def State.endReset (s : State) (asid : Nat) : State :=
  match s.contexts.find? (·.asid = asid) with
  | none => s
  | some c =>
    match c.state with
    | .resetting reason =>
      if !s.resetDone asid then s
      else
        let v := asid + reason * 2 ^ 9 + c.ended % 2 ^ 32 * 2 ^ 32
        let s := (s.modContext asid fun c => { c with state := .active, ended := 0 }).effectsOver asid
        let s : State := { s with contexts := s.contexts.filter fun c => !(c.asid = asid && c.gone) }
        (((s.record asid (firmwareEvent 16 asid (BitVec.ofNat 64 v))).toOperator 16 v).endBayReset c.bay)
    | _ => s

/-! ## Budgets (R285, R286, R399) -/

/-- R286, R399: the slice is exhausted: its teams are saved and it holds no core. -/
def State.exhaust (s : State) (k j : Nat) : State :=
  match s.launches[k]? with
  | none => s
  | some la =>
    if la.complete || la.body.budget = 0 || (la.budget j).exhausted || (la.budget j).left ≠ 0 then s
    else
      let s := s.modLaunch k fun la => { la with budgets := SMap.modify { left := la.body.budget } la.budgets j fun b => { b with exhausted := true } }
      if s.draining la.asid then s
      else
        let mine := la.teams.filter fun i => match s.team i with | some tm => tm.slice = j && tm.status = .placed && !tm.saving | none => false
        let s := mine.foldl (fun (s : State) i => match s.team i with | some tm => if tm.saving then s else s.beginSave i | none => s) s
        let s := (numbers 0 256).foldl (fun (s : State) c => if (s.core c).holder = some (k, j) then s.modCore c fun x => { x with holder := none } else s) s
        s.tellBudget k j

/-- R399: an exhausted slice that is granted more, or cancelled. -/
def State.grantSlice (s : State) (k j budget : Nat) : State :=
  match s.launches[k]? with
  | none => s
  | some la =>
    let set (s : State) (f : Budget → Budget) : State := s.modLaunch k fun la => { la with budgets := SMap.modify { left := la.body.budget } la.budgets j f }
    if budget ≠ 0 then set s fun b => { b with left := budget, exhausted := false, told := false }
    else
      let mine := la.teams.filter fun i => match s.team i with | some tm => tm.slice = j && tm.status ≠ .retired | none => false
      mine.foldl State.endTeam (set (s.forgetTeams mine) fun b => { b with cancelled := true, exhausted := false })

/-- R279, R399: no effect where the context does not exist. -/
def grantEffect (s : State) (_q : Queue) (p : Packet) : Except Nat State :=
  let asid := p.word 0 % 512
  let tag := p.word 1 % 2 ^ 32
  let slice := p.word 1 / 2 ^ 32
  .ok (match ((s.context asid).toList.flatMap fun _ => s.contextLaunches asid).find? fun k => ((s.launches[k]?).map (·.tag)) = some tag with
    | none => s
    | some k =>
      (((s.launches[k]?).map (·.budgets)).getD []).foldl (fun (s : State) x =>
        if x.2.exhausted && (slice = 0xFFFFFFFF || slice = x.1) then s.grantSlice k x.1 (p.word 2) else s) s)

/-- R280: the packet's effect goes on at the context, where it has started one there. -/
def State.atContext (s : State) (k asid : Nat) (began : Bool) : State :=
  if began then s.modQueue k fun q => { q with effects := addNat q.effects asid } else s

/-- R280, R291: the packet completes when the drain that it started is over. -/
def preEmptEffect (k : Nat) (s : State) (_q : Queue) (p : Packet) : Except Nat State :=
  let asid := p.word 0 % 512
  .ok ((s.startDrain asid (p.word 1 % 2 ^ 32)).atContext k asid (match s.context asid with | some c => c.state = .active | none => false))
def resumeEffect (s : State) (_q : Queue) (p : Packet) : Except Nat State := .ok (s.resumeContext (p.word 0 % 512))
/-- R280, R411: the packet completes when the reset that it started is over. -/
def resetEffect (k : Nat) (s : State) (_q : Queue) (p : Packet) : Except Nat State :=
  let asid := p.word 0 % 512
  .ok ((s.startReset asid 2).atContext k asid (match s.context asid with | some { state := .resetting _, .. } => false | some _ => true | none => false))

/-! ## The events -/

/-- R280, R282. -/
def execLaunchPacket (queue : Nat) (s : State) : Host.Outcome State Fault Refusal := .next (s.startPacket queue 1 (launchEffect queue))
/-- R280, R282, R288. -/
def execPageLaunchPacket (queue : Nat) (s : State) : Host.Outcome State Fault Refusal := .next (s.startPacket queue 2 (launchEffect queue))
/-- R280, R282. -/
def execIndirectLaunchPacket (queue : Nat) (s : State) : Host.Outcome State Fault Refusal := .next (s.startPacket queue 3 (launchEffect queue))
/-- R280. -/
def execLoopPacket (queue : Nat) (s : State) : Host.Outcome State Fault Refusal := .next (s.startPacket queue 4 (loopEffect queue))
/-- R280. -/
def execConditionalPacket (queue : Nat) (s : State) : Host.Outcome State Fault Refusal := .next (s.startPacket queue 5 (conditionalEffect queue))
/-- R280. -/
def execWaitValuePacket (queue : Nat) (s : State) : Host.Outcome State Fault Refusal := .next (s.startPacket queue 6 (waitEffect queue))
/-- R84, R280. -/
def execWaitValueSatisfied (queue : Nat) (s : State) : Host.Outcome State Fault Refusal := .next (s.endWait queue)
/-- R280. -/
def execWriteValuePacket (queue : Nat) (s : State) : Host.Outcome State Fault Refusal := .next (s.startPacket queue 7 (writeEffect queue))
/-- R280, R292, R404. -/
def execSignalPacket (queue : Nat) (s : State) : Host.Outcome State Fault Refusal := .next (s.startPacket queue 8 signalEffect)
/-- R127, R280. -/
def execFencePacket (queue : Nat) (s : State) : Host.Outcome State Fault Refusal := .next (s.startPacket queue 9 (fenceEffect queue))
/-- R317. -/
def execRelayPacket (queue : Nat) (s : State) : Host.Outcome State Fault Refusal := .next (s.startPacket queue 10 (relayEffect queue))
/-- R280, R316. -/
def execGatePacket (queue : Nat) (s : State) : Host.Outcome State Fault Refusal := .next (s.startPacket queue 11 (gateEffect queue))
/-- R280. -/
def execGateUsersZero (queue : Nat) (s : State) : Host.Outcome State Fault Refusal := .next (s.openGate queue)
/-- R280, R316. -/
def execGateReopen (queue : Nat) (s : State) : Host.Outcome State Fault Refusal := .next (s.reopenGate queue)
/-- R291. -/
def execPreEmptPacket (queue : Nat) (s : State) : Host.Outcome State Fault Refusal := .next (s.startPacket queue 12 (preEmptEffect queue))
/-- R291. -/
def execDrainComplete (asid : Nat) (s : State) : Host.Outcome State Fault Refusal := .next (s.endDrain asid)
/-- R291, R411. -/
def execDrainDeadline (asid : Nat) (s : State) : Host.Outcome State Fault Refusal :=
  .next (match s.context asid with
    | some { state := .draining _ d, .. } => if d ≤ s.ns then s.startReset asid 0 else s
    | _ => s)
/-- R291, R401, R412. -/
def execResumePacket (queue : Nat) (s : State) : Host.Outcome State Fault Refusal := .next (s.startPacket queue 13 resumeEffect)
/-- R399. -/
def execGrantPacket (queue : Nat) (s : State) : Host.Outcome State Fault Refusal := .next (s.startPacket queue 14 grantEffect)
/-- R411. -/
def execResetPacket (queue : Nat) (s : State) : Host.Outcome State Fault Refusal := .next (s.startPacket queue 15 (resetEffect queue))
/-- R411, R412. -/
def execForcedResetComplete (asid : Nat) (s : State) : Host.Outcome State Fault Refusal := .next (s.endReset asid)
/-- R286, R399. -/
def execBudgetExhausted (launch slice : Nat) (s : State) : Host.Outcome State Fault Refusal := .next (s.exhaust launch slice)

end Sys2Proof.Machine
end

