-- ==== Sys2Proof/Machine/Links.lean ====
section
/-!
DEFINITION. Host ports, the Colgaig fabric and service cores (R124, R292, R307-R317, R365, R376-R378, R405, R418), the replay of
refused entries (R290, R402), held event records (R404, R405) and the plumb unit (R403). What the outside world says comes with
the event.
-/
namespace Sys2Proof.Machine

/-! ## Accesses from outside (R111, R309, R312, R314) -/

/-- R309: bytes performed at their homes as ordinary stores of an agent whose pts is 0, one store for each line; the timestamp of
the last. Structural on the number of lines. -/
def State.storeLines (s : State) (pa : Nat) (bytes : List Byte) : Nat → State × Nat
  | 0 => (s, 0)
  | n + 1 =>
    let k := 128 - pa % 128
    let r := s.store none 0 (.phys pa 0) (min k bytes.length) (bytesNat (bytes.take k)) { who := some .host }
    if bytes.length ≤ k then r else let x := r.1.storeLines (pa + k) (bytes.drop k) n; (x.1, max r.2 x.2)

/-- The bytes of a range that lie in module memory. -/
def State.storeOutside (s : State) (pa : Nat) (bytes : List Byte) : State × Nat :=
  let bytes := bytes.take (s.hbmTop - pa)
  if bytes.isEmpty then (s, 0) else s.storeLines pa bytes (bytes.length / 128 + 2)

/-- R278: queues whose next header a write meets. -/
def State.headersIn (s : State) (pa n : Nat) : List Nat :=
  (numbers 0 s.queues.length).filter fun k => match s.queues[k]? with
    | some q => q.registered && q.slotAddr 0 < pa + n && pa < q.slotAddr 0 + 8
    | none => false

/-- R405: contexts one of whose queues names a ring whose read index a write meets. -/
def State.ringsFreed (s : State) (pa n : Nat) : List Nat :=
  s.queues.foldl (fun l q => if q.registered && q.evring + 24 < pa + n && pa < q.evring + 32 then addNat l q.asid else l) []

/-- R307, R347: the host writes memory of its own. A line that a home here holds it takes away first, by a snoop (R310), and does not write so. No write
of the host is seen here (R311). -/
def State.hostOwn (s : State) (pa : Nat) (bytes : List Byte) : State :=
  (numbers (pa / 128) ((pa % 128 + bytes.length + 127) / 128)).foldl (fun (s : State) l =>
    if s.region (128 * l) ≠ .host || s.l2Holds (128 * l) then s
    else
      let a := max pa (128 * l)
      let here := (bytes.drop (a - pa)).take (128 * l + 128 - a)
      { s with mem := s.mem.writeBytes a here, poison := unmark 16 a here.length s.poison }) s

/-- R124, R278, R309, R405: a store from outside arrives at module memory. -/
def State.storeArrives (s : State) (pa : Nat) (bytes : List Byte) : State :=
  (s.storeOutside pa bytes).1.later ((s.headersIn pa bytes.length).map .packetFetch ++ (s.ringsFreed pa bytes.length).map .heldRecordsFlush)
/-- R309. -/
def State.hostStore (s : State) (pa : Nat) (bytes : List Byte) : State := (s.hostOwn pa bytes).storeArrives pa bytes

/-- R327: the port by which a host load comes: port 0 while reduced service holds. -/
def State.portOfRead (s : State) : Nat := if s.phase = .full then Config.readPort s.free % 2 else 0
/-- The lines that a range meets. -/
def linesOf (pa n : Nat) : List Nat := numbers (pa / 128) ((pa % 128 + n + 127) / 128)
/-- R76, R309: a load at the home slices of the lines of a range, which grants no lease. -/
def State.homeRead (s : State) (pa n : Nat) : State :=
  (linesOf pa n).foldl (fun (s : State) l => s.reachL2 (.phys (128 * l) 0) false (s.line (128 * l)).1 { who := some .host }) s
/-- R309: a host load grants no lease. With CXL on its port (R306) the host then holds the lines, as HDM-DB lets it (log entry 89). -/
def State.hostRead (s : State) (pa n : Nat) : State :=
  match s.region pa with
  | .hbm =>
    let port := s.portOfRead
    let hostHeld := if s.present port then (linesOf pa n).foldl (fun l k => if l.contains (k, port) then l else l ++ [(k, port)]) s.hostHeld else s.hostHeld
    { (s.homeRead pa n).tick with hostHeld, hostAnswer := BitVec.ofNat 64 (s.mem.read pa n), answerMarked := s.physPoisoned pa n }
  | .device => { s with hostAnswer := BitVec.ofNat 64 (s.devReadN pa n), answerMarked := false }
  | _ => s

/-- R30, R115: a service core. -/
def State.hart (s : State) (h : Nat) : Hart := SMap.get {} s.harts h
/-- R115, R116: a change of a service core; it has made an access, after which its pts is `pts`. -/
def State.modHart (s : State) (h : Nat) (f : Hart → Hart) : State := { s with harts := SMap.modify {} s.harts h f }
def State.setHart (s : State) (h pts : Nat) : State := s.modHart h fun x => { x with pts, quiet := 0 }
/-- R312: a service core's request to a home slice, by the ring of its group. -/
def hartReq (h : Nat) : Req := { port := some (servicePort h), who := some (.hart h) }

/-- R75, R116, R312: a load of module memory by a service core: from its cache, from the shared one, or at the home, which both then keep. -/
def State.hartLoad (s : State) (h pa n : Nat) : State × Nat :=
  let pts := (s.hart h).pts
  if !s.leaseLapse (hartCache h) pts pa then let r := s.load (some (hartCache h)) pts (.phys pa 0) n (hartReq h); (r.1.setHart h r.2.2, r.2.1)
  else if !s.leaseLapse sharedCache pts pa then
    let r := s.load (some sharedCache) pts (.phys pa 0) n (hartReq h)
    let s := match s.l1Copy sharedCache pa with | some k => r.1.keepCopy (hartCache h) k | none => r.1
    (s.setHart h r.2.2, r.2.1)
  else
    let r := s.load (some (hartCache h)) pts (.phys pa 0) n (hartReq h)
    ((r.1.fillL1 sharedCache pa (r.1.line pa)).setHart h r.2.2, r.2.1)

/-- R75, R111, R116, R312: a store of module memory by a service core goes through its cache and the shared one to the home. -/
def State.hartStore (s : State) (h pa n w : Nat) : State :=
  let r := s.store (some (hartCache h)) (s.hart h).pts (.phys pa 0) n w (hartReq h)
  ((r.1.dropL1 sharedCache pa).setHart h r.2).later ((s.headersIn pa n).map .packetFetch ++ (s.ringsFreed pa n).map .heldRecordsFlush)

/-- R372: what answers a service core's load holds a marked byte: a copy under a lease, or the place. -/
def State.hartMarked (s : State) (h pa n : Nat) : Bool :=
  let pts := (s.hart h).pts
  s.loadMarked (some (if s.leaseLapse (hartCache h) pts pa then sharedCache else hartCache h)) pts (.phys pa 0) n

/-- R322: the bay of the context whose command queue a service core serves by an access: one to the ring, the descriptor or the event ring
descriptor of a registered queue. DEDUCED (log entry 98). -/
def State.servedBay (s : State) (pa : Nat) : Nat :=
  match s.queues.find? fun q => q.registered && (q.base ≤ pa && pa < q.base + 64 * q.nblk || pa / 64 = q.desc / 64 || q.evring ≤ pa && pa < q.evring + 32) with
  | some q => s.bayOfAsid q.asid
  | none => 0

/-- R111, R312: an access of a service core, which a full fence follows; it may address device registers and both host ports. DEDUCED (log entry 136):
by a port that has lost its link (R418) a store is lost, and what a load returns is a free value. -/
def State.serviceDone (s : State) (h pa n : Nat) (store : Option W64) : State :=
  match s.region pa, store with
  | .hbm, some v => s.hartStore h pa n v.toNat
  | .hbm, none =>
    let marked := s.hartMarked h pa n
    let r := s.hartLoad h pa n
    { r.1 with hostAnswer := BitVec.ofNat 64 r.2, answerMarked := marked }
  | .device, some v => s.devWriteN pa n v.toNat
  | .device, none => { s with hostAnswer := BitVec.ofNat 64 (s.devReadN pa n), answerMarked := false }
  | .host, some v => if s.lost.contains (hostPort pa, 0) then s else (s.poke (.phys pa 2) n v.toNat).evaluate (.phys pa 2) n 0
  | .host, none =>
    if s.lost.contains (hostPort pa, 0) then { s.tick with hostAnswer := Config.lostAnswer s.free, answerMarked := false }
    else { s with hostAnswer := BitVec.ofNat 64 (s.mem.read pa n), answerMarked := s.physPoisoned pa n }
  | _, _ => s

/-- R289, R290, R301, R312: the first access that a service core has asked for is performed; or its request is refused, or has missed where a handler is
installed, and it waits with those behind it. -/
def State.serveHart (s : State) (h : Nat) : State :=
  let x := s.hart h
  match x.asked with
  | [] => s
  | (pa, n, store) :: rest =>
    if (x.granted.isNone && s.awaitsEntry (.service h)) || s.hodHolds (.hart h) then s
    else
      let s0 := (s.usePlace x.granted).modHart h fun x => { x with granted := none }
      let u := (s0.noteUse (srcService h) (s.servedBay pa) 1).serviceDone h pa n store
      match s0.postpone u (.service h) (.hart h) (servicePort h) x.granted with
      | some y => y.1
      | none => u.modHart h fun x => { x with asked := rest }

/-- R312: the accesses of a service core are performed in order. -/
def State.serviceAccess (s : State) (h pa n : Nat) (store : Option W64) : State :=
  if 32 ≤ h then s
  else
    let s' := s.modHart h fun x => { x with asked := x.asked ++ [(pa, n, store)] }
    if (s.hart h).asked.isEmpty then s'.serveHart h else s'

/-! ## Host ports (R310, R311, R376) -/

/-- R307, R310, R311: the home answers a snoop of a type 2 line with what it holds. Where the host takes the line away, the home holds it no more, the
host may write it, and the home fetches it again for its monitors. A port without CXL carries no snoop (R306, R328). -/
def State.snoop (s : State) (pa : Nat) (takes : Bool) (line : List Byte) : State :=
  let a := pa / 128 * 128
  let n := min 128 line.length
  let gone := s.region pa ≠ .host || !s.present (hostPort pa)
  let s := if gone then s else { s with hostLine := s.mem.bytes a 128, answerMarked := s.physPoisoned a 128 }
  if gone || !takes then s
  else
    let s := { s.dropLine a with mem := s.mem.writeBytes a (line.take 128), poison := unmark 16 a n s.poison }
    if s.monitors.any fun m => !m.loc.elsewhere && m.loc.meets m.n (.phys a 2) 128 then s.later [.l2MissFill a 0 false 0 512 0xFF { who := none, pts := 0 }] else s

/-- The monitor of a thread. -/
def State.monitorOf (s : State) (t : TRef) : Option Monitor := s.monitors.find? (·.t = t)

/-- R365, R366: what a thread waits for by a monitor fails. -/
def State.monitorFails (s : State) (m : Monitor) (info : TrapInfo) : State :=
  ({ s with monitors := s.monitors.filter (· ≠ m) } : State).faultWait m.t info
/-- R311, R365, R366, R418: the home reads again a word in host memory of type 3. The read may be refused, or its completion be poisoned, and it is not
answered without a link. -/
def State.pollWord (s : State) (t : TRef) (word : W64) : State :=
  match s.monitorOf t with
  | none => s
  | some m =>
    if !s.isPosted m.loc then s
    else if s.linkGone m.loc then s.monitorFails m (s.goneFault m.loc m.va)
    else if Config.loadRefused s.free then s.tick.monitorFails m (memFault 0x44 2 m.va)
    else if Config.answerMarked s.free then s.tick.monitorFails m (poisonFault m.loc m.va)
    else
      let s := s.tick
      let s := s.poke m.loc m.n word.toNat
      if s.satisfied m then s.release m 0 else s

/-- R84, R311: the wake of a fabric monitor returns with the word, which makes its condition true. -/
def State.fabricWake (s : State) (t : TRef) (word : W64) : State :=
  match s.monitorOf t with
  | none => s
  | some m =>
    if !s.isFabric m.loc || !condHolds m.fn.toNat m.signed (8 * m.n) word.toNat m.value.toNat then s
    else (({ s with monitors := s.monitors.filter (· ≠ m) } : State).writeDest t m.dest (8 * m.n) word.toNat).resume t

/-- A pending load or atomic of the thread whose answer comes by a port of a feature that `by'` admits. -/
def State.pendingLink (s : State) (t : TRef) (by' : Nat → Bool) : Option (Nat × LogEntry) :=
  ((numbers 0 4).filterMap fun k =>
    match ((s.thread t).map (·.log)).bind (·[k]?) with
    | some en => if en.busy && en.fault.isNone && en.opcode ≠ 0x51 && (en.link.map fun f => by' f.1).getD false then some (k, en) else none
    | none => none).head?

def State.faultEntry (s : State) (t : TRef) (k : Nat) (f : TrapInfo) : State :=
  s.modThread t fun th => th.modLog k fun en => { en with fault := some f, place := none }

/-- R376: an atomic that its host has not performed leaves what was there; one of type 2 that awaits its line has not been performed. -/
def State.undoAtom (s : State) (t : TRef) (en : LogEntry) : State :=
  let n := sizeBytes en.size
  let new := atomNew en.fn.toNat en.ty (8 * n) en.rnd en.value.toNat en.opb.toNat en.opc.toNat
  match (s.team t.team).map fun tm => s.locate (s.agentOf t tm) en.space en.ea n n true with
  | some (.ok (_, l)) => if en.opcode = 0x54 && en.place.isNone && !Config.hostPerformed s.free && s.peek l n = new % 2 ^ (8 * n) then s.tick.poke l n en.value.toNat else s.tick
  | _ => s.tick

/-- R366: an instruction without a log entry that awaits an answer by a port of a feature that `by'` admits: the effective address. One that waits for a
word of host memory awaits its next read (R311). -/
def State.answerDue (s : State) (t : TRef) (by' : Nat → Bool) : Option W64 :=
  match s.why t with
  | some (.answer fab host ea) => if (fab && by' 3) || (host && by' 0) then some ea else none
  | some (.ringSlot k) =>
    if !s.agenda.contains (.varResultReturn t 4) then none
    else
      (((s.ring t.team k).map (·.reqs)).getD []).findSome? fun q => match q with
        | .put u space ea =>
          match if u = t then (s.team t.team).map fun tm => s.locate (s.agentOf t tm) space ea 1 1 false else none with
          | some (.ok (_, l)) => if ((s.linkOf l).map fun f => by' f.1).getD false then some ea else none
          | _ => none
        | _ => none
  | some .monitor =>
    match s.monitorOf t with
    | some m => if s.isPosted m.loc && ((s.linkOf m.loc).map fun f => by' f.1).getD false then some (BitVec.ofNat 64 m.va) else none
    | none => none
  | _ => none

/-- R366, R376: the answer that a waiting instruction awaits does not come; one that comes later is discarded. -/
def State.answerFails (s : State) (t : TRef) (reason : Nat) (ea : W64) : State :=
  State.faultWait { s with agenda := s.agenda.filter (· ≠ .varResultReturn t 4), monitors := s.monitors.filter (·.t ≠ t) } t (memFault 0x47 reason ea.toNat)

/-- R365, R376: a late completion, or a late flush. -/
def State.hostLate (s : State) (t : TRef) (flush : Bool) : State :=
  if flush then
    match s.why t with
    | some (.fence _ sys) => if sys.isEmpty then s else s.faultWait t (memFault 0x47 1 0)
    | _ => s
  else
    let host (f : Nat) : Bool := f ≠ 3
    match s.answerDue t host, s.pendingLink t host with
    | some ea, _ => s.answerFails t 0 ea
    | none, some (k, en) => (s.undoAtom t en).faultEntry t k (memFault 0x47 0 en.ea.toNat)
    | none, none => s

/-! ## The fabric (R124, R314, R315, R365, R377) -/

/-- R365, R366, R377: no answer within 20 ms. -/
def State.fabricLate (s : State) (t : TRef) (marker : Bool) : State :=
  if marker then
    match s.why t with
    | some (.fence fab _) => if fab.isEmpty then s else (s.expireMarkers t fab).faultWait t (memFault 0x47 3 0)
    | _ => s
  else
    let fabric (f : Nat) : Bool := f = 3
    match s.answerDue t fabric, s.pendingLink t fabric with
    | some ea, _ => s.answerFails t 2 ea
    | none, some (k, en) => s.faultEntry t k (memFault 0x47 2 en.ea.toNat)
    | none, none => s

/-- R315: a store of a module, or a chunk of its relay (R317), has come here and is not performed yet. -/
def State.storesDue (s : State) (source : Nat) : Bool :=
  s.agenda.any fun i => match i with
    | .fabricStoreArrival m _ _ => m = source
    | .relayChunkArrival m _ _ _ => m = source
    | _ => false
/-- R315: a marker follows the stores that its switches have counted; it is answered once those that came here are performed. -/
def State.answerMarkers (s : State) : State :=
  { s with fabIn := s.fabIn.filter (fun x => s.storesDue x.1), fabAnswered := s.fabAnswered ++ (s.fabIn.filter fun x => !s.storesDue x.1).map (·.1) }

/-- R314: the module's own store that an arrival stands for is no longer outstanding. -/
def State.ownArrived (s : State) (pa : Nat) (bytes : List Byte) : State :=
  match s.ownStores.find? fun o => o.pa = pa && o.bytes = bytes with
  | some o => { s with ownStores := s.ownStores.filter (·.id ≠ o.id) }
  | none => s

/-- R124: a fabric store is an ordinary write once it is performed at its home. Without feature 3 no other module's arrives (R328). -/
def State.fabricArrival (s : State) (source pa : Nat) (bytes : List Byte) : State :=
  if source ≠ Config.moduleNumber && !s.present 3 then s
  else
    ((if source = Config.moduleNumber then s.ownArrived pa bytes else s).storeArrives pa bytes).answerMarkers
/-- R315: a marker arrives; without feature 3 (R328) none does. -/
def State.markerArrives (s : State) (source count : Nat) : State :=
  if s.present 3 then State.answerMarkers { s with fabIn := s.fabIn ++ [(source, BitVec.ofNat 32 count)] } else s

/-- R210, R311, R314: a request of another module is performed, or registered, at its home here. -/
def State.fabricRequest (s : State) (r : FabricRequest) : State :=
  if !s.present 3 then s
  else match r with
  | .load pa n =>
    if s.region pa ≠ .hbm then s
    else let x := s.loadHome none 0 pa n { who := some .host }; { x.1 with fabAnswer := BitVec.ofNat 128 x.2.1, answerMarked := s.physPoisoned pa n }
  | .atom pa n fn ty rnd b c =>
    if s.region pa ≠ .hbm then s
    else if s.physPoisoned pa n then { s with answerMarked := true }
    else
      let x := s.atomHere pa n fn.toNat ty rnd b.toNat c.toNat { who := some .host }
      { x.1 with fabAnswer := BitVec.ofNat 128 x.2, answerMarked := false }
  | .monitor source pa n fn signed value =>
    if s.region pa ≠ .hbm then s
    else
      let x := s.loadHome none 0 pa n { who := some .host }
      if condHolds fn.toNat signed (8 * n) x.2.1 value.toNat then { x.1 with fabOut := x.1.fabOut ++ [(source, BitVec.ofNat 64 x.2.1)] }
      else { x.1 with remote := x.1.remote ++ [{ source, pa, n, fn, signed, value }] }

/-- R305, R306, R314, R328: the ports of the features whose links may be lost: the host's (0, 1), the fabric's (3), Ethernet's (4). -/
def linkPorts (feature : Nat) : Nat := match feature with | 0 | 1 => 1 | 3 => 18 | 4 => 4 | _ => 0
/-- R418: such a port of an accepted feature loses its link. -/
def State.loseLink (s : State) (feature port : Nat) : State :=
  if s.feature feature && port < linkPorts feature && !s.lost.contains (feature, port) then
    State.toOperator { s with lost := s.lost ++ [(feature, port)] } 19 (feature % 128)
  else s

/-! ## Replay windows (R290, R402) -/

/-- R289, R402: the record of kind 14, at most once per 100 ms for each receiver; the walkers' queue has no number for it. -/
def State.tellRefusals (s : State) (i : Nat) : State :=
  match s.senders[i]? with
  | none => s
  | some k =>
    let told := SMap.get 0 s.toldRefusals k.receiver
    match k.window with
    | x :: _ =>
      if k.queue < 5 && 256 ≤ k.atMax && (told = 0 || told + 100000000 ≤ s.ns + 1) then
        let who := if k.coreid < 256 then k.coreid else 0xFF
        let s := s.record (s.sentAsid x.what) (firmwareEvent 14 (s.sentAsid x.what) (BitVec.ofNat 64 (k.receiver % 256 + k.queue % 8 * 2 ^ 8 + who * 2 ^ 16)))
        { s with toldRefusals := SMap.set 0 s.toldRefusals k.receiver (s.ns + 1) }
      else s
    | [] => s

/-- R402: each entry that has been refused for 1 ms. -/
def State.holdSender (s : State) (i : Nat) : State :=
  { s with senders := s.senders.modify i fun k => { k with window := k.window.map fun x => if x.since + 1000000 ≤ s.ns then { x with held := true } else x } }

/-! ## Event rings (R292, R404, R405) -/

/-- R292: the end of the microsecond. -/
def State.endHoldoff (s : State) (ring : Nat) : State :=
  if s.holdoff.contains ring && SMap.get 0 s.raised ring + 999 ≤ s.ns then
    { s with holdoff := s.holdoff.filter (· ≠ ring) }.sendVector ring
  else s

/-- R404: threads that wait in evsig for room in the context's ring, in order of team and tid. -/
def State.serveEvsig (s : State) (asid : Nat) : State :=
  s.refs.foldl (fun (s : State) t =>
    match s.why t, s.team t.team with
    | some (.evsig v), some tm =>
      if tm.asid s ≠ asid then s
      else match s.contextRing asid with
        | none => s
        | some ring => if s.ringFull ring then s else (((s.revokeTeam t.team).fwAfter (s.ptsOf t)).writeRecord ring (s.threadEvent t 1 v)).resume t
    | _, _ => s) s

/-- R405: first the number dropped, then the held records, then (R404) those that wait. -/
def State.flushRecords (s : State) (asid : Nat) : State :=
  match s.context asid with
  | none => s
  | some c =>
    let room := match s.contextRing asid with | some ring => !s.ringFull ring | none => false
    let s := if c.dropped ≠ 0 && room then
        match s.contextRing asid with
        | some ring => (s.writeRecord ring (firmwareEvent 15 asid (BitVec.ofNat 64 c.dropped))).modContext asid fun c => { c with dropped := 0 }
        | none => s
      else s
    let s := if c.dropped = 0 || room then
        let r := s.flushHeld c.held
        r.1.modContext asid fun c => { c with held := r.2 }
      else s
    s.serveEvsig asid

/-! ## The plumb unit (R403) -/

/-- R403: an edge: kind, ring and the awaited thread. -/
structure Edge where
  kind : Nat
  ring : Nat
  dst  : TRef
  deriving DecidableEq, Repr

/-- The threads of a team that `ok` admits. -/
def Team.refsWhere (tm : Team) (i : Nat) (ok : Thread → Bool) : List TRef :=
  (tm.alive.filter fun k => match tm.threads[k]? with | some th => ok th | none => false).map fun k => { team := i, tid := k }

/-- R403: the readers of a ring: the threads that hold one of its slots or wait for one. -/
def readerOf (ring : Nat) (th : Thread) : Bool :=
  th.holds.any (·.1 = ring) || (match th.why with | some (.rget r _) => r = ring | _ => false)

/-- R403: the threads with an outstanding engine operation on a monitor's word. -/
def State.wordOps (s : State) (m : Monitor) : List TRef :=
  (s.ops.filter fun o => match o.word with
    | some (space, ea) => o.asid = m.asid && (match s.team o.t.team with
      | some tm => match s.locate (s.agentOf o.t tm) space ea 8 8 true with
        | .ok (_, l) => l.meets 8 m.loc m.n
        | .error _ => false
      | none => false)
    | none => false).map (·.t)

/-- R403: rings whose copies, issued by the thread, await a free slot. -/
def State.copyRings (s : State) (t : TRef) (tm : Team) : List Nat :=
  (numbers 0 tm.rings.length).filter fun k => match tm.rings[k]? with
    | some r => r.reqs.any fun q => match q with
      | .copy op => s.ops.any fun o => o.id = op && o.t = t
      | _ => false
    | none => false

/-- R403, R409: the edges of a waiting thread. DEDUCED (log entry 54): a wait for an operation of its own is no edge. -/
def State.edgesOf (s : State) (t : TRef) : List Edge :=
  match s.team t.team, s.why t with
  | some tm, some w =>
    let own := match w with
      | .rget ring _ => (tm.refsWhere t.team fun th => th.owes.contains ring).map fun u => { kind := 0, ring, dst := u }
      | .ringSlot ring => (tm.refsWhere t.team (readerOf ring)).map fun u => { kind := 1, ring, dst := u }
      | .mtake => tm.mat.holder.toList.map fun k => { kind := 2, ring := 0, dst := { team := t.team, tid := k } }
      | .monitor => match s.monitorOf t with
        | some m => ((s.wordOps m).filter (· ≠ t)).map fun u => { kind := 3, ring := 0, dst := u }
        | none => []
      | _ => []
    own ++ (s.copyRings t tm).flatMap fun ring => (tm.refsWhere t.team (readerOf ring)).map fun u => { kind := 1, ring, dst := u }
  | _, _ => []

/-- R403: the thread waits on an open monitor. -/
def State.openMonitor (s : State) (t : TRef) : Bool :=
  match s.why t, s.monitorOf t with
  | some .monitor, some m => (s.wordOps m).isEmpty
  | _, _ => false

def refBelow (a b : TRef) : Bool := a.team < b.team || (a.team = b.team && a.tid < b.tid)

/-- R403: the cycles that begin at `start`, whose other threads come after it. Structural on the number of threads. -/
def State.cyclesFrom (s : State) (start : TRef) : Nat → List TRef → List (List TRef)
  | 0, _ => []
  | _, [] => []
  | n + 1, t :: path =>
    (s.edgesOf t).flatMap fun e =>
      if e.dst = start then [(t :: path).reverse]
      else if refBelow start e.dst && !(t :: path).contains e.dst then s.cyclesFrom start n (e.dst :: t :: path)
      else []

def State.waitCycles (s : State) : List (List TRef) :=
  (s.refs.filter fun t => (s.why t).isSome).flatMap fun t => s.cyclesFrom t (s.refs.length + 1) [t]

/-- R403: the records of one cycle. -/
def State.tellCycle (s : State) (l : List TRef) : State :=
  let certain := if l.any s.openMonitor then 0 else 1
  (numbers 0 l.length).foldl (fun (s : State) k =>
    match l[k]?, l[(k + 1) % l.length]? with
    | some t, some u =>
      match (s.edgesOf t).find? (·.dst = u), s.team t.team, s.team u.team with
      | some e, some tm, some tu =>
        s.record (tm.asid s) (s.threadEvent t 12
          (BitVec.ofNat 64 (e.kind + e.ring % 16 * 2 ^ 4 + l.length % 256 * 2 ^ 8 + k % 256 * 2 ^ 16 + certain * 2 ^ 24 + tu.tix % 2 ^ 32 * 2 ^ 32)))
      | _, _, _ => s
    | _, _ => s) s

/-- R403: a cycle's threads with the waits that they are in: a thread that has changed state is in another. -/
def State.cycleKey (s : State) (c : List TRef) : List (TRef × Nat × Nat) :=
  c.map fun t => (t, (((s.thread t).bind (·.wait)).map (·.group)).getD (0, 0))

/-- R403: a cycle that has held in two successive scans is reported once. -/
def State.scanWaits (s : State) : State :=
  let now := s.waitCycles.dedup
  let keys := now.map s.cycleKey
  let fresh := now.filter fun c => s.cycles.contains (s.cycleKey c) && !s.cyclesTold.contains (s.cycleKey c)
  fresh.foldl State.tellCycle { s with cycles := keys, cyclesTold := s.cyclesTold.filter keys.contains ++ fresh.map s.cycleKey }

/-! ## The events -/

/-- R317; nothing comes by the fabric without feature 3 (R328). -/
def execRelayChunkArrival (pred buffer chunk : Nat) (bytes : List Byte) (s : State) : Host.Outcome State Fault Refusal :=
  .next (if s.present 3 then (s.chunkArrives pred buffer chunk bytes).answerMarkers else s)
/-- R378. -/
def execRelayResend (queue : Nat) (chunk : Nat) (accepted : Bool) (s : State) : Host.Outcome State Fault Refusal := .next (s.reofferChunk queue chunk accepted)
/-- R378. -/
def execRelayChunkGiveUp (queue chunk : Nat) (s : State) : Host.Outcome State Fault Refusal := .next (s.giveUpChunk queue chunk)
/-- R402. -/
def execRefusalHoldTimeout (sender : Nat) (s : State) : Host.Outcome State Fault Refusal := .next (s.holdSender sender)
/-- R292. -/
def execVectorHoldoffExpiry (ring : Nat) (s : State) : Host.Outcome State Fault Refusal := .next (s.endHoldoff ring)
/-- R404, R405. -/
def execHeldRecordsFlush (asid : Nat) (s : State) : Host.Outcome State Fault Refusal := .next (s.flushRecords asid)
/-- R403. -/
def execPlumbScan (s : State) : Host.Outcome State Fault Refusal := .next s.scanWaits
/-- R309. -/
def execHostWrite (pa : Nat) (bytes : List Byte) (s : State) : Host.Outcome State Fault Refusal := .next (s.hostStore pa bytes)
/-- R309. -/
def execHostLoad (pa n : Nat) (s : State) : Host.Outcome State Fault Refusal := .next (s.hostRead pa n)
/-- R310, R311. -/
def execHostSnoop (pa : Nat) (takes : Bool) (line : List Byte) (s : State) : Host.Outcome State Fault Refusal := .next (s.snoop pa takes line)
/-- R311. -/
def execHostMonitorPoll (t : TRef) (word : W64) (s : State) : Host.Outcome State Fault Refusal := .next (s.pollWord t word)
/-- R376. -/
def execHostCompletionTimeout (t : TRef) (flush : Bool) (s : State) : Host.Outcome State Fault Refusal := .next (s.hostLate t flush)
/-- R124, R315. -/
def execFabricStoreArrival (source pa : Nat) (bytes : List Byte) (s : State) : Host.Outcome State Fault Refusal := .next (s.fabricArrival source pa bytes)
/-- R365, R377. -/
def execFabricTimeout (t : TRef) (marker : Bool) (s : State) : Host.Outcome State Fault Refusal := .next (s.fabricLate t marker)
/-- R418. -/
def execLinkLoss (port : Nat × Nat) (s : State) : Host.Outcome State Fault Refusal := .next (s.loseLink port.1 port.2)
/-- R111, R312. -/
def execServiceCoreAccess (hart pa n : Nat) (store : Option W64) (s : State) : Host.Outcome State Fault Refusal :=
  .next (s.serviceAccess hart pa n store)
/-- R211, R311, R314. -/
def execFabricRequestArrival (r : FabricRequest) (s : State) : Host.Outcome State Fault Refusal := .next (s.fabricRequest r)
/-- R315. -/
def execFenceMarkerArrival (source count : Nat) (s : State) : Host.Outcome State Fault Refusal :=
  .next (s.markerArrives source count)
/-- R311. -/
def execFabricMonitorWake (t : TRef) (word : W64) (s : State) : Host.Outcome State Fault Refusal := .next (s.fabricWake t word)

end Sys2Proof.Machine
end

