-- ==== Sys2Proof/Machine/Bays.lean ====
section
/-!
DEFINITION. Bays as events (R284, R318-R321, R413), the feature word (R328) and writes of device registers (R27).
-/
namespace Sys2Proof.Machine

/-- R413: pending MSI-X messages of the bay's vectors are dropped. -/
def State.dropVectors (s : State) (b : Nat) : State :=
  let v := bayVectors (s.bayWord b)
  let mine (n : Nat) : Bool := v.1 ≤ n && n < v.1 + v.2
  { s with msix := s.msix.filter (fun n => !mine n), svcMsi := s.svcMsi.filter (fun n => !mine n), holdoff := s.holdoff.filter fun r => !mine (s.ringDesc r).vector }

/-- R413: a reset of a bay whose rst reads 1: a forced reset of every context of the bay, all at once. -/
def State.resetBay (s : State) (b : Nat) : State :=
  if !(s.bayWord b).getLsbD 62 then s
  else
    let mine := (s.contexts.filter (·.bay = b)).map (·.asid)
    let s : State := { s.checkpointNow with bayResets := SMap.set 0 s.bayResets b mine.length }
    ((mine.foldl (fun (s : State) a => s.startReset a 1) s).dropVectors b).endBayReset b

/-- R284, R320: a new window: the counts begin afresh, and qos and hbmw as written take effect. -/
def State.newWindow (s : State) : State :=
  let s := s.qosNext.foldl (fun (s : State) x => Dev.store s (bayAddr x.1 0x20) (pick bayQos x.2 (s.bayWord x.1))) s
  { s with qosUse := [], qosNext := [] }

/-! ## The events -/

/-- R320. -/
def execBayEnable (bay : Nat) (s : State) : Host.Outcome State Fault Refusal := .next (s.enableBay bay)
/-- R320. -/
def execBayDisable (bay : Nat) (s : State) : Host.Outcome State Fault Refusal := .next (s.disableBay bay)
/-- R320, R413. -/
def execBayReset (bay : Nat) (s : State) : Host.Outcome State Fault Refusal := .next (s.resetBay bay)
/-- R319, R320. -/
def execBaySettingsWrite (bay offset : Nat) (v : W64) (s : State) : Host.Outcome State Fault Refusal :=
  .next (if bay < 64 then s.bayWrite bay offset v else s)
/-- R284, R320. -/
def execQosWindow (s : State) : Host.Outcome State Fault Refusal := .next s.newWindow
/-- R328. -/
def execFeatureAcceptWrite (v : W128) (s : State) : Host.Outcome State Fault Refusal := .next (s.acceptFeatures v)
/-- R27. -/
def execDeviceRegisterWrite (pa n : Nat) (v : W64) (s : State) : Host.Outcome State Fault Refusal :=
  .next (if s.region pa = .device then s.devWriteN pa n v.toNat else s)

end Sys2Proof.Machine
end

