-- ==== Sys2Proof/Machine/Causes.lean ====
section
/-!
DEFINITION. The causes of the instruction that a thread would next issue, its own checks included (R350, R366), and what compares them: the
trap that a faulted access makes due (R354) and the delivery of a signal (R64, R272).
-/
namespace Sys2Proof.Machine

/-! ## The checks of an instruction (R366) -/

/-- R366: the effect of an instruction that traps by a check of its own, of a code from 0x40 up. An ld, st or atom has none: its fault is
recorded in its log entry. -/
def checkedBody (op : Nat) (e : Ext) : Option (Ctx → State → Effect) :=
  match op with
  | 0x42 => some retBody
  | 0x45 => some jmpfBody
  | 0x46 => some cfetchBody
  | 0x4D => some waitcBody
  | 0x52 => some (tileBody true)
  | 0x53 => some (tileBody false)
  | 0x55 => some redBody
  | 0x57 => some rcloseBody
  | 0x58 => some fenceBody
  | 0x59 => some gcallBody
  | 0x5B => some hmsgBody
  | 0x5C => some rgetBody
  | 0x5D => some rputBody
  | 0x5E => some reosBody
  | 0x5F => some rjoinBody
  | 0x60 => some (fresBody false)
  | 0x61 => some tregBody
  | 0x62 => some tspawnBody
  | 0x63 => some (if e.x.getLsbD 3 then cpyRingBody else cpyBody)
  | 0x64 => some (gathScatBody true)
  | 0x65 => some (gathScatBody false)
  | 0x66 => some collBody
  | 0x67 => some waitoBody
  | 0x68 => some mwldBody
  | 0x6A => some mopBody
  | 0x6C => some mtakeBody
  | 0x6D => some mpassBody
  | 0x6E => some mrdBody
  | 0x6F => some xfwdBody
  | 0x70 => some xinvBody
  | 0x71 => some qbxBody
  | 0x72 => some dqbxBody
  | 0x73 => some thsetBody
  | 0x74 => some thgetBody
  | 0x7E => some sigretBody
  | _ => none

/-- R366: the cause that an instruction's own checks find, were it issued now; it has no effect by this. -/
def Ctx.checkCause (c : Ctx) (s : State) : Option TrapInfo :=
  match checkedBody c.op c.e with
  | none => none
  | some body => match body c s with
    | .trap info => some info
    | _ => none

/-- R350: the causes of one instruction, the lowest of them, and tepc; those that read operands only where they can be read. A disagreement
of targets (0x10) is a cause of an issue group, and a thread that traps alone is in none. -/
def State.causeAtIssue (s : State) (t : TRef) (tm : Team) (th : Thread) (op : Nat) (e : Ext) (ws : List W32) : Option (TrapInfo × W32) :=
  let th := { th with late := [] }
  let c : Ctx := { t, op, e, ws, tm, th, r := RegView.ofThread tm th, next := th.pc + BitVec.ofNat 32 (4 * ws.length) }
  let active := guardTrue e th.p
  let more := if !active || scoreboarded op e tm th (s.width tm) then []
    else if uniformOp op e && performedAlready tm th then []
    else c.barnCause.toList ++ c.overlayCause.toList ++ (if op = 0x75 then [c.softwareTrap] else []) ++ (c.checkCause s).toList
  (lowest (c.staticCauses s active ++ more)).map fun i => (i, if i.code = 0x20 then c.next else th.pc)

/-- R350: the cause, if any, of the instruction that the thread would next issue. -/
def State.nextCause (s : State) (t : TRef) : Option (TrapInfo × W32) :=
  match s.team t.team, s.thread t with
  | some tm, some th =>
    if th.wait.isSome then none
    else
      match s.fetch t with
      | .error f => some (f, th.pc)
      | .ok (_, bytes) =>
        match decode bytes with
        | .error _ => some (illegalInfo bytes, th.pc)
        | .ok (i, _) =>
          match i.view with
          | .base op b => s.causeAtIssue t tm th op (b.toExt op none) [baseWord 0 op b]
          | .words op w => s.causeAtIssue t tm th op (w.toExt op) (wordsOf op w)
          | .event => none
  | _, _ => none

/-- R354: a trap that a faulted access has made due is taken at an instruction boundary. -/
def State.takeDue (s : State) (t : TRef) : State :=
  match s.team t.team, s.thread t with
  | some tm, some th =>
    if tm.status ≠ .placed || !th.atBoundary || th.dueFaults.isEmpty then s
    else
      let s := s.drain t
      if tm.wave.isSome then s.raise t ((lowestCause th.dueFaults).getD { code := 0, aux := 0 }) th.pc
      else s.trapThread t (s.nextCause t) false
  | _, _ => s

/-! ## Delivery of signals (R64, R272) -/

/-- R272, R350: the cause of a delivery for which the lane slice has no room, or a lower one of the instruction to be issued next. -/
def State.deliveryCause (s : State) (t : TRef) (th : Thread) : TrapInfo × W32 :=
  match s.nextCause t with
  | some x => if x.1.code < 0x18 then x else (plainInfo 0x18 th.depth, th.resumeAddr)
  | none => (plainInfo 0x18 th.depth, th.resumeAddr)

/-- R272: deliver signal n to a thread. -/
def State.deliverSignal (s : State) (t : TRef) (tm : Team) (th : Thread) (n : Nat) : State :=
  if s.laneSize tm < 8 * (th.depth + 2) then s.trapThread t (some (s.deliveryCause t th)) false
  else
    let frame := th.resumeAddr.toNat + (th.sigmask.toNat % 65536) * 2 ^ 32 + th.p.toNat * 2 ^ 48 + n * 2 ^ 64
    let s := ((s.leavePool t).withdraw t).poke (.lane t (s.laneSize tm - 8 * (th.depth + 2))) 16 frame
    let s := s.modThread t fun th =>
      { th with depth := th.depth + 2, sigmask := 0, inSignal := true, pc := (s.launchOf tm).body.sentry, pts := max th.pts tm.sigPts }
    s.modTeam t.team fun tm => { tm with signals := tm.signals &&& ~~~ (1#16 <<< n) }

/-- R64: the lowest pending signal that some eligible thread at a boundary enables. -/
def State.deliverSignals (s : State) (i : Nat) : State :=
  match s.team i with
  | none => s
  | some tm =>
    if tm.status ≠ .placed || (s.launchOf tm).body.sentry = 0 || tm.wave.isSome then s
    else
      match ((numbers 0 16).filterMap fun n => if tm.signals.getLsbD n then (s.taker i tm n).map fun k => (n, k) else none).head? with
      | none => s
      | some (n, k) => match tm.threads[k]? with
        | some th => s.deliverSignal { team := i, tid := k } tm th n
        | none => s

/-! ## The events -/

/-- R264, R350, R354. -/
def execTrapEntry (t : TRef) (s : State) : Host.Outcome State Fault Refusal := .next (s.takeDue t)
/-- R64, R272. -/
def execSignalDelivery (team : Nat) (s : State) : Host.Outcome State Fault Refusal := .next (s.deliverSignals team)

end Sys2Proof.Machine
end

