-- ==== Sys2Proof/Machine/Life.lean ====
section
/-!
DEFINITION. Power, bring-up, module resets (R327, R414, R415, R417), retirement (R419), soft errors (R371-R373) and the code store's
refills (R360).
-/
namespace Sys2Proof.Machine

/-! ## Power and module resets (R327, R414, R415) -/

/-- R414: the blocks of the enabled bays over a reset: firmware knows them from the checkpoint store, and each such meter resumes. DEDUCED (log entry
118). A reset of the bay that was in progress is over. -/
def State.keptBays (s t : State) : State :=
  (0 :: enabledBays s).foldl (fun (t : State) b =>
    (numbers 0 5).foldl (fun (t : State) j =>
      let w := Dev.stored s (bayAddr b (8 * j))
      Dev.store t (bayAddr b (8 * j)) (if j = 4 then w &&& ~~~ bayRst else w)) t) t

/-- R324, R372, R414, R416, R419: what flash keeps, and what the module's memory and clock hold (log entry 3). -/
def State.keptIn (s t : State) : State :=
  s.keptBays { t with clk := s.clk, mem := s.mem, poison := s.poison, checkpoints := s.checkpoints, sidx := s.reserved, reserved := s.reserved, resets := s.resets,
                      sigGone := s.sigGone, enablings := s.enablings, retired := s.retired, fwfail := s.fwfail, warned := s.warned, sliceGone := s.sliceGone,
                      softReads := s.softReads, blocksGone := s.blocksGone, sensed := s.sensed, agenda := s.agenda, free := s.free }

/-- R414: the meters of the enabled bays and of those that have a checkpoint, at the start of a reset. -/
def State.resumedMeters (s : State) : SMap Meter :=
  (numbers 0 64).foldl (fun m b =>
    if s.bayEnabled b || s.checkpoints.any (·.bay = b) then SMap.set {} m b (s.resumeMeter b) else m) []

/-- R417: bits of the bring-up register that a failed part sets: kinds 0 stack, 1 link, 2 L2 slice, 3 flash channel (whose field
counts the channels marked failed). -/
def State.recordFailure (s : State) (kind index : Nat) : State :=
  let w := Dev.stored s Dev.bringUp
  Dev.store s Dev.bringUp (match kind with
    | 0 => w ||| (1#64 <<< (8 + index % 8))
    | 1 => w ||| (1#64 <<< (16 + index % 7))
    | 2 => pick 0xFF000004 (BitVec.ofNat 64 (4 + index % 256 * 2 ^ 24)) w
    | _ => pick 0xFF00000000 (BitVec.ofNat 64 (min 255 (w.toNat / 2 ^ 32 % 256 + 1) * 2 ^ 32)) w)

/-- R327, R414, R415, R419: a module reset; one with a failed slice keeps reduced service. -/
def State.resetModule (s : State) : State :=
  let t : State := { s.keptIn State.reset with resets := s.resets + 1, meters := s.resumedMeters }
  match s.sliceGone with
  | some k => State.recordFailure { t with phase := .reducedKept } 2 k
  | none => t

/-- R414: nothing runs until power returns. -/
def State.losePower (s : State) : State := { s.keptIn State.reset with phase := .off }

/-! ## Bring-up (R327, R417, R419) -/

/-- R327, R417: training ends: contexts are pre-empted and drained, and the module moves to full service. -/
def State.completeTraining (s : State) : State :=
  if s.phase ≠ .training then s
  else
    let s := s.contexts.foldl (fun (s : State) c => if c.state = .active then s.startDrain c.asid 0 else s) s
    if s.contexts.all (fun c => c.state = .preempted) then
      { s with phase := .full, slices := s.slices.filterMap fun (k, l) => if ({ l with frames := [] } : Slice) = {} then none else some (k, { l with frames := [] }) }
    else s.later [.trainingComplete]

/-- R417: the part keeps the module in reduced service; a vertical link whose die has no user core left does not. -/
def State.blocksService (s : State) (kind index : Nat) : Bool :=
  match kind with
  | 0 | 2 => true
  | 1 => !(index < 4 && (numbers 0 256).all fun c => dieOf c ≠ index || !isUserCore c || s.retired.getLsbD c)
  | _ => false

/-- R419: a slice has failed: later than in bring-up that forces a module reset. -/
def State.loseSlice (s : State) (index : Nat) : State :=
  let s : State := { s with sliceGone := some (s.sliceGone.getD index) }
  match s.phase with
  | .off => s
  | .full | .reducedKept => s.resetModule
  | .training => (State.recordFailure { s with phase := .reducedKept } 2 (s.sliceGone.getD index))

/-- R417, R419: a part fails training: tried three times, but for a slice; each part that fails is recorded, also where service stays reduced already. -/
def State.failTraining (s : State) (kind index : Nat) : State :=
  if kind = 2 then s.loseSlice index
  else if s.phase ≠ .training && s.phase ≠ .reducedKept then s
  else
    let key := kind * 256 + index
    let n := SMap.get 0 s.tries key + 1
    let s := { s with tries := SMap.set 0 s.tries key n }
    if n = 3 then
      let s := s.recordFailure kind index
      if s.blocksService kind index then { s with phase := .reducedKept } else s
    else s

/-! ## Retirement (R419) -/

/-- R61, R419: the core's resident teams are saved, and it holds no slice. -/
def State.emptyCore (s : State) (c : Nat) : State :=
  let s := ((s.residents c).map (·.1)).foldl (fun (s : State) i => match s.team i with | some tm => if tm.saving then s else s.beginSave i | none => s) s
  s.modCore c fun k => { k with holder := none }

/-- R419: reason 3 writes no record of kind 20. -/
def State.retireCore (s : State) (c reason : Nat) : State :=
  if !isUserCore c || s.retired.getLsbD c then s
  else
    let s := { s with retired := s.retired ||| (1#256 <<< c) }.emptyCore c
    if reason = 3 then s else s.toOperator 20 (c + reason % 4 * 2 ^ 8)

/-- R37, R419: why firmware may retire a core: its self-test at module reset, also at one that keeps reduced service, two errors within 24 h, no issue for 10 ms with a resident team that
is not waiting, or the failure of its die's firmware core. -/
def State.retires (s : State) (c reason : Nat) : Bool :=
  match reason with
  | 0 => s.phase = .training || (s.phase = .reducedKept && s.queues.isEmpty)
  | 1 => let e := (s.core c).errors; e.2 ≠ 0 && e.1 ≤ e.2 + 86400000000000
  | 2 => (s.core c).issued + 10000000 ≤ s.ns && (s.residents c).any fun x => x.2.1.since + 10000000 ≤ s.ns && x.2.1.alive.any fun k =>
      match s.thread { team := x.1, tid := k } with | some th => th.wait.isNone && !s.awaitsL2 { team := x.1, tid := k } | none => false
  | 3 => s.fwfail.getLsbD (dieOf c)
  | _ => false

/-- R419: an uncorrectable register-file or lane-store error of a core. -/
def State.coreError (s : State) (c : Nat) : State := s.modCore c fun k => { k with errors := (s.ns + 1, k.errors.1) }

/-- R419. -/
def State.failFirmware (s : State) (d : Nat) : State :=
  if 4 ≤ d || s.fwfail.getLsbD d then s
  else
    let s := { s with fwfail := s.fwfail ||| (1#4 <<< d), queues := s.queues.map fun (q : Queue) => if q.die = d then { q with halted := true, registered := false } else q }
    let s := (numbers (64 * d) 64).foldl (fun (s : State) c => s.retireCore c 3) s
    s.queues.foldl (fun (s : State) (q : Queue) =>
      if q.registered && q.ctl && q.die ≠ d then s.recordTo q.asid q.evring (firmwareEvent 22 q.asid (BitVec.ofNat 64 d)) else s) s

/-! ## Soft errors (R371-R373) -/

/-- R373: a corrected error, or an uncorrectable one, of the counter word at an offset. -/
def State.countSoft (s : State) (off : Nat) (fatal : Bool) : State := s.countError off fatal 1

/-- R419: an error that a firmware core cannot survive. -/
def State.firmwareError (s : State) (c : Nat) : State :=
  if c = firmwareCore (dieOf c) then s.failFirmware (dieOf c) else s

/-- R353, R371: a register that cannot be corrected ends its team. -/
def State.losesRegister (s : State) (t : TRef) : State :=
  match s.team t.team, s.thread t with
  | some tm, some th =>
    if tm.status = .retired then s
    else
      let info := memFault 0x46 0 0
      let c := s.coreOf tm t.tid
      let s := ((s.record (tm.asid s) (s.threadEvent t 4 (unhandledValue info false th.pc))).coreError c).firmwareError c
      if tm.wave.isSome then s.stopWave t.team t.tid (offsetOf th.pc) 0 else s.endTeam t.team
  | _, _ => s

/-- R371: the largest timestamp that the scratchpad of a core has issued, and of the chip scratchpads of a die. -/
def State.newestGranule (s : State) (c : Nat) : Nat :=
  let most (n : Nat) (m : SMap Nat) : Nat := m.foldl (fun n x => max n x.2) n
  s.teams.foldl (fun n (tm : Team) => if tm.status = .placed && tm.core = c then most n tm.gts else n) (most 0 (s.core c).gts)
def State.newestUnit (s : State) (die : Nat) : Nat :=
  s.launches.foldl (fun n (la : Launch) => (SMap.get {} la.dcopies die).gts.foldl (fun n x => max n x.2) n)
    (s.units.foldl (fun n x => if x.1 / 1024 = die then max n x.2 else n) 0)

/-- R371: the largest timestamp that a home has issued. -/
def State.newestAt (s : State) (slice : Nat) : Nat :=
  s.lines.foldl (fun m x => if s.homeOf (128 * x.1) = slice then max m (max x.2.1 x.2.2) else m) 0

/-- R371-R373. -/
def State.soften (s : State) (e : SoftError) : State :=
  match e with
  | .registerFile t fatal => let s := s.countSoft 0 fatal; if fatal then s.losesRegister t else s
  | .laneStore t off fatal =>
    let s := s.countSoft 0 fatal
    if fatal then (match s.team t.team with
      | some tm => ((s.mark (.lane t (off / 8 * 8)) 8).coreError (s.coreOf tm t.tid)).firmwareError (s.coreOf tm t.tid)
      | none => s)
    else s
  | .scratchpad i off fatal => let s := s.countSoft 8 fatal; if fatal then s.mark (.scr i (off / 8 * 8)) 8 else s
  | .chipScratchpad k d off fatal => let s := s.countSoft 8 fatal; if fatal then s.mark (.dscr k d (off / 8 * 8)) 8 else s
  | .atomicBuffer c p i fatal =>
    if fatal then s.modPart c p fun q => { q with reds := q.reds.modify i fun (r : Contribution) => { r with bad := true } } else s
  | .l1 c line => (s.dropL1 c (128 * line)).countError 0x10 false 1
  | .l2 pa fatal => let s := s.countSoft 0x10 fatal; if fatal then s.mark (.phys (pa / 16 * 16) 0) 16 else s
  | .l3 pa fatal => let s := s.countSoft 0x18 fatal; if fatal then s.mark (.phys (pa / 16 * 16) 0) 16 else s
  | .hbm pa fatal => let s := s.countSoft 0x20 fatal; if fatal then s.mark (.phys (pa / 16 * 16) 0) 16 else s
  | .lineTimestamp pa => let n := stamp (s.newestAt (s.homeOf pa) + 1); s.setLine pa (n, n)
  | .granuleTimestamp i g =>
    s.modTeam i fun tm => { tm with gts := SMap.set 0 tm.gts g (stamp (s.newestGranule tm.core + 1)) }
  | .unitTimestamp k d u =>
    s.modLaunch k fun la => { la with dcopies := SMap.modify {} la.dcopies d fun x => { x with gts := SMap.set 0 x.gts u (stamp (s.newestUnit d + 1)) } }
  | .codeStore _ _ => s.countError 0x28 false 1
  | .hodMemory k fatal =>
    if fatal then (match (s.slice k).hod with
      | some r => s.stopInvocation k r 6 r.pc.toNat
      | none => s)
    else s

/-! ## Refills of the code store (R360) -/

/-- R360: the owner's context, and the source of a slot. -/
def State.refillSource (s : State) (owner slot : Nat) : Nat × Nat × List Byte :=
  if slot = 0 then
    let la := (s.launches[owner]?).getD {}
    (la.asid, la.body.kernel, [])
  else match s.team owner with
    | some tm => (s.asidOf tm, (tm.overlay slot).source.toNat, (tm.overlay slot).bytes)
    | none => (0, 0, [])

/-- R349, R360: the block's bytes as its source holds them, and whether they may be executed; none where the source does not translate, or is not
executable. -/
def State.refillBytes (s : State) (core owner slot block : Nat) : Option (State × List Byte × Bool) :=
  let x := s.refillSource owner slot
  match s.translate core x.1 (x.2.1 + 64 * block) false (core ≠ firmwareCore (dieOf core)) with
  | .error _ => none
  | .ok (s, pa, type, _, ex) =>
    if !ex || type ≠ 0 then none
    else
      let s := s.reachL2 (.phys pa 0) false (s.line pa).1 { asid := x.1, va := x.2.1 + 64 * block, coreid := core, port := some core, who := some (.code core) }
      let bytes := s.mem.bytes pa 64
      some (s, bytes, !s.physPoisoned pa 64 && (slot = 0 || bytes = (x.2.2.drop (64 * block)).take 64))

/-- R361: the next instruction of a thread of the core may have bytes in the block. -/
def State.atBlock (s : State) (core owner slot block : Nat) : Bool :=
  s.refs.any fun t => match s.team t.team, s.thread t with
    | some tm, some th =>
      let off := offsetOf th.pc
      tm.status = .placed && tm.wave.isNone && !th.exited && s.coreOf tm t.tid = core && blockOwner t tm slot = owner && slotOf th.pc = slot
        && off / 64 ≤ block && block ≤ (off + 11) / 64
    | _, _ => false

/-- R349, R360, R361: a block that held an uncorrectable error is dropped and refilled once; it is marked bad when it is again uncorrectable, or its
source's bytes have changed or are poisoned, and where no thread is at it its issue fetches it again. A block whose source serves it no more is gone, and
its issue takes code 0x02. -/
def State.refill (s : State) (core owner slot block : Nat) (good : Bool) : State :=
  let here (b : CodeBlock) : Bool := b.owner = owner && b.slot = slot && b.block = block
  if !(s.core core).code.any here then s
  else
    match s.refillBytes core owner slot block with
    | none => (s.modCore core fun k => { k with code := k.code.filter (!here ·) }).firmwareError core
    | some r =>
      let ok := good && r.2.2
      let go (b : CodeBlock) : CodeBlock := if here b then { b with bytes := r.2.1, bad := !ok, ahead := !s.atBlock core owner slot block } else b
      let s := (r.1.modCore core fun k => { k with code := k.code.map go }).countError 0x28 false 1
      if ok then s else (s.countError 0x28 true 1).firmwareError core

/-! ## The events -/

/-- R327. -/
def execPowerOn (s : State) : Host.Outcome State Fault Refusal := .next (if s.phase = .off then s.resetModule else s)
/-- R327. -/
def execTrainingComplete (s : State) : Host.Outcome State Fault Refusal := .next s.completeTraining
/-- R417, R419. -/
def execTrainingFailed (kind index : Nat) (s : State) : Host.Outcome State Fault Refusal := .next (s.failTraining kind index)
/-- R414, R415. -/
def execModuleReset (s : State) : Host.Outcome State Fault Refusal := .next (if s.phase = .off then s else s.resetModule)
/-- R419. -/
def execCoreRetire (core reason : Nat) (s : State) : Host.Outcome State Fault Refusal :=
  .next (if s.retires core reason then s.retireCore core reason else s)
/-- R419. -/
def execFirmwareCoreFailed (die : Nat) (s : State) : Host.Outcome State Fault Refusal := .next (s.failFirmware die)
/-- R371-R373. -/
def execSoftError (e : SoftError) (s : State) : Host.Outcome State Fault Refusal := .next (s.soften e)
/-- R414. -/
def execPowerLoss (s : State) : Host.Outcome State Fault Refusal := .next s.losePower
/-- R360. -/
def execCodeStoreRefill (core owner slot block : Nat) (good : Bool) (s : State) : Host.Outcome State Fault Refusal :=
  .next (s.refill core owner slot block good)

end Sys2Proof.Machine
end

