-- ==== Sys2Proof/Machine/Riscv.lean ====
section
/-!
DEFINITION. RV64IMAC as a hod core runs it (R296): the 32-bit encodings, the 16-bit ones as what they stand for, and the arithmetic. PRESUMED
(log entry 93): the manual names the instruction set and gives none of it; this is its public definition.
-/
namespace Sys2Proof.Machine

/-- What an arithmetic instruction computes. -/
inductive RvAlu where
  | add | sub | sll | slt | sltu | xor | srl | sra | or | and
  | mul | mulh | mulhsu | mulhu | div | divu | rem | remu
  deriving DecidableEq, Repr

/-- What an atomic memory operation computes. -/
inductive RvAmo where
  | swap | add | xor | and | or | min | max | minu | maxu
  deriving DecidableEq, Repr

/-- An instruction. `n` is a number of bytes; `half` marks the 32-bit forms of the arithmetic (names ending in W). -/
inductive RvInstr where
  | lui (rd : Nat) (imm : W64)
  | auipc (rd : Nat) (imm : W64)
  | jal (rd : Nat) (off : W64)
  | jalr (rd rs : Nat) (off : W64)
  | branch (cond rs1 rs2 : Nat) (off : W64)
  | load (n : Nat) (signed : Bool) (rd rs : Nat) (off : W64)
  | store (n : Nat) (rs1 rs2 : Nat) (off : W64)
  | aluImm (f : RvAlu) (half : Bool) (rd rs : Nat) (imm : W64)
  | alu (f : RvAlu) (half : Bool) (rd rs1 rs2 : Nat)
  | fence
  | ecall
  /-- EBREAK, WFI or an access to a CSR -/
  | forbidden
  | lr (n rd rs : Nat)
  | sc (n rd rs1 rs2 : Nat)
  | amo (f : RvAmo) (n rd rs1 rs2 : Nat)
  | illegal
  deriving DecidableEq, Repr

/-! ## Fields -/

/-- Bits [hi:lo] of a word. -/
def rvBits (w hi lo : Nat) : Nat := w / 2 ^ lo % 2 ^ (hi + 1 - lo)
/-- The low `n` bits as a signed number. -/
def rvSext (n w : Nat) : W64 := BitVec.ofInt 64 (signedOf n w)

def rvImmI (w : Nat) : W64 := rvSext 12 (rvBits w 31 20)
def rvImmS (w : Nat) : W64 := rvSext 12 (rvBits w 31 25 * 32 + rvBits w 11 7)
def rvImmB (w : Nat) : W64 := rvSext 13 (rvBits w 31 31 * 4096 + rvBits w 7 7 * 2048 + rvBits w 30 25 * 32 + rvBits w 11 8 * 2)
def rvImmU (w : Nat) : W64 := rvSext 32 (rvBits w 31 12 * 4096)
def rvImmJ (w : Nat) : W64 := rvSext 21 (rvBits w 31 31 * 2 ^ 20 + rvBits w 19 12 * 4096 + rvBits w 20 20 * 2048 + rvBits w 30 21 * 2)

/-! ## 32-bit encodings -/

/-- OP-IMM and OP-IMM-32. -/
def rvOpImm (half : Bool) (w : Nat) : RvInstr :=
  let rd := rvBits w 11 7
  let rs := rvBits w 19 15
  let bits := if half then 5 else 6
  let high := rvBits w 31 (20 + bits)
  let shift (f : RvAlu) : RvInstr := .aluImm f half rd rs (BitVec.ofNat 64 (rvBits w (19 + bits) 20))
  match rvBits w 14 12 with
  | 0 => .aluImm .add half rd rs (rvImmI w)
  | 1 => if high = 0 then shift .sll else .illegal
  | 5 => if high = 0 then shift .srl else if high = (if half then 0x20 else 0x10) then shift .sra else .illegal
  | f =>
    if half then .illegal
    else match f with
      | 2 => .aluImm .slt half rd rs (rvImmI w)
      | 3 => .aluImm .sltu half rd rs (rvImmI w)
      | 4 => .aluImm .xor half rd rs (rvImmI w)
      | 6 => .aluImm .or half rd rs (rvImmI w)
      | _ => .aluImm .and half rd rs (rvImmI w)

/-- OP and OP-32. -/
def rvOp (half : Bool) (w : Nat) : RvInstr :=
  let f : Option RvAlu := match rvBits w 31 25, rvBits w 14 12 with
    | 0, 0 => some .add | 0, 1 => some .sll | 0, 5 => some .srl
    | 0, 2 => if half then none else some .slt
    | 0, 3 => if half then none else some .sltu
    | 0, 4 => if half then none else some .xor
    | 0, 6 => if half then none else some .or
    | 0, 7 => if half then none else some .and
    | 0x20, 0 => some .sub | 0x20, 5 => some .sra
    | 1, 0 => some .mul
    | 1, 1 => if half then none else some .mulh
    | 1, 2 => if half then none else some .mulhsu
    | 1, 3 => if half then none else some .mulhu
    | 1, 4 => some .div | 1, 5 => some .divu | 1, 6 => some .rem | 1, 7 => some .remu
    | _, _ => none
  match f with
  | some f => .alu f half (rvBits w 11 7) (rvBits w 19 15) (rvBits w 24 20)
  | none => .illegal

/-- SYSTEM: user mode has ECALL; EBREAK, WFI and the CSR instructions are what R298 forbids. -/
def rvSystem (w : Nat) : RvInstr :=
  let f := rvBits w 14 12
  if w = 0x73 then .ecall
  else if w = 0x00100073 ∨ w = 0x10500073 then .forbidden
  else if f ≠ 0 ∧ f ≠ 4 then .forbidden
  else .illegal

/-- AMO. -/
def rvAtomic (w : Nat) : RvInstr :=
  let n := if rvBits w 14 12 = 2 then 4 else 8
  let rd := rvBits w 11 7
  let rs1 := rvBits w 19 15
  let rs2 := rvBits w 24 20
  if rvBits w 14 12 ≠ 2 ∧ rvBits w 14 12 ≠ 3 then .illegal
  else match rvBits w 31 27 with
    | 2 => if rs2 = 0 then .lr n rd rs1 else .illegal
    | 3 => .sc n rd rs1 rs2
    | 1 => .amo .swap n rd rs1 rs2
    | 0 => .amo .add n rd rs1 rs2
    | 4 => .amo .xor n rd rs1 rs2
    | 12 => .amo .and n rd rs1 rs2
    | 8 => .amo .or n rd rs1 rs2
    | 16 => .amo .min n rd rs1 rs2
    | 20 => .amo .max n rd rs1 rs2
    | 24 => .amo .minu n rd rs1 rs2
    | 28 => .amo .maxu n rd rs1 rs2
    | _ => .illegal

/-- An encoding of 32 bits. -/
def rvWide (w : Nat) : RvInstr :=
  let rd := rvBits w 11 7
  let f := rvBits w 14 12
  let rs1 := rvBits w 19 15
  match w % 128 with
  | 0x37 => .lui rd (rvImmU w)
  | 0x17 => .auipc rd (rvImmU w)
  | 0x6F => .jal rd (rvImmJ w)
  | 0x67 => if f = 0 then .jalr rd rs1 (rvImmI w) else .illegal
  | 0x63 => if f = 2 ∨ f = 3 then .illegal else .branch f rs1 (rvBits w 24 20) (rvImmB w)
  | 0x03 => if f = 7 then .illegal else .load (2 ^ (f % 4)) (f < 4) rd rs1 (rvImmI w)
  | 0x23 => if 4 ≤ f then .illegal else .store (2 ^ f) rs1 (rvBits w 24 20) (rvImmS w)
  | 0x13 => rvOpImm false w
  | 0x1B => rvOpImm true w
  | 0x33 => rvOp false w
  | 0x3B => rvOp true w
  | 0x0F => if f ≤ 1 then .fence else .illegal
  | 0x73 => rvSystem w
  | 0x2F => rvAtomic w
  | _ => .illegal

/-! ## 16-bit encodings -/

/-- The registers x8 to x15 of the short fields. -/
def rvShort (w lo : Nat) : Nat := 8 + rvBits w (lo + 2) lo

/-- Quadrant 0. -/
def rvQuad0 (w : Nat) : RvInstr :=
  let word := rvBits w 5 5 * 64 + rvBits w 12 10 * 8 + rvBits w 6 6 * 4
  let double := rvBits w 6 5 * 64 + rvBits w 12 10 * 8
  match rvBits w 15 13 with
  | 0 =>
    let imm := rvBits w 10 7 * 64 + rvBits w 12 11 * 16 + rvBits w 5 5 * 8 + rvBits w 6 6 * 4
    if imm = 0 then .illegal else .aluImm .add false (rvShort w 2) 2 (BitVec.ofNat 64 imm)
  | 2 => .load 4 true (rvShort w 2) (rvShort w 7) (BitVec.ofNat 64 word)
  | 3 => .load 8 true (rvShort w 2) (rvShort w 7) (BitVec.ofNat 64 double)
  | 6 => .store 4 (rvShort w 7) (rvShort w 2) (BitVec.ofNat 64 word)
  | 7 => .store 8 (rvShort w 7) (rvShort w 2) (BitVec.ofNat 64 double)
  | _ => .illegal

/-- Quadrant 1, the arithmetic on short registers. -/
def rvShortAlu (w : Nat) : RvInstr :=
  let rd := rvShort w 7
  let sh := BitVec.ofNat 64 (rvBits w 12 12 * 32 + rvBits w 6 2)
  match rvBits w 11 10 with
  | 0 => .aluImm .srl false rd rd sh
  | 1 => .aluImm .sra false rd rd sh
  | 2 => .aluImm .and false rd rd (rvSext 6 (rvBits w 12 12 * 32 + rvBits w 6 2))
  | _ =>
    match rvBits w 12 12, rvBits w 6 5 with
    | 0, 0 => .alu .sub false rd rd (rvShort w 2)
    | 0, 1 => .alu .xor false rd rd (rvShort w 2)
    | 0, 2 => .alu .or false rd rd (rvShort w 2)
    | 0, _ => .alu .and false rd rd (rvShort w 2)
    | _, 0 => .alu .sub true rd rd (rvShort w 2)
    | _, 1 => .alu .add true rd rd (rvShort w 2)
    | _, _ => .illegal

/-- Quadrant 1. -/
def rvQuad1 (w : Nat) : RvInstr :=
  let rd := rvBits w 11 7
  let imm := rvSext 6 (rvBits w 12 12 * 32 + rvBits w 6 2)
  let off := rvSext 9 (rvBits w 12 12 * 256 + rvBits w 6 5 * 64 + rvBits w 2 2 * 32 + rvBits w 11 10 * 8 + rvBits w 4 3 * 2)
  match rvBits w 15 13 with
  | 0 => .aluImm .add false rd rd imm
  | 1 => if rd = 0 then .illegal else .aluImm .add true rd rd imm
  | 2 => .aluImm .add false rd 0 imm
  | 3 =>
    if imm = 0 then .illegal
    else if rd = 2 then
      .aluImm .add false 2 2 (rvSext 10 (rvBits w 12 12 * 512 + rvBits w 4 3 * 128 + rvBits w 5 5 * 64 + rvBits w 2 2 * 32 + rvBits w 6 6 * 16))
    else .lui rd (imm <<< 12)
  | 4 => rvShortAlu w
  | 5 =>
    .jal 0 (rvSext 12 (rvBits w 12 12 * 2048 + rvBits w 8 8 * 1024 + rvBits w 10 9 * 256 + rvBits w 6 6 * 128 + rvBits w 7 7 * 64 + rvBits w 2 2 * 32
      + rvBits w 11 11 * 16 + rvBits w 5 3 * 2))
  | 6 => .branch 0 (rvShort w 7) 0 off
  | _ => .branch 1 (rvShort w 7) 0 off

/-- Quadrant 2. -/
def rvQuad2 (w : Nat) : RvInstr :=
  let rd := rvBits w 11 7
  let rs2 := rvBits w 6 2
  match rvBits w 15 13 with
  | 0 => .aluImm .sll false rd rd (BitVec.ofNat 64 (rvBits w 12 12 * 32 + rs2))
  | 2 => if rd = 0 then .illegal else .load 4 true rd 2 (BitVec.ofNat 64 (rvBits w 3 2 * 64 + rvBits w 12 12 * 32 + rvBits w 6 4 * 4))
  | 3 => if rd = 0 then .illegal else .load 8 true rd 2 (BitVec.ofNat 64 (rvBits w 4 2 * 64 + rvBits w 12 12 * 32 + rvBits w 6 5 * 8))
  | 4 =>
    if rvBits w 12 12 = 0 then
      (if rs2 ≠ 0 then .alu .add false rd 0 rs2 else if rd = 0 then .illegal else .jalr 0 rd 0)
    else if rs2 ≠ 0 then .alu .add false rd rd rs2
    else if rd = 0 then .forbidden else .jalr 1 rd 0
  | 6 => .store 4 2 rs2 (BitVec.ofNat 64 (rvBits w 8 7 * 64 + rvBits w 12 9 * 4))
  | 7 => .store 8 2 rs2 (BitVec.ofNat 64 (rvBits w 9 7 * 64 + rvBits w 12 10 * 8))
  | _ => .illegal

/-- Bytes of the instruction whose first half word is given; the longer formats are not RV64IMAC's. -/
def rvLength (w : Nat) : Nat := if w % 4 = 3 then 4 else 2

/-- An instruction of either length. -/
def rvDecode (w : Nat) : RvInstr :=
  match w % 4 with
  | 0 => rvQuad0 w
  | 1 => rvQuad1 w
  | 2 => rvQuad2 w
  | _ => rvWide w

/-! ## Arithmetic -/

/-- The low 32 bits, sign-extended. -/
def rvHalf (x : W64) : W64 := (x.extractLsb' 0 32).signExtend 64

/-- Quotient and remainder of signed numbers, rounded towards 0; a division by 0 gives -1 and the dividend. -/
def rvDiv (x y : Int) : Int := if y = 0 then -1 else x.tdiv y
def rvRem (x y : Int) : Int := if y = 0 then x else x.tmod y

/-- The 64-bit form. -/
def rvCompute (f : RvAlu) (x y : W64) : W64 :=
  let sh := y.toNat % 64
  match f with
  | .add => x + y
  | .sub => x - y
  | .sll => x <<< sh
  | .slt => if x.toInt < y.toInt then 1 else 0
  | .sltu => if x.toNat < y.toNat then 1 else 0
  | .xor => x ^^^ y
  | .srl => x >>> sh
  | .sra => x.sshiftRight sh
  | .or => x ||| y
  | .and => x &&& y
  | .mul => x * y
  | .mulh => BitVec.ofInt 64 (x.toInt * y.toInt / 2 ^ 64)
  | .mulhsu => BitVec.ofInt 64 (x.toInt * (y.toNat : Int) / 2 ^ 64)
  | .mulhu => BitVec.ofNat 64 (x.toNat * y.toNat / 2 ^ 64)
  | .div => BitVec.ofInt 64 (rvDiv x.toInt y.toInt)
  | .divu => if y = 0 then BitVec.ofInt 64 (-1) else BitVec.ofNat 64 (x.toNat / y.toNat)
  | .rem => BitVec.ofInt 64 (rvRem x.toInt y.toInt)
  | .remu => if y = 0 then x else BitVec.ofNat 64 (x.toNat % y.toNat)

/-- The 32-bit form: of the low halves, with a sign-extended result. -/
def rvComputeHalf (f : RvAlu) (x y : W64) : W64 :=
  let sh := BitVec.ofNat 64 (y.toNat % 32)
  let low (a : W64) : W64 := (a.extractLsb' 0 32).zeroExtend 64
  rvHalf (match f with
    | .sll => x <<< (y.toNat % 32)
    | .srl => rvCompute .srl (low x) sh
    | .sra => rvCompute .sra (rvHalf x) sh
    | .divu | .remu => if y.extractLsb' 0 32 = 0#32 then (if f = .divu then BitVec.ofInt 64 (-1) else x) else rvCompute f (low x) (low y)
    | _ => rvCompute f (rvHalf x) (rvHalf y))

def rvCalc (half : Bool) (f : RvAlu) (x y : W64) : W64 := if half then rvComputeHalf f x y else rvCompute f x y

/-- The branch conditions. -/
def rvTaken (cond : Nat) (x y : W64) : Bool :=
  match cond with
  | 0 => x = y
  | 1 => x ≠ y
  | 4 => decide (x.toInt < y.toInt)
  | 5 => decide (y.toInt ≤ x.toInt)
  | 6 => decide (x.toNat < y.toNat)
  | _ => decide (y.toNat ≤ x.toNat)

/-- The value that an atomic memory operation of `n` bytes stores. -/
def rvAmoValue (f : RvAmo) (n old new : Nat) : Nat :=
  let a := old % 2 ^ (8 * n)
  let b := new % 2 ^ (8 * n)
  match f with
  | .swap => b
  | .add => (a + b) % 2 ^ (8 * n)
  | .xor => a ^^^ b
  | .and => a &&& b
  | .or => a ||| b
  | .min => if signedOf (8 * n) a ≤ signedOf (8 * n) b then a else b
  | .max => if signedOf (8 * n) a ≤ signedOf (8 * n) b then b else a
  | .minu => min a b
  | .maxu => max a b

end Sys2Proof.Machine
end

