-- ==== Sys2Proof/Machine/Hod.lean ====
section
/-!
DEFINITION. What a handler does (R296-R301): one instruction of its invocation, its address map, its accesses to its image, to .g and to the
slice port, and the invocations that go on in a cycle.
-/
namespace Sys2Proof.Machine

/-! ## The address map (R297, R298, R299) -/

/-- R297: what an address of a handler names. -/
inductive HodPlace where
  /-- a byte of local memory -/
  | image (at' : Nat)
  | port (off : Nat)
  /-- a .g address -/
  | global (va : Nat)
  deriving DecidableEq, Repr

/-- R296: the byte of local memory where the image of the invocation's ASID begins. -/
def State.imageBase (s : State) (k : Nat) (e : HodEvent) : Nat := 8192 + 1024 * ((s.programOn k e.asid).map (·.base)).getD 0

/-- R297: the place of an access of `n` bytes, or the reason of its handler fault (R397). DEDUCED (log entry 94): the registers of the port are
accessed as the 64-bit words that they are, and an access both outside the map and misaligned has reason 1. -/
def State.hodPlaceOf (s : State) (k : Nat) (e : HodEvent) (a n : Nat) : Except Nat HodPlace :=
  if a + n ≤ e.top then (if a % n = 0 then .ok (.image (s.imageBase k e + a)) else .error 2)
  else if 0x10000 ≤ a ∧ a + n ≤ 0x10020 then (if n ≠ 8 then .error 1 else if a % 8 = 0 then .ok (.port (a - 0x10000)) else .error 2)
  else if 2 ^ 63 ≤ a ∧ a + n ≤ 2 ^ 63 + 2 ^ 57 then (if a % n = 0 then .ok (.global (a - 2 ^ 63)) else .error 2)
  else .error 1

/-- The request of a handler for a line. -/
def hodReq (k : Nat) (e : HodEvent) (va : Nat) : Req := { asid := e.asid, va, coreid := hodCore k, port := some (hodPort k) }

/-- R298, R397: the place of a .g access in a type 0 page, unpoisoned where it is read, or reason 5. -/
def State.hodGlobal (s : State) (k : Nat) (e : HodEvent) (va n : Nat) (store load : Bool) : Except Nat (State × Nat) :=
  match s.handlerPlace k e.asid va n store with
  | .error _ => .error 5
  | .ok (s, pa) => if load && s.physPoisoned pa n then .error 5 else .ok (s, pa)

/-! ## Accesses (R296, R298, R299) -/

/-- R299: hod cycles used so far by an invocation, at 1.2 GHz. -/
def State.hodCycles (s : State) (r : HodRun) : Nat := (s.clk - r.started) / 2

/-- What a register of the slice port reads as. DESIGN CHOICE (log entry 94): the registers that the table lets be written only read 0. -/
def State.portRead (s : State) (r : HodRun) (off : Nat) : Nat := if off = 0x18 then s.hodCycles r else 0

/-- R296, R298: a load of a handler: the run and the value, or the reason of its fault. -/
def State.hodLoad (s : State) (k : Nat) (r : HodRun) (a n : Nat) : Except Nat (State × HodRun × Nat) :=
  match s.hodPlaceOf k r.event a n with
  | .error f => .error f
  | .ok (.image i) => .ok (s, r, (s.slice k).hodMem.read i n)
  | .ok (.port off) => .ok (s, r, s.portRead r off)
  | .ok (.global va) =>
    match s.hodGlobal k r.event va n false true with
    | .error f => .error f
    | .ok (s, pa) => let x := s.loadHome none r.pts pa n (hodReq k r.event va); .ok (x.1, { r with pts := x.2.2, quiet := 0 }, x.2.1)

/-- R296, R298: bytes of local memory. -/
def State.hodPoke (s : State) (k i n w : Nat) : State := s.modSlice k fun l => { l with hodMem := l.hodMem.write i n w }

/-- R299: the event of a write of the port. -/
def portEvent (k off : Nat) (v : W64) : List Instr :=
  match off with
  | 0x00 => [.slicePortPref k v]
  | 0x08 => [.slicePortKeep k v]
  | 0x10 => [.slicePortEvict k v]
  | _ => []

/-- R296, R298, R299: a store of a handler: the state, the run, or the reason of its fault. A write of the port is complete before the next
instruction. -/
def State.hodStore (s : State) (k : Nat) (r : HodRun) (a n w : Nat) : Except Nat (State × HodRun) :=
  match s.hodPlaceOf k r.event a n with
  | .error f => .error f
  | .ok (.image i) => .ok (s.hodPoke k i n w, r)
  | .ok (.port off) => if off = 0x18 then .ok (s, r) else .ok (s.later (portEvent k off (BitVec.ofNat 64 w)), { r with port := some (off, BitVec.ofNat 64 w) })
  | .ok (.global va) =>
    match s.hodGlobal k r.event va n true false with
    | .error f => .error f
    | .ok (s, pa) => let x := s.store none r.pts (.phys pa 0) n w (hodReq k r.event va); .ok (x.1, { r with pts := x.2, quiet := 0 })

/-- R298: a read and a write of one place as one step at the line's home, or in local memory: the old value. -/
def State.hodExchange (s : State) (k : Nat) (r : HodRun) (a n : Nat) (f : Nat → Nat) : Except Nat (State × HodRun × Nat) :=
  match s.hodPlaceOf k r.event a n with
  | .error f => .error f
  | .ok (.port _) => .error 1
  | .ok (.image i) => let old := (s.slice k).hodMem.read i n; .ok (s.hodPoke k i n (f old), r, old)
  | .ok (.global va) =>
    match s.hodGlobal k r.event va n true true with
    | .error f => .error f
    | .ok (s, pa) =>
      let old := s.mem.read pa n
      let x := s.store none r.pts (.phys pa 0) n (f old) (hodReq k r.event va)
      .ok (x.1, { r with pts := x.2, quiet := 0 }, old)

/-- R298: what LR reserves at a place, and SC compares: the place, its bytes and its line's wts. -/
def State.hodReservation (s : State) (k : Nat) (r : HodRun) (a n : Nat) : Except Nat (State × Bool × Nat × Nat × Nat) :=
  match s.hodPlaceOf k r.event a n with
  | .error f => .error f
  | .ok (.port _) => .error 1
  | .ok (.image i) => .ok (s, true, i, n, 0)
  | .ok (.global va) =>
    match s.hodGlobal k r.event va n false true with
    | .error f => .error f
    | .ok (s, pa) => .ok (s, false, pa, n, (s.line pa).1)

/-! ## One instruction -/

def HodRun.reg (r : HodRun) (x : Nat) : W64 := if x = 0 then 0 else SMap.get 0 r.regs x
def HodRun.set (r : HodRun) (x : Nat) (v : W64) : HodRun := if x = 0 then r else { r with regs := SMap.set 0 r.regs x v }
/-- A value of `n` bytes in a register. -/
def hodExtend (n : Nat) (signed : Bool) (w : Nat) : W64 := if signed then rvSext (8 * n) w else BitVec.ofNat 64 (w % 2 ^ (8 * n))

/-- The invocation goes on at `pc`. -/
def State.setHod (s : State) (k : Nat) (r : HodRun) : State := s.modSlice k fun l => { l with hod := some r }
/-- R397: the invocation has met a handler fault. -/
def State.hodFault (s : State) (k : Nat) (r : HodRun) (reason : Nat) : State :=
  (s.setHod k { r with fault := some reason }).later [.hodHandlerFault k reason r.pc.toNat]
/-- The instruction is over; or the reason of its fault. -/
def State.hodNext (s : State) (k : Nat) (r : HodRun) : Except Nat (State × HodRun) → State
  | .ok x => x.1.setHod k x.2
  | .error reason => s.hodFault k r reason

/-- R298, R301: an ECALL with a7 = 0 ends the invocation; any other is a handler fault. -/
def State.hodEcall (s : State) (k : Nat) (r : HodRun) : State :=
  if r.reg 17 = 0 then (s.setHod k { r with ended := true }).later [.hodInvocationEnd k r.event.asid r.event.kind] else s.hodFault k r 3

/-- R296, R298: SC stores where LR's reservation still stands: no write of the line has come since. DESIGN CHOICE (log entry 95): it never fails
for another reason. -/
def State.hodStoreConditional (s : State) (k : Nat) (r : HodRun) (a n rd w : Nat) : Except Nat (State × HodRun) :=
  match s.hodReservation k r a n with
  | .error f => .error f
  | .ok (s, place) =>
    if r.resv = some place then (s.hodStore k { r with resv := none } a n w).map fun x => (x.1, x.2.set rd 0)
    else .ok (s, { r with resv := none }.set rd 1)

/-- R296, R298: one instruction of `len` bytes. -/
def State.hodExec (s : State) (k : Nat) (r : HodRun) (len : Nat) (i : RvInstr) : State :=
  let next := r.pc + BitVec.ofNat 64 len
  let on (r : HodRun) : HodRun := { r with pc := next }
  match i with
  | .lui rd imm => s.setHod k (on (r.set rd imm))
  | .auipc rd imm => s.setHod k (on (r.set rd (r.pc + imm)))
  | .jal rd off => s.setHod k { r.set rd next with pc := r.pc + off }
  | .jalr rd rs off => s.setHod k { r.set rd next with pc := (r.reg rs + off) &&& ~~~ 1 }
  | .branch c x y off => s.setHod k { r with pc := if rvTaken c (r.reg x) (r.reg y) then r.pc + off else next }
  | .load n signed rd rs off =>
    s.hodNext k r ((s.hodLoad k r (r.reg rs + off).toNat n).map fun x => (x.1, on (x.2.1.set rd (hodExtend n signed x.2.2))))
  | .store n x y off => s.hodNext k r ((s.hodStore k r (r.reg x + off).toNat n (r.reg y).toNat).map fun x => (x.1, on x.2))
  | .aluImm f half rd rs imm => s.setHod k (on (r.set rd (rvCalc half f (r.reg rs) imm)))
  | .alu f half rd x y => s.setHod k (on (r.set rd (rvCalc half f (r.reg x) (r.reg y))))
  | .fence => s.setHod k (on r)
  | .ecall => s.hodEcall k r
  | .forbidden => s.hodFault k r 3
  | .lr n rd rs =>
    let a := (r.reg rs).toNat
    s.hodNext k r (match s.hodReservation k r a n with
      | .error f => .error f
      | .ok (_, place) => (s.hodLoad k r a n).map fun x => (x.1, on ({ x.2.1 with resv := some place }.set rd (hodExtend n true x.2.2))))
  | .sc n rd x y => s.hodNext k r ((s.hodStoreConditional k r (r.reg x).toNat n rd (r.reg y).toNat).map fun x => (x.1, on x.2))
  | .amo f n rd x y =>
    s.hodNext k r ((s.hodExchange k r (r.reg x).toNat n fun old => rvAmoValue f n old (r.reg y).toNat).map fun z => (z.1, on (z.2.1.set rd (hodExtend n true z.2.2))))
  | .illegal => s.hodFault k r 4

/-- R296, R297: the handler's next instruction, out of its image. DEDUCED (log entry 94): code is fetched from the image alone, where R297 puts
it. -/
def State.hodInstr (s : State) (k : Nat) : State :=
  match (s.slice k).hod with
  | none => s
  | some r =>
    if r.ended || r.fault.isSome || r.port.isSome || r.started + 8192 ≤ s.clk then s
    else
      let at' (n : Nat) : Nat := (s.slice k).hodMem.read (s.imageBase k r.event + r.pc.toNat) n
      let len := rvLength (at' 2)
      if r.event.top < r.pc.toNat + len then s.hodFault k r 1 else s.hodExec k r len (rvDecode (at' len))

/-- R299: the invocation has a prefetch to do. -/
def State.prefetching (s : State) (k : Nat) : Bool :=
  match (s.slice k).hod with
  | some r => match r.port with | some (off, _) => off = 0 | none => false
  | none => false

/-- R289, R290: the handler's next instruction, unless a request of it is refused, or its slice has no room for the events of its prefetch. -/
def State.hodStep (s : State) (k : Nat) : State :=
  match (s.slice k).hod with
  | none => s
  | some r =>
    if s.awaitsEntry (.hod k) then s
    else
      let s0 := if r.granted.isNone then s else (s.usePlace r.granted).setHod k { r with granted := none }
      let u := s0.hodInstr k
      match s0.refusedRequest u (.hod k) (hodPort k) r.granted with
      | some x => x.1
      | none => if u.prefetching k && !s.eventRoom k then s else u

/-! ## A cycle -/

/-- R296, R299: at most one instruction of each invocation in a cycle of its core; the manual says nothing of when one is done (log entry 94). -/
def State.stirHods (s : State) : State :=
  s.slices.foldl (fun (s : State) x => match x.2.hod with
    | some r => if (s.clk - r.started) % 2 = 0 then s else if Config.hodRetires s.free then s.tick.hodStep x.1 else s.tick
    | none => s) s

/-- R295: some slice may copy the program that is being installed, or none. -/
def State.stirCopy (s : State) : State :=
  match s.installing with
  | some i =>
    match i.left[Config.sliceCopies s.free % (i.left.length + 1)]? with
    | some k => s.tick.copySlice k
    | none => if i.left.isEmpty then s else s.tick
  | none => s

end Sys2Proof.Machine
end

