-- ==== Sys2Proof/Machine/Picker.lean ====
section
/-!
DEFINITION. One cycle of the module (R37-R43, R116, R141, R285): the pickers' issue groups, the ages of bins, the idle and residency
counts, the end of waits for results, the charges to slices, one element of an engine operation, one relaxed host store that may land, and the events whose
time has come (log entry 1).
-/
namespace Sys2Proof.Machine

/-! ## Readiness (R37, R142) -/

/-- R37, R54-R56, R354: a thread of a placed team that may issue once its stall count has passed. A team chosen to be saved stops, but for an
instruction whose request has been accepted (R290); a page team waits for its window, and a trap that is due comes first. -/
def State.canRun (s : State) (t : TRef) (tm : Team) (th : Thread) (counts : Bool) : Bool :=
  tm.status = .placed && (!tm.saving || th.granted.isSome) && !th.exited && th.wait.isNone && th.dueFaults.isEmpty && (s.holder t.team).isNone && !s.heldBack t tm th counts

/-- R37. -/
def State.ready (s : State) (t : TRef) : Bool :=
  match s.team t.team, s.thread t with
  | some tm, some th => th.stall = 0 && s.canRun t tm th false
  | _, _ => false

/-! ## Groups (R38, R39, R42) -/

/-- A candidate thread: its launch, its team's age, its PC. -/
structure Candidate where
  t      : TRef
  launch : Nat
  age    : Nat
  pc     : Nat
  deriving DecidableEq, Repr

/-- R39: ascending team age, then tid. -/
def Candidate.le (a b : Candidate) : Bool := keyLe [a.age, a.t.team, a.t.tid] [b.age, b.t.team, b.t.tid]

def State.candidate (s : State) (t : TRef) : Option Candidate :=
  match s.team t.team, s.thread t with
  | some tm, some th => some { t, launch := tm.launch, age := tm.age.getD 0, pc := th.pc.toNat }
  | _, _ => none

def lowestPc (l : List Candidate) : Option Nat :=
  l.foldl (fun (m : Option Nat) c => match m with | none => some c.pc | some p => some (min p c.pc)) none

/-- R39: the first W candidates at the lowest PC. -/
def lowGroup (w : Nat) (l : List Candidate) : List Candidate :=
  match lowestPc l with
  | none => []
  | some p => (l.filter (·.pc = p)).take w

/-- R39: groups A and B of the candidates of one launch, in order. -/
def issueGroups (w : Nat) (l : List Candidate) : List Candidate × List Candidate :=
  let a := lowGroup w l
  match lowestPc l with
  | none => ([], [])
  | some p =>
    let here := l.filter (·.pc = p)
    (a, if w < here.length then (here.drop w).take w else lowGroup w (l.filter fun c => p < c.pc))

/-- R42: group A is formed from the oldest bin that has reached age 64. -/
def agedGroups (w : Nat) (l : List Candidate) (b : Bin) : List Candidate × List Candidate :=
  let a := (l.filter fun c => b.members.contains c.t).take w
  (a, lowGroup w (l.filter fun c => !a.contains c))

def launchWidth (s : State) (k : Nat) : Nat := ((s.launches[k]?).getD {}).body.width

/-- R42: the bin is ripe, given the ready unbinned threads. -/
def State.ripe (s : State) (free : List Candidate) (b : Bin) : Bool :=
  launchWidth s b.launch ≤ b.members.length || 64 ≤ b.age || free.any fun c => c.launch = b.launch && c.pc = b.pc.toNat

/-- R38: the launch after the last one, in order of age. -/
def nextLaunch (last : Option Nat) (l : List Nat) : Option Nat :=
  let least (l : List Nat) : Option Nat := l.foldl (fun (m : Option Nat) k => match m with | none => some k | some j => some (min j k)) none
  match last with
  | none => least l
  | some j => match least (l.filter (j < ·)) with
    | some k => some k
    | none => least l

/-- The threads of a partition that have not exited. -/
def State.partThreads (s : State) (c p : Nat) : List TRef :=
  s.refs.filter fun t => match s.team t.team, s.thread t with
    | some tm, some th => tm.status = .placed && tm.wave.isNone && !th.exited && s.coreOf tm t.tid = c && s.partOf tm t.tid = p
    | _, _ => false

/-- R38-R42: the launch selected and the groups of one partition in this cycle. -/
def State.choose (s : State) (part : Part) (ts : List TRef) : Option (Nat × List Candidate × List Candidate) :=
  let all := (ts.filter s.ready).filterMap s.candidate
  let free := all.filter fun c => !part.binned c.t
  let ripe := part.bins.filter (s.ripe free)
  let l := sortBy Candidate.le (free ++ all.filter fun c => ripe.any fun b => b.members.contains c.t)
  match nextLaunch part.last (l.map (·.launch)) with
  | none => none
  | some k =>
    let mine := l.filter (·.launch = k)
    let w := launchWidth s k
    let aged := ripe.find? fun b => b.launch = k && 64 ≤ b.age && mine.any fun c => b.members.contains c.t
    some (k, match aged with | some b => agedGroups w mine b | none => issueGroups w mine)

/-- R39: cycles for which a group holds its slot. -/
def slotCycles (g : List Candidate) : Nat := if 32 < g.length then 2 else 0

/-- R38-R42: the groups of one partition; a slot that is still held takes none. The threads leave the pool. DESIGN CHOICE (log entry 71):
while slot 0 is held by a group of more than 32 threads, the group for slot 1 is the B that R39 forms behind the A that does not issue. -/
def State.formPart (s : State) (c p : Nat) : State :=
  let part := (s.core c).part p
  let ts := s.partThreads c p
  let x := s.choose part ts
  let a := match x with | some x => if part.busy0 = 0 then x.2.1 else [] | none => []
  let b := match x with | some x => if part.busy1 = 0 then x.2.2 else [] | none => []
  let taken := (a ++ b).map (·.t)
  let s := s.modPart c p fun q =>
    { q with last := (x.map (·.1)).orElse (fun _ => q.last), busy0 := if a.isEmpty then q.busy0 else slotCycles a, busy1 := if b.isEmpty then q.busy1 else slotCycles b }
  let s := taken.foldl State.leavePool s
  let s := if taken.isEmpty then s else s.modCore c fun k => { k with issued := s.ns }
  { s with groups := s.groups ++ ([a, b].map (fun g => g.map (·.t))).filter (!·.isEmpty) }

/-- R39, R303, R304: the ready lanes of a wave at the lowest PC issue together, for 2,048 cycles. -/
def State.formWave (s : State) (i : Nat) : State :=
  match s.team i with
  | none => s
  | some tm =>
    if tm.status ≠ .placed || (match tm.wave with | some w => decide (w.started + 2048 ≤ s.clk) | none => true) then s
    else
      let g := lowGroup 32 (((tm.alive.map fun k => ({ team := i, tid := k } : TRef)).filter s.ready).filterMap s.candidate)
      if g.isEmpty then s else { s with groups := s.groups ++ [g.map (·.t)] }

/-! ## What passes in a cycle (R41, R43, R56, R116, R141, R285) -/

/-- R41: the bins age. The age is counted to 64, past which nothing depends on it; the 64th cycle is BIN_AGE_RIPE, which comes before
anything else in that cycle (R42). -/
def State.tendPart (s : State) (c p : Nat) : State :=
  s.modPart c p fun q =>
    { q with bins := q.bins.map (fun (b : Bin) => if b.age < 63 then { b with age := b.age + 1 } else b), busy0 := q.busy0 - 1, busy1 := q.busy1 - 1 }

def Thread.passCycle (th : Thread) : Thread := if th.exited then th else { th with stall := th.stall - 1, quiet := th.quiet + 1, idle := th.idle + 1 }
/-- R43: the cycles since a thread's last issue pass while its team is saved, too. -/
def Thread.passSaved (th : Thread) : Thread := if th.exited then th else { th with idle := th.idle + 1 }
def Team.passCycle (tm : Team) : Team :=
  match tm.status with
  | .placed => { tm with threads := tm.threads.map Thread.passCycle }
  | .saved => { tm with threads := tm.threads.map Thread.passSaved }
  | _ => tm

/-- R116: a service core is resident always. -/
def State.passHarts (s : State) : SMap Hart := (numbers 0 32).foldl (fun m h => SMap.modify {} m h fun x => { x with quiet := x.quiet + 1 }) s.harts

def State.passCycle (s : State) : State :=
  { s with clk := s.clk + 1, harts := s.passHarts, ops := s.ops.map fun (o : EngOp) => { o with quiet := o.quiet + 1 },
           slices := s.slices.map fun x => (x.1, { x.2 with hod := x.2.hod.map fun r => { r with quiet := r.quiet + 1 } }), teams := s.teams.map Team.passCycle }

/-- R37, R40: a thread that awaited a result which the L1 had not returned, and awaits it no more, enters the pool. -/
def State.noteResult (s : State) (t : TRef) : State :=
  match s.team t.team, s.thread t with
  | some tm, some th =>
    if tm.status ≠ .placed || tm.wave.isSome || th.exited then s
    else
      let now := s.awaitsL2 t
      let s := if th.awaits = now then s else s.modThread t fun th => { th with awaits := now }
      if th.awaits && !now && th.wait.isNone then s.enterPool t else s
  | _, _ => s

/-- Partitions that hold threads, as 6 c + p. -/
def State.livePlaces (s : State) : List Nat :=
  s.refs.foldl (fun l t => match s.team t.team, s.thread t with
    | some tm, some th => if tm.status = .placed && tm.wave.isNone && !th.exited then addNat l (6 * s.coreOf tm t.tid + s.partOf tm t.tid) else l
    | _, _ => l) []

/-- R39: partitions that a group still holds a slot of, with threads or without, as 6 c + p. -/
def State.busyPlaces (s : State) : List Nat :=
  s.cores.flatMap fun x => x.2.parts.filterMap fun y => if y.2.busy0 = 0 && y.2.busy1 = 0 then none else some (6 * x.1 + y.1)

/-- R285: the cores charged to slices: launch, slice and core, for each core with a resident team that has not yielded and is not
being saved. -/
def State.charges (s : State) : List (Nat × Nat × Nat) :=
  (numbers 0 256).flatMap fun c =>
    ((s.residents c).filterMap fun x => if x.2.1.yielded || x.2.1.saving then none else some (x.2.1.launch, x.2.1.slice, c)).dedup

/-- R285: the slice's remaining budget falls by 1, and never below 0. -/
def State.chargeSlice (s : State) (k j : Nat) : State :=
  s.modLaunch k fun la =>
    if la.body.budget = 0 then la else { la with budgets := SMap.modify { left := la.body.budget } la.budgets j fun b => { b with left := b.left - 1 } }

/-- R322: the cores with a resident team of each bay, yielded or being saved as it may be. -/
def State.heldCores (s : State) : List (Nat × Nat) :=
  (numbers 0 256).flatMap fun c => ((s.residents c).map fun x => (c, s.launchBay x.2.1.launch)).dedup

/-- R322: the frames of slices and the pages of kilns that each bay holds in this cycle. -/
def State.noteHeld (s : State) : State :=
  let s := s.slices.foldl (fun (s : State) x => x.2.frames.foldl (fun (s : State) f => s.noteUse (heldFrames x.1) f.bay 1) s) s
  s.kilns.foldl (fun (s : State) x => x.2.held.foldl (fun (s : State) h =>
    s.noteUse (heldPages x.1) (((s.team h.team).map fun tm => s.bayOfAsid (tm.asid s)).getD 0) 1) s) s

/-- R284, R285, R322: the cores that teams of each bay hold, and the waves and invocations at work, in this cycle. -/
def State.chargeCycle (s : State) : State :=
  let l := s.charges
  let s := l.foldl (fun (s : State) x => s.chargeSlice x.1 x.2.1) s
  let used := (l.map fun x => (64 * dieOf x.2.2 + s.launchBay x.1, x.2.2)).dedup
  let s : State := { s with qosUse := used.foldl (fun m x => SMap.modify 0 m x.1 (· + 1)) s.qosUse }
  let s := s.heldCores.foldl (fun (s : State) x => s.noteUse x.1 x.2 1) s
  let s := s.noteHeld
  let s := s.teams.foldl (fun (s : State) (tm : Team) => match tm.wave with
    | some w => if tm.status = .placed then s.noteUse (srcUnits w.slice) (s.bayOfAsid w.asid) 1 else s
    | none => s) s
  s.slices.foldl (fun (s : State) x => match x.2.hod with | some r => s.noteUse (srcUnits x.1) (s.bayOfAsid r.event.asid) 1 | none => s) s

/-- R56: since when every thread of a unit waits. -/
def State.watchWaits (s : State) : State :=
  (numbers 0 s.teams.length).foldl (fun (s : State) i => match s.team i with
    | some tm =>
      if tm.status ≠ .placed || tm.wave.isSome || tm.saving then s
      else
        let w := if s.idleUnit i then some (tm.waitSince.getD s.ns) else none
        if w = tm.waitSince then s else s.modTeam i fun tm => { tm with waitSince := w }
    | none => s) s

/-- R112: one element of one engine operation, or none, as is open. -/
def State.stirOne (s : State) : State :=
  if s.ops.isEmpty then s
  else match s.ops[Config.nextElement s.free % (s.ops.length + 1)]? with
    | some o => s.tick.stirOp o.id
    | none => s.tick

/-- R125: a relaxed store may land at any time, in any order. -/
def State.landOne (s : State) : State :=
  if s.relaxed.isEmpty then s
  else
    let k := Config.nextElement s.free % (s.relaxed.length + 1)
    match s.relaxed[k]? with
    | some p => { s.tick with relaxed := s.relaxed.eraseIdx k }.landPosted p
    | none => s.tick

/-! ## Events whose time has come -/

/-- A moment of period `n` (ns) has passed in this cycle. -/
def State.passes (s : State) (n : Nat) : Bool := s.ns / n ≠ (s.clk - 1) * 5 / 12 / n

/-- R196, R116, R43, R354: what is due for a thread. -/
def State.threadDue (s : State) (t : TRef) : List Instr :=
  match s.team t.team, s.thread t with
  | some tm, some th =>
    if tm.status = .retired || th.exited then []
    else
      (match th.why with | some (.sleep d) => if d ≤ s.ns then [.sleepDeadline t] else [] | _ => [])
      ++ (if tm.status = .placed && th.atBoundary && !th.dueFaults.isEmpty then [.trapEntry t] else [])
      ++ (if tm.status = .placed && tm.wave.isNone && 256 ≤ th.quiet then [.ptsIdleTick (.thread t)] else [])
      ++ if tm.status = .placed && 64 ≤ th.idle && s.ready t && !((s.core (s.coreOf tm t.tid)).part (s.partOf tm t.tid)).binned t then [.parkThread t] else []
  | _, _ => []

/-- R54, R56, R64, R291, R304: what is due for a team. -/
def State.teamDue (s : State) (i : Nat) : List Instr :=
  match s.team i with
  | none => []
  | some tm =>
    if tm.status ≠ .placed then []
    else match tm.wave with
      | some w => (if w.started + 2048 ≤ s.clk then [.methodCycleLimit i] else [])
          ++ if tm.threads.any fun th => !th.exited && 256 ≤ th.quiet then [.ptsIdleTick (.wave i)] else []
      | none =>
        let q := (s.launchOf tm).body.quantumNs
        let past := tm.yielded || tm.since + q ≤ s.ns
        let drains := s.draining (tm.asid s) && !tm.saving
        (if past && (tm.expired.isNone || drains) then [.quantumExpiry i] else [])
        ++ (if !tm.saving && ((match tm.waitSince with | some w => decide (w + q ≤ s.ns) | none => false)
              || (drains && ((s.unit i).all (fun j => s.allWait j fun _ _ => true) || s.idemUnit i))) then [.allWaitingQuantum i] else [])
        ++ if tm.signals ≠ 0 && (numbers 0 16).any (fun n => tm.signals.getLsbD n && (s.taker i tm n).isSome) then [.signalDelivery i] else []

/-- R57, R283: a ready slice's next team. -/
def State.placementDue (s : State) : List Instr :=
  s.readySlices.filterMap fun x => (s.nextOf x.1 x.2).map fun i =>
    match s.team i with | some tm => if tm.status = .saved then .teamRestore i else .teamPlacement i | none => .teamPlacement i

/-- R280: the event of a packet's type. -/
def packetEvent (k type : Nat) : List Instr :=
  match type with
  | 1 => [.launchPacket k] | 2 => [.pageLaunchPacket k] | 3 => [.indirectLaunchPacket k] | 4 => [.loopPacket k] | 5 => [.conditionalPacket k]
  | 6 => [.waitValuePacket k] | 7 => [.writeValuePacket k] | 8 => [.signalPacket k] | 9 => [.fencePacket k] | 10 => [.relayPacket k]
  | 11 => [.gatePacket k] | 12 => [.preEmptPacket k] | 13 => [.resumePacket k] | 14 => [.grantPacket k] | 15 => [.resetPacket k]
  | _ => []

/-- R378: what is due for a relay. -/
def State.relayDue (s : State) (k : Nat) (r : Relay) : List Instr :=
  (if !r.last && r.landed.contains r.forwarded && s.passes 10000 then [.relayResend k r.forwarded (Config.chunkTaken s.free)] else [])
  ++ if r.stuck.2 + 1000000000 ≤ s.ns then [.relayChunkGiveUp k r.stuck.1] else []

/-- R128, R278, R280, R400: what is due for a queue. -/
def State.queueDue (s : State) (k : Nat) : List Instr :=
  match s.queues[k]? with
  | none => []
  | some q =>
    if !q.registered || s.fwfail.getLsbD q.die then []
    else
      (if q.wants && (q.rejected.isNone || (s.slotReason q).isNone) && s.slotNews q then [.packetFetch k] else [])
      ++ (match q.rejected with
          | some (since, told, _) => (if s.passes 10000 || s.header q ≠ q.seen then [.slotReread k] else []) ++ if !told && since + 100000000 ≤ s.ns then [.slotRejectTimeout k] else []
          | none => [])
      ++ (match q.ready with | p :: _ => if s.mayStart k q p then packetEvent k p.type else [] | [] => [])
      ++ (if ((q.watch.bind (·.met)).isSome) then [.waitValueSatisfied k] else [])
      ++ (match q.gates with
          | g :: _ => (if !g.zero && s.usersZero g then [.gateUsersZero k] else []) ++ if s.gateDone k q g then [.gateReopen k] else []
          | [] => [])
      ++ (q.relay.map (s.relayDue k)).getD []

/-- R291, R405, R411: what is due for a context. -/
def State.contextDue (s : State) (c : Context) : List Instr :=
  (match c.state with
   | .draining _ d => (if s.quietContext c.asid then [.drainComplete c.asid] else []) ++ if d ≤ s.ns then [.drainDeadline c.asid] else []
   | .resetting _ => if s.resetDone c.asid then [.forcedResetComplete c.asid] else []
   | _ => [])
  ++ if c.held.any (fun x => !s.ringFull x.1)
       || (match s.contextRing c.asid with
           | some ring => !s.ringFull ring && (c.dropped ≠ 0 || s.refs.any fun t => (match s.why t, s.team t.team with
              | some (.evsig _), some tm => tm.asid s = c.asid
              | _, _ => false))
           | none => false) then [.heldRecordsFlush c.asid] else []

/-- R290, R402: what is due for a sender. -/
def State.senderDue (s : State) (i : Nat) : List Instr :=
  match s.senders[i]? with
  | none => []
  | some k =>
    (if k.resend ≤ s.clk then (match k.window.find? s.sendable with | some x => [.replayBackoffExpiry i (s.accept x.what).isSome] | none => []) else [])
    ++ if k.window.any (fun x => !x.held && x.since + 1000000 ≤ s.ns) then [.refusalHoldTimeout i] else []

/-- R76, R238, R301, R397: what is due for a slice. -/
def State.sliceDue (s : State) (k : Nat) (l : Slice) : List Instr :=
  (match l.hod with
   | none => if l.hodq.isEmpty then [] else [.hodInvocationStart k]
   | some r => (if r.started + 8192 ≤ s.clk && !r.ended then [.hodCycleLimit k] else []) ++ if 256 ≤ r.quiet then [.ptsIdleTick (.hod k)] else [])
  ++ (if l.groutq.any (s.objectFree k) then [.groutWaveStart k] else [])
  ++ l.frames.flatMap fun f => (numbers 0 4).filterMap fun j =>
      if (f.strm &&& f.valid).getLsbD j && s.leasesOver (512 * f.sb + 128 * j) then some (.streamLineEvict (512 * f.sb + 128 * j)) else none

/-- R286, R399: the slices whose budget has run out. -/
def State.budgetDue (s : State) (k : Nat) : List Instr :=
  match s.launches[k]? with
  | none => []
  | some la => if la.complete || la.body.budget = 0 then []
    else la.budgets.filterMap fun x => if x.2.left = 0 && !x.2.exhausted && !x.2.cancelled then some (.budgetExhausted k x.1) else none

/-- R41, R42: a bin of a partition, by its launch and PC. -/
def Bin.key (b : Bin) : Nat := b.launch * 2 ^ 32 + b.pc.toNat

/-- R42: the bins that come to age 64. -/
def State.binsDue (s : State) (code : Nat) : List Instr :=
  (((s.core (code / 6)).part (code % 6)).bins.filter (·.age = 63)).map fun b => .binAgeRipe (code / 6) (code % 6) b.key

/-- R311: the monitors on type 3 host memory, whose words are read again each microsecond. -/
def State.pollsDue (s : State) : List Instr :=
  if s.passes 1000 then s.monitors.filterMap fun m => if s.isPosted m.loc then some (.hostMonitorPoll m.t (BitVec.ofNat 64 (s.peek m.loc m.n))) else none
  else []

/-- R81, R82, R221: the rings whose first request is a thread's that may now be served. -/
def State.ringsDue (s : State) : List Instr :=
  (numbers 0 s.teams.length).flatMap fun i => match s.team i with
    | some tm =>
      if tm.status ≠ .placed then []
      else (numbers 0 tm.rings.length).filterMap fun k => match tm.rings[k]? with
        | some r => match r.reqs with
          | .put t _ _ :: _ => if r.canReserve && !s.putHeld t then some (.ringReservation i k) else none
          | _ => none
        | none => none
    | none => []

/-- Log entry 1: the events whose time has come. -/
def State.due (s : State) : List Instr :=
  s.livePlaces.flatMap s.binsDue ++ s.refs.flatMap s.threadDue ++ (numbers 0 s.teams.length).flatMap s.teamDue ++ s.placementDue
    ++ (numbers 0 s.queues.length).flatMap s.queueDue ++ s.contexts.flatMap s.contextDue ++ (numbers 0 s.senders.length).flatMap s.senderDue
    ++ s.slices.flatMap (fun x => s.sliceDue x.1 x.2) ++ (numbers 0 s.launches.length).flatMap s.budgetDue
    ++ (s.kilns.filterMap fun x => match x.2.cur with | some c => if c.since + 200000000 ≤ s.ns then some (.pageMissingTimeout x.1) else none | none => none)
    ++ (s.holdoff.filterMap fun r => if SMap.get 0 s.raised r + 999 ≤ s.ns then some (.vectorHoldoffExpiry r) else none)
    ++ (s.ops.filterMap fun (o : EngOp) => if 256 ≤ o.quiet then some (.ptsIdleTick (.op o.id)) else none)
    ++ (s.ops.filterMap fun (o : EngOp) => if s.matchOver o then some (.collMatchTimeout o.id) else none) ++ s.ringsDue
    ++ (s.harts.filterMap fun x => if 256 ≤ x.2.quiet then some (.ptsIdleTick (.hart x.1)) else none)
    ++ s.pollsDue ++ if s.passes 1000000 then [.qosWindow, .plumbScan] else []

/-- Each joins the agenda once. -/
def State.raiseDue (s : State) : State := s.due.foldl (fun (s : State) i => if s.agenda.contains i then s else s.later [i]) s

/-- R322, R325, R326: what firmware measures and writes at its times; the figures are free values (log entry 31). -/
def State.stirMeters (s : State) : State :=
  if s.phase = .off then s
  else
    let s := if s.passes 1000000 then s.endWindow else s
    let s := if s.passes 100000000 then s.checkpointNow else s
    let w (j : Nat) : W64 := Config.wearWord s.free j
    if s.passes 600000000000 then s.tick.updateWear (w 0) (w 1) (w 2) else s

/-- R419: firmware retires the cores for which reason 1 or 2 stands. -/
def State.stirRetire (s : State) : State :=
  if !s.passes 1000000 then s
  else (numbers 0 256).foldl (fun (s : State) c => if s.retires c 1 then s.retireCore c 1 else if s.retires c 2 then s.retireCore c 2 else s) s

/-- R91: a cached translation may be dropped for room at any time, but for one that a wait stands on (R369). -/
def State.dropTlb (s : State) : State :=
  match s.tlb[Config.tlbDrops s.free % (s.tlb.length + 1)]? with
  | none => s.tick
  | some t =>
    if s.monitors.any fun m => m.asid = t.asid && m.va / 2 ^ t.bits = t.page then s.tick
    else { s.tick with tlb := s.tlb.eraseIdx (Config.tlbDrops s.free % (s.tlb.length + 1)) }

/-! ## Requests that are served, and waits that they end (R119, R289, R290, R301) -/

/-- R91, R289: slices serve requests of their queues, and walks of the dies end. -/
def State.serveQueues (s : State) : State :=
  let s := s.slices.foldl (fun (s : State) x => x.2.queued.foldl (fun (s : State) y =>
    s.modStanding x.1 y.1 (· - Config.served s.free x.1 y.1)) s) s
  (s.walks.foldl (fun (s : State) x => s.modStanding (walkersOf x.1) 0 (· - Config.walksEnd s.free x.1)) s).tick

/-- R119, R290: a thread is issued again whose lines have been filled, or for whose entry a window has room. -/
def State.tryAgain (s : State) (t : TRef) : State :=
  let again := s.resumeAt t (((s.thread t).map (·.pc)).getD 0)
  match s.why t with
  | some (.answer false false _) => if s.hodHolds (.thread t) then s else again
  | some (.room sender receiver queue) => if s.hasRoom sender receiver queue then again else s
  | _ => s

/-- R290, R312: service cores go on with accesses that waited. -/
def State.serveHarts (s : State) : State := s.harts.foldl (fun (s : State) x => if x.2.asked.isEmpty then s else s.serveHart x.1) s

/-- R64: signals are delivered before their threads issue. -/
def State.signalTeam (s : State) (i : Nat) : State :=
  match s.team i with
  | some tm => if tm.signals = 0 then s else (numbers 0 16).foldl (fun (s : State) _ => s.deliverSignals i) s
  | none => s

/-! ## Replay windows (R29, R290, R402) -/

/-- What is left of the issue groups. -/
def State.restOfGroups (s : State) : List (List TRef) :=
  match s.groups with
  | [] => []
  | g :: gs => g.drop s.pos :: gs

/-- R29, R290: an asker whose request has been accepted goes on with it before anything else is served: a thread is issued next, and an event of
firmware or of a core's code store is the next step (`agendaTurn`). -/
def State.goOn (s : State) : Asking → State
  | .thread t => match s.why t, s.thread t with
    | some (.ringSlot k), _ => s.serve t.team k
    | none, some th => if th.granted.isSome then { s with groups := [t] :: s.restOfGroups, pos := 0 } else s
    | _, _ => s
  | .op id => s.stirOp id
  | .hod k => s.hodStep k
  | .service h => s.serveHart h
  | .code _ => s

/-- R290: an entry leaves its window. -/
def State.dropEntry (s : State) (id : Nat) : State := { s with senders := s.senders.map fun k => { k with window := k.window.filter (·.id ≠ id) } }

/-- R29, R290: entries are sent again in order, until one is refused; each request that is accepted is performed before the next is sent. Whether the rest
waits for that. Structural on the list. -/
def State.resendAll (s : State) : List Entry → State × Bool
  | [] => (s, false)
  | x :: xs =>
    if s.sendable x then
      match s.accept x.what with
      | some t =>
        let s := (t.s.entryAccepted x.what.thread x.id t.fault).dropEntry x.id
        match x.what with
        | .request _ _ (.thread t) => (s.goOn (.thread t), true)
        | .request _ _ (.code c) => (s.goOn (.code c), true)
        | .request _ _ who => (s.goOn who).resendAll xs
        | _ => s.resendAll xs
      | none => (s, false)
    else s.resendAll xs

/-- R290, R402: the back-off is over and the window is sent again; `accepted` says whether its first entry is taken. -/
def State.replayWindow (s : State) (i : Nat) (accepted : Bool) : State :=
  match s.senders[i]? with
  | none => s
  | some k =>
    if s.clk < k.resend then s
    else match k.window.find? s.sendable with
      | none => s
      | some x =>
        if (s.accept x.what).isSome ≠ accepted then s
        else if accepted then
          let r := s.resendAll k.window
          let again (y : Sender) : Sender :=
            if y.coreid = k.coreid && y.receiver = k.receiver && y.queue = k.queue then { y with backoff := 32, resend := if r.2 then s.clk else s.clk + 32, atMax := 0 } else y
          { r.1 with senders := (r.1.senders.map again).filter (!·.window.isEmpty) }
        else
          let grown (k : Sender) : Sender :=
            { k with backoff := min (2 * k.backoff) 4096, resend := s.clk + min (2 * k.backoff) 4096, atMax := if k.backoff = 4096 then k.atMax + 1 else 0 }
          State.tellRefusals { s with senders := s.senders.modify i grown } i

/-! ## The cycle -/

/-- R37-R43, R285: the places of the partitions that pick in this cycle. -/
def State.pickPlaces (s : State) : List Nat := s.passCycle.livePlaces

/-- R37-R43, R285: one cycle up to the picking of its thread-groups. -/
def State.toPick (s : State) : State :=
  let places := s.pickPlaces
  let s := s.passCycle
  let s := (s.refs.foldl State.noteResult ((s.busyPlaces.foldl addNat places).foldl (fun (s : State) k => s.tendPart (k / 6) (k % 6)) s)).chargeCycle.watchWaits.serveQueues.serveHarts.stirOne.landOne.stirHods.stirCopy.dropTlb.stirRetire.raiseDue.stirMeters
  (numbers 0 s.teams.length).foldl State.signalTeam (s.refs.foldl State.tryAgain s)

/-- R37-R43, R285: one cycle. -/
def State.cycle (s : State) : State :=
  let s := s.pickPlaces.foldl (fun (s : State) k => s.formPart (k / 6) (k % 6)) s.toPick
  (numbers 0 s.teams.length).foldl State.formWave s

/-- R42: the bin of a key is ripe from now on. -/
def ripen (key : Nat) (b : Bin) : Bin := if b.key = key && b.age = 63 then { b with age := 64 } else b

/-- R43: a ready, unbinned thread that has not issued for 64 cycles is parked. -/
def State.park (s : State) (t : TRef) : State :=
  match s.team t.team, s.thread t with
  | some tm, some th =>
    if tm.wave.isNone && 64 ≤ th.idle && s.ready t && !((s.core (s.coreOf tm t.tid)).part (s.partOf tm t.tid)).binned t then
      s.enterPool t
    else s
  | _, _ => s

/-- R116: 256 cycles without an access. -/
def idlePts (pts quiet : Nat) : Nat × Nat := if 256 ≤ quiet then (stamp (pts + 1), quiet - 256) else (pts, quiet)
def Thread.idleTick (th : Thread) : Thread := { th with pts := (idlePts th.pts th.quiet).1, quiet := (idlePts th.pts th.quiet).2 }

/-- R115, R116: the pts of an agent that has made no access for 256 cycles of residency goes up by 1; the lanes of a wave are one agent. -/
def State.idleTick (s : State) (a : AgentId) : State :=
  match a with
  | .thread t =>
    match s.team t.team with
    | some tm => if tm.status = .placed && tm.wave.isNone then s.modThread t fun th => if th.exited then th else th.idleTick else s
    | none => s
  | .wave i => s.modTeam i fun tm => if tm.status = .placed && tm.wave.isSome then { tm with threads := tm.threads.map Thread.idleTick } else tm
  | .op k => { s with ops := s.ops.map fun (o : EngOp) => if o.id = k then { o with pts := (idlePts o.pts o.quiet).1, quiet := (idlePts o.pts o.quiet).2 } else o }
  | .hod k => s.modSlice k fun l =>
      { l with hod := l.hod.map fun r => { r with pts := (idlePts r.pts r.quiet).1, quiet := (idlePts r.pts r.quiet).2 } }
  | .hart h => { s with harts := SMap.modify {} s.harts h fun x => { x with pts := (idlePts x.pts x.quiet).1, quiet := (idlePts x.pts x.quiet).2 } }

/-! ## The events -/

/-- R37-R43, R285. -/
def execPickerCycle (s : State) : Host.Outcome State Fault Refusal := .next s.cycle
/-- R42. -/
def execBinAgeRipe (core part bin : Nat) (s : State) : Host.Outcome State Fault Refusal :=
  .next (s.modPart core part fun q => { q with bins := q.bins.map (ripen bin) })
/-- R43. -/
def execParkThread (t : TRef) (s : State) : Host.Outcome State Fault Refusal := .next (s.park t)
/-- R29, R290, R402. -/
def execReplayBackoffExpiry (sender : Nat) (accepted : Bool) (s : State) : Host.Outcome State Fault Refusal := .next (s.replayWindow sender accepted)
/-- R116. -/
def execPtsIdleTick (a : AgentId) (s : State) : Host.Outcome State Fault Refusal := .next (s.idleTick a)

end Sys2Proof.Machine
end

