-- ==== Sys2Proof/Machine/Dispatch.lean ====
section
/-!
DEFINITION. The meaning of every row of the opcode table, one call each.
-/
namespace Sys2Proof.Machine

def exec (i : Instr) (s : State) : Host.Outcome State Fault Refusal :=
  match i with
  | .addBase b => Sys2Proof.Machine.execAddBase b s
  | .add w => Sys2Proof.Machine.execAdd w s
  | .subBase b => Sys2Proof.Machine.execSubBase b s
  | .sub w => Sys2Proof.Machine.execSub w s
  | .mulBase b => Sys2Proof.Machine.execMulBase b s
  | .mul w => Sys2Proof.Machine.execMul w s
  | .mulh w => Sys2Proof.Machine.execMulh w s
  | .mad w => Sys2Proof.Machine.execMad w s
  | .div w => Sys2Proof.Machine.execDiv w s
  | .rem w => Sys2Proof.Machine.execRem w s
  | .andBase b => Sys2Proof.Machine.execAndBase b s
  | .and w => Sys2Proof.Machine.execAnd w s
  | .orBase b => Sys2Proof.Machine.execOrBase b s
  | .or w => Sys2Proof.Machine.execOr w s
  | .xorBase b => Sys2Proof.Machine.execXorBase b s
  | .xor w => Sys2Proof.Machine.execXor w s
  | .andnBase b => Sys2Proof.Machine.execAndnBase b s
  | .andn w => Sys2Proof.Machine.execAndn w s
  | .shlBase b => Sys2Proof.Machine.execShlBase b s
  | .shl w => Sys2Proof.Machine.execShl w s
  | .shrBase b => Sys2Proof.Machine.execShrBase b s
  | .shr w => Sys2Proof.Machine.execShr w s
  | .sarBase b => Sys2Proof.Machine.execSarBase b s
  | .sar w => Sys2Proof.Machine.execSar w s
  | .rot w => Sys2Proof.Machine.execRot w s
  | .popc w => Sys2Proof.Machine.execPopc w s
  | .clz w => Sys2Proof.Machine.execClz w s
  | .brev w => Sys2Proof.Machine.execBrev w s
  | .bfx w => Sys2Proof.Machine.execBfx w s
  | .bfi w => Sys2Proof.Machine.execBfi w s
  | .minBase b => Sys2Proof.Machine.execMinBase b s
  | .min w => Sys2Proof.Machine.execMin w s
  | .maxBase b => Sys2Proof.Machine.execMaxBase b s
  | .max w => Sys2Proof.Machine.execMax w s
  | .abs w => Sys2Proof.Machine.execAbs w s
  | .sel w => Sys2Proof.Machine.execSel w s
  | .cmp w => Sys2Proof.Machine.execCmp w s
  | .lea w => Sys2Proof.Machine.execLea w s
  | .movBase b => Sys2Proof.Machine.execMovBase b s
  | .mov w => Sys2Proof.Machine.execMov w s
  | .moviBase b => Sys2Proof.Machine.execMoviBase b s
  | .movi w => Sys2Proof.Machine.execMovi w s
  | .movs w => Sys2Proof.Machine.execMovs w s
  | .movt w => Sys2Proof.Machine.execMovt w s
  | .pand w => Sys2Proof.Machine.execPand w s
  | .por w => Sys2Proof.Machine.execPor w s
  | .pxor w => Sys2Proof.Machine.execPxor w s
  | .pnot w => Sys2Proof.Machine.execPnot w s
  | .ballot w => Sys2Proof.Machine.execBallot w s
  | .shfl w => Sys2Proof.Machine.execShfl w s
  | .cred w => Sys2Proof.Machine.execCred w s
  | .cscan w => Sys2Proof.Machine.execCscan w s
  | .cbar w => Sys2Proof.Machine.execCbar w s
  | .fpk w => Sys2Proof.Machine.execFpk w s
  | .faddBase b => Sys2Proof.Machine.execFaddBase b s
  | .fadd w => Sys2Proof.Machine.execFadd w s
  | .fsubBase b => Sys2Proof.Machine.execFsubBase b s
  | .fsub w => Sys2Proof.Machine.execFsub w s
  | .fmulBase b => Sys2Proof.Machine.execFmulBase b s
  | .fmul w => Sys2Proof.Machine.execFmul w s
  | .ffma w => Sys2Proof.Machine.execFfma w s
  | .ffma2 w => Sys2Proof.Machine.execFfma2 w s
  | .fminBase b => Sys2Proof.Machine.execFminBase b s
  | .fmin w => Sys2Proof.Machine.execFmin w s
  | .fmaxBase b => Sys2Proof.Machine.execFmaxBase b s
  | .fmax w => Sys2Proof.Machine.execFmax w s
  | .fcmp w => Sys2Proof.Machine.execFcmp w s
  | .frcp w => Sys2Proof.Machine.execFrcp w s
  | .frsq w => Sys2Proof.Machine.execFrsq w s
  | .fsqrt w => Sys2Proof.Machine.execFsqrt w s
  | .fex2 w => Sys2Proof.Machine.execFex2 w s
  | .flg2 w => Sys2Proof.Machine.execFlg2 w s
  | .ftanh w => Sys2Proof.Machine.execFtanh w s
  | .fcvt w => Sys2Proof.Machine.execFcvt w s
  | .fcla w => Sys2Proof.Machine.execFcla w s
  | .braBase b => Sys2Proof.Machine.execBraBase b s
  | .bra w => Sys2Proof.Machine.execBra w s
  | .callBase b => Sys2Proof.Machine.execCallBase b s
  | .call w => Sys2Proof.Machine.execCall w s
  | .retBase b => Sys2Proof.Machine.execRetBase b s
  | .ret w => Sys2Proof.Machine.execRet w s
  | .jmpi w => Sys2Proof.Machine.execJmpi w s
  | .calli w => Sys2Proof.Machine.execCalli w s
  | .jmpf w => Sys2Proof.Machine.execJmpf w s
  | .cfetch w => Sys2Proof.Machine.execCfetch w s
  | .cfetchLanded team slot => Sys2Proof.Machine.execCfetchLanded team slot s
  | .cfetchFailed team slot => Sys2Proof.Machine.execCfetchFailed team slot s
  | .exitBase b => Sys2Proof.Machine.execExitBase b s
  | .exit w => Sys2Proof.Machine.execExit w s
  | .nopBase b => Sys2Proof.Machine.execNopBase b s
  | .nop w => Sys2Proof.Machine.execNop w s
  | .yieldBase b => Sys2Proof.Machine.execYieldBase b s
  | .yield w => Sys2Proof.Machine.execYield w s
  | .barBase b => Sys2Proof.Machine.execBarBase b s
  | .bar w => Sys2Proof.Machine.execBar w s
  | .barn w => Sys2Proof.Machine.execBarn w s
  | .sleep w => Sys2Proof.Machine.execSleep w s
  | .sleepDeadline t => Sys2Proof.Machine.execSleepDeadline t s
  | .waitc w => Sys2Proof.Machine.execWaitc w s
  | .ldBase b => Sys2Proof.Machine.execLdBase b s
  | .ld w => Sys2Proof.Machine.execLd w s
  | .stBase b => Sys2Proof.Machine.execStBase b s
  | .st w => Sys2Proof.Machine.execSt w s
  | .ldt w => Sys2Proof.Machine.execLdt w s
  | .stt w => Sys2Proof.Machine.execStt w s
  | .atom w => Sys2Proof.Machine.execAtom w s
  | .red w => Sys2Proof.Machine.execRed w s
  | .rflush w => Sys2Proof.Machine.execRflush w s
  | .rclose w => Sys2Proof.Machine.execRclose w s
  | .regionCloseAtHome slice asid close => Sys2Proof.Machine.execRegionCloseAtHome slice asid close s
  | .fence w => Sys2Proof.Machine.execFence w s
  | .fenceMarkerAnswer marker lost => Sys2Proof.Machine.execFenceMarkerAnswer marker lost s
  | .fenceSysFlushComplete port => Sys2Proof.Machine.execFenceSysFlushComplete port s
  | .gcall w => Sys2Proof.Machine.execGcall w s
  | .gret w => Sys2Proof.Machine.execGret w s
  | .hmsg w => Sys2Proof.Machine.execHmsg w s
  | .rget w => Sys2Proof.Machine.execRget w s
  | .rput w => Sys2Proof.Machine.execRput w s
  | .ringReservation team ring => Sys2Proof.Machine.execRingReservation team ring s
  | .reos w => Sys2Proof.Machine.execReos w s
  | .rjoin w => Sys2Proof.Machine.execRjoin w s
  | .fres w => Sys2Proof.Machine.execFres w s
  | .fresPoison w => Sys2Proof.Machine.execFresPoison w s
  | .treg w => Sys2Proof.Machine.execTreg w s
  | .tspawn w => Sys2Proof.Machine.execTspawn w s
  | .taskLaunch asid rec => Sys2Proof.Machine.execTaskLaunch asid rec s
  | .cpy w => Sys2Proof.Machine.execCpy w s
  | .cpyRing w => Sys2Proof.Machine.execCpyRing w s
  | .gath w => Sys2Proof.Machine.execGath w s
  | .scat w => Sys2Proof.Machine.execScat w s
  | .coll w => Sys2Proof.Machine.execColl w s
  | .collMatchTimeout op => Sys2Proof.Machine.execCollMatchTimeout op s
  | .waito w => Sys2Proof.Machine.execWaito w s
  | .engineOpComplete op => Sys2Proof.Machine.execEngineOpComplete op s
  | .engineElementFault op => Sys2Proof.Machine.execEngineElementFault op s
  | .mwld w => Sys2Proof.Machine.execMwld w s
  | .mflip w => Sys2Proof.Machine.execMflip w s
  | .mop w => Sys2Proof.Machine.execMop w s
  | .mjoin w => Sys2Proof.Machine.execMjoin w s
  | .mtake w => Sys2Proof.Machine.execMtake w s
  | .mpass w => Sys2Proof.Machine.execMpass w s
  | .mrd w => Sys2Proof.Machine.execMrd w s
  | .xfwd w => Sys2Proof.Machine.execXfwd w s
  | .xinv w => Sys2Proof.Machine.execXinv w s
  | .qbx w => Sys2Proof.Machine.execQbx w s
  | .dqbx w => Sys2Proof.Machine.execDqbx w s
  | .thset w => Sys2Proof.Machine.execThset w s
  | .thget w => Sys2Proof.Machine.execThget w s
  | .trap w => Sys2Proof.Machine.execTrap w s
  | .tret w => Sys2Proof.Machine.execTret w s
  | .tlog w => Sys2Proof.Machine.execTlog w s
  | .tskip w => Sys2Proof.Machine.execTskip w s
  | .tskipValue w => Sys2Proof.Machine.execTskipValue w s
  | .csrr w => Sys2Proof.Machine.execCsrr w s
  | .csrw w => Sys2Proof.Machine.execCsrw w s
  | .evsig w => Sys2Proof.Machine.execEvsig w s
  | .time w => Sys2Proof.Machine.execTime w s
  | .sig w => Sys2Proof.Machine.execSig w s
  | .sigret w => Sys2Proof.Machine.execSigret w s
  | .cinval w => Sys2Proof.Machine.execCinval w s
  | .signalDelivery team => Sys2Proof.Machine.execSignalDelivery team s
  | .trapEntry t => Sys2Proof.Machine.execTrapEntry t s
  | .varResultReturn t entry => Sys2Proof.Machine.execVarResultReturn t entry s
  | .pickerCycle => Sys2Proof.Machine.execPickerCycle s
  | .binAgeRipe core part bin => Sys2Proof.Machine.execBinAgeRipe core part bin s
  | .parkThread t => Sys2Proof.Machine.execParkThread t s
  | .ptsIdleTick t => Sys2Proof.Machine.execPtsIdleTick t s
  | .teamPlacement team => Sys2Proof.Machine.execTeamPlacement team s
  | .allWaitingQuantum team => Sys2Proof.Machine.execAllWaitingQuantum team s
  | .quantumExpiry team => Sys2Proof.Machine.execQuantumExpiry team s
  | .teamSave team => Sys2Proof.Machine.execTeamSave team s
  | .teamRestore team => Sys2Proof.Machine.execTeamRestore team s
  | .teamRestart team => Sys2Proof.Machine.execTeamRestart team s
  | .teamRetire team => Sys2Proof.Machine.execTeamRetire team s
  | .launchComplete launch => Sys2Proof.Machine.execLaunchComplete launch s
  | .translationWalk core asid va store => Sys2Proof.Machine.execTranslationWalk core asid va store s
  | .l2MissFill pa va store hint asid coreid asker => Sys2Proof.Machine.execL2MissFill pa va store hint asid coreid asker s
  | .streamLineEvict pa => Sys2Proof.Machine.execStreamLineEvict pa s
  | .hodInvocationStart slice => Sys2Proof.Machine.execHodInvocationStart slice s
  | .hodInvocationEnd slice asid kind => Sys2Proof.Machine.execHodInvocationEnd slice asid kind s
  | .hodCycleLimit slice => Sys2Proof.Machine.execHodCycleLimit slice s
  | .hodHandlerFault slice reason pc => Sys2Proof.Machine.execHodHandlerFault slice reason pc s
  | .slicePortPref slice v => Sys2Proof.Machine.execSlicePortPref slice v s
  | .slicePortKeep slice v => Sys2Proof.Machine.execSlicePortKeep slice v s
  | .slicePortEvict slice v => Sys2Proof.Machine.execSlicePortEvict slice v s
  | .sliceProgramInstall => Sys2Proof.Machine.execSliceProgramInstall s
  | .sliceProgramCopied => Sys2Proof.Machine.execSliceProgramCopied s
  | .groutWaveStart slice => Sys2Proof.Machine.execGroutWaveStart slice s
  | .methodCycleLimit team => Sys2Proof.Machine.execMethodCycleLimit team s
  | .queueRegister die => Sys2Proof.Machine.execQueueRegister die s
  | .queueUnregister die => Sys2Proof.Machine.execQueueUnregister die s
  | .packetFetch queue => Sys2Proof.Machine.execPacketFetch queue s
  | .slotReread queue => Sys2Proof.Machine.execSlotReread queue s
  | .slotRejectTimeout queue => Sys2Proof.Machine.execSlotRejectTimeout queue s
  | .launchPacket queue => Sys2Proof.Machine.execLaunchPacket queue s
  | .pageLaunchPacket queue => Sys2Proof.Machine.execPageLaunchPacket queue s
  | .indirectLaunchPacket queue => Sys2Proof.Machine.execIndirectLaunchPacket queue s
  | .loopPacket queue => Sys2Proof.Machine.execLoopPacket queue s
  | .conditionalPacket queue => Sys2Proof.Machine.execConditionalPacket queue s
  | .waitValuePacket queue => Sys2Proof.Machine.execWaitValuePacket queue s
  | .waitValueSatisfied queue => Sys2Proof.Machine.execWaitValueSatisfied queue s
  | .writeValuePacket queue => Sys2Proof.Machine.execWriteValuePacket queue s
  | .signalPacket queue => Sys2Proof.Machine.execSignalPacket queue s
  | .fencePacket queue => Sys2Proof.Machine.execFencePacket queue s
  | .relayPacket queue => Sys2Proof.Machine.execRelayPacket queue s
  | .relayChunkArrival pred buffer chunk bytes => Sys2Proof.Machine.execRelayChunkArrival pred buffer chunk bytes s
  | .relayResend queue chunk accepted => Sys2Proof.Machine.execRelayResend queue chunk accepted s
  | .relayChunkGiveUp queue chunk => Sys2Proof.Machine.execRelayChunkGiveUp queue chunk s
  | .gatePacket queue => Sys2Proof.Machine.execGatePacket queue s
  | .gateUsersZero queue => Sys2Proof.Machine.execGateUsersZero queue s
  | .gateReopen queue => Sys2Proof.Machine.execGateReopen queue s
  | .preEmptPacket queue => Sys2Proof.Machine.execPreEmptPacket queue s
  | .drainComplete asid => Sys2Proof.Machine.execDrainComplete asid s
  | .drainDeadline asid => Sys2Proof.Machine.execDrainDeadline asid s
  | .resumePacket queue => Sys2Proof.Machine.execResumePacket queue s
  | .grantPacket queue => Sys2Proof.Machine.execGrantPacket queue s
  | .resetPacket queue => Sys2Proof.Machine.execResetPacket queue s
  | .forcedResetComplete asid => Sys2Proof.Machine.execForcedResetComplete asid s
  | .qosWindow => Sys2Proof.Machine.execQosWindow s
  | .budgetExhausted launch slice => Sys2Proof.Machine.execBudgetExhausted launch slice s
  | .kilnReadComplete chan read => Sys2Proof.Machine.execKilnReadComplete chan read s
  | .pageMissingTimeout chan => Sys2Proof.Machine.execPageMissingTimeout chan s
  | .windowFillComplete team => Sys2Proof.Machine.execWindowFillComplete team s
  | .replayBackoffExpiry sender accepted => Sys2Proof.Machine.execReplayBackoffExpiry sender accepted s
  | .refusalHoldTimeout sender => Sys2Proof.Machine.execRefusalHoldTimeout sender s
  | .vectorHoldoffExpiry ring => Sys2Proof.Machine.execVectorHoldoffExpiry ring s
  | .heldRecordsFlush asid => Sys2Proof.Machine.execHeldRecordsFlush asid s
  | .plumbScan => Sys2Proof.Machine.execPlumbScan s
  | .hostWrite pa bytes => Sys2Proof.Machine.execHostWrite pa bytes s
  | .hostLoad pa n => Sys2Proof.Machine.execHostLoad pa n s
  | .hostSnoop pa takes line => Sys2Proof.Machine.execHostSnoop pa takes line s
  | .hostMonitorPoll t word => Sys2Proof.Machine.execHostMonitorPoll t word s
  | .hostCompletionTimeout t flush => Sys2Proof.Machine.execHostCompletionTimeout t flush s
  | .fabricStoreArrival source pa bytes => Sys2Proof.Machine.execFabricStoreArrival source pa bytes s
  | .fabricTimeout t marker => Sys2Proof.Machine.execFabricTimeout t marker s
  | .linkLoss port => Sys2Proof.Machine.execLinkLoss port s
  | .bayEnable bay => Sys2Proof.Machine.execBayEnable bay s
  | .bayDisable bay => Sys2Proof.Machine.execBayDisable bay s
  | .bayReset bay => Sys2Proof.Machine.execBayReset bay s
  | .baySettingsWrite bay offset v => Sys2Proof.Machine.execBaySettingsWrite bay offset v s
  | .meterWindow sources => Sys2Proof.Machine.execMeterWindow sources s
  | .meterReadLive => Sys2Proof.Machine.execMeterReadLive s
  | .meterReadCheckpoint => Sys2Proof.Machine.execMeterReadCheckpoint s
  | .meterReadingSigned signature => Sys2Proof.Machine.execMeterReadingSigned signature s
  | .meterCheckpoint written => Sys2Proof.Machine.execMeterCheckpoint written s
  | .wearUpdate life pemax pemean age => Sys2Proof.Machine.execWearUpdate life pemax pemean age s
  | .featureAcceptWrite v => Sys2Proof.Machine.execFeatureAcceptWrite v s
  | .powerOn => Sys2Proof.Machine.execPowerOn s
  | .trainingComplete => Sys2Proof.Machine.execTrainingComplete s
  | .trainingFailed kind index => Sys2Proof.Machine.execTrainingFailed kind index s
  | .moduleReset => Sys2Proof.Machine.execModuleReset s
  | .coreRetire core reason => Sys2Proof.Machine.execCoreRetire core reason s
  | .firmwareCoreFailed die => Sys2Proof.Machine.execFirmwareCoreFailed die s
  | .deviceRegisterWrite pa n v => Sys2Proof.Machine.execDeviceRegisterWrite pa n v s
  | .softError e => Sys2Proof.Machine.execSoftError e s
  | .powerLoss => Sys2Proof.Machine.execPowerLoss s
  | .serviceCoreAccess hart pa n store => Sys2Proof.Machine.execServiceCoreAccess hart pa n store s
  | .fabricRequestArrival r => Sys2Proof.Machine.execFabricRequestArrival r s
  | .fenceMarkerArrival source count => Sys2Proof.Machine.execFenceMarkerArrival source count s
  | .fabricMonitorWake t word => Sys2Proof.Machine.execFabricMonitorWake t word s
  | .codeStoreRefill core owner slot block good => Sys2Proof.Machine.execCodeStoreRefill core owner slot block good s

end Sys2Proof.Machine
end

