-- ==== Sys2Proof/Machine/Turn.lean ====
section
/-!
DEFINITION. What the next step of the module is (log entry 1): the instruction of the next thread of the issue group being
issued, fetched and decoded (R39, R361, R362); or, when no group is being issued, one of the steps of the agenda or a cycle of
the pickers, chosen by a free value. And the state in which a given instruction is the next one fetched (log entry 4).
-/
namespace Sys2Proof.Machine

/-- A turn: the state after it, or an instruction or event to run in a state. -/
inductive Turn where
  | settled (s : State)
  | run (i : Instr) (s : State)

/-- A thread of a group that may still issue: since the group was formed its team may have left the core or ended, a trap may have
come due, or a result that its next instruction reads may have become pending. -/
def State.mayIssue (s : State) (t : TRef) : Bool :=
  match s.team t.team, s.thread t with
  | some tm, some th => s.canRun t tm th true
  | _, _ => false

/-- R265: an access that the operand log records: its answer is awaited by its entry. -/
def logsAccess (i : Instr) : Bool :=
  match i.view with
  | .base op _ | .words op _ => op = 0x50 || op = 0x51 || op = 0x54
  | .event => false

/-- R119, R289, R290, R301, R366: what the instruction `i`, fetched in `s'`, must wait for before it can be performed: what it would have done tells
its requests, and which of them is refused or not answered at once. An instruction that waits has had no effect, and is issued again. -/
def State.postponed (s : State) (t : TRef) (i : Instr) (s' : State) : Option (State × Wait) :=
  match s.team t.team, s.thread t, exec i s' with
  | some tm, some th, .next u =>
    if tm.wave.isSome then none
    else if logsAccess i then (s.takeTurn t).refusedRequest u (.thread t) (s.coreOf tm t.tid) th.granted
    else (s.takeTurn t).postponeThread u t (s.coreOf tm t.tid) th.granted th.answered
  | _, _, _ => none

/-- R301, R360: what the read of a block that is found bad has missed. -/
def State.badMisses (s : State) (t : TRef) (info : TrapInfo) : List Instr :=
  match s.team t.team with
  | some tm =>
    if info.code ≠ 1 then []
    else match s.readBlock t tm (info.aux.toNat / 2 ^ 28 % 16) (info.aux.toNat % 2 ^ 28 / 64) with
      | some x => s.freshMisses x.1 (.thread t)
      | none => []
  | none => []

/-- R301: the thread waits for the fill of lines of code that it has missed. -/
def State.awaitCode (s : State) (t : TRef) (l : List Instr) (pc : W32) : Turn := .settled ((s.later l).block t (.answer false false 0) pc).advance

/-- R301, R361, R362, R396: the instruction at a thread's PC, or its trap, or the stop of its wave, or a wait for its code. -/
def State.fetchTurn (s : State) (t : TRef) : Turn :=
  let pc := ((s.thread t).map (·.pc)).getD 0
  match s.methodStop t with
  | some s' => .settled s'.advance
  | none =>
    match (s.takeTurn t).fetch t with
    | .error info =>
      match (s.takeTurn t).badMisses t info with
      | [] => .settled ((((s.takeTurn t).keepBad t info).issued t).raise t info pc).advance
      | l => (s.takeTurn t).awaitCode t l pc
    | .ok (s', bytes) =>
      match (s.takeTurn t).freshMisses s' (.thread t) with
      | x :: l => (s.takeTurn t).awaitCode t (x :: l) pc
      | [] =>
        match decode bytes with
        | .error _ => .settled ((s'.issued t).raise t (illegalInfo bytes) pc).advance
        | .ok (i, _) => match s.postponed t i s' with
          | some x => .settled (x.1.block t x.2 pc).advance
          | none => .run i s'

/-- R42, R43, R54, R56, R64, R116, R284, R299, R301, R304, R311, R397: the steps that come in the cycle in which they are due. -/
def prompt : Instr → Bool
  | .binAgeRipe _ _ _ | .parkThread _ | .signalDelivery _ | .ptsIdleTick _ | .qosWindow | .hostMonitorPoll _ _
  | .quantumExpiry _ | .allWaitingQuantum _ | .teamPlacement _ | .teamRestore _ | .methodCycleLimit _
  | .slicePortPref _ _ | .slicePortKeep _ _ | .slicePortEvict _ _ | .hodInvocationEnd _ _ _ | .hodHandlerFault _ _ _ => true
  | _ => false

/-- R122: of the fabric stores on their way to one line here from one module, the first sent arrives first. -/
def State.inOrder (s : State) (k : Nat) : Nat :=
  match s.agenda[k]? with
  | some (.fabricStoreArrival src pa _) =>
    (s.agenda.findIdx? fun i => match i with | .fabricStoreArrival src' pa' _ => src' = src && pa' / 128 = pa / 128 | _ => false).getD k
  | _ => k

/-- R29, R301: the events that are firmware's work: those of command queues, contexts, kilns, records and programs. -/
def firmwareDuty : Instr → Bool
  | .packetFetch _ | .slotReread _ | .slotRejectTimeout _ | .queueRegister _ | .queueUnregister _ | .launchPacket _ | .pageLaunchPacket _
  | .indirectLaunchPacket _ | .loopPacket _ | .conditionalPacket _ | .waitValuePacket _ | .waitValueSatisfied _ | .writeValuePacket _ | .signalPacket _
  | .fencePacket _ | .relayPacket _ | .relayChunkArrival _ _ _ _ | .relayResend _ _ _ | .relayChunkGiveUp _ _ | .gatePacket _ | .gateUsersZero _
  | .gateReopen _ | .preEmptPacket _ | .drainComplete _ | .drainDeadline _ | .resumePacket _ | .grantPacket _ | .resetPacket _
  | .forcedResetComplete _ | .budgetExhausted _ _ | .kilnReadComplete _ _ | .pageMissingTimeout _ | .heldRecordsFlush _ | .launchComplete _
  | .sliceProgramInstall | .taskLaunch _ _ => true
  | _ => false

/-- R301: an access from outside the module. -/
def comesFromOutside : Instr → Bool
  | .hostWrite _ _ | .hostLoad _ _ | .fabricStoreArrival _ _ _ | .fabricRequestArrival _ => true
  | _ => false

/-- R301: whose requests an event makes. -/
def eventAsker (i : Instr) : Option Requester :=
  match i with
  | .codeStoreRefill core _ _ _ _ => some (.code core)
  | _ => if firmwareDuty i then some .firmware else if comesFromOutside i then some .host else none

/-- R289: the ports by which they come to a slice that may refuse them. -/
def eventPorts (i : Instr) : List Nat :=
  match i with
  | .codeStoreRefill core _ _ _ _ => [core]
  | _ => if firmwareDuty i then (numbers 0 4).map firmwareCore else []

/-- R290, R301: an earlier request of the event's asker has been refused, or awaits the fill of a line. -/
def State.eventHeld (s : State) (i : Instr) : Bool :=
  match eventAsker i with
  | some who => s.hodHolds who || (eventPorts i).any fun p => s.awaitsEntry (.code p)
  | none => false

/-- R29, R290: a request of the event has been accepted. -/
def State.eventGranted (s : State) (i : Instr) : Bool := (eventPorts i).any fun p => (s.core p).granted.isSome
/-- R290: the event uses the places of those that have been. -/
def State.usePlaces (s : State) (i : Instr) : State :=
  (eventPorts i).foldl (fun (s : State) p =>
    if (s.core p).granted.isNone then s else (s.usePlace (s.core p).granted).modCore p fun k => { k with granted := none }) s

/-- R29, R289, R290, R301: what an event must wait for before it is performed: its asker's earlier requests, a request of its own that is refused, or lines
that it has missed. It has had no effect, and stands in the agenda again: first, where a request of it has been refused. -/
def State.eventWaits (s : State) (k : Nat) (i : Instr) : Option State :=
  match eventAsker i with
  | none => none
  | some who =>
    if s.eventHeld i then some s
    else
      let s0 := { s with agenda := s.agenda.eraseIdx k }.usePlaces i
      match exec i s0 with
      | .next u =>
        match (eventPorts i).findSome? fun p => s0.refusedRequest u (.code p) p (s.core p).granted with
        | some x => some { x.1 with agenda := i :: x.1.agenda }
        | none => match s0.freshMisses u who with
          | [] => none
          | l => some ((s.usePlaces i).later l)
      | _ => none

/-- R29, R301: event k of the agenda, taken out of it, unless it waits. -/
def State.eventTurn (s : State) (k : Nat) (i : Instr) : Turn :=
  match s.eventWaits k i with
  | some s' => .settled s'
  | none => .run i ({ s with agenda := s.agenda.eraseIdx k }.usePlaces i)

/-- An event that comes before others: one whose request has been accepted (R29), or one that comes in its own cycle, unless it waits for a window. -/
def State.comesFirst (s : State) (i : Instr) : Bool :=
  (s.eventGranted i && !s.eventHeld i) || (prompt i && !(match i with | .slicePortPref k v => s.portWaits k v | _ => false))

/-- Log entry 1: the first step of the agenda that comes before others; else one of the agenda's steps, taken out of it, or a cycle
of the pickers. -/
def State.agendaTurn (s : State) : Turn :=
  match s.agenda.findIdx? s.comesFirst with
  | some k => s.eventTurn k (s.agenda.getD k .pickerCycle)
  | none =>
    let k := s.inOrder (Config.pickStep s.free % (s.agenda.length + 1))
    match s.agenda[k]? with
    | some i => s.tick.eventTurn k i
    | none => .run .pickerCycle s.tick

/-- The next turn of the module. -/
def State.turn (s : State) : Turn :=
  match s.current with
  | some t => if s.mayIssue t then s.fetchTurn t else .settled s.advance
  | none => match s.groups with
    | [] => s.agendaTurn
    | _ :: _ => .settled s.advance

/-! ## Placing an instruction (log entry 4) -/

/-- R281: the launch body of the thread that withFetchWord makes: W = 16, 1,536 registers, a 1 KiB lane slice, a 4 KiB
scratchpad, one accumulator tile, a code segment of 20 bytes. -/
def placedBody : LaunchBody := { regs := 191, lane := 3, scr := 1, acc := 1, seglen := 5 }

/-- The state with a launch of one team of one thread whose code, in the code store of core 0, begins with the given bytes, and
with that thread next to issue. -/
def State.withCode (s : State) (bytes : List Byte) : State :=
  let launch := s.launches.length
  let team := s.teams.length
  let c0 := s.core 0
  { s with
    launches := s.launches ++ [{ body := placedBody, teams := [team] }],
    teams := s.teams ++ [{ launch, tix := 0, status := .placed, threads := [{}], parts := [0], age := some 0 }],
    cores := SMap.set {} s.cores 0 { c0 with code := { owner := launch, slot := 0, block := 0, bytes := bytes ++ List.replicate (64 - bytes.length) 0, bad := false } :: c0.code },
    groups := [{ team, tid := 0 }] :: s.restOfGroups, pos := 0 }

end Sys2Proof.Machine
end

