-- ==== Sys2Proof/Machine/Step.lean ====
section
/-!
DEFINITION. One step of the module, and the state in which a given instruction is the next one fetched.
-/
namespace Sys2Proof.Machine

/-- One step: the next turn. -/
def step (s : State) : Host.Outcome State Fault Refusal :=
  match s.turn with
  | .settled s' => .next s'
  | .run i s' => exec i s'

/-- `s` with the instruction whose bits are `w` where the next step fetches (log entry 4). -/
def State.withFetchWord (s : State) (nbits w : Nat) : State := s.withCode (natBytes 20 (w % 2 ^ nbits))

end Sys2Proof.Machine
end

