-- ==== Sys2Proof/Safety.lean ====
section
/-!
DEFINITION. The terms in which claims are stated: what a safe run is, the invariant of plain data that every step keeps
(physical memory in its canonical form), when an instruction's own effect is due, and what a thread's registers hold.
-/
namespace Sys2Proof

/-- R129-R137: opcode, fields and words of an instruction row; none for an event row. -/
def Instr.parts (i : Instr) : Option (Nat × Ext × List W32) :=
  match i.view with
  | .base op b => some (op, b.toExt op none, [baseWord 0 op b])
  | .words op w => some (op, w.toExt op, Machine.wordsOf op w)
  | .event => none

namespace Machine

/-- The step answers a next state. -/
def State.safeStep (s : State) : Prop := ∃ t, step s = .next t

/-- Physical memory is in its canonical form. -/
def State.Inv (s : State) : Prop := Memory.wf s.mem = true

/-! ## When an instruction has its own effect -/

/-- The thread whose turn it is meets no cause of R349 at issue, its guard is true (R10), and, where the instruction is
team-uniform, the team has not performed this occurrence (R44): then the instruction's own effect is due. The answer is the
thread with the instruction and the registers as it reads them, and the state in which the effect starts. -/
def State.performs (s : State) (i : Instr) : Option (Ctx × State) :=
  match i.parts with
  | none => none
  | some (op, e, ws) =>
    match s.ctx op e ws with
    | none => none
    | some (c, s0) =>
      if guardTrue e c.r.p && (c.causes s0 true).isEmpty && !(uniformOp op e && performedAlready c.tm c.th) then some (c, s0) else none

/-! ## What a thread's registers hold -/

def State.vreg (s : State) (r : TRef) (k : Nat) : W32 := ((s.thread r).map fun th => SMap.get 0 th.v k).getD 0
def State.sreg (s : State) (i : Nat) (k : Nat) : W64 := ((s.team i).map fun tm => SMap.get 0 tm.s k).getD 0
def State.preg (s : State) (r : TRef) (k : Nat) : Bool := ((s.thread r).map fun th => th.p.getLsbD k).getD false

/-- R148: the destination holds the low `n` bits of `x`: a v register 32 of them, a pair 64, four 128; an s register up to 64 of
them, sign-extended from 32 for a signed type, and a pair of s registers 128. Code 2047 discards. -/
def State.holds (s : State) (r : TRef) (d : BitVec 11) (n : Nat) (signed : Bool) (x : Nat) : Prop :=
  match regOf d with
  | .v k => ∀ j, j < max 1 (n / 32) → s.vreg r (k + j) = BitVec.ofNat 32 (x % 2 ^ n / 2 ^ (32 * j))
  | .s k =>
      if n ≤ 32 ∧ signed then s.sreg r.team k = (BitVec.ofNat 32 x).signExtend 64
      else s.sreg r.team k = BitVec.ofNat 64 (x % 2 ^ n) ∧ (64 < n → s.sreg r.team (k + 1) = BitVec.ofNat 64 (x % 2 ^ n / 2 ^ 64))
  | _ => True

/-- R134: the predicate destination holds `b`; 2047 discards. -/
def State.holdsPred (s : State) (r : TRef) (d : BitVec 11) (b : Bool) : Prop :=
  match regOf d with
  | .p k => s.preg r k = b
  | _ => True

/-- The thread goes on at `pc`, and does not wait. -/
def State.runsAt (s : State) (r : TRef) (pc : W32) : Prop :=
  match s.thread r with
  | some th => th.pc = pc ∧ th.wait = none ∧ th.exited = false
  | none => False

/-- The thread goes on after the instruction. -/
def State.goesOn (s : State) (c : Ctx) : Prop := (s.thread c.t).map (·.pc) = some c.next

/-- The thread waits for `w`, and will go on at `next`. -/
def Thread.waitsFor (th : Thread) (w : Wait) (next : W32) : Prop := th.wait.map (fun x => (x.why, x.next)) = some (w, next)

/-- The thread that a reference names waits for `w`, and will go on at `next`. -/
def State.waitsFor (s : State) (r : TRef) (w : Wait) (next : W32) : Prop :=
  ((s.thread r).bind (·.wait)).map (fun x => (x.why, x.next)) = some (w, next)

/-- R123, R269, R270, R273: no port has carried a store by the fabric since its last marker, no marker to be answered follows a store of the thread
or of an operation that it has joined, and no flush of a host port is open. -/
def State.storesDone (s : State) (r : TRef) : Prop :=
  s.fabSince = [] ∧ (∀ m ∈ s.markers, ∀ w ∈ m.who, s.covers r w = false) ∧ s.relaxed = []
    ∧ (∀ u fab sys, s.why u ≠ some (.fence fab sys)) ∧ ∀ la ∈ s.launches, la.closing = none

/-! ## What an instruction leaves alone -/

/-- A thread but for the last target of an indirect transfer that was noted for it, with those of its issue group (R357). -/
def Thread.untargeted (th : Thread) : Thread := { th with target := none }

/-- Everything of the state but what issuing an instruction always changes and the registers of the issuing thread and of its
team: the issuing thread's pc, stall count, idle count, late results and occurrence counts (R44, R141), the threads' last targets (R357), the team's
occurrence counts and pending s registers, the groups being issued, and the model's counter of free values. -/
def State.rest (s : State) (r : TRef) : State :=
  { ({ s with teams := s.teams.map fun tm => { tm with threads := tm.threads.map Thread.untargeted } } : State).modTeam r.team (fun tm =>
      { tm with s := [], uni := [], sPending := [], threads := tm.threads.modify r.tid fun th =>
          { th with v := [], p := 0, pc := 0, stall := 0, idle := 0, late := [], occ := [] } }) with
    groups := [], pos := 0, free := 0 }

/-- The registers of the thread and of its team, but for the listed codes (R134), read as before; and so do all the others. -/
def State.sameBut (s t : State) (r : TRef) (codes : List Nat) : Prop :=
  t.rest r = s.rest r
    ∧ (∀ k, k ∉ codes → t.vreg r k = s.vreg r k)
    ∧ (∀ k, 1536 + k ∉ codes → t.sreg r.team k = s.sreg r.team k)
    ∧ (∀ k, k < 16 → 1600 + k ∉ codes → t.preg r k = s.preg r k)

end Machine

end Sys2Proof
end

