-- ==== Sys2Proof/Certificates/Slice0/Obligations.lean ====
section
/-!
DEFINITION. The statements for the provers, each a proposition about the machine of ZZ-960 as R1 to R419 describe it. In a
statement about an instruction's own effect `State.performs` says that no cause of R349 is met at issue, that the guard is true
(R10) and that the team has not performed the occurrence of a team-uniform instruction (R44).
-/
open Sys2Proof Sys2Proof.Machine

/-! ## Integer instructions -/

namespace Sys2Proof.Claims

/-- R154: n is 64 for the 64-bit types and 32 for the others. -/
def width (e : Ext) : Nat := if e.ty = 6 ∨ e.ty = 10 then 64 else 32
/-- R154: signed when T is i32 or i64. -/
def isSigned (e : Ext) : Bool := e.ty = 5 || e.ty = 6
/-- R154: an operand read as an integer. -/
def int (e : Ext) (w : Nat) : Int := if isSigned e then (BitVec.ofNat (width e) w).toInt else ((BitVec.ofNat (width e) w).toNat : Int)
/-- R154: sat_T clamps to the range of T. -/
def clamp (e : Ext) (x : Int) : Int :=
  if isSigned e then max (-(2 ^ (width e - 1))) (min x (2 ^ (width e - 1) - 1)) else max 0 (min x (2 ^ width e - 1))

/-- R154: the exact integer of each integer instruction, from n and the operands A, B and C. -/
def intRow : Instr → Option (Nat → Int → Int → Int → Int)
  | .addBase _ | .add _ => some fun _ a b _ => a + b
  | .subBase _ | .sub _ => some fun _ a b _ => a - b
  | .mulBase _ | .mul _ => some fun _ a b _ => a * b
  | .mad _ => some fun _ a b c => a * b + c
  | .abs _ => some fun _ a _ _ => |a|
  | .mulh _ => some fun n a b _ => a * b / 2 ^ n
  | .minBase _ | .min _ => some fun _ a b _ => min a b
  | .maxBase _ | .max _ => some fun _ a b _ => max a b
  | _ => none

/-- R136: only mad has a C operand among the integer instructions. -/
def usesC : Instr → Bool
  | .mad _ => true
  | _ => false

/-- R157: each logic, shift and counting instruction on n-bit operands. -/
def logicRow : Instr → Option ((n : Nat) → BitVec n → BitVec n → BitVec n)
  | .andBase _ | .and _ => some fun _ a b => a &&& b
  | .orBase _ | .or _ => some fun _ a b => a ||| b
  | .xorBase _ | .xor _ => some fun _ a b => a ^^^ b
  | .andnBase _ | .andn _ => some fun _ a b => a &&& ~~~b
  | .shlBase _ | .shl _ => some fun n a b => a <<< (b.toNat % n)
  | .shrBase _ | .shr _ => some fun n a b => a >>> (b.toNat % n)
  | .sarBase _ | .sar _ => some fun n a b => a.sshiftRight (b.toNat % n)
  | .rot _ => some fun n a b => a.rotateLeft (b.toNat % n)
  | .popc _ => some fun _ a _ => a.cpop
  | .clz _ => some fun _ a _ => a.clz
  | .brev _ => some fun _ a _ => a.reverse
  | _ => none

end Sys2Proof.Claims

open Sys2Proof.Claims

/-- R154: add, sub, mul, mad, abs, mulh, min and max complete: the destination holds the exact integer, clamped under .sat and
modulo 2^n otherwise, and the thread goes on at the next instruction. -/
def Obligations.IntegerArithmeticResult : Prop :=
  ∀ (i : Instr) (s : State) (c : Ctx) (s0 : State) (f : Nat → Int → Int → Int → Int),
    i.wf = true → s.performs i = some (c, s0) → intRow i = some f →
    let n := width c.e
    let x := f n (int c.e (c.r.val c.e.a n)) (int c.e (c.r.valImm c.e (usesC i) n)) (int c.e (c.r.val c.e.c n))
    ∃ t, exec i s = .next t
      ∧ t.holds c.t c.e.d n (isSigned c.e) (BitVec.ofInt n (if c.e.sat then clamp c.e x else x)).toNat
      ∧ t.goesOn c

/-- R155: div and rem never trap: quotient rounded towards zero, the remainder with the sign of the dividend, all ones and the
dividend for a zero divisor, and the fixed results of the one overflow. -/
def Obligations.DivisionResult : Prop :=
  ∀ (w : Words) (isDiv : Bool) (s : State) (c : Ctx) (s0 : State),
    let i : Instr := if isDiv then .div w else .rem w
    i.wf = true → s.performs i = some (c, s0) →
    let n := width c.e
    let a := int c.e (c.r.val c.e.a n)
    let b := int c.e (c.r.valImm c.e false n)
    ∃ t x, exec i s = .next t ∧ t.holds c.t c.e.d n (isSigned c.e) (BitVec.ofInt n x).toNat ∧ t.goesOn c
      ∧ (b = 0 → x = if isDiv then (if isSigned c.e then -1 else 2 ^ n - 1) else a)
      ∧ (isSigned c.e → a = -(2 ^ (n - 1)) → b = -1 → BitVec.ofInt n x = BitVec.ofInt n (if isDiv then -(2 ^ (n - 1)) else 0))
      ∧ (b ≠ 0 → ¬(isSigned c.e ∧ a = -(2 ^ (n - 1)) ∧ b = -1) →
          if isDiv then |b| * |x| ≤ |a| ∧ |a| < |b| * (|x| + 1) ∧ 0 ≤ x * (a * b)
          else |x| < |b| ∧ b ∣ a - x ∧ 0 ≤ x * a)

/-- R157: the logic, shift and counting instructions complete with their result on n-bit operands; a shift amount is taken modulo
n. -/
def Sys2Proof.Claims.LogicAndShiftResult : Prop :=
  ∀ (i : Instr) (s : State) (c : Ctx) (s0 : State) (f : (n : Nat) → BitVec n → BitVec n → BitVec n),
    i.wf = true → s.performs i = some (c, s0) → logicRow i = some f →
    let n := width c.e
    ∃ t, exec i s = .next t
      ∧ t.holds c.t c.e.d n (isSigned c.e) (f n (BitVec.ofNat n (c.r.val c.e.a n)) (BitVec.ofNat n (c.r.valImm c.e false n))).toNat
      ∧ t.goesOn c

/-- R158: bfx and bfi complete: with pos and len from the descriptor, bfx gives the field zero- or sign-extended, its bits beyond
the operand reading 0, and bfi replaces the bits of D that exist. -/
def Sys2Proof.Claims.BitFieldResult : Prop :=
  ∀ (w : Words) (insert : Bool) (s : State) (c : Ctx) (s0 : State),
    let i : Instr := if insert then .bfi w else .bfx w
    i.wf = true → s.performs i = some (c, s0) →
    let n := width c.e
    let a := c.r.val c.e.a n
    let desc := c.r.valImm c.e false 32
    let pos := desc % 64
    let len := min (desc / 256 % 128) n
    let fld (j : Nat) : Bool := decide (pos + j < n) && a.testBit (pos + j)
    ∃ t x, exec i s = .next t ∧ t.holds c.t c.e.d n (isSigned c.e) x ∧ x < 2 ^ n ∧ t.goesOn c
      ∧ ∀ j, j < n → x.testBit j =
          if insert then (if pos ≤ j ∧ j < pos + len then a.testBit (j - pos) else (c.r.val c.e.d n).testBit j)
          else if len = 0 then false
          else if j < len then fld j else (isSigned c.e && fld (len - 1))

/-- R157, R158: the logic, shift, counting and bit-field instructions complete with their results. -/
def Obligations.LogicAndBitFields : Prop := Sys2Proof.Claims.LogicAndShiftResult ∧ Sys2Proof.Claims.BitFieldResult

/-- R160, R161, R162: sel, lea, mov and movi complete: the selected operand, the effective address (with no access), the moved
value, the immediate. -/
def Obligations.SelectMoveResult : Prop :=
  ∀ (i : Instr) (s : State) (c : Ctx) (s0 : State), i.wf = true → s.performs i = some (c, s0) →
    let n := width c.e
    let gives (n x : Nat) : Prop := ∃ t, exec i s = .next t ∧ t.holds c.t c.e.d n false x ∧ t.goesOn c
    match i with
    | .sel _ => gives n (if c.r.pred c.e.c then c.r.val c.e.a n else c.r.valImm c.e true n)
    | .lea _ =>
        if c.e.space = 4 then gives 64 (BitVec.ofNat 64 (c.r.val c.e.a 64) + immOf c.e false).toNat
        else gives 32 (BitVec.ofNat 32 (c.r.val c.e.a 32) + (immOf c.e false).setWidth 32).toNat
    | .movBase _ | .mov _ => gives n (c.r.val c.e.a n)
    | .moviBase b => gives n ((b.a ++ b.b).signExtend 64).toNat
    | .movi (.ext e) => gives n (match e.lit with | some l => l.toNat | none => ((e.c ++ e.x).signExtend 64).toNat)
    | .movi (.baseLit _ l) => gives n l.toNat
    | _ => True

/-- R160, R165: cmp writes the condition of R145, under the type's signedness, to its predicate, and the predicate instructions
their result. -/
def Obligations.PredicateResult : Prop :=
  ∀ (i : Instr) (s : State) (c : Ctx) (s0 : State), i.wf = true → s.performs i = some (c, s0) →
    let n := width c.e
    let a := int c.e (c.r.val c.e.a n)
    let b := int c.e (c.r.valImm c.e false n)
    let gives (x : Bool) : Prop := ∃ t, exec i s = .next t ∧ t.holdsPred c.t c.e.d x ∧ t.goesOn c
    match i with
    | .cmp _ =>
        (c.e.fn = 0 → gives (a = b)) ∧ (c.e.fn = 1 → gives (a ≠ b)) ∧ (c.e.fn = 2 → gives (a < b))
          ∧ (c.e.fn = 3 → gives (a ≤ b)) ∧ (c.e.fn = 4 → gives (a > b)) ∧ (c.e.fn = 5 → gives (a ≥ b))
    | .pand _ => gives (c.r.pred c.e.a && c.r.pred c.e.b)
    | .por _ => gives (c.r.pred c.e.a || c.r.pred c.e.b)
    | .pxor _ => gives (c.r.pred c.e.a ^^ c.r.pred c.e.b)
    | .pnot _ => gives (!c.r.pred c.e.a)
    | _ => True

/-- R34, R35, R151, R163, R285: movs completes with the special register's value: the identity and residency registers, the remaining
budget of the thread's slice (all ones where it has none), the mask of signals and, in a handler, the trap registers. -/
def Sys2Proof.Claims.SpecialRegisterRead : Prop :=
  ∀ (w : Words) (s : State) (c : Ctx) (s0 : State), (Instr.movs w).wf = true → s.performs (.movs w) = some (c, s0) →
    let gives (x : W64) : Prop := ∃ t, exec (.movs w) s = .next t ∧ t.holds c.t c.e.d (width c.e) false x.toNat ∧ t.goesOn c
    let la := s.launchOf c.tm
    let k := c.e.a.toNat
    (k = 0 → gives (BitVec.ofNat 64 c.t.tid)) ∧ (k = 1 → gives (BitVec.ofNat 64 c.tm.tix))
      ∧ (k = 2 → gives (BitVec.ofNat 64 c.tm.threads.length))
      ∧ (k = 3 → gives (if la.body.kind = 1 ∨ la.body.kind = 3 then BitVec.ofNat 64 c.tm.tix else 0xFFFFFFFF))
      ∧ (k = 4 → gives (c.tm.pstat.zeroExtend 64))
      ∧ (k = 5 → c.tm.wave = none → la.body.wcode ≤ 2 → gives (BitVec.ofNat 64 (16 * 2 ^ la.body.wcode)))
      ∧ (k = 6 → gives (BitVec.ofNat 64 (match regOf c.e.d with | .s _ => c.tm.core | _ => s.coreOf c.tm c.t.tid)))
      ∧ (k = 7 → gives (c.tm.rser.zeroExtend 64)) ∧ (k = 8 → gives s.dtime)
      ∧ (k = 9 → gives (if la.body.budget = 0 then 0xFFFFFFFFFFFFFFFF else BitVec.ofNat 64 (la.budget c.tm.slice).left))
      ∧ (k = 10 → gives (c.th.tcause.zeroExtend 64)) ∧ (k = 11 → gives (c.th.tepc.zeroExtend 64)) ∧ (k = 12 → gives c.th.taux)
      ∧ (k = 13 → gives (c.th.sigmask.zeroExtend 64))

/-- R164, R348: movt completes: tcause keeps bits [7:0], tepc all 32, taux bits [31:0] with [63:32] cleared, and sigmask bits
[15:0]; and memory and every register of R134 read as before. -/
def Sys2Proof.Claims.SpecialRegisterWrite : Prop :=
  ∀ (w : Words) (s : State) (c : Ctx) (s0 : State), (Instr.movt w).wf = true → s.performs (.movt w) = some (c, s0) →
    let x := BitVec.ofNat 32 (c.r.val c.e.a 32)
    ∃ t th, exec (.movt w) s = .next t ∧ t.thread c.t = some th ∧ th.pc = c.next
      ∧ th.tcause = (if c.e.d = 10 then x &&& 0xFF else c.th.tcause) ∧ th.tepc = (if c.e.d = 11 then x else c.th.tepc)
      ∧ th.taux = (if c.e.d = 12 then x.zeroExtend 64 else c.th.taux) ∧ th.sigmask = (if c.e.d = 13 then x &&& 0xFFFF else c.th.sigmask)
      ∧ t.mem = s.mem ∧ th.v = c.th.v ∧ th.p = c.th.p ∧ th.log = c.th.log ∧ th.lane = c.th.lane
      ∧ (∀ u, u ≠ c.t → t.thread u = s.thread u) ∧ ∀ k, t.sreg c.t.team k = s.sreg c.t.team k

/-- R34, R35, R151, R163, R164, R285, R348: movs reads each special register (lanew: of a thread of no wave), movt writes the four that
R164 admits. -/
def Obligations.SpecialRegisters : Prop := Sys2Proof.Claims.SpecialRegisterRead ∧ Sys2Proof.Claims.SpecialRegisterWrite

/-! ## Floating-point instructions -/

namespace Sys2Proof.Claims

/-- The real number of a finite value; infinities and NaN have none, and 0 stands in. -/
noncomputable def real : FVal → ℝ
  | .fin neg m x => (if neg then -1 else 1) * m * 2 ^ x
  | _ => 0

def finite : FVal → Prop
  | .fin _ _ _ => True
  | _ => False

/-- R95: the integer part n and the rounded n of a magnitude in units of the last place, under a mode, for a sign. -/
def RoundsUnits (md : Rnd) (neg : Prop) (a : ℝ) (k : ℤ) : Prop :=
  let n := ⌊a⌋
  let t := a - n
  let up : Prop := match md with
    | .rne => 1 / 2 < t ∨ (t = 1 / 2 ∧ n % 2 = 1)
    | .rz => False
    | .rd => t ≠ 0 ∧ neg
    | .ru => t ≠ 0 ∧ ¬neg
  (up → k = n + 1) ∧ (¬up → k = n)

/-- R95: the bits `w` are the real `x`, not 0, rounded once to the format under a mode. -/
def RoundsTo (F : Fmt) (md : Rnd) (x : ℝ) (w : Nat) : Prop :=
  let e := max (Int.log 2 |x|) F.emin
  let u : ℝ := 2 ^ (e - F.frac)
  ∃ k : ℤ, RoundsUnits md (x < 0) (|x| / u) k
    ∧ (k * u < 2 ^ (F.emax + 1) → ∃ neg m y, F.decode w = .fin neg m y ∧ (neg = true ↔ x < 0) ∧ (m : ℝ) * 2 ^ y = k * u)
    ∧ (2 ^ (F.emax + 1) ≤ k * u → ∃ neg, (neg = true ↔ x < 0)
        ∧ w = if md = .rne ∨ (md = .ru ∧ neg = false) ∨ (md = .rd ∧ neg = true) then F.infinity neg else F.largest neg)

/-- R92: the three formats. -/
def formats : List Fmt := [F32, F16, BF16]

/-- R168: the exact value of each arithmetic instruction, before its one rounding. -/
def floatRow : Instr → Option (Rnd → FVal → FVal → FVal → FVal)
  | .faddBase _ | .fadd _ => some fun md a b _ => exactSum md [a, b]
  | .fsubBase _ | .fsub _ => some fun md a b _ => exactSum md [a, b.negate]
  | .fmulBase _ | .fmul _ => some fun _ a b _ => a.mul b
  | .ffma _ => some fun md a b c => exactSum md [a.mul b, c]
  | _ => none

/-- R139, R166: the element format of a type. -/
def format (ty : BitVec 5) : Fmt := if ty = 1 ∨ ty = 17 then F16 else if ty = 2 ∨ ty = 16 then BF16 else F32

/-- R137: operand B, or the literal that replaces it. -/
def operandB (c : Ctx) : Nat := match c.e.lit with | some l => l.toNat % 2 ^ 32 | none => c.r.val c.e.b 32

/-- R166: an operation on each element of a type. -/
def elements (ty : BitVec 5) (f : Nat → Nat → Nat → Nat) (a b c : Nat) : Nat :=
  if ty = 16 ∨ ty = 17 then f (a % 65536) (b % 65536) (c % 65536) + 65536 * f (a / 65536) (b / 65536) (c / 65536)
  else if ty = 0 then f a b c
  else f (a % 65536) (b % 65536) (c % 65536)

/-- R170: `x` is the lesser of two elements that are not NaN, -0 below +0. -/
def below (F : Fmt) (x y : Nat) : Prop :=
  (F.decode x).compare (F.decode y) < 0 ∨ ((F.decode x).compare (F.decode y) = 0 ∧ F.negative x = true ∧ F.negative y = false)

/-- R170: `r` is the lesser (the greater) of two elements. -/
def IsExtreme (F : Fmt) (greater : Bool) (x y r : Nat) : Prop :=
  if F.decode x = .nan then (if F.decode y = .nan then r = F.canonicalNaN else r = y)
  else if F.decode y = .nan then r = x
  else (r = x ∨ r = y) ∧ (if greater then ¬below F r x ∧ ¬below F r y else ¬below F x r ∧ ¬below F y r)

/-- R172: the value of a class of special input, as bits of the format: each function's row of the table. -/
def special (F : Fmt) : Instr → FVal → Option Nat
  | _, .nan => some F.canonicalNaN
  | .frcp _, .inf s => some (F.signBit s)
  | .frcp _, .fin s 0 _ => some (F.infinity s)
  | .frsq _, .inf s => some (if s then F.canonicalNaN else 0)
  | .frsq _, .fin s 0 _ => some (F.infinity s)
  | .frsq _, .fin true _ _ => some F.canonicalNaN
  | .fsqrt _, .inf s => some (if s then F.canonicalNaN else F.infinity false)
  | .fsqrt _, .fin s 0 _ => some (F.signBit s)
  | .fsqrt _, .fin true _ _ => some F.canonicalNaN
  | .fex2 _, .inf s => some (if s then 0 else F.infinity false)
  | .fex2 _, .fin _ 0 _ => some ((2 ^ (F.expo - 1) - 1) * 2 ^ F.frac)
  | .flg2 _, .inf s => some (if s then F.canonicalNaN else F.infinity false)
  | .flg2 _, .fin _ 0 _ => some (F.infinity true)
  | .flg2 _, .fin true _ _ => some F.canonicalNaN
  | .ftanh _, .inf s => some (F.signBit s + (2 ^ (F.expo - 1) - 1) * 2 ^ F.frac)
  | .ftanh _, .fin s 0 _ => some (F.signBit s)
  | _, _ => none

/-- R171: the functions of one operand. -/
def isFunction : Instr → Bool
  | .frcp _ | .frsq _ | .fsqrt _ | .fex2 _ | .flg2 _ | .ftanh _ => true
  | _ => false

/-- R173: whether a type code is a float type, its width in bits, and whether it is signed. -/
def floatCode (k : Nat) : Bool := k ≤ 2
def codeBits (k : Nat) : Nat := if k = 3 ∨ k = 7 then 8 else if k = 4 ∨ k = 8 then 16 else if k = 6 ∨ k = 10 then 64 else 32
def codeSigned (k : Nat) : Bool := 3 ≤ k && k ≤ 6
def codeMin (k : Nat) : ℤ := if codeSigned k then -(2 ^ (codeBits k - 1)) else 0
def codeMax (k : Nat) : ℤ := if codeSigned k then 2 ^ (codeBits k - 1) - 1 else 2 ^ codeBits k - 1
/-- R173: the integer in the low bits of an operand. -/
def codeInt (k w : Nat) : ℤ := if codeSigned k then (BitVec.ofNat (codeBits k) w).toInt else ((BitVec.ofNat (codeBits k) w).toNat : ℤ)

/-- R96, R173: `k` is the integer that a conversion to an integer type gives, before it is reduced to the width. -/
def ConvertsTo (dst src : Nat) (md : Rnd) (sat : Bool) (w : Nat) (k : ℤ) : Prop :=
  if floatCode src then
    match (format (BitVec.ofNat 5 src)).decode (if src = 0 then w else w % 65536) with
    | .nan => k = 0
    | .inf s => k = if s then codeMin dst else codeMax dst
    | .fin neg m x => ∃ j : ℤ, RoundsUnits md (neg = true) (m * 2 ^ x) j ∧ k = max (codeMin dst) (min (if neg then -j else j) (codeMax dst))
  else k = if sat then max (codeMin dst) (min (codeInt src w) (codeMax dst)) else codeInt src w

end Sys2Proof.Claims

/-- R92, R93: the exact sum and the exact product that the arithmetic instructions round: finite operands give the exact real sum
and product; NaN operands, infinities of both signs and 0 × ∞ give NaN; an exact zero sum has the sign of its terms when all are
zeros of one sign, and otherwise is -0 under RD alone. -/
def Sys2Proof.Claims.ExactSumAndProduct : Prop :=
  (∀ (md : Rnd) (l : List FVal), l ≠ [] → (∀ v ∈ l, finite v) →
      finite (exactSum md l) ∧ real (exactSum md l) = (l.map real).sum
        ∧ (real (exactSum md l) = 0 → ∃ neg x, exactSum md l = .fin neg 0 x
            ∧ ((∀ v ∈ l, ∃ y, v = .fin false 0 y) → neg = false) ∧ ((∀ v ∈ l, ∃ y, v = .fin true 0 y) → neg = true)
            ∧ ((¬∀ v ∈ l, ∃ y, v = .fin false 0 y) → (¬∀ v ∈ l, ∃ y, v = .fin true 0 y) → neg = decide (md = .rd))))
  ∧ (∀ (md : Rnd) (l : List FVal), .nan ∈ l → exactSum md l = .nan)
  ∧ (∀ (md : Rnd) (l : List FVal), .nan ∉ l → .inf true ∈ l → .inf false ∈ l → exactSum md l = .nan)
  ∧ (∀ (md : Rnd) (l : List FVal) (neg : Bool), .nan ∉ l → .inf neg ∈ l → .inf (!neg) ∉ l → exactSum md l = .inf neg)
  ∧ (∀ a b : FVal, finite a → finite b → finite (a.mul b) ∧ real (a.mul b) = real a * real b)
  ∧ (∀ s t m n x y, FVal.mul (.fin s m x) (.fin t n y) = .fin (s ^^ t) (m * n) (x + y))
  ∧ ∀ a b : FVal, a.mul b = .nan ↔ (a = .nan ∨ b = .nan ∨ (∃ s t x, a = .inf s ∧ b = .fin t 0 x) ∨ (∃ s t x, b = .inf s ∧ a = .fin t 0 x))

/-- R95: round_fmt: a value that is not 0 is rounded once, in each format and under each mode, overflow giving infinity or the
largest finite value; a 0 keeps its sign. -/
def Sys2Proof.Claims.RoundingIsR95 : Prop :=
  ∀ F ∈ formats, ∀ (md : Rnd) (neg : Bool) (m : Nat) (x : ℤ),
    F.round md neg 0 x = F.signBit neg ∧ (m ≠ 0 → RoundsTo F md (real (.fin neg m x)) (F.round md neg m x))

/-- R92, R93, R95: the exact value of a sum and a product, and its one rounding, in every format. -/
def Obligations.FloatRounding : Prop := Sys2Proof.Claims.ExactSumAndProduct ∧ Sys2Proof.Claims.RoundingIsR95

/-- R166, R168: fadd, fsub, fmul and ffma complete: each element is the exact value rounded once, .sat replacing an infinity by the
largest finite value of its sign. -/
def Sys2Proof.Claims.FloatArithmeticResult : Prop :=
  ∀ (i : Instr) (s : State) (c : Ctx) (s0 : State) (f : Rnd → FVal → FVal → FVal → FVal),
    i.wf = true → s.performs i = some (c, s0) → floatRow i = some f →
    let F := format c.e.ty
    let el (x y z : Nat) : Nat :=
      let r := F.ofVal c.e.rnd (f c.e.rnd (F.decode x) (F.decode y) (F.decode z))
      if c.e.sat then (if r = F.infinity false then F.largest false else if r = F.infinity true then F.largest true else r) else r
    ∃ t, exec i s = .next t ∧ t.goesOn c
      ∧ t.holds c.t c.e.d 32 false (elements c.e.ty el (c.r.val c.e.a 32) (operandB c) (c.r.val c.e.c 32))

/-- R169, R175: ffma2 completes with the dot product of two pairs and the f32 addend, rounded once; fpk with two f32 values rounded
into a pair. -/
def Sys2Proof.Claims.FloatPairResult : Prop :=
  ∀ (w : Words) (pack : Bool) (s : State) (c : Ctx) (s0 : State),
    let i : Instr := if pack then .fpk w else .ffma2 w
    i.wf = true → s.performs i = some (c, s0) →
    let F := format c.e.ty
    let a := c.r.val c.e.a 32
    let b := operandB c
    let sat (G : Fmt) (r : Nat) : Nat := if c.e.sat then (if r = G.infinity false then G.largest false else if r = G.infinity true then G.largest true else r) else r
    ∃ t, exec i s = .next t ∧ t.goesOn c ∧ t.holds c.t c.e.d 32 false
      (if pack then sat F (F.ofVal c.e.rnd (F32.decode a)) + 65536 * sat F (F.ofVal c.e.rnd (F32.decode b))
       else sat F32 (F32.ofVal c.e.rnd (exactSum c.e.rnd
         [(F.decode (a % 65536)).mul (F.decode (b % 65536)), (F.decode (a / 65536)).mul (F.decode (b / 65536)), F32.decode (c.r.val c.e.c 32)])))

/-- R166-R169: the floating-point arithmetic instructions complete with the exact result, rounded once. -/
def Obligations.FloatArithmetic : Prop := Sys2Proof.Claims.FloatArithmeticResult ∧ Sys2Proof.Claims.FloatPairResult

/-- R145, R170: fmin and fmax complete with the lesser or greater element, a single NaN giving the other element; fcmp with its
condition. -/
def Obligations.FloatCompareResult : Prop :=
  ∀ (i : Instr) (s : State) (c : Ctx) (s0 : State), i.wf = true → s.performs i = some (c, s0) →
    let F := format c.e.ty
    let a := c.r.val c.e.a 32
    let b := operandB c
    let extreme (greater : Bool) : Prop := ∃ t r, exec i s = .next t ∧ t.goesOn c ∧ t.holds c.t c.e.d 32 false (elements c.e.ty r a b 0)
      ∧ ∀ x y, x < 2 ^ (F.frac + F.expo + 1) → y < 2 ^ (F.frac + F.expo + 1) → IsExtreme F greater x y (r x y 0)
    let x := F.decode (if c.e.ty = 0 then a else a % 65536)
    let y := F.decode (if c.e.ty = 0 then b else b % 65536)
    let gives (p : Bool) : Prop := ∃ t, exec i s = .next t ∧ t.holdsPred c.t c.e.d p ∧ t.goesOn c
    let un : Bool := x = .nan || y = .nan
    match i with
    | .fminBase _ | .fmin _ => extreme false
    | .fmaxBase _ | .fmax _ => extreme true
    | .fcmp _ =>
        (c.e.fn = 0 → gives (!un && x.compare y = 0)) ∧ (c.e.fn = 1 → gives (un || x.compare y ≠ 0)) ∧ (c.e.fn = 2 → gives (!un && x.compare y < 0))
          ∧ (c.e.fn = 3 → gives (!un && x.compare y ≤ 0)) ∧ (c.e.fn = 4 → gives (!un && x.compare y > 0))
          ∧ (c.e.fn = 5 → gives (!un && x.compare y ≥ 0)) ∧ (c.e.fn = 6 → gives un) ∧ (c.e.fn = 7 → gives (!un))
    | _ => True

/-- R171, R172: frcp, frsq, fsqrt, fex2, flg2 and ftanh complete; on the special inputs with the table's results, frcp and fsqrt
rounded once under the mode in f32, frsq in f32 under RNE, and fex2 of an integer and flg2 of a power of two exactly. Log entries 14, 15: what of it is the model's choice. -/
def Obligations.FloatFunctionResult : Prop :=
  ∀ (i : Instr) (s : State) (c : Ctx) (s0 : State), i.wf = true → s.performs i = some (c, s0) → isFunction i = true →
    let F := format c.e.ty
    let v := F.decode (if c.e.ty = 0 then c.r.val c.e.a 32 else c.r.val c.e.a 32 % 65536)
    ∃ t r, exec i s = .next t ∧ t.goesOn c ∧ t.holds c.t c.e.d 32 false r
      ∧ (∀ k, special F i v = some k → r = k)
      ∧ (∀ w, i = .frcp w → finite v → real v ≠ 0 → RoundsTo F c.e.rnd (1 / real v) r)
      ∧ (∀ w, i = .fsqrt w → finite v → 0 < real v → RoundsTo F c.e.rnd (Real.sqrt (real v)) r)
      ∧ (∀ w, i = .frsq w → c.e.ty = 0 → finite v → 0 < real v → RoundsTo F32 .rne (1 / Real.sqrt (real v)) r)
      ∧ (∀ w (k : ℤ), i = .fex2 w → c.e.ty = 0 → finite v → real v = k → RoundsTo F32 .rne (2 ^ k) r)
      ∧ (∀ w (k : ℤ), i = .flg2 w → c.e.ty = 0 → finite v → real v = 2 ^ k → k ≠ 0 → RoundsTo F32 .rne k r)

/-- R96, R173, R174: fcvt completes: to a float type the value rounded once, to an integer type the value rounded, clamped and
extended; fcla completes with the one bit of the operand's class. -/
def Obligations.FloatConversionResult : Prop :=
  ∀ (w : Words) (s : State) (c : Ctx) (s0 : State),
    ((Instr.fcvt w).wf = true → s.performs (.fcvt w) = some (c, s0) →
      let dst := c.e.ty.toNat
      let src := c.e.fn.toNat
      let a := c.r.val c.e.a (if src = 6 ∨ src = 10 then 64 else 32)
      let D := format c.e.ty
      let sat (r : Nat) : Nat := if c.e.sat then (if r = D.infinity false then D.largest false else if r = D.infinity true then D.largest true else r) else r
      ∃ t x, exec (.fcvt w) s = .next t ∧ t.goesOn c ∧ t.holds c.t c.e.d (width c.e) (codeSigned dst) x
        ∧ if floatCode dst then
            x = sat (D.ofVal c.e.rnd (if floatCode src then (format (BitVec.ofNat 5 src)).decode (if src = 0 then a else a % 65536)
              else .fin (decide (codeInt src a < 0)) (codeInt src a).natAbs 0))
          else ∃ k : ℤ, ConvertsTo dst src c.e.rnd c.e.sat a k
            ∧ x = if codeSigned dst then (BitVec.ofInt (width c.e) (BitVec.ofInt (codeBits dst) k).toInt).toNat else (BitVec.ofInt (codeBits dst) k).toNat)
    ∧ ((Instr.fcla w).wf = true → s.performs (.fcla w) = some (c, s0) →
      let F := format c.e.ty
      let a := if c.e.ty = 0 then c.r.val c.e.a 32 else c.r.val c.e.a 32 % 65536
      let neg := F.negative a
      ∃ t k, exec (.fcla w) s = .next t ∧ t.goesOn c ∧ t.holds c.t c.e.d 32 false (2 ^ k)
        ∧ (F.decode a = .inf neg → k = if neg then 0 else 7)
        ∧ (F.decode a = .nan → k = if a.testBit (F.frac - 1) then 8 else 9)
        ∧ (finite (F.decode a) → F.fracField a = 0 ∧ F.expField a = 0 → k = if neg then 3 else 4)
        ∧ (finite (F.decode a) → F.fracField a ≠ 0 ∧ F.expField a = 0 → k = if neg then 2 else 5)
        ∧ (finite (F.decode a) → F.expField a ≠ 0 → k = if neg then 1 else 6))

/-! ## Course collectives -/

namespace Sys2Proof.Claims

/-- R176: the course collectives. -/
def isCollective : Instr → Bool
  | .ballot _ | .shfl _ | .cred _ | .cscan _ | .cbar _ => true
  | _ => false

/-- R210: `x` is the operation `fn` over a non-empty list of n-bit values of a type; f32 add is one exact sum, rounded once. -/
def Reduces (fn : Nat) (ty : BitVec 5) (n : Nat) (md : Rnd) (vs : List Nat) (x : Nat) : Prop :=
  let le (a b : Nat) : Prop := if ty = 5 ∨ ty = 6 then (BitVec.ofNat n a).toInt ≤ (BitVec.ofNat n b).toInt else a ≤ b
  let num := vs.filter fun v => F32.decode v ≠ .nan
  match fn with
  | 0 => if ty = 0 then x = F32.ofVal md (exactSum md (vs.map F32.decode)) else x % 2 ^ n = vs.sum % 2 ^ n
  | 1 => if ty = 0 then (if num = [] then x = F32.canonicalNaN else x ∈ num ∧ ∀ y ∈ num, ¬below F32 y x) else x ∈ vs ∧ ∀ y ∈ vs, le x y
  | 2 => if ty = 0 then (if num = [] then x = F32.canonicalNaN else x ∈ num ∧ ∀ y ∈ num, ¬below F32 x y) else x ∈ vs ∧ ∀ y ∈ vs, le y x
  | 3 => ∀ b, x.testBit b = vs.all (·.testBit b)
  | 4 => ∀ b, x.testBit b = vs.any (·.testBit b)
  | _ => ∀ b, x.testBit b = vs.foldl (fun p v => p ^^ v.testBit b) false

/-- R183: the identity of an operation on n-bit values of a type. -/
def identity (fn : Nat) (ty : BitVec 5) (n : Nat) : Nat :=
  match fn with
  | 1 => if ty = 0 then F32.infinity false else if ty = 5 ∨ ty = 6 then 2 ^ (n - 1) - 1 else 2 ^ n - 1
  | 2 => if ty = 0 then F32.infinity true else if ty = 5 ∨ ty = 6 then 2 ^ (n - 1) else 0
  | 3 => 2 ^ n - 1
  | _ => 0

/-- R180-R184: `x` is what the closing record gives the live thread `j`; W is the course width. -/
def CollectiveGives (r : CollRec) (W : Nat) (live : List Joiner) (j : Joiner) (x : Nat) : Prop :=
  let n := if r.ty = 6 ∨ r.ty = 10 then 64 else 32
  let lane (k : Joiner) : Nat := k.tid % W
  let source : Option Nat :=
    match r.fn.toNat with
    | 0 => some j.sel.toNat
    | 1 => if j.sel.toNat ≤ lane j then some (lane j - j.sel.toNat) else none
    | 2 => some (lane j + j.sel.toNat)
    | _ => some (lane j ^^^ j.sel.toNat)
  match r.opcode with
  | 0x24 => ∀ l, x.testBit l = decide (l < W ∧ ∃ k ∈ live, lane k = l ∧ k.value ≠ 0)
  | 0x25 =>
      (∀ k ∈ live, source = some (lane k) → lane k < W → x = k.value.toNat)
        ∧ ((∀ k ∈ live, ¬(source = some (lane k) ∧ lane k < W)) → x = j.value.toNat)
  | 0x26 => ∃ vs, vs.Perm (live.map (·.value.toNat)) ∧ Reduces r.fn.toNat r.ty n r.rnd vs x
  | _ =>
      let below := live.filter fun k => k.tid < j.tid
      if below = [] then x = identity r.fn.toNat r.ty n else ∃ vs, vs.Perm (below.map (·.value.toNat)) ∧ Reduces r.fn.toNat r.ty n r.rnd vs x

/-- R177: the open record of the issuing thread's course at its PC, or the one that it opens. -/
def openRecord (c : Ctx) (s : State) : CollRec :=
  ((c.tm.colls.find? fun r => r.course = s.courseOf c.tm c.t.tid ∧ r.pc = c.th.pc)).getD
    { course := s.courseOf c.tm c.t.tid, pc := c.th.pc, opcode := c.op, fn := c.e.fn, ty := c.e.ty, rnd := c.e.rnd, joined := [], live := [] }

/-- R177: what the issuing thread presents. -/
def presents (c : Ctx) : Joiner :=
  let n := width c.e
  if c.op = 0x24 ∨ c.op = 0x28 then { tid := c.t.tid, value := if c.r.pred c.e.a then 1 else 0, sel := 0, dest := c.e.d, next := c.next }
  else { tid := c.t.tid, value := BitVec.ofNat 64 (c.r.val c.e.a n), sel := BitVec.ofNat 32 (c.r.valImm c.e false 32), dest := c.e.d, next := c.next }

/-- R12, R13: the other threads of the issuing thread's course that have not exited. -/
def others (c : Ctx) (s : State) : List Nat :=
  c.tm.alive.filter fun k => s.courseOf c.tm k = s.courseOf c.tm c.t.tid ∧ k ≠ c.t.tid

end Sys2Proof.Claims

/-- R177: a collective whose guard is true joins and waits while some thread of the course that has not exited has yet to join:
here, one that waits at no collective and has joined none of the course's records. -/
def Sys2Proof.Claims.CollectiveJoinWaits : Prop :=
  ∀ (i : Instr) (s : State) (c : Ctx) (s0 : State), i.wf = true → s.performs i = some (c, s0) → isCollective i = true →
    (∀ r ∈ c.tm.colls, r.course = s.courseOf c.tm c.t.tid → r.pc = c.th.pc → c.t.tid ∉ r.joined) → c.th.exited = false →
    (∃ k ∈ others c s, (c.tm.threads[k]?).bind (·.atCollective) = none ∧ ∀ r ∈ c.tm.colls, r.course = s.courseOf c.tm c.t.tid → k ∉ r.joined) →
    ∃ t tm, exec i s = .next t ∧ t.waitsFor c.t (.coll c.th.pc) c.next ∧ t.team c.t.team = some tm
      ∧ (∃ r ∈ tm.colls, r.course = s.courseOf c.tm c.t.tid ∧ r.pc = c.th.pc ∧ c.t.tid ∈ r.joined ∧ presents c ∈ r.live)
      ∧ t.mem = s.mem ∧ ∀ u, u ≠ c.t → t.thread u = s.thread u

/-- R177, R178, R180-R184: the last thread of the course to join closes the record: every live thread has its result, has a pts that
is the largest among them, and goes on; a thread whose guard is false is not among the live ones. -/
def Sys2Proof.Claims.CollectiveCloses : Prop :=
  ∀ (i : Instr) (s : State) (c : Ctx) (s0 : State), i.wf = true → s.performs i = some (c, s0) → isCollective i = true →
    let r := openRecord c s
    let live := r.live ++ [presents c]
    let W := s.width c.tm
    (∀ q ∈ c.tm.colls, q.course = r.course → q = r) → (c.tm.colls.filter (· = r)).length ≤ 1 →
    c.t.tid ∉ r.joined → (∀ k ∈ others c s, k ∈ r.joined) → (live.map (·.tid)).Nodup → c.th.exited = false →
    (∀ j ∈ r.live, s.courseOf c.tm j.tid = r.course ∧ (∀ k, regOf j.dest ≠ .s k) ∧ ∃ th, c.tm.threads[j.tid]? = some th ∧ th.waitsFor (.coll r.pc) j.next) →
    let own : CollRec := { r with opcode := c.op, fn := c.e.fn, ty := c.e.ty, rnd := c.e.rnd }
    ∃ t, exec i s = .next t ∧ ∀ j ∈ live, ∃ th x, t.thread { team := c.t.team, tid := j.tid } = some th
      ∧ th.wait = none ∧ th.pc = j.next
      ∧ (c.op ≠ 0x28 → CollectiveGives own W live j x
          ∧ t.holds { team := c.t.team, tid := j.tid } j.dest (if c.op = 0x24 then (if W = 64 then 64 else 32) else if c.e.ty = 6 ∨ c.e.ty = 10 then 64 else 32) false x)
      ∧ (∀ k ∈ live, ((c.tm.threads[k.tid]?).map (·.pts)).getD 0 ≤ th.pts)

/-- R177, R178, R180-R184: a collective waits for its course, and its last joiner gives every live thread its result. -/
def Obligations.Collectives : Prop := Sys2Proof.Claims.CollectiveJoinWaits ∧ Sys2Proof.Claims.CollectiveCloses

/-! ## Control -/

namespace Sys2Proof.Claims

/-- R188: the target of bra and call: in the same slot, at the PC plus the literal or 4 times the word offset. -/
def branchTarget (c : Ctx) : W32 :=
  let d : W32 := match c.e.lit with | some l => l.setWidth 32 | none => 4 * (c.e.c ++ c.e.x).signExtend 32
  (c.th.pc &&& 0xF0000000) ||| ((c.th.pc + d) &&& 0x0FFFFFFF)

end Sys2Proof.Claims

/-- R188, R190: bra and jmpi complete: the thread goes on at the target, and nothing else changes. -/
def Sys2Proof.Claims.BranchResult : Prop :=
  ∀ (i : Instr) (s : State) (c : Ctx) (s0 : State), i.wf = true → s.performs i = some (c, s0) →
    let jumps (target : W32) : Prop := ∃ t, exec i s = .next t ∧ s.sameBut t c.t [] ∧ (t.thread c.t).map (·.pc) = some target
    match i with
    | .braBase _ | .bra _ => jumps (branchTarget c)
    | .jmpi _ => jumps (BitVec.ofNat 32 (c.r.val c.e.a 32))
    | _ => True

/-- R189: call and calli push a frame with the address of the next instruction and bits [63:32] zero at the top of the lane slice and go
on at the target; ret goes on at the address of the top frame, unless the frame is poisoned (R372), and pops it. -/
def Sys2Proof.Claims.CallAndReturn : Prop :=
  ∀ (i : Instr) (s : State) (c : Ctx) (s0 : State), i.wf = true → s.performs i = some (c, s0) → c.tm.wave = none →
    let L := s.laneSize c.tm
    let pushes (target : W32) : Prop := ∃ t th, exec i s = .next t ∧ t.thread c.t = some th ∧ th.pc = target ∧ th.depth = c.th.depth + 1
      ∧ th.lane.read (L - 8 * (c.th.depth + 1)) 8 = c.next.toNat
      ∧ (∀ a, a < L - 8 * (c.th.depth + 1) ∨ L - 8 * (c.th.depth + 1) + 8 ≤ a → th.lane.get a = c.th.lane.get a)
      ∧ th.v = c.th.v ∧ th.p = c.th.p ∧ t.mem = s.mem ∧ (∀ k, t.sreg c.t.team k = s.sreg c.t.team k) ∧ ∀ u, u ≠ c.t → (t.thread u).map Thread.untargeted = (s.thread u).map Thread.untargeted
    let pops : Prop := (∀ k, k ∈ c.th.lanePoison → k ≠ (L - 8 * c.th.depth) / 8) →
      ∃ t th, exec i s = .next t ∧ t.thread c.t = some th ∧ th.pc = BitVec.ofNat 32 (c.th.lane.read (L - 8 * c.th.depth) 8)
        ∧ th.depth + 1 = c.th.depth ∧ th.lane = c.th.lane ∧ th.v = c.th.v ∧ th.p = c.th.p ∧ t.mem = s.mem
        ∧ (∀ k, t.sreg c.t.team k = s.sreg c.t.team k) ∧ ∀ u, u ≠ c.t → t.thread u = s.thread u
    match i with
    | .callBase _ | .call _ => pushes (branchTarget c)
    | .calli _ => pushes (BitVec.ofNat 32 (c.r.val c.e.a 32))
    | .retBase _ | .ret _ => pops
    | _ => True

/-- R188-R190: branches, calls and returns complete at their targets, which branchTarget keeps within the slot. Log entry 108: what of it is the model's choice. -/
def Obligations.ControlTransfer : Prop := Sys2Proof.Claims.BranchResult ∧ Sys2Proof.Claims.CallAndReturn

/-- R186, R191, R192: jmpf enters slot 0 or a slot that is not fetching at the given offset, and waits while the slot is fetching; cfetch
starts an engine operation that fetches the segment and marks the slot fetching, and waits, to be issued again, while the slot is fetching already. Log
entries 108, 113: that the offset is taken modulo 2^28, and what becomes of a cfetch that waits, are the model's choice. -/
def Obligations.OverlayCode : Prop :=
  ∀ (w : Words) (s : State) (c : Ctx) (s0 : State),
    ((Instr.jmpf w).wf = true → s.performs (.jmpf w) = some (c, s0) →
      let slot := c.e.a.toNat
      let off : W32 := match c.e.lit with | some l => l.setWidth 32 | none => 4 * (c.e.c ++ c.e.x).signExtend 32
      let target : W32 := (BitVec.ofNat 32 (slot * 2 ^ 28)) ||| (off &&& 0x0FFFFFFF)
      ∃ t, exec (.jmpf w) s = .next t
        ∧ if slot ≠ 0 ∧ (c.tm.overlay slot).state = 1 then t.waitsFor c.t (.jmpf target) c.next ∧ t.mem = s.mem
          else s.sameBut t c.t [] ∧ (t.thread c.t).map (·.pc) = some target)
    ∧ ((Instr.cfetch w).wf = true → s.performs (.cfetch w) = some (c, s0) →
      let desc := c.r.valImm c.e false 32
      let slot := desc % 16
      let src := BitVec.ofNat 64 (c.r.val c.e.a 64)
      src.toNat % 256 = 0 →
      ∃ t, exec (.cfetch w) s = .next t
        ∧ if (c.tm.overlay slot).state = 1 then t.waitsFor c.t (.cfetch slot) c.th.pc
          else t.goesOn c ∧ ∃ tm, t.team c.t.team = some tm ∧ (tm.overlay slot).state = 1 ∧ (tm.overlay slot).source = src
            ∧ (tm.overlay slot).len = (desc / 16 % 64 + 1) * 256
            ∧ (∃ o ∈ t.ops, o.kind = .cfetch slot src ((desc / 16 % 64 + 1) * 256) ∧ o.t = c.t) ∧ Instr.cfetchLanded c.t.team slot ∈ t.agenda)

/-- R193, R286: nop changes nothing; yield marks the quantum of the thread's team as expired and offers its core; both go on. exit ends
the thread, once its logged accesses are over without a fault. -/
def Sys2Proof.Claims.ExitNopYield : Prop :=
  ∀ (i : Instr) (s : State) (c : Ctx) (s0 : State), i.wf = true → s.performs i = some (c, s0) →
    match i with
    | .nopBase _ | .nop _ => ∃ t, exec i s = .next t ∧ s.sameBut t c.t [] ∧ t.goesOn c
    | .yieldBase _ | .yield _ => ∃ t tm, exec i s = .next t ∧ t.goesOn c ∧ t.team c.t.team = some tm ∧ tm.expired = some (c.tm.expired.getD s.ns)
        ∧ Instr.quantumExpiry c.t.team ∈ t.agenda ∧ t.mem = s.mem
    | .exitBase _ | .exit _ => s.lostRed c.t = none → (∀ en ∈ c.th.log, en.fault = none) →
        ∃ t th, exec i s = .next t ∧ t.thread c.t = some th ∧ th.exited = true
    | _ => True

/-- R12, R178, R194, R195: bar waits until every thread of the team that has not exited waits at it, and the last to arrive lets all of
them go on; barn does so for the arrivals of one generation of one named barrier. -/
def Sys2Proof.Claims.Barriers : Prop :=
  ∀ (i : Instr) (s : State) (c : Ctx) (s0 : State), i.wf = true → s.performs i = some (c, s0) →
    c.th.exited = false → c.th.wait = none → s.lostRed c.t = none →
    let goOn (t : State) (l : List Nat) : Prop := ∀ k ∈ l, ∃ th0 th, c.tm.threads[k]? = some th0
      ∧ t.thread { team := c.t.team, tid := k } = some th ∧ th.wait = none
      ∧ th.pc = (if k = c.t.tid then c.next else (th0.wait.map (·.next)).getD th0.pc)
      ∧ ∀ j ∈ l, ((c.tm.threads[j]?).map (·.pts)).getD 0 ≤ th.pts
    let bar : Prop :=
      let atBar (k : Nat) : Prop := (c.tm.threads[k]?).bind Thread.why = some .bar
      ((∃ k ∈ c.tm.alive, k ≠ c.t.tid ∧ ¬atBar k) → ∃ t, exec i s = .next t ∧ t.waitsFor c.t .bar c.next)
        ∧ ((∀ k ∈ c.tm.alive, k ≠ c.t.tid → atBar k) → ∃ t, exec i s = .next t ∧ goOn t c.tm.alive)
    match i with
    | .barBase _ | .bar _ => bar
    | .barn _ =>
        let id := c.e.a.toNat
        let count := c.r.valImm c.e false 32
        (c.tm.barnWaiters id).length + 1 < count → ∃ t tm, exec i s = .next t ∧ t.waitsFor c.t (.barn id) c.next
          ∧ t.team c.t.team = some tm ∧ SMap.get 0 tm.barns id = count
    | _ => True

/-- R195: the arrival that completes a generation of a named barrier lets its threads go on. -/
def Sys2Proof.Claims.NamedBarrierCompletes : Prop :=
  ∀ (w : Words) (s : State) (c : Ctx) (s0 : State), (Instr.barn w).wf = true → s.performs (.barn w) = some (c, s0) →
    c.th.wait = none →
    let id := c.e.a.toNat
    let l := c.tm.barnWaiters id
    l.length + 1 = c.r.valImm c.e false 32 →
    ∃ t tm, exec (.barn w) s = .next t ∧ t.team c.t.team = some tm ∧ SMap.get 0 tm.barns id = 0
      ∧ ∀ k, k ∈ l ∨ k = c.t.tid → ∃ th0 th, c.tm.threads[k]? = some th0 ∧ t.thread { team := c.t.team, tid := k } = some th
        ∧ th.wait = none ∧ th.pc = if k = c.t.tid then c.next else (th0.wait.map (·.next)).getD th0.pc

/-- R12, R178, R194, R195: the team barrier and the named barriers wait and complete. -/
def Obligations.BarrierGenerations : Prop := Sys2Proof.Claims.Barriers ∧ Sys2Proof.Claims.NamedBarrierCompletes

/-- R196: sleep with 0 goes on at once; otherwise the thread waits until dtime reaches its value at issue plus b. -/
def Sys2Proof.Claims.SleepResult : Prop :=
  ∀ (w : Words) (s : State) (c : Ctx) (s0 : State), (Instr.sleep w).wf = true → s.performs (.sleep w) = some (c, s0) →
    let b := c.r.valImm c.e false 32
    ∃ t, exec (.sleep w) s = .next t
      ∧ if b = 0 then s.sameBut t c.t [] ∧ t.goesOn c else t.waitsFor c.t (.sleep (s.ns + b)) c.next ∧ t.mem = s.mem

/-- R193, R196, R286: exit, nop, yield and sleep complete. Log entry 8: what of it is the model's choice. -/
def Obligations.ExitNopYieldSleep : Prop := Sys2Proof.Claims.ExitNopYield ∧ Sys2Proof.Claims.SleepResult

/-- R16, R84, R197, R236: waitc and waito read their word as an ordinary load: where the condition holds (for waito, a value at or above
the target) the destination receives the word and the thread goes on; otherwise it registers a monitor of the word and waits. Log entry 16: what of it is the model's choice. -/
def Obligations.WatchedWord : Prop :=
  ∀ (w : Words) (isCount : Bool) (s : State) (c : Ctx) (s0 s1 : State) (l : Loc),
    let i : Instr := if isCount then .waito w else .waitc w
    i.wf = true → s.performs i = some (c, s0) →
    let n := if isCount then 8 else width c.e / 8
    let ea := c.r.ea c.e c.e.a false
    let fn := if isCount then 5 else c.e.fn.toNat
    let target := c.r.val c.e.b (8 * n)
    let rd (x : Nat) : Int := if !isCount && isSigned c.e then (BitVec.ofNat (8 * n) x).toInt else (x : Int)
    s0.locate (c.agent s0) c.e.space ea n n false (if isCount then 2 else 0) = .ok (s1, l) →
    (match l with | .phys _ type => if isCount then type = 0 else type ≠ 1 | _ => True) → s1.isFabric l = false → s1.poisoned l n = false →
    s1.linkGone l = false → (s1.isPosted l = true → Config.loadRefused s1.free = false ∧ Config.answerMarked s1.free = false) →
    s1.monitorCount (s1.asidOf c.tm) < 65536 →
    let word := (s1.load none (s1.ptsOf c.t) l n).2.1
    let true' : Prop := match fn with
      | 0 => rd word = rd target | 1 => rd word ≠ rd target | 2 => rd word < rd target | 3 => rd word ≤ rd target
      | 4 => rd word > rd target | _ => rd word ≥ rd target
    (true' → ∃ t, exec i s = .next t ∧ t.goesOn c ∧ t.holds c.t c.e.d (8 * n) false word)
      ∧ (¬true' → ∃ t, exec i s = .next t ∧ t.waitsFor c.t .monitor c.next
          ∧ ∃ m ∈ t.monitors, m.t = c.t ∧ m.loc = l ∧ m.n = n ∧ m.fn.toNat = fn ∧ m.value.toNat = target ∧ m.dest = c.e.d)

/-! ## Memory -/

namespace Sys2Proof.Claims

/-- R203: bytes of an access. -/
def bytes (e : Ext) : Nat := 2 ^ e.size.toNat

/-- R75, R204: what a load of n bytes at a place reads: the core's own copy of the line while its lease holds, else the place. -/
def loads (s : State) (core pts : Nat) (l : Loc) (n : Nat) : Nat :=
  match l with
  | .phys pa 0 =>
    match if core % 64 = 62 then none else s.l1Copy core pa with
    | some k => if pts ≤ k.rts then bytesNat ((k.bytes.drop (pa % 128)).take n) else s.mem.read pa n
    | none => s.mem.read pa n
  | _ => s.peek l n

/-- A place of ordinary memory: on chip, module memory, or host memory of type 2; no device register, no page of type 3. -/
def ordinary : Loc → Prop
  | .phys _ type => type = 0 ∨ type = 2
  | _ => True

/-- Every byte outside the n bytes at a place reads in `t` as in `s`. -/
def keepsOthers (s t : State) (l : Loc) (n : Nat) : Prop :=
  ∀ k : Loc, (match k with | .phys _ type => type ≠ 1 | _ => True) → l.meets n k 1 = false → t.peek k 1 = s.peek k 1

/-- R210: `x` is the new value of an atom. -/
def AtomGives (e : Ext) (old b c x : Nat) : Prop :=
  match e.fn.toNat with
  | 6 => x = b
  | 7 => x = if old = b then c else old
  | fn => Reduces fn e.ty (8 * bytes e) e.rnd [old, b] x

/-- R354: the lowest-numbered entry of the operand log that is free. -/
def FreeEntry (th : Thread) (k : Nat) : Prop :=
  k < 4 ∧ (∃ en, th.log[k]? = some en ∧ en.busy = false ∧ en.valid = false)
    ∧ ∀ j, j < k → ∃ en, th.log[j]? = some en ∧ (en.busy = true ∨ en.valid = true)

/-- The log entry that the issue has filled: it is busy until VAR_RESULT_RETURN, which is among the steps to come. -/
def Logged (t : State) (c : Ctx) (k : Nat) (en : LogEntry) : Prop :=
  (∃ th, t.thread c.t = some th ∧ th.log[k]? = some en) ∧ en.busy = true ∧ en.opcode = c.op ∧ Instr.varResultReturn c.t k ∈ t.agenda

end Sys2Proof.Claims

/-- R142, R203, R204, R354: ld completes: its log entry is the lowest free one, has the destination and the value that the bytes at the
place give, sign-extended to 32 bits for .i8 and .i16, and no byte of memory changes but for the translation's own bits. -/
def Obligations.LoadResult : Prop :=
  ∀ (i : Instr) (s : State) (c : Ctx) (s0 s1 : State) (l : Loc) (k : Nat), i.wf = true → s.performs i = some (c, s0) →
    (∃ w b, i = .ld w ∨ i = .ldBase b) → FreeEntry c.th k →
    let n := bytes c.e
    s0.locate (c.agent s0) c.e.space (c.r.ea c.e c.e.a false) n n false = .ok (s1, l) → s1.isFabric l = false →
    s1.loadMarked (l1Of (c.agent s0).core) (s1.ptsOf c.t) l n = false → s1.linkGone l = false →
    (s1.isPosted l = true → Config.loadRefused s1.free = false ∧ Config.answerMarked s1.free = false) →
    let v := loads s1 (c.agent s0).core (s1.ptsOf c.t) l n
    ∃ t en, exec i s = .next t ∧ t.goesOn c ∧ Logged t c k en ∧ en.dest = c.e.d ∧ en.fault = none ∧ en.size = c.e.size
      ∧ en.value = BitVec.ofNat 128 (if c.e.ty = 3 then ((BitVec.ofNat 8 v).signExtend 32).toNat else if c.e.ty = 4 then ((BitVec.ofNat 16 v).signExtend 32).toNat else v)
      ∧ t.mem = s1.mem ∧ keepsOthers s1 t l 0

/-- R204, R307: st completes: the low bytes of the data operand stand at the place, and every other byte of memory is unchanged; where the
place is of type 2 and its home does not hold the line, its log entry waits with the place, and memory is unchanged until the line has come.
Log entry 20: what of it is the model's choice. -/
def Obligations.StoreResult : Prop :=
  ∀ (i : Instr) (s : State) (c : Ctx) (s0 s1 : State) (l : Loc) (k : Nat), i.wf = true → s.performs i = some (c, s0) →
    (∃ w b, i = .st w ∨ i = .stBase b) → FreeEntry c.th k →
    let n := bytes c.e
    s0.locate (c.agent s0) c.e.space (c.r.ea c.e c.e.a false) n n true = .ok (s1, l) → ordinary l →
    (s1.unowned l = false → ∃ t en, exec i s = .next t ∧ t.goesOn c ∧ Logged t c k en ∧ en.fault = none ∧ en.place = none
        ∧ t.peek l n = c.r.val c.e.d (8 * n) % 2 ^ (8 * n) ∧ keepsOthers s1 t l n)
      ∧ (s1.unowned l = true → s1.linkGone l = false → ∃ t en, exec i s = .next t ∧ t.goesOn c ∧ Logged t c k en ∧ en.fault = none ∧ en.place = some l
        ∧ en.opb = BitVec.ofNat 128 (c.r.val c.e.d (8 * n)) ∧ t.mem = s1.mem ∧ keepsOthers s1 t l 0)

/-- R204, R210, R211, R307: atom completes, under the scope that R211 gives its place, as one read-modify-write: its log entry has the old value for
the destination, the new value stands at the place, and every other byte of memory is unchanged. In a page of type 2 whose line the home does not
hold, its log entry waits with the place, and memory is unchanged until the line has come. Log entry 20: what of it is the model's choice. -/
def Obligations.AtomResult : Prop :=
  ∀ (w : Words) (s : State) (c : Ctx) (s0 s1 : State) (l : Loc) (k : Nat), (Instr.atom w).wf = true → s.performs (.atom w) = some (c, s0) →
    FreeEntry c.th k →
    let n := bytes c.e
    s0.locate (c.agent s0) c.e.space (c.r.ea c.e c.e.a (c.e.fn = 7)) n n true 0 true = .ok (s1, l) → ordinary l → s1.poisoned l n = false →
    s1.linkGone l = false →
    c.e.scope = (match l with | .phys _ 2 => 2 | _ => 0) →
    let old := s1.peek l n
    (s1.unowned l = false → ∃ t en x, exec (.atom w) s = .next t ∧ t.goesOn c ∧ Logged t c k en ∧ en.dest = c.e.d ∧ en.fault = none ∧ en.place = none
        ∧ en.value = BitVec.ofNat 128 old ∧ AtomGives c.e old (c.r.val c.e.b (8 * n)) (if c.e.fn = 7 then c.r.val c.e.c (8 * n) else 0) x
        ∧ t.peek l n = x % 2 ^ (8 * n) ∧ keepsOthers s1 t l n)
      ∧ (s1.unowned l = true → ∃ t en, exec (.atom w) s = .next t ∧ t.goesOn c ∧ Logged t c k en ∧ en.dest = c.e.d ∧ en.fault = none ∧ en.place = some l
        ∧ t.mem = s1.mem ∧ keepsOthers s1 t l 0)

/-- R70, R354, R365: an access of the lane slice, the scratchpad or the chip scratchpad that is misaligned or reaches beyond its end still
issues: its log entry records cause 0x42, reason 0, or cause 0x43 with the space's reason, and the effective address, and memory is
unchanged. Log entry 24: what of it is the model's choice. -/
def Obligations.AccessFaultIsLogged : Prop :=
  ∀ (i : Instr) (s : State) (c : Ctx) (s0 : State) (k : Nat), i.wf = true → s.performs i = some (c, s0) →
    (c.op = 0x50 ∨ c.op = 0x51 ∨ c.op = 0x54) → FreeEntry c.th k → c.tm.wave = none →
    let n := bytes c.e
    let ea := (c.r.ea c.e c.e.a (c.op = 0x54 ∧ c.e.fn = 7)).toNat
    let la := s.launchOf c.tm
    let logs (code reason : Nat) : Prop := ∃ t en, exec i s = .next t ∧ t.goesOn c ∧ Logged t c k en
      ∧ en.fault = some { code, aux := BitVec.ofNat 64 (reason * 2 ^ 57 + ea) } ∧ t.mem = s.mem ∧ keepsOthers s t (.lane c.t 0) 0
    (c.e.space = 0 ∨ c.e.space = 1 ∨ c.e.space = 3 → ea % n ≠ 0 → logs 0x42 0)
      ∧ (ea % n = 0 → c.e.space = 0 → (la.body.lane + 1) * 256 < ea + n → logs 0x43 0)
      ∧ (ea % n = 0 → c.e.space = 1 → la.body.scr * 4096 < ea + n → logs 0x43 1)
      ∧ (ea % n = 0 → c.e.space = 3 → la.body.dscr * 65536 < ea + n → logs 0x43 3)

/-- R142, R265, R307, R354, R365, R418: VAR_RESULT_RETURN ends an access whose hod event, if it raised one, is over: an access with no fault writes
its value to its destination by R148 and frees the entry; one with a fault, or whose answer was to come by a port that has lost its link, leaves its
destination, makes the entry valid and a trap due; a store or atom that waits for its line goes on waiting until its home holds the line, and a store then
writes its bytes. Log entry 20: what of it is the model's choice. -/
def Obligations.VariableResultReturns : Prop :=
  ∀ (r : TRef) (k : Nat) (s : State) (th : Thread) (en : LogEntry), s.thread r = some th → th.log[k]? = some en → en.busy = true → k < 4 →
    s.hodHolds (.thread r) = false →
    let lost : Prop := ∃ f, en.link = some f ∧ f ∈ s.lost
    (∀ pa, en.place = some (.phys pa 2) → en.fault = none → ¬lost →
      (s.l2Holds pa = false → en.opcode ≠ 0x50 → s.linkGone (.phys pa 2) = false → ∃ t th' y, exec (.varResultReturn r k) s = .next t ∧ t.thread r = some th' ∧ t.mem = s.mem
          ∧ th'.v = th.v ∧ th'.log[k]? = some y ∧ y.busy = true ∧ y.fault = none ∧ y.place = en.place ∧ y.opb = en.opb ∧ Instr.varResultReturn r k ∈ t.agenda)
        ∧ (s.l2Holds pa = true → en.opcode = 0x51 → ∃ t th', exec (.varResultReturn r k) s = .next t ∧ t.thread r = some th'
            ∧ t.mem = s.mem.write pa (2 ^ en.size.toNat) en.opb.toNat ∧ th'.log[k]? = some {}))
    ∧ (en.place = none ∨ (en.fault = none ∧ lost) → ∃ t th', exec (.varResultReturn r k) s = .next t ∧ t.thread r = some th' ∧ t.mem = s.mem
      ∧ (en.fault = none → ¬lost → t.holds r en.dest (if en.size = 3 then 64 else if en.size = 4 then 128 else 32)
            (en.ty = 3 || en.ty = 4 || en.ty = 5 || en.ty = 6) en.value.toNat
          ∧ th'.log[k]? = some {})
      ∧ (en.fault ≠ none → th'.v = th.v ∧ (∀ j, t.sreg r.team j = s.sreg r.team j) ∧ th'.log[k]? = some { en with busy := false, valid := true }
          ∧ Instr.trapEntry r ∈ t.agenda)
      ∧ (en.fault = none → lost → th'.v = th.v ∧ Instr.trapEntry r ∈ t.agenda
          ∧ ∃ y f, th'.log[k]? = some y ∧ y.busy = false ∧ y.valid = true ∧ y.fault = some f ∧ f.code = 0x47))

/-- R212, R213: red completes: the contribution, with its target, operation, value, region and key, stands last in the atomic buffer of
its partition, a full buffer having been drained first; the target is unchanged. -/
def Sys2Proof.Claims.ReductionPlaced : Prop :=
  ∀ (w : Words) (s : State) (c : Ctx) (s0 s1 : State) (pa : Nat), (Instr.red w).wf = true → s.performs (.red w) = some (c, s0) →
    let n := if c.e.size = 3 then 64 else 32
    let ea := c.r.ea c.e c.e.a true
    s0.locate (c.agent s0) 4 ea (n / 8) (n / 8) true = .ok (s1, .phys pa 0) →
    let core := s.coreOf c.tm c.t.tid
    let part := s.partOf c.tm c.t.tid
    let before := ((s.core core).part part).reds
    ∃ t r, exec (.red w) s = .next t ∧ t.goesOn c ∧ t.mem = s1.mem
      ∧ ((t.core core).part part).reds = (if before.length < 1024 then before else before.filter (·.bad)) ++ [r]
      ∧ r.pa = pa ∧ r.op = c.e.fn ∧ r.ty = c.e.ty ∧ r.rnd = c.e.rnd ∧ r.value = BitVec.ofNat 64 (c.r.val c.e.b n) ∧ r.region = c.e.c.toNat
      ∧ r.key = [core, part, c.t.tid, c.tm.tix, c.th.reds] ∧ (t.thread c.t).map (·.reds) = some (c.th.reds + 1)

/-- R123, R213, R214, R216, R217, R219: the flush points rflush, rclose and fence drain the whole buffer of the thread's partition to the
pending sets; rclose then waits for every home that holds contributions of the region; fence.dev goes on; fence.fab and fence.sys go on where no
store of their own or of an engine operation, and for sys no relaxed host store, has an answer to come, and otherwise send a marker with the port's count on every port
that has carried a store since its last one, and wait for the answers. Log entries 19, 79: what of it is the model's choice. -/
def Obligations.FlushPoints : Prop :=
  ∀ (i : Instr) (s : State) (c : Ctx) (s0 : State), i.wf = true → s.performs i = some (c, s0) → s.lostRed c.t = none → c.tm.wave = none →
    let core := s.coreOf c.tm c.t.tid
    let part := s.partOf c.tm c.t.tid
    let before := ((s.core core).part part).reds
    let drains (t : State) : Prop := ((t.core core).part part).reds = before.filter (·.bad)
      ∧ (∀ r ∈ before, r.bad = false → ∀ x ∈ s.contexts, x.asid = r.asid → ∃ y ∈ t.contexts, y.asid = r.asid ∧ r ∈ y.pending) ∧ t.mem = s.mem
    match i with
    | .rflush _ => ∃ t, exec i s = .next t ∧ t.goesOn c ∧ drains t
    | .rclose _ =>
        let asid := c.tm.asid s
        let held (x : State) (h : Nat) : Prop := ∃ k r, x.context asid = some k ∧ r ∈ k.pending ∧ r.region = c.e.a.toNat ∧ h = x.homeOf r.pa
        ∃ t, exec i s = .next t ∧ drains t
          ∧ ((∀ h, ¬held t h) → t.goesOn c)
          ∧ ((∃ h, held t h) → ∃ homes, t.waitsFor c.t (.rclose c.e.a.toNat homes) c.next ∧ (∀ h, h ∈ homes ↔ held t h)
              ∧ ∀ h ∈ homes, Instr.regionCloseAtHome h asid { region := c.e.a.toNat, closer := c.t } ∈ t.agenda)
    | .fence _ =>
        ∃ t, exec i s = .next t ∧ drains t ∧ (c.e.scope = 0 → t.goesOn c)
          ∧ (c.e.scope = 1 → s.fabSince = [] → (∀ m ∈ s.markers, ∀ w ∈ m.who, s.covers c.t w = false) → t.goesOn c)
          ∧ (c.e.scope ≠ 0 → s.storesDone c.t → t.goesOn c)
          ∧ (c.e.scope ≠ 0 → s.fabSince ≠ [] → ∃ fab sys, t.waitsFor c.t (.fence fab sys) c.next ∧ ∀ p ∈ s.fabSince, ∃ m ∈ t.markers,
              m.port = p.1 ∧ m.count = SMap.get 0 s.fabSent p.1 ∧ m.id ∈ fab ∧ Instr.fenceMarkerAnswer m.id (s.fabLost.contains p.1) ∈ t.agenda)
          ∧ (c.e.scope = 2 → s.relaxed ≠ [] → ∃ fab sys, t.waitsFor c.t (.fence fab sys) c.next ∧ ∀ p ∈ s.relaxed, p.port ∈ sys)
    | _ => True

/-- R214, R215: a close at a home takes every accepted contribution of the region whose home it is and applies them to memory one at a
time in ascending order of key. -/
def Sys2Proof.Claims.RegionCloseApplies : Prop :=
  ∀ (slice asid region : Nat) (closer : TRef) (s : State) (x : Context), s.context asid = some x →
    let mine (r : Contribution) : Bool := r.region = region && s.homeOf r.pa = slice
    let n (r : Contribution) : Nat := if r.ty = 6 ∨ r.ty = 10 then 64 else 32
    ∃ t y, exec (.regionCloseAtHome slice asid { region, closer }) s = .next t ∧ t.context asid = some y ∧ y.pending = x.pending.filter (fun r => !mine r)
      ∧ t.mem = (sortBy (fun a b => keyLe a.key b.key) (x.pending.filter mine)).foldl (fun m r =>
          m.write r.pa (n r / 8) (combine r.op.toNat r.ty (n r) r.rnd (m.read r.pa (n r / 8)) r.value.toNat)) s.mem

/-- R212-R215: red places its contribution, and the close at a home applies what is pending there. -/
def Obligations.Reductions : Prop := Sys2Proof.Claims.ReductionPlaced ∧ Sys2Proof.Claims.RegionCloseApplies

/-! ## Rings -/

namespace Sys2Proof.Claims

/-- R353: a handler can take a trap of the thread: whether it is in a handler, that it is no grout lane, and that it is privileged or its
launch has a trap entry. -/
def canTrapAs (s : State) (tm : Team) (th : Thread) (inHandler : Bool) : Prop :=
  th.inTrap = inHandler ∧ tm.wave = none ∧ (s.privileged tm = true ∨ (s.launchOf tm).body.tentry ≠ 0)
def canTrap (s : State) (c : Ctx) (inHandler : Bool) : Prop := canTrapAs s c.tm c.th inHandler

/-- R264: the trap entry: ftvec of the die for a privileged thread, the launch's tentry for a user thread. -/
def entryOf (s : State) (tm : Team) : W32 :=
  if s.privileged tm then (SMap.get 0 s.csr (16 * (tm.core / 64) + 3)).setWidth 32 else (s.launchOf tm).body.tentry

/-- R264: a thread, `th0` before, has taken a trap: its trap registers, and its pc at the trap entry; its predicates, the depth of its call
stack, its lane slice and its signal mask as before. -/
def TookTrapAs (s t : State) (r : TRef) (tm : Team) (th0 : Thread) (code : Nat) (aux : W64) (tepc : W32) : Prop :=
  ∃ th, t.thread r = some th ∧ th.tcause = BitVec.ofNat 32 code ∧ th.taux = aux ∧ th.tepc = tepc ∧ th.inTrap = true ∧ th.pc = entryOf s tm
    ∧ th.wait = none ∧ th.p = th0.p ∧ th.depth = th0.depth ∧ th.lane = th0.lane ∧ th.sigmask = th0.sigmask
def TookTrap (s t : State) (c : Ctx) (code : Nat) (aux : W64) (tepc : W32) : Prop := TookTrapAs s t c.t c.tm c.th code aux tepc

/-- R350: an access that has faulted or will fault has a code above those of issue. -/
def logCodesHigh (th : Thread) : Prop := ∀ en ∈ th.log, ∀ f, en.fault = some f → 0x40 ≤ f.code

end Sys2Proof.Claims

/-- R81, R83, R120, R220: rget releases the slot that the thread held on the ring and completes: with the first slot of the fill order when
that slot is complete, with 0xFFFF_FFFF at end-of-stream; otherwise the thread waits. Log entry 7: what of it is the model's choice. -/
def Obligations.RingRead : Prop :=
  ∀ (w : Words) (s : State) (c : Ctx) (s0 : State) (r : Ring), (Instr.rget w).wf = true → s.performs (.rget w) = some (c, s0) →
    let k := c.e.a.toNat
    c.tm.rings[k]? = some r → r.filled = filledOf r.fill →
    let released (q : Ring) (taken : Option Nat) : Prop := ∀ j, (k, j) ∈ c.th.holds → taken ≠ some j → j ∉ q.held
    (r.eos = true → ∃ t q, exec (.rget w) s = .next t ∧ t.goesOn c ∧ t.holds c.t c.e.d 32 false 0xFFFFFFFF ∧ t.ring c.t.team k = some q ∧ released q none)
      ∧ (∀ j rest, r.eos = false → r.fill = .slot j true :: rest → ∃ t q, exec (.rget w) s = .next t ∧ t.goesOn c
          ∧ t.holds c.t c.e.d 32 false (r.base + j * r.size) ∧ t.ring c.t.team k = some q ∧ q.head = (r.head + 1) % r.count ∧ j ∈ q.held
          ∧ released q (some j) ∧ (∃ th, t.thread c.t = some th ∧ (k, j) ∈ th.holds))
      ∧ (r.eos = false → r.filled = 0 → 1 ≤ r.prod → r.tok = r.prod → ∃ t q, exec (.rget w) s = .next t ∧ t.goesOn c
          ∧ t.holds c.t c.e.d 32 false 0xFFFFFFFF ∧ t.ring c.t.team k = some q ∧ q.eos = true)
      ∧ (r.eos = false → r.filled = 0 → ¬(1 ≤ r.prod ∧ r.tok = r.prod) → ∃ t, exec (.rget w) s = .next t ∧ t.waitsFor c.t (.rget k c.e.d) c.next)

/-- R81, R82, R221, R289: rput completes when no earlier request waits, slot res is free and the core's push queue has room: that slot is reserved and
holds the bytes of the source; with an earlier request, or no free slot, its request is accepted behind the earlier ones and the thread waits. -/
def Sys2Proof.Claims.RingWrite : Prop :=
  ∀ (w : Words) (s : State) (c : Ctx) (s0 : State) (r : Ring), (Instr.rput w).wf = true → s.performs (.rput w) = some (c, s0) →
    let k := c.e.d.toNat
    let ea := c.r.ea c.e c.e.a false
    c.tm.rings[k]? = some r → r.eos = false → s0.slotFaults (c.agent s0) c.e.space ea (r.size / 16) = [] →
    s.windowFor (s.coreOf c.tm c.t.tid) (.ring c.t k (.put c.t c.e.space ea)) = [] →
    (∀ src : Nat → Byte, s.pushQueue c.tm.core < 16 → r.reqs = [] → r.canReserve = true → ea.toNat + r.size < 2 ^ 32 →
        (c.e.space = 0 ∧ c.th.lanePoison = [] ∧ src = c.th.lane.get
          ∨ c.e.space = 1 ∧ c.tm.scratchPoison = [] ∧ src = c.tm.scratch.get) →
        ∃ t q tm, exec (.rput w) s = .next t ∧ t.goesOn c ∧ t.ring c.t.team k = some q ∧ q.res = (r.res + 1) % r.count ∧ t.team c.t.team = some tm
          ∧ ∀ x, x < r.size / 16 * 16 → tm.scratch.get (r.base + r.res * r.size + x) = src (ea.toNat + x))
      ∧ (∀ s1, s.pushQueue c.tm.core < 16 → r.reqs = [] → r.canReserve = true → (c.revoke s0).putSlot c.t k c.e.space ea = .ok s1 → ∃ t, exec (.rput w) s = .next t ∧ t.goesOn c)
      ∧ (s.pushQueue c.tm.core < 16 → r.reqs ≠ [] ∨ r.canReserve = false → ∃ t q, exec (.rput w) s = .next t ∧ t.waitsFor c.t (.ringSlot k) c.next ∧ t.ring c.t.team k = some q
          ∧ q.reqs = r.reqs ++ [.put c.t c.e.space ea])

/-- R83, R223, R365: rjoin adds 1 to prod and makes the thread owe a token; it has no effect where it owes one, and the 256th registration is ring misuse
of reason 1. -/
def Sys2Proof.Claims.RingJoin : Prop :=
  ∀ (w : Words) (s : State) (c : Ctx) (s0 : State) (r : Ring), (Instr.rjoin w).wf = true → s.performs (.rjoin w) = some (c, s0) →
    let k := c.e.a.toNat
    c.tm.rings[k]? = some r →
    (k ∈ c.th.owes → ∃ t, exec (.rjoin w) s = .next t ∧ t.goesOn c ∧ s.sameBut t c.t [])
      ∧ (k ∉ c.th.owes → r.prod < 255 → ∃ t th, exec (.rjoin w) s = .next t ∧ t.goesOn c
          ∧ t.ring c.t.team k = some { r with prod := r.prod + 1 } ∧ t.thread c.t = some th ∧ k ∈ th.owes)
      ∧ (k ∉ c.th.owes → r.prod = 255 → canTrap s c false → (∀ en ∈ c.th.log, en.fault = none) → ∃ t, exec (.rjoin w) s = .next t
          ∧ TookTrap s t c 0x48 (BitVec.ofNat 64 (2 ^ 57)) c.th.pc ∧ t.ring c.t.team k = some r)

/-- R83, R222: reos of a thread that owes a token waits while a ring copy of its own has slots to reserve. Otherwise it sends the token, which is taken behind
the requests before it: behind every slot in the fill order, or, with every slot read, at once, where it counts. -/
def Sys2Proof.Claims.RingEnd : Prop :=
  ∀ (w : Words) (s : State) (c : Ctx) (s0 : State) (r : Ring), (Instr.reos w).wf = true → s.performs (.reos w) = some (c, s0) →
    let k := c.e.a.toNat
    c.tm.rings[k]? = some r → k ∈ c.th.owes →
    let sends (q : Ring) : Prop := ∃ t th, exec (.reos w) s = .next t ∧ t.goesOn c ∧ t.thread c.t = some th ∧ k ∉ th.owes ∧ t.ring c.t.team k = some q
    (s.copiesReserving c.t k = true → ∃ t, exec (.reos w) s = .next t ∧ t.waitsFor c.t (.reos k) c.next)
      ∧ (s.copiesReserving c.t k = false →
        (∃ t th, exec (.reos w) s = .next t ∧ t.goesOn c ∧ t.thread c.t = some th ∧ k ∉ th.owes)
          ∧ (∀ x rest, r.reqs = x :: rest → x ≠ .token → r.canReserve = false → sends { r with reqs := r.reqs ++ [.token] })
          ∧ (r.reqs = [] → s.ringReaders c.t.team k = [] → r.filled = filledOf r.fill →
            (∀ j b rest, r.fill = .slot j b :: rest → sends { r with fill := r.fill ++ [.token] })
              ∧ (r.fill = [] → sends { r with tok := r.tok + 1 })))

/-- R83: the join and the end of a producer. -/
def Sys2Proof.Claims.RingProducers : Prop := Sys2Proof.Claims.RingJoin ∧ Sys2Proof.Claims.RingEnd

/-- R81-R83, R221-R223, R289, R365: rput, rjoin and reos. Log entry 7: what of it is the model's choice. -/
def Obligations.RingSlotsAndProducers : Prop := Sys2Proof.Claims.RingWrite ∧ Sys2Proof.Claims.RingProducers

/-! ## Futures and tasks -/

namespace Sys2Proof.Claims

/-- R225, R226: word 0 of a task record after the discharge of future f with state st: join one less, bit f of pmask set when st is 2,
state 2 when join is 0. -/
def discharged (w f st : Nat) : Nat :=
  let join := (w / 8 % 8 + 7) % 8
  w % 8 + 8 * join + 64 * (if join = 0 then 2 else w / 64 % 4) + 256 * ((w / 256 % 16) ||| (if st = 2 then 2 ^ f else 0)) + w / 4096 * 4096

end Sys2Proof.Claims

/-- R224, R226, R229: fres and fres.poison of a pending future complete: its word gets state 1, or 2 for a poisoning, the payload and count
0; every registration held for it is discharged, in the order in which they were made, and none is left; a task whose join becomes 0 starts. -/
def Sys2Proof.Claims.FutureResolved : Prop :=
  ∀ (w : Words) (poison : Bool) (s : State) (c : Ctx) (s0 s1 : State) (pa : Nat),
    let i : Instr := if poison then .fresPoison w else .fres w
    i.wf = true → s.performs i = some (c, s0) → c.objectAt s0 (c.r.ea c.e c.e.a false) 8 = .ok (s1, pa) → s1.mem.read pa 8 % 4 = 0 →
    let st := if poison then 2 else 1
    let held := s.contexts.flatMap fun k => (k.regs.filter (·.future = pa)).map fun r => (k.asid, r)
    let after := s1.mem.write pa 8 (st + c.r.val c.e.b 64 % 2 ^ 48 * 2 ^ 16)
    ∃ t l, exec i s = .next t ∧ t.goesOn c ∧ List.Perm l held ∧ l.Pairwise (fun a b => a.2.seq ≤ b.2.seq)
      ∧ t.mem = l.foldl (fun m r => m.write r.2.record 8 (discharged (m.read r.2.record 8) r.2.f st)) after
      ∧ (∀ k ∈ t.contexts, ∀ r ∈ k.regs, r.future ≠ pa)
      ∧ (∀ asid r, held = [(asid, r)] → after.read r.record 8 / 8 % 8 = 1 → Instr.taskLaunch asid r.va ∈ t.agenda)

/-- R225, R227, R229, R230: tspawn of a sound record completes: state 2 and pmask 0, and the task starts. treg completes: with no future named
the task starts at once; with one to four futures, every pending one has its count raised and its registration held, in their order, every other
is discharged at once, a poisoned one setting its bit of pmask, and join is the number of the pending ones: with none, the task starts. -/
def Sys2Proof.Claims.TaskRegistered : Prop :=
  ∀ (w : Words) (s : State) (c : Ctx) (s0 s1 : State) (pa : Nat),
    let ea := c.r.ea c.e c.e.a false
    let starts (t : State) : Prop := Instr.taskLaunch (s.asidOf c.tm) ea.toNat ∈ t.agenda
    c.objectAt s0 ea 64 = .ok (s1, pa) →
    let r := s1.mem.read pa 64
    let w0 := r % 2 ^ 64
    recordFault r = none →
    ((Instr.tspawn w).wf = true → s.performs (.tspawn w) = some (c, s0) →
        ∃ t, exec (.tspawn w) s = .next t ∧ t.goesOn c ∧ starts t ∧ t.mem = s1.mem.write pa 8 (w0 % 64 + 64 * 2 + w0 / 4096 * 4096))
    ∧ ((Instr.treg w).wf = true → s.performs (.treg w) = some (c, s0) →
        (w0 % 8 = 0 → ∃ t, exec (.treg w) s = .next t ∧ t.goesOn c ∧ starts t ∧ t.mem = s1.mem.write pa 8 (64 * 2 + w0 / 4096 * 4096))
        ∧ ∀ s2 futs, 1 ≤ w0 % 8 → c.futures s1 r (numbers 0 (w0 % 8)) = .ok (s2, futs) → (futs.map (·.2)).Nodup → (∀ f ∈ futs, f.2 + 8 ≤ pa ∨ pa + 64 ≤ f.2) →
            (∀ f ∈ futs, s2.registeredAt (s2.homeOf f.2) + w0 % 8 ≤ 1024
              ∧ s2.windowFor (s.coreOf c.tm c.t.tid) (.treg (s2.homeOf f.2) c.t 0 0 { future := f.2, record := pa, va := ea.toNat, f := f.1 }) = []) →
            let state (f : Nat × Nat) : Nat := s2.mem.read f.2 8 % 4
            let pending := futs.filter fun f => state f = 0
            let poisoned := futs.filter fun f => state f = 2
            (∀ f ∈ futs, state f < 3 ∧ (state f = 0 → s2.mem.read f.2 8 / 4 % 2 ^ 14 < 16383)) →
            ∃ t, exec (.treg w) s = .next t ∧ t.goesOn c
              ∧ t.mem.read pa 8 = w0 % 8 + 8 * pending.length + 64 * (if pending = [] then 2 else 1) + 256 * (poisoned.map fun f => 2 ^ f.1).sum + w0 / 4096 * 4096
              ∧ (∀ f ∈ futs, t.mem.read f.2 8 = if state f = 0 then (s2.mem.read f.2 8 + 4) % 2 ^ 64 else s2.mem.read f.2 8)
              ∧ (∀ k, s.context (s.asidOf c.tm) = some k → ∃ k', t.context (s.asidOf c.tm) = some k' ∧ k'.regs = k.regs
                  ++ pending.mapIdx fun j f => { future := f.2, record := pa, va := ea.toNat, f := f.1, seq := s2.nextSent + j })
              ∧ (pending = [] → starts t))

/-- R225-R230: futures are resolved and poisoned, and tasks registered and started. Log entry 26: what of it is the model's choice. -/
def Obligations.FuturesAndTasks : Prop := Sys2Proof.Claims.FutureResolved ∧ Sys2Proof.Claims.TaskRegistered

/-! ## Engines -/

namespace Sys2Proof.Claims

/-- R200, R201, R202: the completion word's space and effective address. -/
def completion (c : Ctx) : BitVec 3 × W64 :=
  let sp := c.e.x.extractLsb' 4 3
  (sp, c.r.ea0 c.e.c sp (((c.e.lit.getD 0).extractLsb' 32 16).signExtend 64))

/-- R201: an address of Q's 16-bit offset from bit `lo` on. -/
def engineAddr (c : Ctx) (base : BitVec 11) (space : BitVec 3) (lo : Nat) : W64 :=
  c.r.ea0 base space (((c.e.lit.getD 0).extractLsb' lo 16).signExtend 64)

/-- R244: the core whose engines the instruction uses: for the matrix instructions the lower core of a pair. -/
def engineOf (s : State) (c : Ctx) : Nat := if 0x68 ≤ c.op ∧ c.op ≤ 0x6E then c.tm.core else s.coreOf c.tm c.t.tid

/-- R119, R202: the instruction completes at issue and an engine operation of that kind is in flight, with its completion word and that many
element accesses to come; what the engine then does is ENGINE_OP_COMPLETE. -/
def Starts (i : Instr) (s : State) (c : Ctx) (kind : EngKind) (elements : Nat) : Prop :=
  ∃ t o, exec i s = .next t ∧ t.goesOn c ∧ o ∈ t.ops ∧ o.kind = kind ∧ o.t = c.t ∧ o.core = engineOf s c ∧ o.word = some (completion c)
    ∧ o.todo = List.range elements

/-- R202, R242: with no element to move the instruction completes at once, with no operation left in flight: a completion word in the scratchpad
has 1 added. -/
def CompletesAtOnce (i : Instr) (s s0 : State) (c : Ctx) : Prop :=
  ∃ t, exec i s = .next t ∧ t.goesOn c ∧ t.ops = s.ops
    ∧ ∀ k off, (c.checkWord s0).loc = some (.scr k off) → t.peek (.scr k off) 8 = (s.peek (.scr k off) 8 + 1) % 2 ^ 64

/-- R202, R244: fewer than 64 operations are in flight on the core whose engines it uses, and the completion word is sound. -/
def EngineReady (s0 : State) (c : Ctx) : Prop :=
  (s0.ops.filter (·.core = engineOf s0 c)).length < 64 ∧ (c.checkWord s0).faults = []

end Sys2Proof.Claims

/-- R201, R202, R208, R231, R233, R235: cpy, gath, scat, ldt, stt and coll start their operation with everything they capture, once the checks
at issue find nothing; cpy of no bytes, and gath and scat of no elements, complete at once (R242). -/
def Sys2Proof.Claims.CopyEngineStarts : Prop :=
  ∀ (i : Instr) (s : State) (c : Ctx) (s0 : State), i.wf = true → s.performs i = some (c, s0) → EngineReady s0 c →
    let dst := engineAddr c c.e.d c.e.space 0
    let ss := c.e.x.extractLsb' 7 3
    let src := engineAddr c c.e.a ss 16
    let count := if c.e.b = 2047 then ((c.e.lit.getD 0).extractLsb' 48 16).toNat else c.r.val c.e.b 32
    let w := c.checkWord s0
    let list := c.readDesc w.s 1 (BitVec.ofNat 64 (c.r.val c.e.b 32)) 4 4 0
    let words := c.readWords list.s (eaPlus 1 (BitVec.ofNat 64 (c.r.val c.e.b 32)) 4) list.value
    let indexed (kind : List Nat → EngKind) : Prop := list.faults = [] → c.listFaults list.s (BitVec.ofNat 64 (c.r.val c.e.b 32)) list.value = [] →
      words.1.faults = [] → if words.2 = [] then CompletesAtOnce i s s0 c else Starts i s c (kind words.2) words.2.length
    let h := c.handleRecord s0 c.e.a.toNat
    let d := c.readDesc w.s 1 (c.r.ea0 c.e.b 1 (((c.e.lit.getD 0).extractLsb' 16 16).signExtend 64)) 16 16
    let tile (kind : EngKind) : Prop := d.faults = [] → tileFaults c.e.a.toNat d.value 4 0 = [] → (Handle.ofRecord h).valid = true →
      bxFaults c.e.a.toNat d.value (Handle.ofRecord h).fmt = [] → Starts i s c kind ((TileDesc.ofBits d.value).count (Handle.ofRecord h).fmt)
    match i with
    | .cpy _ => if count = 0 then CompletesAtOnce i s s0 c else Starts i s c (.cpy c.e.space dst ss src count) ((dst.toNat % 16 + count + 15) / 16)
    | .gath _ => indexed fun l => .gath c.e.space dst ss src (2 ^ c.e.size.toNat) l
    | .scat _ => indexed fun l => .scat c.e.space dst ss src (2 ^ c.e.size.toNat) l
    | .ldt _ => tile (.ldt h c.e.space dst (TileDesc.ofBits d.value))
    | .stt _ => tile (.stt h c.e.space dst (TileDesc.ofBits d.value))
    | .coll _ =>
        let g := c.readDesc w.s 4 (engineAddr c c.e.a 4 16) 64 64
        g.faults = [] → collFaults c.e.fn.toNat g.value = [] →
          Starts i s c (.coll c.e.fn.toNat (CollDesc.ofBits g.value))
            ((if c.e.fn = 1 then (CollDesc.ofBits g.value).members * (CollDesc.ofBits g.value).count else (CollDesc.ofBits g.value).count)
              + (CollDesc.ofBits g.value).members + if c.e.fn = 2 then (CollDesc.ofBits g.value).members * (CollDesc.ofBits g.value).count else 0)
    | _ => True

/-- R232: a ring copy with a sound completion word and a count that is a non-zero multiple of the slot size starts, its request being the
descriptor's only one. -/
def Sys2Proof.Claims.RingCopyStarts : Prop :=
  ∀ (w : Words) (s : State) (c : Ctx) (s0 : State) (r : Ring), (Instr.cpyRing w).wf = true → s.performs (.cpyRing w) = some (c, s0) → EngineReady s0 c →
    let count := if c.e.b = 2047 then ((c.e.lit.getD 0).extractLsb' 48 16).toNat else c.r.val c.e.b 32
    c.tm.rings[c.e.d.toNat]? = some r → r.eos = false → count ≠ 0 → count % r.size = 0 → r.reqs = [] → (∀ o ∈ s.ops, o.id < s.nextOp) →
    (s.windowFor (s.coreOf c.tm c.t.tid) (.ring c.t c.e.d.toNat (.copy 0))).length < 32 →
    ∃ t o slots, exec (.cpyRing w) s = .next t ∧ t.goesOn c ∧ o ∈ t.ops ∧ o.t = c.t ∧ o.word = some (completion c)
      ∧ o.kind = .ring c.e.d.toNat (c.e.x.extractLsb' 7 3) (engineAddr c c.e.a (c.e.x.extractLsb' 7 3) 16) count slots

/-- R201, R202, R208, R231-R233, R235: the copy-engine instructions start their operation. Log entries 21, 60: what of it is the model's choice. -/
def Obligations.Copies : Prop := Sys2Proof.Claims.CopyEngineStarts ∧ Sys2Proof.Claims.RingCopyStarts

/-- R244-R255: with the trowel held or no participant, mwld, mop and mrd start their operation in matrix order once the checks at issue find
nothing; mflip exchanges the planes at once when no earlier matrix operation of the team is in flight, and takes its place in matrix order
otherwise. Log entry 25: what of it is the model's choice. -/
def Obligations.MatrixOperationsStart : Prop :=
  ∀ (i : Instr) (s : State) (c : Ctx) (s0 : State), i.wf = true → s.performs i = some (c, s0) →
    (c.tm.mat.members = [] ∨ c.tm.mat.holder = some c.t.tid) →
    let w := c.checkWord s0
    let tile (n : Nat) := c.readDesc w.s 1 (c.r.ea0 c.e.b 1 (((c.e.lit.getD 0).extractLsb' 16 16).signExtend 64)) n n
    let ordered : Prop := ∃ t tm o, exec i s = .next t ∧ t.team c.t.team = some tm ∧ o ∈ t.ops ∧ o.t = c.t ∧ tm.mat.order = c.tm.mat.order ++ [o.id]
    match i with
    | .mflip _ =>
        (c.tm.mat.order = [] → ∃ t tm, exec i s = .next t ∧ t.goesOn c ∧ t.team c.t.team = some tm
            ∧ tm.mat.active = c.tm.mat.shadow ∧ tm.mat.shadow = c.tm.mat.active ∧ tm.mat.tiles = c.tm.mat.tiles)
          ∧ (c.tm.mat.order ≠ [] → (∃ t, exec i s = .next t ∧ t.goesOn c) ∧ ordered)
    | .mwld _ =>
        let n := c.e.a.toNat
        let h := Handle.ofRecord (c.handleRecord s0 n)
        let d := tile 32
        let bm := d.value / 2 ^ 128 % 2 ^ 57
        EngineReady s0 c → d.faults = [] → tileFaults n d.value 4 0 = [] → reservedFaults n d.value [(2, 63, 57), (3, 63, 0)] = [] →
          (bm = 0 ∨ c.bitmapFaults d.s n 16 bm = []) → h.valid = true → (∃ top, s0.mwldTop h.fmt = some top ∧ tileCols d.value ≤ top) → bxFaults n d.value h.fmt = [] →
          ordered ∧ Starts i s c (.mwld (c.handleRecord s0 n) (TileDesc.ofBits d.value) bm)
            ((TileDesc.ofBits d.value).count h.fmt + if bm = 0 then 0 else (TileDesc.ofBits d.value).rows * (((TileDesc.ofBits d.value).cols + 63) / 64))
    | .mop _ =>
        let d := c.readDesc w.s 1 (c.r.ea0 c.e.a 1 (((c.e.lit.getD 0).extractLsb' 16 16).signExtend 64)) 64 64
        let n := d.value / 2 ^ 40 % 2 ^ 8
        let b := MopBlock.ofBits d.value
        let h := Handle.ofRecord (c.handleRecord s0 n)
        EngineReady s0 c → d.faults = [] → c.mopFaults d.s d.value = [] → h.valid = true → d.s.mopHandleFaults n b h (s0.planeHeads c.tm.mat).1 = [] →
          ordered ∧ Starts i s c (.mop b (c.handleRecord s0 n)) (mopRows b)
    | .mrd _ =>
        let n := c.e.a.toNat
        let h := Handle.ofRecord (c.handleRecord s0 n)
        let acc := (s.launchOf c.tm).body.acc
        let d := tile 16
        EngineReady s0 c → d.faults = [] → tileFaults n d.value 2 0 = [] → c.e.d.toNat < acc → h.valid = true → s0.mrdFmtOk h.fmt = true →
          (isComplex h.fmt = true → c.e.d.toNat + 1 < acc) →
          ordered ∧ Starts i s c (.mrd c.e.d.toNat (c.handleRecord s0 n) (TileDesc.ofBits d.value) c.e.rnd c.e.sat)
            ((TileDesc.ofBits d.value).rows * (TileDesc.ofBits d.value).cols)
    | _ => True

/-- R256-R259: xfwd, xinv, qbx and dqbx start their operation on the captured handles, once the checks at issue find nothing. -/
def Obligations.TransformsStart : Prop :=
  ∀ (i : Instr) (s : State) (c : Ctx) (s0 : State), i.wf = true → s.performs i = some (c, s0) → EngineReady s0 c →
    let nd := c.e.d.toNat
    let ns := c.e.a.toNat
    let rd := c.handleRecord s0 nd
    let rs := c.handleRecord s0 ns
    let hd := Handle.ofRecord rd
    let hs := Handle.ofRecord rs
    let starts (kind : EngKind) (faults : List TrapInfo) (blocks : Nat) : Prop := faults = [] → Starts i s c kind (hs.d1 * hs.d2 * hs.d3 * blocks)
    match i with
    | .xfwd _ => starts (.xfwd rd rs) (transformFaults true nd ns hd hs) (hs.d0 / blkSize hd.blk)
    | .xinv _ => starts (.xinv rd rs) (transformFaults false nd ns hd hs) (hs.d0 / storedLen hs)
    | .qbx _ => starts (.qbx nd rd rs c.e.rnd) (quantFaults true nd ns hd hs) (hs.d0 / 32)
    | .dqbx _ => starts (.dqbx rd rs c.e.rnd c.e.sat) (quantFaults false nd ns hd hs) (hs.d0 / 32)
    | _ => True

/-- R246, R247, R248: mjoin appends the thread to the trowel list, the first participant becoming the holder, and has no effect where it is
listed; mtake goes on where the thread holds the trowel and waits where it is listed; mpass gives the trowel to the next participant in list
order, whose pts rises to the passer's and whose mtake ends. -/
def Obligations.Trowel : Prop :=
  ∀ (i : Instr) (s : State) (c : Ctx) (s0 : State), i.wf = true → s.performs i = some (c, s0) →
    let m := c.tm.mat
    let k := c.t.tid
    match i with
    | .mjoin _ =>
        (k ∈ m.members → ∃ t, exec i s = .next t ∧ t.goesOn c ∧ s.sameBut t c.t [])
          ∧ (k ∉ m.members → m.members.length < 64 → ∃ t tm, exec i s = .next t ∧ t.goesOn c ∧ t.team c.t.team = some tm
              ∧ tm.mat.members = m.members ++ [k] ∧ tm.mat.holder = if m.members = [] then some k else m.holder)
    | .mtake _ =>
        (m.holder = some k → ∃ t, exec i s = .next t ∧ t.goesOn c ∧ s.sameBut t c.t [])
          ∧ (m.holder ≠ some k → k ∈ m.members → ∃ t, exec i s = .next t ∧ t.waitsFor c.t .mtake c.next)
    | .mpass _ =>
        ∀ a b, m.holder = some k → m.members = a ++ k :: b → k ∉ a → c.th.wait = none →
          let next := (b ++ a ++ [k]).headD k
          ∃ t tm, exec i s = .next t ∧ t.goesOn c ∧ t.team c.t.team = some tm ∧ tm.mat.holder = some next ∧ tm.mat.members = m.members
            ∧ ∀ th0, c.tm.threads[next]? = some th0 → next ≠ k → ∃ th, t.thread { team := c.t.team, tid := next } = some th ∧ c.th.pts ≤ th.pts
                ∧ (∀ n, th0.waitsFor .mtake n → th.wait = none ∧ th.pc = n)
    | _ => True

/-- R103, R104, R106, R109, R261, R262: thset reads a 64-byte record, writes it to the handle where its status is 0 and leaves the handle
otherwise, and gives the status; thget stores the handle's record. -/
def Sys2Proof.Claims.HandleTable : Prop :=
  ∀ (w : Words) (s : State) (c : Ctx) (s0 s1 : State) (l : Loc),
    let ea := c.r.ea c.e c.e.a false
    let n := c.e.b.toNat
    ((Instr.thset w).wf = true → s.performs (.thset w) = some (c, s0) → s0.locate (c.agent s0) c.e.space ea 64 64 false 2 = .ok (s1, l) →
      ∀ s2 r, s1.readWide c.t (c.agent s0).core l ((c.agent s0).req ea.toNat 0 (some (.thread c.t))) 8 0 = (s2, .ok r) →
      ((∃ i off, l = .scr i off) → r = s1.peek l 64) ∧
      ∃ t, exec (.thset w) s = .next t ∧ t.goesOn c ∧ t.holds c.t c.e.d 32 false (s2.recordStatus r)
        ∧ ∀ k, s.context (s.asidOf c.tm) = some k → ∃ k', t.context (s.asidOf c.tm) = some k'
          ∧ SMap.get 0 k'.handles n = (if s2.recordStatus r = 0 then r else SMap.get 0 k.handles n)
          ∧ ∀ j, j ≠ n → SMap.get 0 k'.handles j = SMap.get 0 k.handles j)
    ∧ ((Instr.thget w).wf = true → s.performs (.thget w) = some (c, s0) → s0.locate (c.agent s0) c.e.space ea 64 64 true 2 = .ok (s1, l) → ordinary l →
      ∃ t, exec (.thget w) s = .next t ∧ t.goesOn c ∧ t.peek l 64 = c.handleRecord s0 n % 2 ^ 512 ∧ keepsOthers s1 t l 64)

/-- R261: the status of a record that is not valid is 0; of a valid record it is 1 for a reserved field, 2 for a reserved format, a block format of a module
without feature 6 (log entry 81), or an extent out of range, 3 for a misaligned field, 4 for a block format whose first extent is not a multiple of 32, and 5 for a wrong domain or block. -/
def Sys2Proof.Claims.RecordStatus : Prop :=
  ∀ (s : State) (r : Nat),
    let h := Handle.ofRecord r
    let f (k hi lo : Nat) : Nat := r / 2 ^ (64 * k + lo) % 2 ^ (hi + 1 - lo)
    let reserved : Prop := f 0 63 57 ≠ 0 ∨ f 1 63 57 ≠ 0 ∨ f 2 63 48 ≠ 0 ∨ f 3 63 48 ≠ 0 ∨ f 4 63 48 ≠ 0 ∨ f 5 63 48 ≠ 0 ∨ f 6 63 48 ≠ 0
      ∨ f 7 31 16 ≠ 0 ∨ f 7 9 8 ≠ 0 ∨ f 7 6 4 ≠ 0
    let extents : Prop := f 7 3 0 = 15 ∨ ((f 7 3 0 = 11 ∨ f 7 3 0 = 12) ∧ s.present 6 = false) ∨ f 2 23 0 = 0 ∨ f 2 47 24 = 0 ∨ f 3 23 0 = 0 ∨ f 3 47 24 = 0
      ∨ (f 7 11 10 < 1 ∧ f 2 47 24 ≠ 1) ∨ (f 7 11 10 < 2 ∧ f 3 23 0 ≠ 1) ∨ (f 7 11 10 < 3 ∧ f 3 47 24 ≠ 1)
    (f 7 7 7 = 0 → s.recordStatus r = 0)
      ∧ (f 7 7 7 = 1 → reserved → s.recordStatus r = 1)
      ∧ (f 7 7 7 = 1 → ¬reserved → extents → s.recordStatus r = 2)
      ∧ (f 7 7 7 = 1 → ¬reserved → ¬extents → h.aligned = false → s.recordStatus r = 3)
      ∧ (f 7 7 7 = 1 → ¬reserved → ¬extents → h.aligned = true → (h.fmt = 11 ∨ h.fmt = 12) → h.d0 % 32 ≠ 0 → s.recordStatus r = 4)
      ∧ (f 7 7 7 = 1 → ¬reserved → ¬extents → h.aligned = true → ¬((h.fmt = 11 ∨ h.fmt = 12) ∧ h.d0 % 32 ≠ 0) →
          s.recordStatus r = if h.domainOk then 0 else 5)

/-- R103-R109, R261, R262: thset and thget, and the status of a handle record. Log entries 22, 123: what of it is the model's choice. -/
def Obligations.Handles : Prop := Sys2Proof.Claims.HandleTable ∧ Sys2Proof.Claims.RecordStatus

/-! ## Traps, privileged registers, signals -/

/-- R264: trap takes a trap with cause 0x20, taux the 32 bits of B zero-extended, and tepc the address of the next instruction; the thread
goes on at its trap entry. -/
def Sys2Proof.Claims.SoftwareTrap : Prop :=
  ∀ (w : Words) (s : State) (c : Ctx) (s0 : State), (Instr.trap w).wf = true → s.performs (.trap w) = some (c, s0) →
    canTrap s c false → logCodesHigh c.th →
    ∃ t, exec (.trap w) s = .next t ∧ TookTrap s t c 0x20 (BitVec.ofNat 64 (c.r.valImm c.e false 32)) c.next ∧ t.mem = s.mem ∧ t.csr = s.csr
      ∧ ∀ u, u.team ≠ c.t.team → t.thread u = s.thread u

/-- R264, R349, R350, R351: an instruction of a launch's thread that meets causes at issue has no effect: the thread takes a trap whose code
is the lowest among them, with tepc the instruction's own address. -/
def Sys2Proof.Claims.CauseAtIssueTraps : Prop :=
  ∀ (i : Instr) (s : State) (op : Nat) (e : Ext) (ws : List W32) (c : Ctx) (s0 : State),
    i.wf = true → i.parts = some (op, e, ws) → s.ctx op e ws = some (c, s0) →
    let causes := c.causes s0 (guardTrue e c.r.p)
    causes ≠ [] → canTrap s c false → logCodesHigh c.th →
    ∃ t f, exec i s = .next t ∧ f ∈ causes ∧ (∀ g ∈ causes, f.code ≤ g.code) ∧ TookTrap s t c f.code f.aux c.th.pc ∧ t.mem = s.mem

/-- R264, R349-R351: trap, and an instruction that meets a cause at issue, take a trap. Log entry 11: what of it is the model's choice. -/
def Obligations.TrapsTaken : Prop := Sys2Proof.Claims.SoftwareTrap ∧ Sys2Proof.Claims.CauseAtIssueTraps

/-- R349: the privileged-state cause, code 0x0A, is met by tret, tlog, tskip and a movt of tcause, tepc or taux outside a handler, by csrr
and csrw and by cinval of kind 3 or 4 in a user thread, and by sigret outside a signal handler or with a depth below 2; by no other
instruction. Log entry 11: what of it is the model's choice. -/
def Obligations.PrivilegeCauses : Prop :=
  ∀ (i : Instr) (s : State) (op : Nat) (e : Ext) (ws : List W32) (c : Ctx) (s0 : State),
    i.wf = true → i.parts = some (op, e, ws) → s.ctx op e ws = some (c, s0) → guardTrue e c.r.p = true →
    let handler : Prop := match i with
      | .tret _ | .tlog _ | .tskip _ | .tskipValue _ => c.th.inTrap = false
      | .movt _ => e.d ≠ 13 ∧ c.th.inTrap = false
      | .csrr _ | .csrw _ => s.privileged c.tm = false
      | .cinval _ => 3 ≤ e.a.toNat ∧ s.privileged c.tm = false
      | .sigret _ => c.th.inSignal = false ∨ c.th.depth < 2
      | _ => False
    handler ↔ ∃ f ∈ c.causes s0 true, f.code = 0x0A

/-- R267, R359: tret with no valid entry in the log goes on at tepc and leaves the handler, and waits in the handler while tepc's overlay slot is fetching; with
one valid entry whose access now has no fault, and waits for no line, the access is performed, its destination has the value and the entry is free; with one whose
access faults again the thread re-enters the handler with that fault and tepc unchanged. -/
def Sys2Proof.Claims.TrapReturn : Prop :=
  ∀ (w : Words) (s : State) (c : Ctx) (s0 : State), (Instr.tret w).wf = true → s.performs (.tret w) = some (c, s0) → c.tm.wave = none →
    let slot := c.th.tepc.toNat / 2 ^ 28
    let fetching : Prop := slot ≠ 0 ∧ (c.tm.overlay slot).state = 1
    let left (t : State) : Prop := ∃ th, t.thread c.t = some th ∧ th.pc = c.th.tepc ∧ th.inTrap = false
    ((∀ en ∈ c.th.log, en.valid = false) → ¬fetching → ∃ t, exec (.tret w) s = .next t ∧ left t ∧ t.mem = s.mem ∧ (t.thread c.t).map (·.v) = some c.th.v
        ∧ (t.thread c.t).map (·.p) = some c.th.p ∧ ∀ k, t.sreg c.t.team k = s.sreg c.t.team k)
      ∧ ((∀ en ∈ c.th.log, en.valid = false) → fetching → ∃ t, exec (.tret w) s = .next t ∧ t.waitsFor c.t (.cfetch slot) c.th.pc
          ∧ (t.thread c.t).map (·.inTrap) = some true)
      ∧ ∀ k en, k < 4 → c.th.log[k]? = some en → en.valid = true → en.busy = false → (∀ j x, j ≠ k → c.th.log[j]? = some x → x.valid = false ∧ x.busy = false) →
          let x := s0.perform c.t c.tm en
          (x.2.fault = none → x.2.place = none → ¬fetching → ∃ t, exec (.tret w) s = .next t ∧ left t ∧ t.mem = x.1.mem
              ∧ t.holds c.t en.dest (if en.size = 3 then 64 else if en.size = 4 then 128 else 32) (en.ty = 3 || en.ty = 4 || en.ty = 5 || en.ty = 6) x.2.value.toNat
              ∧ (t.thread c.t).bind (·.log[k]?) = some ({ busy := false } : LogEntry))
            ∧ ∀ f, x.2.fault = some f → canTrap s c true → ∃ t, exec (.tret w) s = .next t ∧ TookTrap s t c f.code f.aux c.th.tepc
                ∧ ∃ y, (t.thread c.t).bind (·.log[k]?) = some y ∧ y.valid = true

/-- R265, R266: tlog gives the words of an entry of the operand log in the table's layout; tskip makes an entry invalid; tskip with a value
also writes the destination of a valid entry as an ld of its type would. -/
def Sys2Proof.Claims.OperandLog : Prop :=
  ∀ (i : Instr) (s : State) (c : Ctx) (s0 : State) (en : LogEntry), i.wf = true → s.performs i = some (c, s0) →
    c.th.log[c.e.a.toNat]? = some en →
    let skipped (t : State) : Prop := ∃ y, (t.thread c.t).bind (·.log[c.e.a.toNat]?) = some y ∧ y.valid = false
    match i with
    | .tlog _ => en.valid = true →
        let k := c.e.b.toNat
        let older := c.th.log.countP fun x => x.valid && x.order < en.order
        en.opcode ≠ 0 → en.opcode < 128 → older < 4 →
        ∃ t x, exec i s = .next t ∧ t.goesOn c ∧ t.holds c.t c.e.d 32 false x ∧ t.mem = s.mem
          ∧ (k = 0 → x = 2 ^ 31 + older * 2 ^ 29 + en.opcode * 2 ^ 22 + en.fn.toNat * 2 ^ 17 + en.space.toNat * 2 ^ 14 + en.size.toNat * 2 ^ 11 + en.dest.toNat)
          ∧ (k = 1 → x = en.ty.toNat * 2 ^ 27 + en.scope.toNat * 2 ^ 25 + en.hint.toNat * 2 ^ 23)
          ∧ (k = 2 → x = en.ea.toNat % 2 ^ 32) ∧ (k = 3 → x = en.ea.toNat / 2 ^ 32)
          ∧ (4 ≤ k → k < 8 → x = en.opb.toNat / 2 ^ (32 * (k - 4)) % 2 ^ 32) ∧ (8 ≤ k → k < 12 → x = en.opc.toNat / 2 ^ (32 * (k - 8)) % 2 ^ 32)
    | .tskip _ => ∃ t, exec i s = .next t ∧ t.goesOn c ∧ skipped t ∧ t.mem = s.mem ∧ (t.thread c.t).map (·.v) = some c.th.v
        ∧ ∀ k, t.sreg c.t.team k = s.sreg c.t.team k
    | .tskipValue _ => en.valid = true → en.dest ≠ 2047 → (en.ty = 3 → en.size = 0) → (en.ty = 4 → en.size = 1) →
        let bits := if en.size = 3 then 64 else if en.size = 4 then 128 else 32
        let v := c.r.val c.e.b bits % 2 ^ (8 * 2 ^ en.size.toNat)
        ∃ t, exec i s = .next t ∧ t.goesOn c ∧ skipped t ∧ t.mem = s.mem
          ∧ t.holds c.t en.dest bits (en.ty = 3 || en.ty = 4 || en.ty = 5 || en.ty = 6)
              (if en.ty = 3 then ((BitVec.ofNat 8 v).signExtend 32).toNat else if en.ty = 4 then ((BitVec.ofNat 16 v).signExtend 32).toNat else v)
    | _ => True

/-- R265-R267, R359: tret, tlog and tskip. -/
def Obligations.HandlerInstructions : Prop := Sys2Proof.Claims.TrapReturn ∧ Sys2Proof.Claims.OperandLog

/-- R268: csrr reads a privileged register, register 0 as 1; csrw writes it, keeping only the bits that can be set, leaves every other
register, and takes with a new context table the translations that the thread would use out of its core and its die. That the register is one of
the thread's die alone, every other die's being kept, is the model's choice (log entry 70), as is what becomes of bits that R268 reserves (log
entry 111). -/
def Obligations.PrivilegedRegisters : Prop :=
  ∀ (w : Words) (s : State) (c : Ctx) (s0 : State),
    let n := c.e.a.toNat
    let at' (k : Nat) : Nat := 16 * (c.tm.core / 64) + k
    ((Instr.csrr w).wf = true → s.performs (.csrr w) = some (c, s0) →
        ∃ t, exec (.csrr w) s = .next t ∧ t.goesOn c ∧ t.csr = s.csr ∧ t.mem = s.mem
          ∧ t.holds c.t c.e.d 64 false (if n = 0 then 1 else (SMap.get 0 s.csr (at' n)).toNat))
    ∧ ((Instr.csrw w).wf = true → s.performs (.csrw w) = some (c, s0) →
        let v := BitVec.ofNat 64 (c.r.val c.e.b 64)
        ∃ t, exec (.csrw w) s = .next t ∧ t.goesOn c ∧ t.mem = s.mem ∧ s.sameBut { t with csr := s.csr, tlb := s.tlb } c.t []
          ∧ (∀ k, k ≠ at' n → SMap.get 0 t.csr k = SMap.get 0 s.csr k) ∧ (n ≠ 1 → t.tlb = s.tlb)
          ∧ (n = 1 → ∀ y, y ∈ t.tlb ↔ y ∈ s.tlb ∧ ¬(y.core = some c.tm.core ∨ (y.core = none ∧ y.die = c.tm.core / 64)))
          ∧ (n = 1 → SMap.get 0 t.csr (at' 1) = v &&& 0x000FFFFFFFFFF000) ∧ (n = 2 → SMap.get 0 t.csr (at' 2) = v &&& 0x1FF)
          ∧ (n = 3 → SMap.get 0 t.csr (at' 3) = v &&& 0xFFFFFFFF) ∧ (8 ≤ n → SMap.get 0 t.csr (at' n) = v))

/-- R269, R270, R404: with no host or fabric store still to be performed, evsig writes the thread's user record and goes on, and waits where the
event ring is full; time reads dtime. Log entries 8, 28: what of it is the model's choice. -/
def Obligations.EventAndTime : Prop :=
  ∀ (i : Instr) (s : State) (c : Ctx) (s0 : State), i.wf = true → s.performs i = some (c, s0) →
    s.storesDone c.t →
    match i with
    | .evsig _ => ∀ q, s.queues.find? (fun q => q.registered && q.asid = c.tm.asid s) = some q →
        let d := s.ringDesc q.evring
        let v := BitVec.ofNat 64 (c.r.valImm c.e false 64)
        (d.windex - d.rindex < d.count → ∃ t, exec i s = .next t ∧ t.goesOn c
            ∧ t.mem = (s.writeRecord q.evring { kind := 1, asid := c.tm.asid s, coreid := s.coreOf c.tm c.t.tid, tix := c.tm.tix, tid := c.t.tid, value := v }).mem)
          ∧ (d.count ≤ d.windex - d.rindex → ∃ t, exec i s = .next t ∧ t.waitsFor c.t (.evsig v) c.next ∧ t.mem = s.mem)
    | .time _ => ∃ t, exec i s = .next t ∧ t.goesOn c ∧ t.holds c.t c.e.d 64 false (s.clk * 5 / 12 % 2 ^ 64) ∧ t.mem = s.mem
    | _ => True

/-- R64, R271, R272: sig gives its status and, for status 0, makes the signal pending on the team; SIGNAL_DELIVERY writes the frame of the
taken signal, masks every signal and goes on at the signal entry; sigret restores pc, sigmask and predicates from the frame. -/
def Obligations.Signals : Prop :=
  ∀ (w : Words) (s : State) (c : Ctx) (s0 : State),
    ((Instr.sig w).wf = true → s.performs (.sig w) = some (c, s0) →
      let x := c.r.valImm c.e false 32
      let la := s.launchOf c.tm
      let gives (st : Nat) (t : State) : Prop := exec (.sig w) s = .next t ∧ t.goesOn c ∧ t.holds c.t c.e.d 32 false st ∧ t.mem = s.mem
      (la.body.sentry = 0 → ∃ t, gives 3 t)
        ∧ (la.body.sentry ≠ 0 → (∀ j ∈ ((s.launches[c.tm.launch]?).getD {}).teams, ∀ tm, s.team j = some tm → tm.tix ≠ x) → ∃ t, gives 2 t)
        ∧ ∀ j tm, la.body.sentry ≠ 0 → ((s.launches[c.tm.launch]?).getD {}).teams.find? (fun i => match s.team i with | some tm => tm.tix = x | none => false) = some j → s.team j = some tm →
            (tm.status = .retired → ∃ t, gives 1 t)
              ∧ (tm.status ≠ .retired → ∃ t tm', gives 0 t ∧ t.team j = some tm' ∧ tm'.signals = tm.signals ||| (1#16 <<< c.e.a.toNat) ∧ c.th.pts ≤ tm'.sigPts))
    ∧ ((Instr.sigret w).wf = true → s.performs (.sigret w) = some (c, s0) →
      let off := s.laneSize c.tm - 8 * c.th.depth
      (∀ k ∈ c.th.lanePoison, k ≠ off / 8 ∧ k ≠ off / 8 + 1) → 8 * c.th.depth ≤ s.laneSize c.tm →
      let f := c.th.lane.read off 16
      ∃ t th, exec (.sigret w) s = .next t ∧ t.thread c.t = some th ∧ th.pc = BitVec.ofNat 32 f ∧ th.sigmask = BitVec.ofNat 32 (f / 2 ^ 32 % 2 ^ 16)
        ∧ th.p = BitVec.ofNat 16 (f / 2 ^ 48) ∧ th.depth + 2 = c.th.depth ∧ th.inSignal = false ∧ th.v = c.th.v ∧ t.mem = s.mem
        ∧ ∀ k, t.sreg c.t.team k = s.sreg c.t.team k)
    ∧ ∀ (i n k : Nat) (tm : Team) (th : Thread),
      let L := s.laneSize tm
      s.team i = some tm → tm.status = .placed → tm.wave = none → (s.launchOf tm).body.sentry ≠ 0 → tm.threads[k]? = some th → n < 16 →
      tm.signals.getLsbD n = true → (∀ j, j < n → tm.signals.getLsbD j = false) →
      th.exited = false → th.wait = none → th.sigmask.getLsbD n = true → th.inTrap = false → th.inSignal = false → (∀ en ∈ th.log, en.fault = none) →
      s.awaitsResult { team := i, tid := k } = false →
      (∀ j u, j < k → tm.threads[j]? = some u → u.sigmask.getLsbD n = false) → 8 * (th.depth + 2) ≤ L →
      ∃ t th', exec (.signalDelivery i) s = .next t ∧ t.thread { team := i, tid := k } = some th' ∧ th'.pc = (s.launchOf tm).body.sentry
        ∧ th'.inSignal = true ∧ th'.sigmask = 0 ∧ th'.depth = th.depth + 2 ∧ tm.sigPts ≤ th'.pts ∧ t.mem = s.mem
        ∧ th'.lane.read (L - 8 * (th.depth + 2)) 16
            = th.pc.toNat + th.sigmask.toNat % 2 ^ 16 * 2 ^ 32 + th.p.toNat * 2 ^ 48 + n * 2 ^ 64
        ∧ (t.team i).map (·.signals) = some (tm.signals &&& ~~~ (1#16 <<< n))

/-- R273, R91: with no host or fabric store still to be performed, cinval of kind 0 takes the context's slot-0 code out of every code store; kinds 1 to 4 remove the translations that the kind
names and no other; registers are unchanged. Log entries 9, 10: what of it is the model's choice. -/
def Obligations.Invalidation : Prop :=
  ∀ (w : Words) (s : State) (c : Ctx) (s0 : State), (Instr.cinval w).wf = true → s.performs (.cinval w) = some (c, s0) → s.storesDone c.t →
    let kind := c.e.a.toNat
    let x := c.r.valImm c.e false 64
    let asid := s.asidOf c.tm
    let hit (t : Tlb) : Prop :=
      (kind = 1 ∧ t.asid = asid ∧ t.page = x / 2 ^ t.bits) ∨ (kind = 2 ∧ t.asid = asid) ∨ (kind = 3 ∧ t.asid = x % 512) ∨ kind = 4
    ∃ t, exec (.cinval w) s = .next t ∧ t.goesOn c ∧ t.mem = s.mem ∧ (∀ k, t.sreg c.t.team k = s.sreg c.t.team k) ∧ (t.thread c.t).map (·.v) = some c.th.v
      ∧ (∀ y, y ∈ t.tlb ↔ y ∈ s.tlb ∧ (kind = 0 ∨ ¬hit y))
      ∧ (kind = 0 → ∀ n k, (n, k) ∈ t.cores → ∀ b ∈ k.code, ¬(b.slot = 0 ∧ ((s.launches[b.owner]?).map (·.asid)) = some (c.tm.asid s)))

/-- R237, R239, R240, R289, R301: gcall of an installed method sends a request with the method and the arguments to the object's home slice,
and waits for the reply where it has a destination; gret ends its lane with the reply; hmsg with no handler installed takes the default
action, all ones to the destination, and otherwise sends the message to the home slice, whatever the type of the page, and waits for the reply. Log entries 34, 126: what of it is the model's choice. -/
def Obligations.GroutAndMessages : Prop :=
  ∀ (i : Instr) (s : State) (c : Ctx) (s0 : State), i.wf = true → s.performs i = some (c, s0) →
    match i with
    | .gcall _ => ∀ s1 pa type m, (let k := s0.checkAt (c.agent s0) 4 (BitVec.ofNat 64 (c.r.val c.e.a 64)) 8 8 false true; k.faults = [] ∧ k.s = s1 ∧ k.loc = some (.phys pa type)) →
        s1.methodOf (s1.homeOf pa) (c.tm.asid s1) (c.e.x.toNat % 256) = .ok m → c.th.wait = none →
        (∀ k ∈ s1.senders, k.coreid = s1.coreOf c.tm c.t.tid → k.receiver = s1.homeOf pa → k.queue = 1 → k.window = []) → (s1.slice (s1.homeOf pa)).groutq.length < 128 →
        ∃ t q, exec i s = .next t ∧ (t.slice (s1.homeOf pa)).groutq = (s1.slice (s1.homeOf pa)).groutq ++ [q]
          ∧ q.object = BitVec.ofNat 64 (c.r.val c.e.a 64) ∧ q.method = c.e.x.toNat % 256 ∧ q.arg0 = BitVec.ofNat 64 (c.r.val c.e.b 64)
          ∧ q.arg1 = BitVec.ofNat 64 (c.r.val c.e.c 64) ∧ q.t = c.t ∧ q.meth = m ∧ Instr.groutWaveStart (s1.homeOf pa) ∈ t.agenda
          ∧ (c.e.d = 2047 → t.goesOn c ∧ q.dest = none) ∧ (c.e.d ≠ 2047 → t.waitsFor c.t (.reply c.e.d) c.next ∧ q.dest = some c.e.d)
    | .gret _ => ∀ wv, c.tm.wave = some wv → (∃ k th, k ≠ c.t.tid ∧ c.tm.threads[k]? = some th ∧ th.reply = none ∧ th.exited = false ∧ th.atCollective = none) →
        ∃ t th, exec i s = .next t ∧ t.thread c.t = some th ∧ th.exited = true ∧ th.reply = some (BitVec.ofNat 64 (c.r.val c.e.b 64)) ∧ t.mem = s.mem
    | .hmsg _ => ∀ s1 pa type bits x, s0.translate (s0.coreOf c.tm c.t.tid) (s0.asidOf c.tm) (c.r.ea c.e c.e.a true).toNat false (!s0.privileged c.tm) = .ok (s1, pa, type, bits, x) →
        (s1.handlerOf (c.tm.asid s1) (s1.homeOf pa) 4 = none → ∃ t, exec i s = .next t ∧ t.goesOn c ∧ t.holds c.t c.e.d 64 false (2 ^ 64 - 1))
          ∧ ∀ h, s1.handlerOf (c.tm.asid s1) (s1.homeOf pa) 4 = some h → c.th.wait = none →
              (∀ k ∈ s1.senders, k.coreid = s1.coreOf c.tm c.t.tid → k.receiver = s1.homeOf pa → k.queue = 2 → k.window = []) → (s1.slice (s1.homeOf pa)).hodq.length < 32 →
              ∃ t q, exec i s = .next t ∧ (t.slice (s1.homeOf pa)).hodq = (s1.slice (s1.homeOf pa)).hodq ++ [q] ∧ q.kind = 4 ∧ q.va = c.r.ea c.e c.e.a true
                ∧ q.a2 = BitVec.ofNat 64 (c.r.val c.e.b 64) ∧ q.a3 = BitVec.ofNat 64 (c.r.val c.e.c 64) ∧ q.who = some (.thread c.t) ∧ q.entry = h.1
                ∧ Instr.hodInvocationStart (s1.homeOf pa) ∈ t.agenda
                ∧ (c.e.d = 2047 → t.goesOn c) ∧ (c.e.d ≠ 2047 → t.waitsFor c.t (.reply c.e.d) c.next)
    | _ => True
/-! ## Events of threads and teams -/

namespace Sys2Proof.Claims

/-- R37: a thread whose wait has ended and that goes on at `pc`. -/
def GoesOnAt (t : State) (r : TRef) (pc : W32) : Prop := ∃ th, t.thread r = some th ∧ th.wait = none ∧ th.pc = pc

/-- No bin and no overflow queue of any partition holds a thread. -/
def poolEmpty (s : State) : Prop := ∀ x ∈ s.cores, ∀ y ∈ x.2.parts, y.2.bins = [] ∧ y.2.waitq = []

end Sys2Proof.Claims

/-- R37-R43, R116, R123, R191, R196, R264, R350, R354, R359: a cycle of the pickers advances the clock and forms groups of one launch, at one pc
where no bin holds a thread; of a partition with no group at work and the threads of one launch, it takes the ready threads at the lowest pc, up to the width,
or those of the oldest bin that has reached age 64; BIN_AGE_RIPE makes a bin ripe; PARK_THREAD parks a ready thread that has been idle for 64 cycles; 256 quiet
cycles raise a pts by 1, up to its limit; a due fault is taken at an instruction boundary; sleep, code fetches and fences end. Log entries 8, 18, 19, 71, 101, 113: what of it is
the model's choice. -/
def Obligations.ThreadEvents : Prop :=
  ∀ (s : State) (u : TRef) (tm : Team) (th : Thread), s.team u.team = some tm → s.thread u = some th →
    (s.ops = [] → s.relaxed = [] → (∀ x ∈ s.slices, x.2.hod = none) → (∀ x ∈ s.harts, x.2.asked = []) → s.installing = none → (∀ y ∈ s.teams, y.signals = 0) →
        (s.clk + 1) * 5 / 12 / 1000000 = s.clk * 5 / 12 / 1000000 →
        ∃ t, exec .pickerCycle s = .next t ∧ t.clk = s.clk + 1 ∧ t.mem = s.mem
        ∧ ∀ g ∈ t.groups, g ∈ s.groups ∨ (g ≠ [] ∧ g.length ≤ 64
            ∧ (∃ k, ∀ v ∈ g, ∃ tv, t.team v.team = some tv ∧ tv.launch = k)
            ∧ (poolEmpty s → ∃ pc, ∀ v ∈ g, (t.thread v).map (·.pc) = some pc)))
    ∧ (∀ c p k, let x := s.toPick
        let part := (x.core c).part p
        let l := (x.partThreads c p).filter x.ready
        let w := ((x.launches[k]?).getD {}).body.width
        let takes (from' : List TRef) : Prop := ∃ t g rest, exec .pickerCycle s = .next t ∧ t.groups = x.groups ++ g :: rest ∧ g.Nodup ∧ (∀ v ∈ g, v ∈ from')
          ∧ g.length = min w from'.length
        p < 6 → s.pickPlaces = [6 * c + p] → part.busy0 = 0 → l ≠ [] → (∀ v ∈ l, ∃ tv, x.team v.team = some tv ∧ tv.launch = k) →
        (part.bins = [] → part.waitq = [] → ∃ v ∈ l, ∃ pc, (x.thread v).map (·.pc.toNat) = some pc ∧ (∀ y ∈ l, ∀ z, (x.thread y).map (·.pc.toNat) = some z → pc ≤ z)
            ∧ takes (l.filter fun y => (x.thread y).map (·.pc.toNat) = some pc))
          ∧ ∀ b rest, part.bins = b :: rest → b.launch = k → 64 ≤ b.age → (∃ v ∈ l, v ∈ b.members) → takes (l.filter fun y => y ∈ b.members))
    ∧ (∀ (c p k : Nat) (b : Bin), (((s.core c).part p).bins)[k]? = some b → b.age = 63 →
        ∃ t, exec (.binAgeRipe c p (b.launch * 2 ^ 32 + b.pc.toNat)) s = .next t ∧ (((t.core c).part p).bins)[k]? = some { b with age := 64 } ∧ t.teams = s.teams ∧ t.mem = s.mem)
    ∧ (tm.wave = none → 64 ≤ th.idle → s.ready u = true → ((s.core (s.coreOf tm u.tid)).part (s.partOf tm u.tid)).binned u = false →
        ∃ t, exec (.parkThread u) s = .next t ∧ ((t.core (s.coreOf tm u.tid)).part (s.partOf tm u.tid)).binned u = true
          ∧ t.thread u = some th ∧ t.mem = s.mem)
    ∧ (tm.status = .placed → tm.wave = none → th.exited = false → 256 ≤ th.quiet →
        ∃ t, exec (.ptsIdleTick (.thread u)) s = .next t ∧ t.thread u = some { th with pts := min (th.pts + 1) (2 ^ 64 - 1), quiet := th.quiet - 256 } ∧ t.mem = s.mem)
    ∧ (∀ (k : Nat) (en : LogEntry) (f : TrapInfo), tm.status = .placed → th.exited = false → th.wait = none → (∀ x ∈ th.log, x.busy = false) → th.log[k]? = some en → en.valid = true →
        en.fault = some f → (∀ j x, j ≠ k → th.log[j]? = some x → x.fault = none) → canTrapAs s tm th false → s.nextCause u = none →
        ∃ t, exec (.trapEntry u) s = .next t ∧ TookTrapAs s t u tm th f.code f.aux th.pc ∧ t.mem = s.mem
          ∧ ∃ y, (t.thread u).bind (·.log[k]?) = some y ∧ y.valid = true ∧ y.ea = en.ea ∧ y.opb = en.opb)
    ∧ (∀ d n, th.waitsFor (.sleep d) n → d ≤ s.ns → ∃ t, exec (.sleepDeadline u) s = .next t ∧ GoesOnAt t u n ∧ t.mem = s.mem)
    ∧ (∀ i slot o o1 src len, s.fetchOp i slot = some o → s.op o.id = some o → s.mayRun o = true →
        let x := s.runOp o.id o.todo.length
        x.op o.id = some o1 → x.opHeld o.id = false → o1.id = o.id → o1.t.team = i → o1.kind = .cfetch slot src len → o1.todo = [] → (x.team i).isSome →
        ∃ t tn, exec (.cfetchLanded i slot) s = .next t ∧ t.team i = some tn ∧ (tn.overlay slot).state = 2 ∧ (tn.overlay slot).bytes = o1.fetched (len / 64)
          ∧ t.op o.id = none ∧ t.mem = x.mem)
    ∧ (∀ i slot o src len f, s.fetchOp i slot = some o → s.op o.id = some o → o.kind = .cfetch slot src len → (s.team i).isSome → s.faultingElement o = some f →
        ∃ t tn, exec (.cfetchFailed i slot) s = .next t ∧ t.team i = some tn ∧ (tn.overlay slot).state = 0 ∧ (tn.overlay slot).failed = true ∧ t.op o.id = none
          ∧ t.mem = s.mem)
    ∧ (∀ m n, (3, m.port) ∉ s.lost → s.markers.find? (·.id = m.id) = some m → (∀ o ∈ s.ownStores, o.id ∉ m.covers) → th.waitsFor (.fence [m.id] []) n →
        ∃ t, exec (.fenceMarkerAnswer m.id false) s = .next t ∧ GoesOnAt t u n ∧ t.mem = s.mem)
    ∧ (∀ port n, (port, 0) ∉ s.lost → th.waitsFor (.fence [] [port]) n →
        ∃ t, exec (.fenceSysFlushComplete port) s = .next t ∧ GoesOnAt t u n ∧ ∀ x ∈ t.relaxed, x.port ≠ port)

/-- R49, R53-R57, R62, R67, R127, R286: a team that is offered a core takes its place there, from its first instruction where it is new; a team
that has waited for a quantum is chosen to be saved; a quantum expires; a team is saved with rser one higher, or restarted from nothing;
a team without threads retires; a launch whose teams have retired completes, once its release has no marker and no flush to wait for; a slice whose budget is gone is exhausted. Log entries 8, 38, 39, 42, 43, 116: what of it is the model's choice. -/
def Obligations.ResidenceEvents : Prop :=
  ∀ (s : State) (i : Nat) (tm : Team), s.team i = some tm →
    let la := s.launchOf tm
    let quantum := (if la.body.quantum = 0 then 50 else min (max la.body.quantum 10) 1000) * 1000
    let offered (event : Instr) : Prop := ∀ c ps, s.setSize tm = 1 → s.grantCores.nextOf tm.launch tm.slice = some i → tm.launch < s.launches.length →
      s.grantCores.chooseCores la (tm.launch, tm.slice) 1 (freedFirst la tm (s.grantCores.offerOrder tm.launch la tm)) = some [(c, ps)] →
      ∃ t tn, exec event s = .next t ∧ t.team i = some tn ∧ tn.status = .placed ∧ tn.core = c ∧ tn.parts = ps ∧ tn.since = s.ns ∧ tn.expired = none
        ∧ (tm.threads ≠ [] → tn.threads = tm.threads)
        ∧ (tm.threads = [] → tn.threads = List.replicate (la.body.tsize + 1) { pts := la.start } ∧ ∀ k, k < 8 → SMap.get 0 tn.s k = (la.body.args[k]?).getD 0)
    offered (.teamPlacement i) ∧ offered (.teamRestore i)
    ∧ (∀ w, s.setSize tm = 1 → tm.waitSince = some w → tm.status = .placed → tm.wave = none → tm.saving = false → s.idleUnit i = true → w + quantum ≤ s.ns →
        ∃ t tn, exec (.allWaitingQuantum i) s = .next t ∧ t.team i = some tn ∧ tn.saving = true ∧ Instr.teamSave i ∈ t.agenda ∧ t.mem = s.mem)
    ∧ (tm.status = .placed → tm.wave = none → tm.since + quantum ≤ s.ns → s.draining (tm.asid s) = false →
        ∃ t, exec (.quantumExpiry i) s = .next t ∧ t.team i = some { tm with expired := some (tm.expired.getD (tm.since + quantum)) } ∧ t.mem = s.mem)
    ∧ (s.setSize tm = 1 → tm.status = .placed → tm.saving = true → tm.alive ≠ [] → tm.idem = false → s.resultsDue i = false →
        tm.spoilt = none ∨ (s.retired.getLsbD tm.core = false ∧ (la.body.pair = true → s.retired.getLsbD (tm.core + 1) = false)) →
        ∃ t tn, exec (.teamSave i) s = .next t ∧ t.team i = some tn ∧ tn.status = .saved ∧ tn.rser = tm.rser + 1 ∧ tn.parts = [] ∧ tn.saving = false
          ∧ tn.threads = tm.threads ∧ tn.s = tm.s ∧ tn.scratch = tm.scratch ∧ t.mem = s.mem)
    ∧ (∀ k, s.setSize tm = 1 → tm.status = .placed → tm.saving = true → tm.alive ≠ [] → tm.idem = false → s.resultsDue i = false →
        tm.spoilt = some k → s.retired.getLsbD tm.core = true → ∃ t tn, exec (.teamSave i) s = .next t ∧ t.team i = some tn ∧ tn.alive = [])
    ∧ (s.setSize tm = 1 → tm.status = .placed → tm.saving = true → tm.idem = true → s.resultsDue i = false → la.body.kind = 0 →
        ∃ t tn, exec (.teamRestart i) s = .next t ∧ t.team i = some tn ∧ tn.status = .unplaced ∧ tn.threads = [] ∧ tn.rser = tm.rser + 1 ∧ t.mem = s.mem)
    ∧ (tm.status = .placed → tm.wave = none → tm.threads ≠ [] → tm.alive = [] → (∀ o ∈ s.ops, o.t.team ≠ i) →
        ∃ t tn, exec (.teamRetire i) s = .next t ∧ t.team i = some tn ∧ tn.status = .retired ∧ Instr.launchComplete tm.launch ∈ t.agenda ∧ t.mem = s.mem)
    ∧ (∀ k l, s.launches[k]? = some l → l.complete = false → (∀ j ∈ l.teams, ∀ x, s.team j = some x → x.status = .retired) →
        ∃ t l', exec (.launchComplete k) s = .next t ∧ t.launches[k]? = some l'
          ∧ (l.closing = some ([], []) ∨ (l.closing = none ∧ l.rel < 2) → l'.complete = true ∧ l'.dies = [])
          ∧ (l.closing = none → 2 ≤ l.rel → l'.complete = true ∨ ∃ fab sys, l'.closing = some (fab, sys) ∧ (fab ≠ [] ∨ sys ≠ []))
          ∧ (l.closing = none → 2 ≤ l.rel → ∀ p ∈ s.fabSince, ∃ fab sys, l'.closing = some (fab, sys) ∧ ∃ m ∈ t.markers, m.port = p.1 ∧ m.id ∈ fab)
          ∧ (l.closing = none → l.rel = 3 → ∀ p ∈ s.relaxed, ∃ fab sys, l'.closing = some (fab, sys) ∧ p.port ∈ sys))
    ∧ (∀ k j l, s.launches[k]? = some l → l.complete = false → l.body.budget ≠ 0 → (l.budget j).left = 0 → (l.budget j).exhausted = false → s.draining l.asid = false →
        ∃ t l', exec (.budgetExhausted k j) s = .next t ∧ t.launches[k]? = some l' ∧ (l'.budget j).exhausted = true ∧ (l'.budget j).told = true
          ∧ ∀ c, (t.core c).holder ≠ some (k, j) ∨ 256 ≤ c)

/-- R225, R229, R280, R282, R287, R288, R380, R381: TASK_LAUNCH reads the launch body of the record and adds its launch; a page that decodes and
matches is held for its team with status 1, and a failed read is tried again up to 16 times; a page not settled after 200 ms is over; the
window of a placed team receives the page. Log entries 31, 41, 44: what of it is the model's choice. -/
def Obligations.TaskAndPageEvents : Prop :=
  ∀ s : State,
    (∀ asid rec s1 pa (σ : Nat → State) (ws : Nat → Nat) s2, s.bodyPlace 0 asid rec 64 false = .ok (s1, pa) →
        let die := s1.homeOf pa / 48
        let va := s1.mem.read (pa + 8) 8 % 2 ^ 57
        let body := LaunchBody.ofWords ((List.range 23).map fun j => BitVec.ofNat 64 (ws j))
        va % 8 = 0 → σ 0 = s1 → (∀ j, j < 23 → (σ j).bodyRead die asid (va + 8 * j) 8 = .ok (σ (j + 1), ws j)) → body.kind = 0 →
        (σ 23).checkLaunch die asid (((s.context asid).map (·.bay)).getD 0) ((List.range 23).map fun j => BitVec.ofNat 64 (ws j)) (body.grid % 2 ^ 32) = some s2 →
        ∃ t la, exec (.taskLaunch asid rec) s = .next t ∧ t.launches[s2.launches.length]? = some la ∧ la.body = body ∧ la.asid = asid ∧ la.task = some rec
          ∧ la.teams.length = body.grid % 2 ^ 32 ∧ t.mem = s2.mem)
    ∧ (∀ chan c, (s.kiln chan).cur = some c → s.channelFailed chan = false → s.blockGone c.req.entry = false →
        (c.retries < 16 → ∃ t, exec (.kilnReadComplete chan .failed) s = .next t ∧ (t.kiln chan).cur = some { c with retries := c.retries + 1 } ∧ t.mem = s.mem)
        ∧ ∀ data w0 w1 i, data.length = 16384 → ¬(w0 = BitVec.allOnes 64 ∧ w1 = BitVec.allOnes 64) → crc32c (data ++ natBytes 8 w1.toNat) = w0.extractLsb' 0 32 → w1.toNat % 2 ^ 33 = c.req.entry.toNat % 2 ^ 33 →
            ((s.launches[c.req.launch]?).getD {}).teams[c.req.index]? = some i →
            ∃ t h, exec (.kilnReadComplete chan (.decoded data w0 w1)) s = .next t ∧ h ∈ (t.kiln chan).held ∧ h.team = i ∧ h.status = 1 ∧ h.data = data ∧ h.counts = true)
    ∧ (∀ chan c, (s.kiln chan).cur = some c → (s.kiln chan).todo = [] → c.since + 200000000 ≤ s.ns →
        ∃ t, exec (.pageMissingTimeout chan) s = .next t ∧ (t.kiln chan).cur = none)
    ∧ (∀ i tm chan h, s.team i = some tm → s.holder i = some (chan, h) → tm.status = .placed →
        ∃ t tn, exec (.windowFillComplete i) s = .next t ∧ t.team i = some tn
          ∧ ∀ j, j < 2048 → tn.scratch.read (64 * (s.launchOf tm).body.woff + 8 * j) 8 = bytesNat ((h.data.drop (8 * j)).take 8))

/-- R81, R202, R370, R392: a waiting reservation is granted once slot res is free; an operation whose accesses are over completes and adds 1 to its
completion word; one that meets a fault, or a collective with no match, ends. Log entry 60: what of it is the model's choice. -/
def Obligations.EngineEvents : Prop :=
  ∀ s : State,
    (∀ i k r u space ea s1 n, s.ring i k = some r → r.reqs = [.put u space ea] → r.canReserve = true → r.eos = false → s.putHeld u = false →
        (((s.modRing i k fun r => { r with reqs := [] }).takeTurn u).revokeTeam i).putSlot u k space ea = .ok s1 → u.team = i → s1.waitsFor u (.ringSlot k) n →
        (∀ tm th, s.team i = some tm → s.thread u = some th → (s.takeTurn u).postponeThread s1 u (s.coreOf tm u.tid) th.granted th.answered = none) →
        ∃ t, exec (.ringReservation i k) s = .next t ∧ GoesOnAt t u n)
    ∧ (∀ id o, s.op id = some o → o.todo = [] → s.mayRun o = true → s.opHeld id = false → (∀ a b c, o.kind ≠ .cfetch a b c) → (∀ a b c d e, o.kind ≠ .ring a b c d e) →
        (let s0 := if o.granted.isNone then s else (s.usePlace o.granted).setOp { o with granted := none }
         s0.postpone (s0.closeOp o) (.op o.id) (.op o.id) (enginePort o.core) o.granted = none) →
        ∃ t, exec (.engineOpComplete id) s = .next t ∧ t.op id = none
          ∧ ∀ ea tm tn, o.word = some (1, ea) → (∀ a b c d, o.kind ≠ .qbx a b c d) → o.kind ≠ .mflip → s.team o.t.team = some tm → tm.wave = none →
              ea.toNat % 8 = 0 → ea.toNat + 8 ≤ (s.launchOf tm).body.scr * 4096 → t.team o.t.team = some tn →
              tn.scratch.read ea.toNat 8 = (tm.scratch.read ea.toNat 8 + 1) % 2 ^ 64)
    ∧ (∀ id o f, s.op id = some o → s.mayRun o = true → s.faultingElement o = some f → ∃ t, exec (.engineElementFault id) s = .next t ∧ t.op id = none)
    ∧ (∀ id o fn d, s.op id = some o → o.kind = .coll fn d → o.issued + 1000000000 ≤ s.ns →
        (∀ k, k < (if fn = 1 then d.members * d.count else d.count) → k ∈ o.todo) → ∃ t, exec (.collMatchTimeout id) s = .next t ∧ t.op id = none)
/-! ## Events of the slices, of hod cores and of grout units -/

/-- R76, R88, R90, R238, R295-R301, R303, R304, R397: a walk caches its translation for the core and its die, and sets a and, for a store, d; a
missed line raises its event, or is filled; a streamed line whose leases are over leaves; an invocation starts with the event's registers, its
stores and loads meet the map, and at its end a message's sender has the reply; a stopped invocation is over; the slice port; a program is
installed, in force on a slice once that has copied it; a wave starts with its lanes' arguments and stops at 2,048 cycles. Log entries 30, 35, 37, 90, 91, 92, 93, 94: what of it is the model's choice. -/
def Obligations.SliceEvents : Prop :=
  ∀ (s : State) (k : Nat),
    (∀ core asid va store s0 pts ea e size s1 pa type bits x, s.walk (core / 64) asid va (s.chargedBay core asid) = .ok (s0, pts, ea, e, size) →
        s.walkFor core asid va store true = .ok (s1, pa, type, bits, x) →
        ∃ t, exec (.translationWalk core asid va store) s = .next t ∧ t.mem.get ea = s.mem.get ea ||| 0x80
          ∧ t.mem.get (ea + 1) = s.mem.get (ea + 1) ||| (if store then 1 else 0) ∧ (∀ a, a ≠ ea → a ≠ ea + 1 → t.mem.get a = s.mem.get a)
          ∧ ∀ c, c = some core ∨ c = none → ∃ y ∈ t.tlb, y.core = c ∧ y.die = core / 64 ∧ y.asid = asid ∧ y.page = va / 2 ^ y.bits ∧ pa = y.pa + va % 2 ^ y.bits
              ∧ y.type = type)
    ∧ (∀ pa va store hint asid coreid who ts, s.l2Holds pa = false → asid ≠ 512 →
        (s.windowLoad 0xFF (s.homeOf pa) 2 + 5 ≤ 32 → s.region pa ≠ .host ∨ s.monitors = [] → coreid % 64 = 61 ∨ coreid % 64 = 62 ∨ s.handlerOf asid (s.homeOf pa) 1 = none →
          ∃ t, exec (.l2MissFill pa va store hint asid coreid { who, pts := ts }) s = .next t ∧ t.l2Holds pa = true ∧ t.mem = s.mem ∧ t.teams = s.teams)
        ∧ ∀ h, coreid % 64 ≠ 61 → coreid % 64 ≠ 62 → s.region pa = .hbm → s.handlerOf asid (s.homeOf pa) 1 = some h →
            (∀ w ∈ s.senders, w.coreid = 0xFF → w.receiver = s.homeOf pa → w.queue = 2 → w.window = []) → (s.slice (s.homeOf pa)).hodq.length < 32 →
            ∃ t q, exec (.l2MissFill pa va store hint asid coreid { who, pts := ts }) s = .next t ∧ (t.slice (s.homeOf pa)).hodq = (s.slice (s.homeOf pa)).hodq ++ [q]
              ∧ q.kind = 1 ∧ q.asid = asid ∧ q.va = BitVec.ofNat 64 (va / 128 * 128) ∧ q.a2 = (if store then 1 else 0) ∧ q.a4 = BitVec.ofNat 64 coreid
              ∧ q.entry = h.1 ∧ q.pts = ts ∧ t.mem = s.mem ∧ t.teams = s.teams)
    ∧ (∀ pa f, s.frameOf pa = some f → (f.strm &&& f.valid).getLsbD (pa / 128 % 4) = true → s.leasesOver pa = true → s.windowLoad 0xFF (s.homeOf pa) 2 + 5 ≤ 32 →
        ∃ t, exec (.streamLineEvict pa) s = .next t ∧ t.l2Holds pa = false ∧ t.mem = s.mem)
    ∧ (∀ e es, (s.slice k).hod = none → (s.slice k).hodq = e :: es → s.hodDisabled e.asid k = false →
        ∃ t r, exec (.hodInvocationStart k) s = .next t ∧ (t.slice k).hod = some r ∧ (t.slice k).hodq = es ∧ r.event = e ∧ r.started = s.clk ∧ r.pc = BitVec.ofNat 64 e.entry
          ∧ SMap.get 0 r.regs 10 = BitVec.ofNat 64 e.kind ∧ SMap.get 0 r.regs 11 = BitVec.ofNat 64 (2 ^ 63 + e.va.toNat % 2 ^ 57)
          ∧ SMap.get 0 r.regs 12 = e.a2 ∧ SMap.get 0 r.regs 13 = e.a3 ∧ SMap.get 0 r.regs 14 = e.a4 ∧ SMap.get 0 r.regs 2 = BitVec.ofNat 64 e.top ∧ t.mem = s.mem)
    ∧ (∀ r va n len base rd off s1 pa, r.event.top ≤ 16384 → n = 1 ∨ n = 2 ∨ n = 4 ∨ n = 8 → va + n ≤ 2 ^ 57 → va % n = 0 → (r.reg base + off).toNat = 2 ^ 63 + va →
        (∀ src, s.handlerPlace k r.event.asid va n true = .ok (s1, pa) → let t := s.hodExec k r len (.store n base src off)
          t.mem = s1.mem.write pa n (r.reg src).toNat ∧ ∃ q, (t.slice k).hod = some q ∧ q.pc = r.pc + BitVec.ofNat 64 len ∧ q.regs = r.regs)
        ∧ (s.handlerPlace k r.event.asid va n false = .ok (s1, pa) → s1.physPoisoned pa n = false → let t := s.hodExec k r len (.load n false rd base off)
          t.mem = s1.mem ∧ ∃ q, (t.slice k).hod = some q ∧ q.pc = r.pc + BitVec.ofNat 64 len
            ∧ (rd ≠ 0 → SMap.get 0 q.regs rd = BitVec.ofNat 64 (s1.mem.read pa n % 2 ^ (8 * n))) ∧ ∀ j, j ≠ rd → SMap.get 0 q.regs j = SMap.get 0 r.regs j))
    ∧ (∀ r u d n, (s.slice k).hod = some r → r.ended = true → r.event.kind = 4 → r.event.who = some (.thread u) → r.event.dest = some d → s.waitsFor u (.reply d) n →
        ∃ t, exec (.hodInvocationEnd k r.event.asid 4) s = .next t ∧ (t.slice k).hod = none ∧ GoesOnAt t u n ∧ t.holds u d 64 false (SMap.get 0 r.regs 10).toNat ∧ t.mem = s.mem)
    ∧ (∀ r, (s.slice k).hod = some r → r.ended = false → r.started + 8192 ≤ s.clk → ∃ t, exec (.hodCycleLimit k) s = .next t ∧ (t.slice k).hod = none)
    ∧ (∀ r reason pc, (s.slice k).hod = some r → r.fault = some reason ∨ reason = 6 → ∃ t, exec (.hodHandlerFault k reason pc) s = .next t ∧ (t.slice k).hod = none)
    ∧ (∀ r v s1 pa va e, (s.slice k).hod = some r → s.portPlace k v = some (s1, pa, va, e) →
        (r.port = some (0x00, v) → s.portWaits k v = false → ∃ t, exec (.slicePortPref k v) s = .next t ∧ t.l2Holds pa = true ∧ t.mem = s1.mem)
          ∧ (s1.homeOf pa = k → s1.l2Holds pa = true →
              (r.port = some (0x10, v) → ∃ t, exec (.slicePortEvict k v) s = .next t ∧ t.l2Holds pa = false ∧ t.mem = s1.mem)
                ∧ (r.port = some (0x08, v) → ∃ t f, exec (.slicePortKeep k v) s = .next t ∧ t.frameOf pa = some f ∧ f.kept = v.getLsbD 0 ∧ t.mem = s1.mem)))
    ∧ (let ctl := Dev.sliceBase + 8
       let asid := (Dev.stored s (Dev.sliceBase + 0x10)).toNat % 512
       ((Dev.stored s ctl).getLsbD 0 = true → ∀ st s1 p, s.readProgram asid (Dev.stored s Dev.sliceBase).toNat = (st, s1, p) →
          (st ≠ 0 → ∃ t, exec .sliceProgramInstall s = .next t ∧ Dev.stored t ctl = BitVec.ofNat 64 (16 * st) ∧ t.programs = s1.programs)
          ∧ (st = 0 → ∃ t, exec .sliceProgramInstall s = .next t ∧ Dev.stored t ctl = 1
              ∧ SMap.get none t.programs asid = (if p.ilen = 0 ∧ p.methods = [] then none else some p)
              ∧ ∀ j, j < 192 → t.programOn j asid = SMap.get none s1.programs asid))
        ∧ ∀ i, s.installing = some i →
            (i.left = [] → ∃ t, exec .sliceProgramCopied s = .next t ∧ (Dev.stored t ctl).getLsbD 0 = false ∧ t.installing = none ∧ t.mem = s.mem)
            ∧ ∀ j ∈ i.left, s.mayCopy i.asid j = true → (s.copySlice j).programOn j i.asid = SMap.get none s.programs i.asid)
    ∧ (∀ q rest, (s.slice k).groutq = q :: rest → s.objectFree k q = true →
        ∃ t tm w th, exec (.groutWaveStart k) s = .next t ∧ t.teams.length = s.teams.length + 1 ∧ t.team s.teams.length = some tm ∧ tm.wave = some w
          ∧ w.object = q.object ∧ w.method = q.method ∧ w.code = q.meth.code ∧ tm.threads.length ≤ 32 ∧ tm.threads[0]? = some th ∧ th.pc = 0
          ∧ SMap.get 0 th.v 0 = q.arg0.extractLsb' 0 32 ∧ SMap.get 0 th.v 1 = q.arg0.extractLsb' 32 32
          ∧ SMap.get 0 th.v 2 = q.arg1.extractLsb' 0 32 ∧ SMap.get 0 th.v 3 = q.arg1.extractLsb' 32 32
          ∧ SMap.get 0 tm.s 0 = q.object ∧ SMap.get 0 tm.s 1 = BitVec.ofNat 64 q.method ∧ t.mem = s.mem)
    ∧ (∀ i tm w, s.team i = some tm → tm.wave = some w → tm.status = .placed → tm.alive ≠ [] → w.started + 2048 ≤ s.clk →
        ∃ t tn, exec (.methodCycleLimit i) s = .next t ∧ t.team i = some tn ∧ tn.status = .retired)

/-! ## Events of command queues -/

namespace Sys2Proof.Claims

/-- R278: the fetcher takes the packet at the queue's next slot. -/
def TakesSlot (s t : State) (k : Nat) (q : Queue) : Prop :=
  let p := s.packetAt q
  let rdix := (q.rdix + p.len) % 2 ^ 32
  let seq := (q.seq + 1) % 2 ^ 32
  ∃ q' pts, t.queues[k]? = some q' ∧ q'.ready = [{ p with pts }] ∧ q.pts ≤ pts ∧ q'.rdix = rdix ∧ q'.seq = seq ∧ q'.rejected = none ∧ t.mem = s.mem.write (q.desc + 16) 8 (rdix + seq * 2 ^ 32)

end Sys2Proof.Claims

/-- R277, R278, R290, R292, R313, R321, R400, R402, R403, R405: a queue that passes every check is registered, and one that is not busy unregistered; a slot
whose sequence number and check agree is taken, one that does not is rejected, and reported once after 100 ms; a refused window backs off and
is sent again, and the thread of an accepted request issues next; every entry that has been refused for 1 ms counts; a vector held off is raised, where it is one of its queue's bay, to the host or to the service cores; held records are written when there is room; wait cycles are scanned. Log entries 49, 51, 55: what of it is the model's choice. -/
def Obligations.QueueEvents : Prop :=
  ∀ (s : State) (k : Nat),
    (∀ die, let ctl := Dev.queueBase + 0x40 * die + 8
      let pa := (Dev.stored s (Dev.queueBase + 0x40 * die)).toNat
      (Dev.stored s ctl).getLsbD 0 = true → s.dieRuns die = true →
      (s.registrationStatus die pa = 0 → ∃ t q, exec (.queueRegister die) s = .next t ∧ t.queues = s.queues ++ [q] ∧ q.registered = true ∧ q.desc = pa
          ∧ q.base = s.mem.read pa 8 ∧ q.nblk = s.mem.read (pa + 8) 8 % 2 ^ 16 + 1 ∧ q.evring = s.mem.read (pa + 24) 8
          ∧ (∃ c ∈ t.contexts, c.asid = q.asid) ∧ Dev.stored t ctl = Dev.stored s ctl &&& 2 ∧ t.mem = s.mem)
      ∧ (s.registrationStatus die pa ≠ 0 → ∃ t, exec (.queueRegister die) s = .next t ∧ t.queues = s.queues
          ∧ Dev.stored t ctl = (Dev.stored s ctl &&& 2) ||| BitVec.ofNat 64 (16 * s.registrationStatus die pa))
      ∧ ∀ j q, s.liveQueue pa = some j → s.queues[j]? = some q → s.queueBusy j q = false → s.fwfail.getLsbD die = false →
          ∃ t q', exec (.queueUnregister die) s = .next t ∧ t.queues[j]? = some q' ∧ q'.registered = false ∧ Dev.stored t ctl = Dev.stored s ctl &&& 2 ∧ t.mem = s.mem)
    ∧ (∀ q, s.queues[k]? = some q → s.fwfail.getLsbD q.die = false → q.wants = true →
        (s.slotReason q = none → q.loop = none → q.skip = 0 → 1 ≤ (s.packetAt q).type → (s.packetAt q).type ≤ 15 →
          (∃ t, exec (.packetFetch k) s = .next t ∧ TakesSlot s t k q)
            ∧ (q.rejected ≠ none → ∃ t, exec (.slotReread k) s = .next t ∧ TakesSlot s t k q))
        ∧ ∀ r, s.slotReason q = some r → q.rejected = none → ∃ t q', exec (.packetFetch k) s = .next t ∧ t.queues[k]? = some q' ∧ q'.rejected = (if s.header q = 0 then none else some (s.ns, false, r))
            ∧ q'.ready = q.ready ∧ q'.seq = q.seq ∧ t.mem = s.mem)
    ∧ (∀ q since r, s.queues[k]? = some q → q.rejected = some (since, false, r) → since + 100000000 ≤ s.ns → r < 2 →
        ∃ t q', exec (.slotRejectTimeout k) s = .next t ∧ t.queues[k]? = some q' ∧ q'.rejected = some (since, true, r) ∧ q'.halted = q.halted)
    ∧ (∀ x w, s.senders[k]? = some w → w.resend ≤ s.clk → w.window = [x] → s.sendable x = true →
        (s.accept x.what = none → ∃ t w', exec (.replayBackoffExpiry k false) s = .next t ∧ t.senders[k]? = some w' ∧ w'.window = [x]
            ∧ w'.backoff = min (2 * w.backoff) 4096 ∧ w'.resend = s.clk + min (2 * w.backoff) 4096)
        ∧ (∀ y, s.accept x.what = some y → y.fault = none → y.s.senders = s.senders →
            (∀ r p who, x.what = .request r p who → ∃ u, who = .thread u ∧ ∀ ring, s.why u ≠ some (.ringSlot ring)) →
            ∃ t, exec (.replayBackoffExpiry k true) s = .next t ∧ t.senders.length < s.senders.length)
        ∧ ∀ r p u id, x.what = .request r p (.thread u) → s.why u = some (.refused id) → s.standing r p < depthOf r →
            ∃ t, exec (.replayBackoffExpiry k true) s = .next t ∧ t.current = some u ∧ s.why u ≠ t.why u ∧ t.standing r p = s.standing r p + 1)
    ∧ (∀ w, s.senders[k]? = some w → ∃ t, exec (.refusalHoldTimeout k) s = .next t ∧ t.mem = s.mem ∧ t.senders[k]? = some { w with window := w.window.map (fun x =>
          if x.since + 1000000 ≤ s.ns then { x with held := true } else x) })
    ∧ (∀ ring, s.holdoff.contains ring = true → SMap.get 0 s.raised ring + 999 ≤ s.ns →
        ∃ t, exec (.vectorHoldoffExpiry ring) s = .next t ∧ ring ∉ t.holdoff ∧ t.mem = s.mem
          ∧ t.msix = (if s.vectorAllowed ring ∧ s.present 2 = false then s.msix ++ [(s.ringDesc ring).vector] else s.msix)
          ∧ t.svcMsi = if s.vectorAllowed ring ∧ s.present 2 then s.svcMsi ++ [(s.ringDesc ring).vector] else s.svcMsi)
    ∧ (∀ asid c ring e, s.context asid = some c → s.ringFull ring = false → (∀ u v, s.why u ≠ some (.evsig v)) →
        (c.held = [(ring, e)] → c.dropped = 0 → ∃ t c', exec (.heldRecordsFlush asid) s = .next t ∧ t.context asid = some c' ∧ c'.held = [] ∧ t.mem = (s.writeRecord ring e).mem)
        ∧ (c.held = [] → c.dropped ≠ 0 → s.contextRing asid = some ring → ∃ t c', exec (.heldRecordsFlush asid) s = .next t ∧ t.context asid = some c' ∧ c'.dropped = 0
            ∧ t.mem = (s.writeRecord ring { kind := 15, asid, coreid := 0xFF, tix := 0xFFFFFFFF, tid := 0xFFFFFFFF, value := BitVec.ofNat 64 c.dropped }).mem))
    ∧ (∃ t, exec .plumbScan s = .next t ∧ t.cycles = s.waitCycles.dedup.map s.cycleKey ∧ ∀ c ∈ t.cycles, c ∈ s.cycles → c ∈ t.cyclesTold)
/-! ## Packets -/

namespace Sys2Proof.Claims

/-- R279, R280: packet p of a type stands alone at the head of queue k, may start, and keeps to R279. -/
def PacketReady (s : State) (k type : Nat) (q : Queue) (p : Packet) : Prop :=
  s.queues[k]? = some q ∧ q.ready = [p] ∧ p.type = type ∧ s.mayStart k q p = true ∧ p.len = (if type ≤ 3 then 3 else 1) ∧ p.bodyOk = true
    ∧ (12 ≤ type → q.ctl = true) ∧ q.skip = 0 ∧ q.loop = none ∧ q.gates = []

/-- The state in which the packet has been taken. -/
def taken (s : State) (k : Nat) : State := s.modQueue k fun q => { q with ready := [] }

/-- The packet has started: the queue holds it no longer, and has these fields. -/
def Started (t : State) (k : Nat) (f : Queue → Prop) : Prop := ∃ q, t.queues[k]? = some q ∧ q.ready = [] ∧ f q

/-- R145: a condition on n-bit words. -/
def cond (fn : Nat) (signed : Bool) (n x y : Nat) : Prop :=
  let v (z : Nat) : Int := if signed then (BitVec.ofNat n z).toInt else z
  match fn with
  | 0 => v x = v y
  | 1 => v x ≠ v y
  | 2 => v x < v y
  | 3 => v x ≤ v y
  | 4 => v x > v y
  | _ => v x ≥ v y

/-- R280: the word that a packet tests lies at pa, with s1 the state after its translation. -/
def TestsAt (s : State) (q : Queue) (p : Packet) (s1 : State) (pa : Nat) : Prop :=
  s.bodyWordAt q (p.word 0 % 2 ^ 57) (if p.word 2 / 8 % 2 = 1 then 8 else 4) false true = .ok (s1, pa) ∧ p.word 2 % 8 < 6
def testTrue (p : Packet) (s1 : State) (pa : Nat) : Prop :=
  let n := if p.word 2 / 8 % 2 = 1 then 8 else 4
  cond (p.word 2 % 8) (p.word 2 / 16 % 2 = 1) (8 * n) (s1.mem.read pa n) (p.word 1 % 2 ^ (8 * n))

/-- R282: a launch with this body stands in the list of launches. -/
def Launched (t : State) (j asid k rel : Nat) (body : LaunchBody) (count : Nat) : Prop :=
  ∃ la, t.launches[j]? = some la ∧ la.body = body ∧ la.asid = asid ∧ la.queue = some k ∧ la.rel = rel ∧ la.teams.length = count

end Sys2Proof.Claims

/-- R280, R282, R288, R292, R316: launch packets that pass R282's checks add their launch; loop, conditional and wait-value packets set up
their repetition, their skip and their wait, which ends once a write has made the condition hold; write-value and gate packets store their word; a signal
packet writes its record; a fence packet sends the markers and flushes of its release scope and is over with their answers; a gate lets its packets run and is reopened. Log entries 8, 41, 42: what of it is the model's choice. -/
def Obligations.PacketEvents : Prop :=
  ∀ (s : State) (k : Nat) (q : Queue) (p : Packet),
    let s' := taken s k
    let ready (type : Nat) : Prop := PacketReady s k type q p
    let body := LaunchBody.ofWords p.body
    let bay := ((s.context q.asid).map (·.bay)).getD 0
    (∀ s2 s3, ready 1 → body.kind = 0 → s'.checkLaunch q.die q.asid bay p.body (body.grid % 2 ^ 32) = some s2 → s2.bodyAddresses q.die q.asid body = some s3 →
        ∃ t, exec (.launchPacket k) s = .next t ∧ Launched t s3.launches.length q.asid k p.rel body (body.grid % 2 ^ 32) ∧ Started t k fun _ => True)
    ∧ (∀ s2 s3, ready 2 → body.kind = 1 → s.present 11 = true → s'.checkLaunch q.die q.asid bay p.body (body.grid % 2 ^ 24) = some s2 →
        s2.bodyAddresses q.die q.asid body = some s3 →
        ∃ t, exec (.pageLaunchPacket k) s = .next t ∧ Launched t s3.launches.length q.asid k p.rel body (body.grid % 2 ^ 24))
    ∧ (∀ s1 pa s2 s3, ready 3 → body.kind = 2 → s'.bodyWordAt q (body.grid % 2 ^ 57) 4 false true = .ok (s1, pa) → s1.mem.read pa 4 ≠ 0 →
        (let x := s1.loadHome none q.pts pa 4 (q.req (body.grid % 2 ^ 57)); x.1.queueAt k x.2.2).checkLaunch q.die q.asid bay p.body (s1.mem.read pa 4) = some s2 → s2.bodyAddresses q.die q.asid body = some s3 →
        ∃ t, exec (.indirectLaunchPacket k) s = .next t ∧ Launched t s3.launches.length q.asid k p.rel body (s1.mem.read pa 4) ∧ Started t k fun _ => True)
    ∧ (ready 4 → p.word 0 % 2 ^ 32 ≠ 0 → p.word 0 / 2 ^ 32 % 2 ^ 16 ≠ 0 →
        ∃ t, exec (.loopPacket k) s = .next t ∧ t.mem = s.mem ∧ Started t k fun x => x.loop = some (p.word 0 / 2 ^ 32 % 2 ^ 16, p.word 0 % 2 ^ 32, []))
    ∧ (∀ s1 pa, ready 5 → TestsAt s' q p s1 pa →
        ∃ t, exec (.conditionalPacket k) s = .next t ∧ t.mem = s1.mem
          ∧ Started t k fun x => (testTrue p s1 pa → x.skip = 0) ∧ (¬testTrue p s1 pa → x.skip = p.word 2 / 2 ^ 16 % 2 ^ 16))
    ∧ (∀ s1 pa, ready 6 → TestsAt s' q p s1 pa →
        ∃ t, exec (.waitValuePacket k) s = .next t ∧ t.mem = s1.mem
          ∧ Started t k fun x => (testTrue p s1 pa → x.waiting = none) ∧ (¬testTrue p s1 pa → x.waiting = some p))
    ∧ (∀ w v pts, s.queues[k]? = some q → q.watch = some w → w.met = none → w.n = 4 ∨ w.n = 8 → w.fn < 6 → cond w.fn w.signed (8 * w.n) (v % 2 ^ (8 * w.n)) w.value →
        ∃ x, ((s.store none pts (.phys w.pa 0) w.n v).1.queues)[k]? = some x ∧ (x.watch.bind (·.met)).isSome)
    ∧ (∀ ts, s.queues[k]? = some q → q.watch.bind (·.met) = some ts →
        ∃ t x, exec (.waitValueSatisfied k) s = .next t ∧ t.queues[k]? = some x ∧ x.waiting = none ∧ x.watch = none ∧ ts ≤ x.pts ∧ t.mem = s.mem)
    ∧ (∀ s1 pa, ready 7 → s'.bodyWordAt q (p.word 0) (if p.word 2 % 2 = 1 then 8 else 4) true false = .ok (s1, pa) →
        ∃ t, exec (.writeValuePacket k) s = .next t ∧ t.mem = s1.mem.write pa (if p.word 2 % 2 = 1 then 8 else 4) (p.word 1) ∧ Started t k fun _ => True)
    ∧ (ready 8 → ∃ t, exec (.signalPacket k) s = .next t ∧ Started t k (fun _ => True)
        ∧ t.mem = (s'.writeRecord q.evring { kind := 2, asid := q.asid, coreid := 0xFF, tix := 0xFFFFFFFF, tid := 0xFFFFFFFF, value := (p.body[0]?).getD 0 }).mem)
    ∧ (ready 9 → ∃ t x, exec (.fencePacket k) s = .next t ∧ t.queues[k]? = some x ∧ x.ready = [] ∧ t.mem = s.mem ∧ (p.rel < 2 → x.closing = none)
        ∧ (2 ≤ p.rel → s.fabSince = [] → (∀ m ∈ s.markers, s.ofQueue k m = false) → (p.rel = 3 → s.relaxed = [] ∧ (∀ u fab sys, s.why u ≠ some (.fence fab sys)) ∧ ∀ la ∈ s.launches, la.closing = none) →
            x.closing = none)
        ∧ (2 ≤ p.rel → ∀ y ∈ s.fabSince, ∃ fab sys, x.closing = some (fab, sys) ∧ ∃ m ∈ t.markers, m.port = y.1 ∧ m.id ∈ fab)
        ∧ (p.rel = 3 → ∀ y ∈ s.relaxed, ∃ fab sys, x.closing = some (fab, sys) ∧ y.port ∈ sys))
    ∧ (∀ m, s.queues[k]? = some q → q.closing = some ([m.id], []) → s.markers.find? (·.id = m.id) = some m → (∀ o ∈ s.ownStores, o.id ∉ m.covers) →
        ∃ t x, exec (.fenceMarkerAnswer m.id false) s = .next t ∧ t.queues[k]? = some x ∧ x.closing = none)
    ∧ (∀ s1 pa s2 pb, ready 11 → s'.bodyWordAt q (p.word 0) 8 true false = .ok (s1, pa) → s1.bodyWordAt q (p.word 0 + 8) 8 false false = .ok (s2, pb) →
        ∃ t, exec (.gatePacket k) s = .next t ∧ t.mem = s2.mem.write pa 8 1
          ∧ Started t k fun x => ∃ g, x.gates = [g] ∧ g.word = pa ∧ g.left = p.word 1 % 2 ^ 16 ∧ (g.zero = true ↔ t.mem.read (pa + 8) 8 = 0))
    ∧ (∀ g gs, s.queues[k]? = some q → q.gates = g :: gs → g.zero = false → s.mem.read (g.word + 8) 8 = 0 →
        ∃ t x, exec (.gateUsersZero k) s = .next t ∧ t.queues[k]? = some x ∧ x.gates = { g with zero := true } :: gs ∧ t.mem = s.mem)
    ∧ (∀ g gs, s.queues[k]? = some q → q.gates = g :: gs → g.zero = true → g.left = 0 → q.waiting = none → q.relay = none → q.loop = none → q.ready = [] → q.closing = none → q.effects = [] →
        (∀ la ∈ s.launches, la.complete = true ∨ la.queue ≠ some k) →
        ∃ t x, exec (.gateReopen k) s = .next t ∧ t.queues[k]? = some x ∧ x.gates = gs ∧ t.mem = s.mem.write g.word 8 0)

/-- R291, R399, R401, R411, R412: pre-empt starts a drain with its deadline; a drain ends when no team of the context is resident, and becomes a
forced reset at its deadline; resume makes a pre-empted context active and its queues go on; grant gives an exhausted slice its budget; reset
starts a forced reset, which ends when nothing of the context runs. Log entries 8, 47: what of it is the model's choice. -/
def Obligations.ContextEvents : Prop :=
  ∀ (s : State) (k : Nat) (q : Queue) (p : Packet) (asid : Nat) (c : Context), s.context asid = some c →
    let ready (type : Nat) : Prop := PacketReady s k type q p ∧ p.word 0 % 512 = asid
    let becomes (t : State) (st : CtxState) : Prop := ∃ x, t.context asid = some x ∧ x.state = st
    let us := p.word 1 % 2 ^ 32
    (ready 12 → c.state = .active → ∃ t, exec (.preEmptPacket k) s = .next t ∧ Instr.drainComplete asid ∈ t.agenda
        ∧ becomes t (.draining s.ns (s.ns + 1000 * (if us = 0 then 5000 else min (max us 100) 1000000))))
    ∧ (∀ a d, c.state = .draining a d → s.quietContext asid = true → ∃ t, exec (.drainComplete asid) s = .next t ∧ becomes t .preempted)
    ∧ (∀ a d, c.state = .draining a d → d ≤ s.ns → ∃ t, exec (.drainDeadline asid) s = .next t ∧ becomes t (.resetting 0))
    ∧ (ready 13 → c.state = .preempted → ∃ t, exec (.resumePacket k) s = .next t ∧ becomes t .active ∧ ∀ x ∈ t.queues, x.asid = asid → x.halted = false)
    ∧ (∀ j la n b, ready 14 → (s.contextLaunches asid).find? (fun j => ((s.launches[j]?).map (·.tag)) = some (p.word 1 % 2 ^ 32)) = some j →
        s.launches[j]? = some la → n = p.word 1 / 2 ^ 32 → n ≠ 0xFFFFFFFF → (n, b) ∈ la.budgets → b.exhausted = true → p.word 2 ≠ 0 →
        ∃ t l, exec (.grantPacket k) s = .next t ∧ t.launches[j]? = some l ∧ (l.budget n).left = p.word 2 ∧ (l.budget n).exhausted = false ∧ t.mem = s.mem)
    ∧ (ready 15 → (∀ r, c.state ≠ .resetting r) → ∃ t, exec (.resetPacket k) s = .next t ∧ becomes t (.resetting 2) ∧ Instr.forcedResetComplete asid ∈ t.agenda
        ∧ (∀ o ∈ t.ops, o.asid ≠ asid) ∧ ∀ m ∈ t.monitors, ∀ tm, t.team m.t.team = some tm → tm.asid t = asid → t.privileged tm = true)
    ∧ (∀ r, (s.contexts.map (·.asid)).Nodup → c.state = .resetting r → c.gone = false → s.resetDone asid = true → ∃ t, exec (.forcedResetComplete asid) s = .next t ∧ becomes t .active)

/-- R317, R378: a relay packet starts its stage, in the first module of the chain with every chunk held, in another with none; a module that is
first and last is at the end at once; a chunk that has arrived whole is landed and noted; a chunk that the next module refuses stays on offer,
and the last one, accepted and with no store of it lost, ends the relay; a chunk undelivered for 1 s ends it. Log entries 48, 97, 115, 134: what of it is the model's choice. -/
def Obligations.RelayEvents : Prop :=
  ∀ (s : State) (k : Nat) (q : Queue) (p : Packet),
    let relayOf (t : State) : Option Relay := (t.queues[k]?).bind (·.relay)
    (∀ s1 pa s2 pb, PacketReady s k 10 q p → s.present 10 = true → s.present 3 = true → p.word 2 % 4096 = 0 → (taken s k).bodyWordAt q (p.word 4) 8 true false = .ok (s1, pa) →
        s1.bodyWordAt q (p.word 0) 8 false false = .ok (s2, pb) →
        (Config.relayFirst s2.free = false → p.word 3 ≠ 0 →
          ∃ t r, exec (.relayPacket k) s = .next t ∧ relayOf t = some r ∧ r.buffer = p.word 0 ∧ r.next = p.word 1 ∧ r.chunk = p.word 2 ∧ r.count = p.word 3
            ∧ r.word = p.word 4 ∧ r.first = false ∧ r.landed = [] ∧ r.forwarded = 0 ∧ t.mem = s2.mem)
        ∧ (Config.relayFirst s2.free = true → p.word 1 = 0xFFFF → ∃ t, exec (.relayPacket k) s = .next t ∧ relayOf t = none))
    ∧ (∀ r pred buffer chunk bytes s1 ts j, s.queues[k]? = some q → q.relay = some r → s.present 3 = true → s.relayFor pred buffer chunk = some k → r.next = 0xFFFF →
        j < r.count → j ≠ chunk → j ∉ r.landed → r.chunk ≤ bytes.length → s.landBytes q (r.buffer + r.chunk * chunk) 0 (bytes.take r.chunk) (bytes.length / 128 + 2) = some (s1, ts) →
        ∃ t r', exec (.relayChunkArrival pred buffer chunk bytes) s = .next t ∧ relayOf t = some r' ∧ r'.pred = some pred
          ∧ (∀ x, x ∈ r'.landed ↔ x ∈ r.landed ∨ x = chunk) ∧ t.mem = s1.mem)
    ∧ (∀ r, s.queues[k]? = some q → q.relay = some r → r.next ≠ 0xFFFF → r.forwarded ∈ r.landed →
        (∃ t, exec (.relayResend k r.forwarded false) s = .next t ∧ relayOf t = some r ∧ (s.present 3 = false → t.mem = s.mem))
          ∧ (s.present 3 = true → r.forwarded + 1 = r.count → (s.sendChunk k q r r.forwarded).2 = true → ∃ t, exec (.relayResend k r.forwarded true) s = .next t ∧ relayOf t = none))
    ∧ (∀ r, s.queues[k]? = some q → q.relay = some r → r.next ≠ 0xFFFF → r.forwarded ∈ r.landed → r.since + 1000000000 ≤ s.ns →
        ∃ t, exec (.relayChunkGiveUp k r.forwarded) s = .next t ∧ relayOf t = none)

/-! ## The outside world -/

namespace Sys2Proof.Claims

/-- The bytes stand at pa, and every other byte of memory is as before. -/
def BytesAt (s t : State) (pa : Nat) (bytes : List Byte) : Prop :=
  (∀ j b, bytes[j]? = some b → t.mem.read (pa + j) 1 = b.toNat) ∧ ∀ a, a < pa ∨ pa + bytes.length ≤ a → t.mem.get a = s.mem.get a

end Sys2Proof.Claims

/-- R124, R309-R315, R365, R376, R377, R418: host, service-core and fabric accesses to module memory are performed as the bytes they carry and no
others; their loads answer what stands there, and a snoop with the line; monitors of words elsewhere are released by a word that meets their
condition; late answers fault; markers are answered once the counted stores are performed, and none without feature 3; a lost link is reported. The host's
writes of its own memory reach the lines that no home holds (R307). Log entries 49, 52, 53, 81, 89: what of it is the model's choice. -/
def Obligations.OutsideEvents : Prop :=
  ∀ (s : State) (u : TRef) (tm : Team) (th : Thread), s.team u.team = some tm → s.thread u = some th →
    (∀ pa bytes, pa + bytes.length ≤ s.hbmTop →
        (∃ t, exec (.hostWrite pa bytes) s = .next t ∧ BytesAt s t pa bytes)
          ∧ ∀ m, m = Config.moduleNumber ∨ s.present 3 = true →
              ∃ t, exec (.fabricStoreArrival m pa bytes) s = .next t ∧ BytesAt s t pa bytes)
    ∧ (∀ pa bytes, s.region (pa / 128 * 128) = .host → pa % 128 + bytes.length ≤ 128 → bytes ≠ [] →
        (s.l2Holds (pa / 128 * 128) = false → ∃ t, exec (.hostWrite pa bytes) s = .next t ∧ BytesAt s t pa bytes)
          ∧ (s.l2Holds (pa / 128 * 128) = true → ∃ t, exec (.hostWrite pa bytes) s = .next t ∧ t.mem = s.mem))
    ∧ (∀ pa n, s.region pa = .hbm → ∃ t, exec (.hostLoad pa n) s = .next t ∧ t.hostAnswer = BitVec.ofNat 64 (s.mem.read pa n) ∧ t.mem = s.mem ∧ t.lines = s.lines)
    ∧ (∀ h pa n v, h < 32 → s.region pa = .hbm → pa + n ≤ s.hbmTop → (s.hart h).asked = [] → (s.hart h).granted = none → s.awaitsEntry (.service h) = false → s.hodHolds (.hart h) = false →
        s.present 7 = false ∨ s.programs = [] →
        (∀ j, s.standing j (servicePort h) < 64 ∧ s.windowFor (servicePort h) (.request j (servicePort h) (.service h)) = []) →
        (s.l1Copy (hartCache h) pa = none → s.l1Copy sharedCache pa = none →
          ∃ t, exec (.serviceCoreAccess h pa n none) s = .next t ∧ t.hostAnswer = BitVec.ofNat 64 (s.mem.read pa n) ∧ (s.hart h).pts ≤ (t.hart h).pts ∧ t.mem = s.mem)
        ∧ ∃ t, exec (.serviceCoreAccess h pa n (some v)) s = .next t ∧ BytesAt s t pa (natBytes n v.toNat) ∧ (s.hart h).pts ≤ (t.hart h).pts)
    ∧ (∀ pa line, s.region pa = .host → s.present (hostPort pa) = true → line.length = 128 →
        (∃ t, exec (.hostSnoop pa true line) s = .next t ∧ t.hostLine = s.mem.bytes (pa / 128 * 128) 128 ∧ BytesAt s t (pa / 128 * 128) line)
          ∧ ∃ t, exec (.hostSnoop pa false line) s = .next t ∧ t.hostLine = s.mem.bytes (pa / 128 * 128) 128 ∧ t.mem = s.mem)
    ∧ (∀ m n word, s.monitorOf u = some m → (th.wait).map (·.next) = some n → s.isPosted m.loc = true → s.linkGone m.loc = false →
        canTrapAs s tm th false → (∀ en ∈ th.log, en.busy = false ∧ en.fault = none) → (s.poke m.loc m.n word.toNat).satisfied m = true →
        ∃ t, exec (.hostMonitorPoll u word) s = .next t ∧ t.monitorOf u ≠ some m
          ∧ if Config.loadRefused s.free then TookTrapAs s t u tm th 0x44 (BitVec.ofNat 64 (2 * 2 ^ 57 + m.va % 2 ^ 57)) th.pc
            else if Config.answerMarked s.free then TookTrapAs s t u tm th 0x46 (poisonFault m.loc m.va).aux th.pc
            else GoesOnAt t u n)
    ∧ (∀ m n word, s.monitorOf u = some m → (th.wait).map (·.next) = some n → s.isFabric m.loc = true →
        condHolds m.fn.toNat m.signed (8 * m.n) word.toNat m.value.toNat = true → ∃ t, exec (.fabricMonitorWake u word) s = .next t ∧ GoesOnAt t u n ∧ t.mem = s.mem)
    ∧ (∀ fab sys n, th.waitsFor (.fence fab sys) n → canTrapAs s tm th false → (∀ en ∈ th.log, en.busy = false ∧ en.fault = none) →
        (sys ≠ [] → ∃ t, exec (.hostCompletionTimeout u true) s = .next t ∧ TookTrapAs s t u tm th 0x47 (BitVec.ofNat 64 (2 ^ 57)) th.pc ∧ t.mem = s.mem)
          ∧ (fab ≠ [] → ∃ t, exec (.fabricTimeout u true) s = .next t ∧ TookTrapAs s t u tm th 0x47 (BitVec.ofNat 64 (3 * 2 ^ 57)) th.pc ∧ t.mem = s.mem))
    ∧ (∀ pa n fn ty rnd (b c : W128), s.present 3 = true → s.region pa = .hbm → s.physPoisoned pa n = false →
        (∃ t, exec (.fabricRequestArrival (.load pa n)) s = .next t ∧ t.fabAnswer = BitVec.ofNat 128 (s.mem.read pa n) ∧ t.mem = s.mem)
          ∧ ∃ t, exec (.fabricRequestArrival (.atom pa n fn ty rnd b c)) s = .next t ∧ t.fabAnswer = BitVec.ofNat 128 (s.mem.read pa n)
            ∧ t.mem = s.mem.write pa n (atomNew fn.toNat ty (8 * n) rnd (s.mem.read pa n) b.toNat c.toNat))
    ∧ (∀ m count, s.present 3 = true → ∃ t, exec (.fenceMarkerArrival m count) s = .next t ∧ t.mem = s.mem
        ∧ ((∀ pa bytes, Instr.fabricStoreArrival m pa bytes ∉ s.agenda) → (∀ b j bytes, Instr.relayChunkArrival m b j bytes ∉ s.agenda) → m ∈ t.fabAnswered)
        ∧ ∀ pa bytes, Instr.fabricStoreArrival m pa bytes ∈ s.agenda → (m, BitVec.ofNat 32 count) ∈ t.fabIn)
    ∧ (∀ m count, s.present 3 = false → exec (.fenceMarkerArrival m count) s = .next s)
    ∧ (∀ f port q c, s.feature f = true → port < linkPorts f → (f, port) ∉ s.lost → s.queues.find? (fun q => q.registered && q.ctl) = some q → s.context q.asid = some c → c.held = [] → s.ringFull q.evring = false →
        ∃ t, exec (.linkLoss (f, port)) s = .next t ∧ (f, port) ∈ t.lost
          ∧ t.mem = (s.writeRecord q.evring { kind := 19, asid := q.asid, coreid := 0xFF, tix := 0xFFFFFFFF, tid := 0xFFFFFFFF, value := BitVec.ofNat 64 (f % 128) }).mem)

/-! ## Bays and the module -/

namespace Sys2Proof.Claims

/-- R324: the words of a reading record of a bay: fixed fields, the module's serial number, the nonce, device time, the meter in mJ and its
bounds, the counts of enablings and resets, the signing index, and the parts in mJ. -/
def recordOf (bay : Nat) (src : Bool) (nonce : W64) (m : Meter) (time sidx enab resets : Nat) : List Nat :=
  [bay + (if src then 64 else 0) + 2 ^ 16 + 0x5A5A0960 * 2 ^ 32, Config.moduleSerial.toNat, nonce.toNat, time, m.acc / 1000, m.gaplo.toNat, m.gaphi.toNat,
   enab % 2 ^ 32 + resets % 2 ^ 32 * 2 ^ 32, sidx, m.core / 1000, m.mem / 1000, m.link / 1000, m.flash / 1000,
   m.acc / 1000 - (m.core / 1000 + m.mem / 1000 + m.link / 1000 + m.flash / 1000), 0, 0]

end Sys2Proof.Claims

/-- R284, R318-R320, R322, R324-R326, R413, R415, R416: a bay is enabled with a fresh meter and disabled, its settings take effect as R320 says
and its reset resets its contexts; energy is split and metered; a reading request takes a record of the live meter or of the latest
checkpoint, or ends with status 1 for a bay that is not enabled; a signed record stands in memory; checkpoints and wear, with the count of the flash blocks
retired, are written. Log entries 31, 56: what of it is the model's choice. -/
def Obligations.BayAndMeterEvents : Prop :=
  ∀ (s : State) (b : Nat),
    (s.bayEnabled b = false → b < 64 → s.bayMaskOk b = true → s.bayRangeOk b (s.bayWord b) = true →
        ∃ t, exec (.bayEnable b) s = .next t ∧ t.bayEnabled b = true ∧ SMap.get {} t.meters b = {}
          ∧ SMap.get 0 t.enablings b = SMap.get 0 s.enablings b + 1 ∧ t.mem = s.mem)
    ∧ (s.bayEnabled b = true → b ≠ 0 → (∀ c ∈ s.contexts, c.bay ≠ b) → ∃ t, exec (.bayDisable b) s = .next t ∧ t.bayEnabled b = false ∧ t.meters = s.meters)
    ∧ ((s.bayWord b).getLsbD 62 = true → ∃ t, exec (.bayReset b) s = .next t
        ∧ ∀ asid c, s.context asid = some c → c.bay = b → (∀ r, c.state ≠ .resetting r) → ∃ c', t.context asid = some c' ∧ c'.state = .resetting 1)
    ∧ (∀ off v, b < 64 → off < 0x20 → b ≠ 0 → s.bayEnabled b = false → ∃ t, exec (.baySettingsWrite b off v) s = .next t ∧ Dev.stored t (Dev.bayBase + 0x40 * b + off) = v)
    ∧ (∀ off v, off < 0x20 → s.bayEnabled b = true → exec (.baySettingsWrite b off v) s = .next s)
    ∧ (∀ v, b < 64 → s.bayEnabled b = true →
        ∃ t, exec (.baySettingsWrite b 0x20 v) s = .next t ∧ t.qosNext = s.qosNext.filter (fun x => x.1 ≠ b) ++ [(b, v &&& 0x000000FF000000FF)])
    ∧ (∃ t, exec .qosWindow s = .next t ∧ t.qosUse = [] ∧ t.qosNext = [] ∧ t.mem = s.mem
        ∧ (s.qosNext = [] → t.dev = s.dev)
        ∧ ∀ x, s.qosNext = [(b, x)] → t.bayWord b = (x &&& 0x000000FF000000FF) ||| (s.bayWord b &&& ~~~ 0x000000FF000000FF))
    ∧ (∀ kind total w, w ≠ 0 → s.bayEnabled b = true → ∃ t, exec (.meterWindow [(kind, total, [(b, w)])]) s = .next t ∧ (SMap.get {} t.meters b).acc = (SMap.get {} s.meters b).acc + total
        ∧ (kind = 0 → (SMap.get {} t.meters b).core = (SMap.get {} s.meters b).core + total) ∧ ∀ c, c ≠ b → (SMap.get {} t.meters c).acc = (SMap.get {} s.meters c).acc)
    ∧ (let w := Dev.stored s (Dev.meterBase + 0x10)
       let bay := w.toNat % 64
       let dst := (Dev.stored s Dev.meterBase).toNat
       let nonce := Dev.stored s (Dev.meterBase + 8)
       w.getLsbD 7 = true → s.reading = none →
        (w.getLsbD 8 = false → s.bayEnabled bay = true → s.sidx < s.reserved → s.sidx < 2 ^ 40 →
          ∃ t, exec .meterReadLive s = .next t ∧ t.sidx = s.sidx + 1
            ∧ t.reading = some ((recordOf bay false nonce (SMap.get {} s.meters bay) s.ns s.sidx (SMap.get 0 s.enablings bay) s.resets).flatMap (natBytes 8), dst))
        ∧ (∀ x, w.getLsbD 8 = true → s.bayEnabled bay = true → s.sidx < s.reserved → s.sidx < 2 ^ 40 → s.checkpoints.reverse.find? (·.bay = bay) = some x →
          ∃ t, exec .meterReadCheckpoint s = .next t ∧ t.sidx = s.sidx + 1
            ∧ t.reading = some ((recordOf bay true nonce x.meter x.time s.sidx (SMap.get 0 s.enablings bay) s.resets).flatMap (natBytes 8), dst))
        ∧ (w.getLsbD 8 = false → s.bayEnabled bay = false → ∃ t, exec .meterReadLive s = .next t ∧ t.reading = none
            ∧ (Dev.stored t (Dev.meterBase + 0x10)).toNat / 2 ^ 12 = 1 ∧ (Dev.stored t (Dev.meterBase + 0x10)).getLsbD 7 = false))
    ∧ (∀ record dst sig, s.reading = some (record, dst) → record.length ≤ 128 → sig.length = 9893 →
        ∃ t, exec (.meterReadingSigned sig) s = .next t ∧ t.reading = none ∧ (Dev.stored t (Dev.meterBase + 0x10)).getLsbD 7 = false
          ∧ (∀ j x, record[j]? = some x → t.mem.read (dst + j) 1 = x.toNat) ∧ ∀ j x, sig[j]? = some x → t.mem.read (dst + 128 + j) 1 = x.toNat)
    ∧ (s.sidx + (enabledBays s).length + 1 ≤ s.reserved → s.reserved ≤ 2 ^ 40 → ∃ t, exec (.meterCheckpoint true) s = .next t
        ∧ ∀ c, c = 0 ∨ c ∈ enabledBays s → ∃ x ∈ t.checkpoints, x.bay = c ∧ x.meter = SMap.get {} s.meters c ∧ x.time = s.ns ∧ x.sidx.isSome = true)
    ∧ (∃ t, exec (.meterCheckpoint false) s = .next t ∧ t.checkpoints = s.checkpoints)
    ∧ ∀ life pemax pemean age, ∃ t, exec (.wearUpdate life pemax pemean age) s = .next t ∧ Dev.stored t Dev.wearBase = life
        ∧ Dev.stored t (Dev.wearBase + 8) = pemax ++ pemean ∧ Dev.stored t (Dev.wearBase + 0x18) = age
        ∧ (Dev.stored t (Dev.wearBase + 0x10)).toNat % 2 ^ 32 = t.blocksGone.length % 2 ^ 32
        ∧ (∀ x ∈ s.blocksGone, x ∈ t.blocksGone) ∧ (pemax.toNat < 3000 → t.blocksGone = s.blocksGone)

/-- R27, R327, R328, R360, R371, R414, R417, R419: power on and a module reset leave no team, no context and no queue, count a reset and train,
unless a failed slice keeps service reduced (log entries 3, 57: memory and clock as before, and what power on does); training ends in full service, and a part that fails keeps the module in reduced service; a
core retired for a reason that holds and a failed firmware core are noted; the feature word is ANDed with the offer before any context exists; a plain register is
written, and nothing where nothing is mapped; a soft error that cannot be corrected marks its storage; a block is refilled; power loss ends
everything. -/
def Obligations.ModuleEvents : Prop :=
  ∀ s : State,
    let fresh (t : State) : Prop := t.teams = [] ∧ t.contexts = [] ∧ t.queues = [] ∧ t.ops = [] ∧ t.launches = [] ∧ t.mem = s.mem ∧ t.clk = s.clk ∧ t.checkpoints = s.checkpoints
    (s.phase = .off → ∃ t, exec .powerOn s = .next t ∧ (s.sliceGone = none → t.phase = .training) ∧ t.resets = s.resets + 1 ∧ fresh t)
    ∧ (s.phase ≠ .off → ∃ t, exec .moduleReset s = .next t ∧ (s.sliceGone = none → t.phase = .training) ∧ (s.sliceGone ≠ none → t.phase = .reducedKept) ∧ t.resets = s.resets + 1 ∧ fresh t)
    ∧ (∃ t, exec .powerLoss s = .next t ∧ t.phase = .off ∧ fresh t)
    ∧ (s.phase = .training → (∀ c ∈ s.contexts, c.state = .preempted) → ∃ t, exec .trainingComplete s = .next t ∧ t.phase = .full ∧ t.mem = s.mem ∧ t.teams = s.teams)
    ∧ (∀ k, k < 8 → s.phase = .training → SMap.get 0 s.tries k = 2 →
        ∃ t, exec (.trainingFailed 0 k) s = .next t ∧ t.phase = .reducedKept ∧ (Dev.stored t Dev.bringUp).getLsbD (8 + k) = true)
    ∧ (∀ kind k, kind ≠ 2 → s.phase = .training → SMap.get 0 s.tries (kind * 256 + k) < 2 →
        ∃ t, exec (.trainingFailed kind k) s = .next t ∧ t.phase = .training ∧ SMap.get 0 t.tries (kind * 256 + k) = SMap.get 0 s.tries (kind * 256 + k) + 1)
    ∧ (∀ c r, isUserCore c = true → s.retired.getLsbD c = false → s.retires c r = true → ∃ t, exec (.coreRetire c r) s = .next t ∧ t.retired = s.retired ||| (1#256 <<< c) ∧ (t.core c).holder = none)
    ∧ (∀ d, d < 4 → s.fwfail.getLsbD d = false → ∃ t, exec (.firmwareCoreFailed d) s = .next t ∧ t.fwfail = s.fwfail ||| (1#4 <<< d)
        ∧ (∀ q ∈ t.queues, q.die = d → q.registered = false ∧ q.halted = true) ∧ ∀ c, c / 64 = d → isUserCore c = true → t.retired.getLsbD c = true)
    ∧ (∀ v, s.contexts = [] → ∃ t, exec (.featureAcceptWrite v) s = .next t ∧ t.accepted = v &&& s.offered ∧ t.mem = s.mem)
    ∧ (∀ v, s.feature 12 = true → (Dev.stored s (Dev.meterBase + 0x10)).getLsbD 7 = false →
        ∃ t, exec (.deviceRegisterWrite (Dev.meterBase + 8) 8 v) s = .next t ∧ Dev.stored t (Dev.meterBase + 8) = v ∧ t.mem = s.mem)
    ∧ (∀ pa n v, Dev.block (pa / 8 * 8) = .absent → exec (.deviceRegisterWrite pa n v) s = .next s)
    ∧ (∀ pa, (∃ t, exec (.softError (.hbm pa true)) s = .next t ∧ t.physPoisoned (pa / 16 * 16) 16 = true ∧ t.mem = s.mem)
        ∧ ∃ t, exec (.softError (.hbm pa false)) s = .next t ∧ t.poison = s.poison ∧ t.mem = s.mem)
    ∧ (∀ core owner slot block b s1 bytes, b ∈ (s.core core).code → b.owner = owner → b.slot = slot → b.block = block →
        s.refillBytes core owner slot block = some (s1, bytes, true) →
        ∃ t, exec (.codeStoreRefill core owner slot block true) s = .next t ∧ t.mem = s1.mem
          ∧ ∀ x ∈ (t.core core).code, x.owner = owner → x.slot = slot → x.block = block → x.bytes = bytes ∧ x.bad = false)
/-! ## Steps, decoding and reset -/

/-- R29, R39, R187, R289, R301, R361, R362: where the thread whose turn it is may issue, its wave is not stopped, and the bytes at its pc decode to an
instruction, the step is that instruction's execution in the state after the fetch, or, where a request of it is refused or has no answer yet, the
thread's wait for that, after which it issues again; where the fetch has missed lines for which a handler runs, the thread waits for them (log entry 100). With no
group left to issue, a step is an event of the agenda, an event that comes first before every other, or that event's wait, or a cycle of the pickers (log entry 1). -/
def Obligations.StepRunsTheInstruction : Prop :=
  ∀ s : State,
    (∀ r s1 bytes, s.current = some r → s.mayIssue r = true → s.methodStop r = none → (s.takeTurn r).fetch r = .ok (s1, bytes) →
        let misses := (s.takeTurn r).freshMisses s1 (.thread r)
        let pc := ((s.thread r).map (·.pc)).getD 0
        (∀ i len, misses = [] → decode bytes = .ok (i, len) →
          (s.postponed r i s1 = none → step s = exec i s1)
            ∧ ∀ x w, s.postponed r i s1 = some (x, w) → step s = .next (x.block r w pc).advance)
        ∧ (∀ err, misses = [] → decode bytes = .error err → step s = .next ((s1.issued r).raise r (illegalInfo bytes) pc).advance)
        ∧ (misses ≠ [] → step s = .next (((s.takeTurn r).later misses).block r (.answer false false 0) pc).advance))
    ∧ (s.current = none → s.groups = [] → ∃ n, let x := { s with free := n }
        (step s = exec .pickerCycle x ∧ ∀ j ∈ s.agenda, s.comesFirst j = false)
          ∨ ∃ (k : Nat) (i : Instr), s.agenda[k]? = some i ∧ (s.comesFirst i = false → ∀ j ∈ s.agenda, s.comesFirst j = false)
            ∧ match x.eventWaits k i with
              | none => step s = exec i ({ x with agenda := x.agenda.eraseIdx k }.usePlaces i)
              | some t => step s = .next t)

/-- R131-R136, R144: words written out from the encoding tables decode to their instructions: add v2, v0, v1 and sub v0, v1, v2 as base words,
nop, trap 5 as R264 encodes it, and an opcode of no instruction. -/
def Obligations.WordsDecode : Prop :=
  decodeTableWord 32 0x00102001 = some (.addBase { s := 0, g := 0, d := 2, a := 0, b := 1 })
    ∧ decodeTableWord 32 0x00200042 = some (.subBase { s := 0, g := 0, d := 0, a := 1, b := 2 })
    ∧ decodeTableWord 32 0x04800000 = some (.nopBase { s := 0, g := 0, d := 0, a := 0, b := 0 })
    ∧ decodeTableWord 96 0xFFE000050000000047500000
        = some (.trap (.ext { s := 0, fn := 0, ty := 0, guard := none, rnd := .rne, sat := false, d := 0, a := 0, space := 0, size := 0, scope := 0, hint := 0,
                              b := 2047, c := 0, x := 5, lit := none }))
    ∧ decodeTableWord 32 0x00000000 = none

/-- R129, R131-R137, R144, R147: decoding the encoding of any well-formed instruction gives it back, with its length. -/
def Obligations.DecodeOfEncode : Prop :=
  ∀ (i : Instr) (bytes rest : List Byte), i.wf = true → encode i = some bytes → decode (bytes ++ rest) = .ok (i, bytes.length)

/-- R147: what the decoder accepts is well-formed, and its encoding is the bytes that were read. -/
def Obligations.DecodeIsWellFormed : Prop :=
  ∀ (bytes : List Byte) (i : Instr) (len : Nat), decode bytes = .ok (i, len) → i.wf = true ∧ encode i = some (bytes.take len)

/-- Physical memory stays in its canonical form: every step keeps it. -/
def Obligations.StepKeepsMemoryCanonical : Prop :=
  ∀ s t : State, s.Inv → step s = .next t → t.Inv

/-- R268, R276, R293, R319, R324, R327, R373, R419: after reset nothing is placed, registered, in flight or installed, training has begun, no core is
retired, every privileged register and each of the six words of soft-error counters reads 0, bay 0 is enabled and no other, and memory is canonical. -/
def Obligations.ResetState : Prop :=
  let s := State.reset
  s.Inv ∧ s.teams = [] ∧ s.launches = [] ∧ s.contexts = [] ∧ s.queues = [] ∧ s.ops = [] ∧ s.programs = [] ∧ s.phase = .training ∧ s.retired = 0 ∧ s.fwfail = 0
    ∧ (∀ k, SMap.get 0 s.csr k = 0) ∧ (∀ j, j < 6 → s.devRead (Dev.softBase + 8 * j) = 0)
    ∧ s.bayEnabled 0 = true ∧ (∀ b, 0 < b → b < 64 → s.bayEnabled b = false)
    ∧ (∀ die off, off = 0 ∨ off = 8 → die < 4 → s.devRead (Dev.queueBase + 0x40 * die + off) = 0)

/-! ## Frames -/

namespace Sys2Proof.Claims

/-- R153: the instructions that only write a register or a predicate of their thread or team. -/
def registerOnly (op : Nat) : Bool := (0x01 ≤ op && op ≤ 0x1D) || (0x20 ≤ op && op ≤ 0x23) || (0x29 ≤ op && op ≤ 0x3F)

/-- Instructions with no register destination at issue, apart from a log entry's or a wait's. -/
def noRegister (i : Instr) : Bool :=
  match i with
  | .ld _ | .ldBase _ | .st _ | .stBase _ | .atom _ | .red _ | .rflush _ | .fence _ | .fres _ | .fresPoison _ | .tspawn _
  | .cpy _ | .gath _ | .scat _ | .ldt _ | .stt _ | .coll _ | .mwld _ | .mflip _ | .mop _ | .mrd _ | .xfwd _ | .xinv _ | .qbx _ | .dqbx _
  | .mjoin _ | .mtake _ | .rjoin _ | .sleep _ | .nop _ | .nopBase _ | .yield _ | .yieldBase _ | .csrw _ | .movt _ => true
  | _ => false

end Sys2Proof.Claims

/-- R10, R133, R151, R153: an integer, move, predicate, packing or floating-point instruction changes no register but its destination, no byte of
memory and nothing else of the machine; with a false guard it changes no register at all. -/
def Obligations.RegisterFrame : Prop :=
  ∀ (i : Instr) (s : State) (op : Nat) (e : Ext) (ws : List W32) (c : Ctx) (s0 : State), i.wf = true → i.parts = some (op, e, ws) → registerOnly op = true →
    (s.performs i = some (c, s0) → ∃ t, exec i s = .next t ∧ s.sameBut t c.t (resultCodes op e 32) ∧ t.goesOn c)
    ∧ (s.ctx op e ws = some (c, s0) → guardTrue e c.r.p = false → c.causes s0 false = [] → ∃ t, exec i s = .next t ∧ s.sameBut t c.t [] ∧ t.goesOn c)

/-- R142, R151, R202: at its issue an access, a reduction, a fence, an engine, matrix, transform or task instruction changes no register of any
thread and no privileged register, where no logged access of the thread is outstanding. -/
def Obligations.AccessFrame : Prop :=
  ∀ (i : Instr) (s : State) (c : Ctx) (s0 t : State), i.wf = true → noRegister i = true → s.performs i = some (c, s0) → (∀ en ∈ c.th.log, en.busy = false) →
    s.monitors = [] → c.tm.wave = none → exec i s = .next t →
    (∀ r k, t.vreg r k = s.vreg r k) ∧ (∀ r k, t.preg r k = s.preg r k) ∧ (∀ j k, t.sreg j k = s.sreg j k)
      ∧ (∀ k, (∀ w, i ≠ .csrw w) → SMap.get 0 t.csr k = SMap.get 0 s.csr k)
end

