-- ==== Sys2Proof/Laws/Sparse.lean ====
section
/-!
SUPPORT. The laws of the sparse maps and of memory: a read after a write to the same place gives what was written, a write
leaves every other place alone, and every memory operation keeps the canonical form.
-/
namespace Sys2Proof.Machine

variable {α : Type}

theorem SMap.get_drop_same (d : α) (m : SMap α) (k : Nat) : (m.drop k).get d k = d := by
  induction m with
  | nil => rfl
  | cons x m ih => obtain ⟨j, y⟩ := x; by_cases h : j = k <;> simp [SMap.drop, SMap.get, h, ih]

theorem SMap.get_drop_other (d : α) (m : SMap α) {k j : Nat} (h : j ≠ k) : (m.drop k).get d j = m.get d j := by
  induction m with
  | nil => rfl
  | cons x m ih =>
    obtain ⟨i, y⟩ := x
    by_cases hi : i = k
    · simp [SMap.drop, SMap.get, hi, ih, h.symm]
    · simp [SMap.drop, SMap.get, hi, ih]

theorem SMap.get_put_same (d : α) (m : SMap α) (k : Nat) (x : α) : (m.put k x).get d k = x := by
  induction m with
  | nil => simp [SMap.put, SMap.get]
  | cons y m ih =>
    obtain ⟨j, y⟩ := y
    simp only [SMap.put]
    split
    · simp [SMap.get]
    · split
      · simp [SMap.get]
      · simp [SMap.get, *]

theorem SMap.get_put_other (d : α) (m : SMap α) {k j : Nat} (x : α) (h : j ≠ k) : (m.put k x).get d j = m.get d j := by
  induction m with
  | nil => simp [SMap.put, SMap.get, h.symm]
  | cons y m ih =>
    obtain ⟨i, y⟩ := y
    simp only [SMap.put]
    split
    · subst i; simp [SMap.get, h.symm]
    · split
      · simp [SMap.get, h.symm]
      · simp [SMap.get, ih]

@[simp] theorem SMap.get_set_same [DecidableEq α] (d : α) (m : SMap α) (k : Nat) (x : α) : (m.set d k x).get d k = x := by
  unfold SMap.set; split
  · simp [SMap.get_drop_same, *]
  · exact SMap.get_put_same d m k x

theorem SMap.get_set_other [DecidableEq α] (d : α) (m : SMap α) {k j : Nat} (x : α) (h : j ≠ k) :
    (m.set d k x).get d j = m.get d j := by
  unfold SMap.set; split
  · exact SMap.get_drop_other d m h
  · exact SMap.get_put_other d m x h

theorem SMap.get_set [DecidableEq α] (d : α) (m : SMap α) (k j : Nat) (x : α) :
    (m.set d k x).get d j = if j = k then x else m.get d j := by
  split
  · subst j; simp
  · exact SMap.get_set_other d m x ‹_›

@[simp] theorem SMap.get_modify_same [DecidableEq α] (d : α) (m : SMap α) (k : Nat) (f : α → α) :
    (m.modify d k f).get d k = f (m.get d k) := SMap.get_set_same d m k _

theorem SMap.get_modify_other [DecidableEq α] (d : α) (m : SMap α) {k j : Nat} (f : α → α) (h : j ≠ k) :
    (m.modify d k f).get d j = m.get d j := SMap.get_set_other d m _ h

/-! ## The canonical form -/

theorem SMap.wfAbove_mono [DecidableEq α] (d : α) (m : SMap α) (lo : Option Nat) (j : Nat)
    (h : (match lo with | none => true | some l => decide (l < j)) = true) (hw : SMap.wfAbove d (some j) m = true) :
    SMap.wfAbove d lo m = true := by
  cases m with
  | nil => rfl
  | cons x m =>
    obtain ⟨k, x⟩ := x
    cases lo with
    | none => simp only [SMap.wfAbove, Bool.and_eq_true] at hw ⊢; exact ⟨⟨trivial, hw.1.2⟩, hw.2⟩
    | some l =>
      simp only [SMap.wfAbove, Bool.and_eq_true, decide_eq_true_eq] at hw h ⊢
      exact ⟨⟨by omega, hw.1.2⟩, hw.2⟩

theorem SMap.wfAbove_drop [DecidableEq α] (d : α) (m : SMap α) (k : Nat) (lo : Option Nat) (hw : SMap.wfAbove d lo m = true) :
    SMap.wfAbove d lo (m.drop k) = true := by
  induction m generalizing lo with
  | nil => exact hw
  | cons x m ih =>
    obtain ⟨j, x⟩ := x
    simp only [SMap.wfAbove, Bool.and_eq_true] at hw
    simp only [SMap.drop]
    split
    · exact ih lo (SMap.wfAbove_mono d m lo j hw.1.1 hw.2)
    · simp only [SMap.wfAbove, Bool.and_eq_true]
      exact ⟨hw.1, ih _ hw.2⟩

theorem SMap.wfAbove_put [DecidableEq α] (d : α) (m : SMap α) (k : Nat) (x : α) (lo : Option Nat) (hx : x ≠ d)
    (hk : (match lo with | none => true | some l => decide (l < k)) = true) (hw : SMap.wfAbove d lo m = true) :
    SMap.wfAbove d lo (m.put k x) = true := by
  induction m generalizing lo with
  | nil => simp only [SMap.put, SMap.wfAbove, Bool.and_eq_true, bne_iff_ne]; exact ⟨⟨hk, hx⟩, trivial⟩
  | cons y m ih =>
    obtain ⟨j, y⟩ := y
    simp only [SMap.wfAbove, Bool.and_eq_true] at hw
    simp only [SMap.put]
    split
    · simp only [SMap.wfAbove, Bool.and_eq_true, bne_iff_ne]
      subst j
      exact ⟨⟨hk, hx⟩, hw.2⟩
    · split
      · simp only [SMap.wfAbove, Bool.and_eq_true, bne_iff_ne, decide_eq_true_eq]
        exact ⟨⟨hk, hx⟩, ⟨‹_›, by simpa using hw.1.2⟩, hw.2⟩
      · simp only [SMap.wfAbove, Bool.and_eq_true]
        exact ⟨hw.1, ih (some j) (by simp; omega) hw.2⟩

theorem SMap.wf_set [DecidableEq α] (d : α) (m : SMap α) (k : Nat) (x : α) (hw : m.wf d = true) : (m.set d k x).wf d = true := by
  unfold SMap.set; split
  · exact SMap.wfAbove_drop d m k none hw
  · exact SMap.wfAbove_put d m k x none ‹_› rfl hw

/-! ## Memory -/

namespace Memory

@[simp] theorem get_set_same (m : Memory) (a : Nat) (b : Byte) : get (set m a b) a = b := SMap.get_set_same _ m a b
theorem get_set_other (m : Memory) {a c : Nat} (b : Byte) (h : c ≠ a) : get (set m a b) c = get m c := SMap.get_set_other _ m b h

/-- A write of `n` bytes at `a` leaves every address outside them alone. -/
theorem get_write_other (n : Nat) (m : Memory) (a w c : Nat) (h : c < a ∨ a + n ≤ c) : get (write m a n w) c = get m c := by
  induction n generalizing m a w with
  | zero => rfl
  | succ n ih =>
    rw [write, ih _ _ _ (by omega), get_set_other]
    omega

/-- A write of `n` bytes at `a` puts byte `j` of the number at `a + j`. -/
theorem get_write_same (n : Nat) (m : Memory) (a w j : Nat) (h : j < n) : get (write m a n w) (a + j) = BitVec.ofNat 8 (w / 256 ^ j) := by
  induction n generalizing m a w j with
  | zero => omega
  | succ n ih =>
    rw [write]
    cases j with
    | zero => rw [get_write_other _ _ _ _ _ (by omega)]; simp
    | succ j =>
      have := ih (set m a (BitVec.ofNat 8 w)) (a + 1) (w / 256) j (by omega)
      rw [show a + (j + 1) = a + 1 + j by omega, this, Nat.div_div_eq_div_mul, Nat.pow_succ, Nat.mul_comm]

theorem get_writeBytes_other (l : List Byte) (m : Memory) (a c : Nat) (h : c < a ∨ a + l.length ≤ c) :
    get (writeBytes m a l) c = get m c := by
  induction l generalizing m a with
  | nil => rfl
  | cons b l ih =>
    rw [writeBytes, ih _ _ (by simp only [List.length_cons] at h; omega), get_set_other]
    simp only [List.length_cons] at h; omega

/-- A read of what was written. -/
theorem read_write (n : Nat) (m : Memory) (a w : Nat) : read (write m a n w) a n = w % 256 ^ n := by
  induction n generalizing m a w with
  | zero => simp [read, Nat.mod_one]
  | succ n ih =>
    rw [read, write, ih, get_write_other _ _ _ _ _ (by omega), get_set_same, BitVec.toNat_ofNat]
    rw [show (256 : Nat) ^ (n + 1) = 256 * 256 ^ n by rw [Nat.pow_succ, Nat.mul_comm], Nat.mod_mul]

/-- A read of bytes that a write does not touch. -/
theorem read_write_other (k n : Nat) (m : Memory) (a w c : Nat) (h : c + k ≤ a ∨ a + n ≤ c) : read (write m a n w) c k = read m c k := by
  induction k generalizing c with
  | zero => rfl
  | succ k ih => rw [read, read, get_write_other _ _ _ _ _ (by omega), ih _ (by omega)]

theorem wf_set (m : Memory) (a : Nat) (b : Byte) (h : wf m = true) : wf (set m a b) = true := SMap.wf_set _ m a b h

theorem wf_write (n : Nat) (m : Memory) (a w : Nat) (h : wf m = true) : wf (write m a n w) = true := by
  induction n generalizing m a w with
  | zero => exact h
  | succ n ih => exact ih _ _ _ (wf_set m a _ h)

theorem wf_writeBytes (l : List Byte) (m : Memory) (a : Nat) (h : wf m = true) : wf (writeBytes m a l) = true := by
  induction l generalizing m a with
  | nil => exact h
  | cons b l ih => exact ih _ _ (wf_set m a b h)

end Memory

end Sys2Proof.Machine
end

