-- ==== Sys2Proof/Laws/State.lean ====
section
/-!
SUPPORT. What each update of the state leaves alone, one lemma for each field and update, and what it changes; so that no
later proof unfolds a record update.
-/
namespace Sys2Proof.Machine

/-! ## `modTeam` -/

@[simp] theorem State.modTeam_clk (s : State) (i : Nat) (f : Team → Team) : (s.modTeam i f).clk = s.clk := rfl
@[simp] theorem State.modTeam_mem (s : State) (i : Nat) (f : Team → Team) : (s.modTeam i f).mem = s.mem := rfl
@[simp] theorem State.modTeam_poison (s : State) (i : Nat) (f : Team → Team) : (s.modTeam i f).poison = s.poison := rfl
@[simp] theorem State.modTeam_lines (s : State) (i : Nat) (f : Team → Team) : (s.modTeam i f).lines = s.lines := rfl
@[simp] theorem State.modTeam_slices (s : State) (i : Nat) (f : Team → Team) : (s.modTeam i f).slices = s.slices := rfl
@[simp] theorem State.modTeam_cores (s : State) (i : Nat) (f : Team → Team) : (s.modTeam i f).cores = s.cores := rfl
@[simp] theorem State.modTeam_tlb (s : State) (i : Nat) (f : Team → Team) : (s.modTeam i f).tlb = s.tlb := rfl
@[simp] theorem State.modTeam_csr (s : State) (i : Nat) (f : Team → Team) : (s.modTeam i f).csr = s.csr := rfl
@[simp] theorem State.modTeam_dev (s : State) (i : Nat) (f : Team → Team) : (s.modTeam i f).dev = s.dev := rfl
@[simp] theorem State.modTeam_launches (s : State) (i : Nat) (f : Team → Team) : (s.modTeam i f).launches = s.launches := rfl
@[simp] theorem State.modTeam_contexts (s : State) (i : Nat) (f : Team → Team) : (s.modTeam i f).contexts = s.contexts := rfl
@[simp] theorem State.modTeam_queues (s : State) (i : Nat) (f : Team → Team) : (s.modTeam i f).queues = s.queues := rfl
@[simp] theorem State.modTeam_ops (s : State) (i : Nat) (f : Team → Team) : (s.modTeam i f).ops = s.ops := rfl
@[simp] theorem State.modTeam_monitors (s : State) (i : Nat) (f : Team → Team) : (s.modTeam i f).monitors = s.monitors := rfl
@[simp] theorem State.modTeam_relaxed (s : State) (i : Nat) (f : Team → Team) : (s.modTeam i f).relaxed = s.relaxed := rfl
@[simp] theorem State.modTeam_groups (s : State) (i : Nat) (f : Team → Team) : (s.modTeam i f).groups = s.groups := rfl
@[simp] theorem State.modTeam_pos (s : State) (i : Nat) (f : Team → Team) : (s.modTeam i f).pos = s.pos := rfl
@[simp] theorem State.modTeam_agenda (s : State) (i : Nat) (f : Team → Team) : (s.modTeam i f).agenda = s.agenda := rfl
@[simp] theorem State.modTeam_free (s : State) (i : Nat) (f : Team → Team) : (s.modTeam i f).free = s.free := rfl
@[simp] theorem State.modTeam_phase (s : State) (i : Nat) (f : Team → Team) : (s.modTeam i f).phase = s.phase := rfl
@[simp] theorem State.modTeam_accepted (s : State) (i : Nat) (f : Team → Team) : (s.modTeam i f).accepted = s.accepted := rfl
@[simp] theorem State.modTeam_units (s : State) (i : Nat) (f : Team → Team) : (s.modTeam i f).units = s.units := rfl
@[simp] theorem State.modTeam_fwPts (s : State) (i : Nat) (f : Team → Team) : (s.modTeam i f).fwPts = s.fwPts := rfl
@[simp] theorem State.modTeam_harts (s : State) (i : Nat) (f : Team → Team) : (s.modTeam i f).harts = s.harts := rfl
@[simp] theorem State.modTeam_nextOp (s : State) (i : Nat) (f : Team → Team) : (s.modTeam i f).nextOp = s.nextOp := rfl
@[simp] theorem State.modTeam_kilns (s : State) (i : Nat) (f : Team → Team) : (s.modTeam i f).kilns = s.kilns := rfl
@[simp] theorem State.modTeam_senders (s : State) (i : Nat) (f : Team → Team) : (s.modTeam i f).senders = s.senders := rfl
@[simp] theorem State.modTeam_fabSent (s : State) (i : Nat) (f : Team → Team) : (s.modTeam i f).fabSent = s.fabSent := rfl
@[simp] theorem State.modTeam_fabSince (s : State) (i : Nat) (f : Team → Team) : (s.modTeam i f).fabSince = s.fabSince := rfl
@[simp] theorem State.modTeam_fabDone (s : State) (i : Nat) (f : Team → Team) : (s.modTeam i f).fabDone = s.fabDone := rfl
@[simp] theorem State.modTeam_markers (s : State) (i : Nat) (f : Team → Team) : (s.modTeam i f).markers = s.markers := rfl
@[simp] theorem State.modTeam_ownStores (s : State) (i : Nat) (f : Team → Team) : (s.modTeam i f).ownStores = s.ownStores := rfl
@[simp] theorem State.modTeam_nextFab (s : State) (i : Nat) (f : Team → Team) : (s.modTeam i f).nextFab = s.nextFab := rfl
@[simp] theorem State.modTeam_fabIn (s : State) (i : Nat) (f : Team → Team) : (s.modTeam i f).fabIn = s.fabIn := rfl
@[simp] theorem State.modTeam_fabLost (s : State) (i : Nat) (f : Team → Team) : (s.modTeam i f).fabLost = s.fabLost := rfl
@[simp] theorem State.modTeam_toldRefusals (s : State) (i : Nat) (f : Team → Team) : (s.modTeam i f).toldRefusals = s.toldRefusals := rfl
@[simp] theorem State.modTeam_walks (s : State) (i : Nat) (f : Team → Team) : (s.modTeam i f).walks = s.walks := rfl
@[simp] theorem State.modTeam_asks (s : State) (i : Nat) (f : Team → Team) : (s.modTeam i f).asks = s.asks := rfl
@[simp] theorem State.modTeam_sliceGone (s : State) (i : Nat) (f : Team → Team) : (s.modTeam i f).sliceGone = s.sliceGone := rfl
@[simp] theorem State.modTeam_bayResets (s : State) (i : Nat) (f : Team → Team) : (s.modTeam i f).bayResets = s.bayResets := rfl
@[simp] theorem State.modTeam_softReads (s : State) (i : Nat) (f : Team → Team) : (s.modTeam i f).softReads = s.softReads := rfl
@[simp] theorem State.modTeam_blocksGone (s : State) (i : Nat) (f : Team → Team) : (s.modTeam i f).blocksGone = s.blocksGone := rfl
@[simp] theorem State.modTeam_lost (s : State) (i : Nat) (f : Team → Team) : (s.modTeam i f).lost = s.lost := rfl
@[simp] theorem State.modTeam_raised (s : State) (i : Nat) (f : Team → Team) : (s.modTeam i f).raised = s.raised := rfl
@[simp] theorem State.modTeam_holdoff (s : State) (i : Nat) (f : Team → Team) : (s.modTeam i f).holdoff = s.holdoff := rfl
@[simp] theorem State.modTeam_msix (s : State) (i : Nat) (f : Team → Team) : (s.modTeam i f).msix = s.msix := rfl
@[simp] theorem State.modTeam_svcMsi (s : State) (i : Nat) (f : Team → Team) : (s.modTeam i f).svcMsi = s.svcMsi := rfl
@[simp] theorem State.modTeam_qosUse (s : State) (i : Nat) (f : Team → Team) : (s.modTeam i f).qosUse = s.qosUse := rfl
@[simp] theorem State.modTeam_qosNext (s : State) (i : Nat) (f : Team → Team) : (s.modTeam i f).qosNext = s.qosNext := rfl
@[simp] theorem State.modTeam_programs (s : State) (i : Nat) (f : Team → Team) : (s.modTeam i f).programs = s.programs := rfl
@[simp] theorem State.modTeam_installing (s : State) (i : Nat) (f : Team → Team) : (s.modTeam i f).installing = s.installing := rfl
@[simp] theorem State.modTeam_nextSent (s : State) (i : Nat) (f : Team → Team) : (s.modTeam i f).nextSent = s.nextSent := rfl
@[simp] theorem State.modTeam_hodOff (s : State) (i : Nat) (f : Team → Team) : (s.modTeam i f).hodOff = s.hodOff := rfl
@[simp] theorem State.modTeam_hodFaults (s : State) (i : Nat) (f : Team → Team) : (s.modTeam i f).hodFaults = s.hodFaults := rfl
@[simp] theorem State.modTeam_meters (s : State) (i : Nat) (f : Team → Team) : (s.modTeam i f).meters = s.meters := rfl
@[simp] theorem State.modTeam_activity (s : State) (i : Nat) (f : Team → Team) : (s.modTeam i f).activity = s.activity := rfl
@[simp] theorem State.modTeam_enablings (s : State) (i : Nat) (f : Team → Team) : (s.modTeam i f).enablings = s.enablings := rfl
@[simp] theorem State.modTeam_checkpoints (s : State) (i : Nat) (f : Team → Team) : (s.modTeam i f).checkpoints = s.checkpoints := rfl
@[simp] theorem State.modTeam_sidx (s : State) (i : Nat) (f : Team → Team) : (s.modTeam i f).sidx = s.sidx := rfl
@[simp] theorem State.modTeam_sensed (s : State) (i : Nat) (f : Team → Team) : (s.modTeam i f).sensed = s.sensed := rfl
@[simp] theorem State.modTeam_reserved (s : State) (i : Nat) (f : Team → Team) : (s.modTeam i f).reserved = s.reserved := rfl
@[simp] theorem State.modTeam_resets (s : State) (i : Nat) (f : Team → Team) : (s.modTeam i f).resets = s.resets := rfl
@[simp] theorem State.modTeam_reading (s : State) (i : Nat) (f : Team → Team) : (s.modTeam i f).reading = s.reading := rfl
@[simp] theorem State.modTeam_warned (s : State) (i : Nat) (f : Team → Team) : (s.modTeam i f).warned = s.warned := rfl
@[simp] theorem State.modTeam_sigGone (s : State) (i : Nat) (f : Team → Team) : (s.modTeam i f).sigGone = s.sigGone := rfl
@[simp] theorem State.modTeam_tries (s : State) (i : Nat) (f : Team → Team) : (s.modTeam i f).tries = s.tries := rfl
@[simp] theorem State.modTeam_retired (s : State) (i : Nat) (f : Team → Team) : (s.modTeam i f).retired = s.retired := rfl
@[simp] theorem State.modTeam_fwfail (s : State) (i : Nat) (f : Team → Team) : (s.modTeam i f).fwfail = s.fwfail := rfl
@[simp] theorem State.modTeam_cycles (s : State) (i : Nat) (f : Team → Team) : (s.modTeam i f).cycles = s.cycles := rfl
@[simp] theorem State.modTeam_cyclesTold (s : State) (i : Nat) (f : Team → Team) : (s.modTeam i f).cyclesTold = s.cyclesTold := rfl
@[simp] theorem State.modTeam_hostAnswer (s : State) (i : Nat) (f : Team → Team) : (s.modTeam i f).hostAnswer = s.hostAnswer := rfl
@[simp] theorem State.modTeam_fabAnswer (s : State) (i : Nat) (f : Team → Team) : (s.modTeam i f).fabAnswer = s.fabAnswer := rfl
@[simp] theorem State.modTeam_answerMarked (s : State) (i : Nat) (f : Team → Team) : (s.modTeam i f).answerMarked = s.answerMarked := rfl
@[simp] theorem State.modTeam_hostHeld (s : State) (i : Nat) (f : Team → Team) : (s.modTeam i f).hostHeld = s.hostHeld := rfl
@[simp] theorem State.modTeam_snooped (s : State) (i : Nat) (f : Team → Team) : (s.modTeam i f).snooped = s.snooped := rfl
@[simp] theorem State.modTeam_hostLine (s : State) (i : Nat) (f : Team → Team) : (s.modTeam i f).hostLine = s.hostLine := rfl
@[simp] theorem State.modTeam_fabAnswered (s : State) (i : Nat) (f : Team → Team) : (s.modTeam i f).fabAnswered = s.fabAnswered := rfl
@[simp] theorem State.modTeam_remote (s : State) (i : Nat) (f : Team → Team) : (s.modTeam i f).remote = s.remote := rfl
@[simp] theorem State.modTeam_fabOut (s : State) (i : Nat) (f : Team → Team) : (s.modTeam i f).fabOut = s.fabOut := rfl

/-! ## `modThread` -/

@[simp] theorem State.modThread_clk (s : State) (r : TRef) (f : Thread → Thread) : (s.modThread r f).clk = s.clk := rfl
@[simp] theorem State.modThread_mem (s : State) (r : TRef) (f : Thread → Thread) : (s.modThread r f).mem = s.mem := rfl
@[simp] theorem State.modThread_poison (s : State) (r : TRef) (f : Thread → Thread) : (s.modThread r f).poison = s.poison := rfl
@[simp] theorem State.modThread_lines (s : State) (r : TRef) (f : Thread → Thread) : (s.modThread r f).lines = s.lines := rfl
@[simp] theorem State.modThread_slices (s : State) (r : TRef) (f : Thread → Thread) : (s.modThread r f).slices = s.slices := rfl
@[simp] theorem State.modThread_cores (s : State) (r : TRef) (f : Thread → Thread) : (s.modThread r f).cores = s.cores := rfl
@[simp] theorem State.modThread_tlb (s : State) (r : TRef) (f : Thread → Thread) : (s.modThread r f).tlb = s.tlb := rfl
@[simp] theorem State.modThread_csr (s : State) (r : TRef) (f : Thread → Thread) : (s.modThread r f).csr = s.csr := rfl
@[simp] theorem State.modThread_dev (s : State) (r : TRef) (f : Thread → Thread) : (s.modThread r f).dev = s.dev := rfl
@[simp] theorem State.modThread_launches (s : State) (r : TRef) (f : Thread → Thread) : (s.modThread r f).launches = s.launches := rfl
@[simp] theorem State.modThread_contexts (s : State) (r : TRef) (f : Thread → Thread) : (s.modThread r f).contexts = s.contexts := rfl
@[simp] theorem State.modThread_queues (s : State) (r : TRef) (f : Thread → Thread) : (s.modThread r f).queues = s.queues := rfl
@[simp] theorem State.modThread_ops (s : State) (r : TRef) (f : Thread → Thread) : (s.modThread r f).ops = s.ops := rfl
@[simp] theorem State.modThread_monitors (s : State) (r : TRef) (f : Thread → Thread) : (s.modThread r f).monitors = s.monitors := rfl
@[simp] theorem State.modThread_relaxed (s : State) (r : TRef) (f : Thread → Thread) : (s.modThread r f).relaxed = s.relaxed := rfl
@[simp] theorem State.modThread_groups (s : State) (r : TRef) (f : Thread → Thread) : (s.modThread r f).groups = s.groups := rfl
@[simp] theorem State.modThread_pos (s : State) (r : TRef) (f : Thread → Thread) : (s.modThread r f).pos = s.pos := rfl
@[simp] theorem State.modThread_agenda (s : State) (r : TRef) (f : Thread → Thread) : (s.modThread r f).agenda = s.agenda := rfl
@[simp] theorem State.modThread_free (s : State) (r : TRef) (f : Thread → Thread) : (s.modThread r f).free = s.free := rfl
@[simp] theorem State.modThread_phase (s : State) (r : TRef) (f : Thread → Thread) : (s.modThread r f).phase = s.phase := rfl
@[simp] theorem State.modThread_accepted (s : State) (r : TRef) (f : Thread → Thread) : (s.modThread r f).accepted = s.accepted := rfl
@[simp] theorem State.modThread_units (s : State) (r : TRef) (f : Thread → Thread) : (s.modThread r f).units = s.units := rfl
@[simp] theorem State.modThread_fwPts (s : State) (r : TRef) (f : Thread → Thread) : (s.modThread r f).fwPts = s.fwPts := rfl
@[simp] theorem State.modThread_harts (s : State) (r : TRef) (f : Thread → Thread) : (s.modThread r f).harts = s.harts := rfl
@[simp] theorem State.modThread_nextOp (s : State) (r : TRef) (f : Thread → Thread) : (s.modThread r f).nextOp = s.nextOp := rfl
@[simp] theorem State.modThread_kilns (s : State) (r : TRef) (f : Thread → Thread) : (s.modThread r f).kilns = s.kilns := rfl
@[simp] theorem State.modThread_senders (s : State) (r : TRef) (f : Thread → Thread) : (s.modThread r f).senders = s.senders := rfl
@[simp] theorem State.modThread_fabSent (s : State) (r : TRef) (f : Thread → Thread) : (s.modThread r f).fabSent = s.fabSent := rfl
@[simp] theorem State.modThread_fabSince (s : State) (r : TRef) (f : Thread → Thread) : (s.modThread r f).fabSince = s.fabSince := rfl
@[simp] theorem State.modThread_fabDone (s : State) (r : TRef) (f : Thread → Thread) : (s.modThread r f).fabDone = s.fabDone := rfl
@[simp] theorem State.modThread_markers (s : State) (r : TRef) (f : Thread → Thread) : (s.modThread r f).markers = s.markers := rfl
@[simp] theorem State.modThread_ownStores (s : State) (r : TRef) (f : Thread → Thread) : (s.modThread r f).ownStores = s.ownStores := rfl
@[simp] theorem State.modThread_nextFab (s : State) (r : TRef) (f : Thread → Thread) : (s.modThread r f).nextFab = s.nextFab := rfl
@[simp] theorem State.modThread_fabIn (s : State) (r : TRef) (f : Thread → Thread) : (s.modThread r f).fabIn = s.fabIn := rfl
@[simp] theorem State.modThread_fabLost (s : State) (r : TRef) (f : Thread → Thread) : (s.modThread r f).fabLost = s.fabLost := rfl
@[simp] theorem State.modThread_toldRefusals (s : State) (r : TRef) (f : Thread → Thread) : (s.modThread r f).toldRefusals = s.toldRefusals := rfl
@[simp] theorem State.modThread_walks (s : State) (r : TRef) (f : Thread → Thread) : (s.modThread r f).walks = s.walks := rfl
@[simp] theorem State.modThread_asks (s : State) (r : TRef) (f : Thread → Thread) : (s.modThread r f).asks = s.asks := rfl
@[simp] theorem State.modThread_sliceGone (s : State) (r : TRef) (f : Thread → Thread) : (s.modThread r f).sliceGone = s.sliceGone := rfl
@[simp] theorem State.modThread_bayResets (s : State) (r : TRef) (f : Thread → Thread) : (s.modThread r f).bayResets = s.bayResets := rfl
@[simp] theorem State.modThread_softReads (s : State) (r : TRef) (f : Thread → Thread) : (s.modThread r f).softReads = s.softReads := rfl
@[simp] theorem State.modThread_blocksGone (s : State) (r : TRef) (f : Thread → Thread) : (s.modThread r f).blocksGone = s.blocksGone := rfl
@[simp] theorem State.modThread_lost (s : State) (r : TRef) (f : Thread → Thread) : (s.modThread r f).lost = s.lost := rfl
@[simp] theorem State.modThread_raised (s : State) (r : TRef) (f : Thread → Thread) : (s.modThread r f).raised = s.raised := rfl
@[simp] theorem State.modThread_holdoff (s : State) (r : TRef) (f : Thread → Thread) : (s.modThread r f).holdoff = s.holdoff := rfl
@[simp] theorem State.modThread_msix (s : State) (r : TRef) (f : Thread → Thread) : (s.modThread r f).msix = s.msix := rfl
@[simp] theorem State.modThread_svcMsi (s : State) (r : TRef) (f : Thread → Thread) : (s.modThread r f).svcMsi = s.svcMsi := rfl
@[simp] theorem State.modThread_qosUse (s : State) (r : TRef) (f : Thread → Thread) : (s.modThread r f).qosUse = s.qosUse := rfl
@[simp] theorem State.modThread_qosNext (s : State) (r : TRef) (f : Thread → Thread) : (s.modThread r f).qosNext = s.qosNext := rfl
@[simp] theorem State.modThread_programs (s : State) (r : TRef) (f : Thread → Thread) : (s.modThread r f).programs = s.programs := rfl
@[simp] theorem State.modThread_installing (s : State) (r : TRef) (f : Thread → Thread) : (s.modThread r f).installing = s.installing := rfl
@[simp] theorem State.modThread_nextSent (s : State) (r : TRef) (f : Thread → Thread) : (s.modThread r f).nextSent = s.nextSent := rfl
@[simp] theorem State.modThread_hodOff (s : State) (r : TRef) (f : Thread → Thread) : (s.modThread r f).hodOff = s.hodOff := rfl
@[simp] theorem State.modThread_hodFaults (s : State) (r : TRef) (f : Thread → Thread) : (s.modThread r f).hodFaults = s.hodFaults := rfl
@[simp] theorem State.modThread_meters (s : State) (r : TRef) (f : Thread → Thread) : (s.modThread r f).meters = s.meters := rfl
@[simp] theorem State.modThread_activity (s : State) (r : TRef) (f : Thread → Thread) : (s.modThread r f).activity = s.activity := rfl
@[simp] theorem State.modThread_enablings (s : State) (r : TRef) (f : Thread → Thread) : (s.modThread r f).enablings = s.enablings := rfl
@[simp] theorem State.modThread_checkpoints (s : State) (r : TRef) (f : Thread → Thread) : (s.modThread r f).checkpoints = s.checkpoints := rfl
@[simp] theorem State.modThread_sidx (s : State) (r : TRef) (f : Thread → Thread) : (s.modThread r f).sidx = s.sidx := rfl
@[simp] theorem State.modThread_sensed (s : State) (r : TRef) (f : Thread → Thread) : (s.modThread r f).sensed = s.sensed := rfl
@[simp] theorem State.modThread_reserved (s : State) (r : TRef) (f : Thread → Thread) : (s.modThread r f).reserved = s.reserved := rfl
@[simp] theorem State.modThread_resets (s : State) (r : TRef) (f : Thread → Thread) : (s.modThread r f).resets = s.resets := rfl
@[simp] theorem State.modThread_reading (s : State) (r : TRef) (f : Thread → Thread) : (s.modThread r f).reading = s.reading := rfl
@[simp] theorem State.modThread_warned (s : State) (r : TRef) (f : Thread → Thread) : (s.modThread r f).warned = s.warned := rfl
@[simp] theorem State.modThread_sigGone (s : State) (r : TRef) (f : Thread → Thread) : (s.modThread r f).sigGone = s.sigGone := rfl
@[simp] theorem State.modThread_tries (s : State) (r : TRef) (f : Thread → Thread) : (s.modThread r f).tries = s.tries := rfl
@[simp] theorem State.modThread_retired (s : State) (r : TRef) (f : Thread → Thread) : (s.modThread r f).retired = s.retired := rfl
@[simp] theorem State.modThread_fwfail (s : State) (r : TRef) (f : Thread → Thread) : (s.modThread r f).fwfail = s.fwfail := rfl
@[simp] theorem State.modThread_cycles (s : State) (r : TRef) (f : Thread → Thread) : (s.modThread r f).cycles = s.cycles := rfl
@[simp] theorem State.modThread_cyclesTold (s : State) (r : TRef) (f : Thread → Thread) : (s.modThread r f).cyclesTold = s.cyclesTold := rfl
@[simp] theorem State.modThread_hostAnswer (s : State) (r : TRef) (f : Thread → Thread) : (s.modThread r f).hostAnswer = s.hostAnswer := rfl
@[simp] theorem State.modThread_fabAnswer (s : State) (r : TRef) (f : Thread → Thread) : (s.modThread r f).fabAnswer = s.fabAnswer := rfl
@[simp] theorem State.modThread_answerMarked (s : State) (r : TRef) (f : Thread → Thread) : (s.modThread r f).answerMarked = s.answerMarked := rfl
@[simp] theorem State.modThread_hostHeld (s : State) (r : TRef) (f : Thread → Thread) : (s.modThread r f).hostHeld = s.hostHeld := rfl
@[simp] theorem State.modThread_snooped (s : State) (r : TRef) (f : Thread → Thread) : (s.modThread r f).snooped = s.snooped := rfl
@[simp] theorem State.modThread_hostLine (s : State) (r : TRef) (f : Thread → Thread) : (s.modThread r f).hostLine = s.hostLine := rfl
@[simp] theorem State.modThread_fabAnswered (s : State) (r : TRef) (f : Thread → Thread) : (s.modThread r f).fabAnswered = s.fabAnswered := rfl
@[simp] theorem State.modThread_remote (s : State) (r : TRef) (f : Thread → Thread) : (s.modThread r f).remote = s.remote := rfl
@[simp] theorem State.modThread_fabOut (s : State) (r : TRef) (f : Thread → Thread) : (s.modThread r f).fabOut = s.fabOut := rfl

/-! ## `modLaunch` -/

@[simp] theorem State.modLaunch_clk (s : State) (i : Nat) (f : Launch → Launch) : (s.modLaunch i f).clk = s.clk := rfl
@[simp] theorem State.modLaunch_mem (s : State) (i : Nat) (f : Launch → Launch) : (s.modLaunch i f).mem = s.mem := rfl
@[simp] theorem State.modLaunch_poison (s : State) (i : Nat) (f : Launch → Launch) : (s.modLaunch i f).poison = s.poison := rfl
@[simp] theorem State.modLaunch_lines (s : State) (i : Nat) (f : Launch → Launch) : (s.modLaunch i f).lines = s.lines := rfl
@[simp] theorem State.modLaunch_slices (s : State) (i : Nat) (f : Launch → Launch) : (s.modLaunch i f).slices = s.slices := rfl
@[simp] theorem State.modLaunch_cores (s : State) (i : Nat) (f : Launch → Launch) : (s.modLaunch i f).cores = s.cores := rfl
@[simp] theorem State.modLaunch_tlb (s : State) (i : Nat) (f : Launch → Launch) : (s.modLaunch i f).tlb = s.tlb := rfl
@[simp] theorem State.modLaunch_csr (s : State) (i : Nat) (f : Launch → Launch) : (s.modLaunch i f).csr = s.csr := rfl
@[simp] theorem State.modLaunch_dev (s : State) (i : Nat) (f : Launch → Launch) : (s.modLaunch i f).dev = s.dev := rfl
@[simp] theorem State.modLaunch_teams (s : State) (i : Nat) (f : Launch → Launch) : (s.modLaunch i f).teams = s.teams := rfl
@[simp] theorem State.modLaunch_contexts (s : State) (i : Nat) (f : Launch → Launch) : (s.modLaunch i f).contexts = s.contexts := rfl
@[simp] theorem State.modLaunch_queues (s : State) (i : Nat) (f : Launch → Launch) : (s.modLaunch i f).queues = s.queues := rfl
@[simp] theorem State.modLaunch_ops (s : State) (i : Nat) (f : Launch → Launch) : (s.modLaunch i f).ops = s.ops := rfl
@[simp] theorem State.modLaunch_monitors (s : State) (i : Nat) (f : Launch → Launch) : (s.modLaunch i f).monitors = s.monitors := rfl
@[simp] theorem State.modLaunch_relaxed (s : State) (i : Nat) (f : Launch → Launch) : (s.modLaunch i f).relaxed = s.relaxed := rfl
@[simp] theorem State.modLaunch_groups (s : State) (i : Nat) (f : Launch → Launch) : (s.modLaunch i f).groups = s.groups := rfl
@[simp] theorem State.modLaunch_pos (s : State) (i : Nat) (f : Launch → Launch) : (s.modLaunch i f).pos = s.pos := rfl
@[simp] theorem State.modLaunch_agenda (s : State) (i : Nat) (f : Launch → Launch) : (s.modLaunch i f).agenda = s.agenda := rfl
@[simp] theorem State.modLaunch_free (s : State) (i : Nat) (f : Launch → Launch) : (s.modLaunch i f).free = s.free := rfl
@[simp] theorem State.modLaunch_phase (s : State) (i : Nat) (f : Launch → Launch) : (s.modLaunch i f).phase = s.phase := rfl
@[simp] theorem State.modLaunch_accepted (s : State) (i : Nat) (f : Launch → Launch) : (s.modLaunch i f).accepted = s.accepted := rfl
@[simp] theorem State.modLaunch_units (s : State) (i : Nat) (f : Launch → Launch) : (s.modLaunch i f).units = s.units := rfl
@[simp] theorem State.modLaunch_fwPts (s : State) (i : Nat) (f : Launch → Launch) : (s.modLaunch i f).fwPts = s.fwPts := rfl
@[simp] theorem State.modLaunch_harts (s : State) (i : Nat) (f : Launch → Launch) : (s.modLaunch i f).harts = s.harts := rfl
@[simp] theorem State.modLaunch_nextOp (s : State) (i : Nat) (f : Launch → Launch) : (s.modLaunch i f).nextOp = s.nextOp := rfl
@[simp] theorem State.modLaunch_kilns (s : State) (i : Nat) (f : Launch → Launch) : (s.modLaunch i f).kilns = s.kilns := rfl
@[simp] theorem State.modLaunch_senders (s : State) (i : Nat) (f : Launch → Launch) : (s.modLaunch i f).senders = s.senders := rfl
@[simp] theorem State.modLaunch_fabSent (s : State) (i : Nat) (f : Launch → Launch) : (s.modLaunch i f).fabSent = s.fabSent := rfl
@[simp] theorem State.modLaunch_fabSince (s : State) (i : Nat) (f : Launch → Launch) : (s.modLaunch i f).fabSince = s.fabSince := rfl
@[simp] theorem State.modLaunch_fabDone (s : State) (i : Nat) (f : Launch → Launch) : (s.modLaunch i f).fabDone = s.fabDone := rfl
@[simp] theorem State.modLaunch_markers (s : State) (i : Nat) (f : Launch → Launch) : (s.modLaunch i f).markers = s.markers := rfl
@[simp] theorem State.modLaunch_ownStores (s : State) (i : Nat) (f : Launch → Launch) : (s.modLaunch i f).ownStores = s.ownStores := rfl
@[simp] theorem State.modLaunch_nextFab (s : State) (i : Nat) (f : Launch → Launch) : (s.modLaunch i f).nextFab = s.nextFab := rfl
@[simp] theorem State.modLaunch_fabIn (s : State) (i : Nat) (f : Launch → Launch) : (s.modLaunch i f).fabIn = s.fabIn := rfl
@[simp] theorem State.modLaunch_fabLost (s : State) (i : Nat) (f : Launch → Launch) : (s.modLaunch i f).fabLost = s.fabLost := rfl
@[simp] theorem State.modLaunch_toldRefusals (s : State) (i : Nat) (f : Launch → Launch) : (s.modLaunch i f).toldRefusals = s.toldRefusals := rfl
@[simp] theorem State.modLaunch_walks (s : State) (i : Nat) (f : Launch → Launch) : (s.modLaunch i f).walks = s.walks := rfl
@[simp] theorem State.modLaunch_asks (s : State) (i : Nat) (f : Launch → Launch) : (s.modLaunch i f).asks = s.asks := rfl
@[simp] theorem State.modLaunch_sliceGone (s : State) (i : Nat) (f : Launch → Launch) : (s.modLaunch i f).sliceGone = s.sliceGone := rfl
@[simp] theorem State.modLaunch_bayResets (s : State) (i : Nat) (f : Launch → Launch) : (s.modLaunch i f).bayResets = s.bayResets := rfl
@[simp] theorem State.modLaunch_softReads (s : State) (i : Nat) (f : Launch → Launch) : (s.modLaunch i f).softReads = s.softReads := rfl
@[simp] theorem State.modLaunch_blocksGone (s : State) (i : Nat) (f : Launch → Launch) : (s.modLaunch i f).blocksGone = s.blocksGone := rfl
@[simp] theorem State.modLaunch_lost (s : State) (i : Nat) (f : Launch → Launch) : (s.modLaunch i f).lost = s.lost := rfl
@[simp] theorem State.modLaunch_raised (s : State) (i : Nat) (f : Launch → Launch) : (s.modLaunch i f).raised = s.raised := rfl
@[simp] theorem State.modLaunch_holdoff (s : State) (i : Nat) (f : Launch → Launch) : (s.modLaunch i f).holdoff = s.holdoff := rfl
@[simp] theorem State.modLaunch_msix (s : State) (i : Nat) (f : Launch → Launch) : (s.modLaunch i f).msix = s.msix := rfl
@[simp] theorem State.modLaunch_svcMsi (s : State) (i : Nat) (f : Launch → Launch) : (s.modLaunch i f).svcMsi = s.svcMsi := rfl
@[simp] theorem State.modLaunch_qosUse (s : State) (i : Nat) (f : Launch → Launch) : (s.modLaunch i f).qosUse = s.qosUse := rfl
@[simp] theorem State.modLaunch_qosNext (s : State) (i : Nat) (f : Launch → Launch) : (s.modLaunch i f).qosNext = s.qosNext := rfl
@[simp] theorem State.modLaunch_programs (s : State) (i : Nat) (f : Launch → Launch) : (s.modLaunch i f).programs = s.programs := rfl
@[simp] theorem State.modLaunch_installing (s : State) (i : Nat) (f : Launch → Launch) : (s.modLaunch i f).installing = s.installing := rfl
@[simp] theorem State.modLaunch_nextSent (s : State) (i : Nat) (f : Launch → Launch) : (s.modLaunch i f).nextSent = s.nextSent := rfl
@[simp] theorem State.modLaunch_hodOff (s : State) (i : Nat) (f : Launch → Launch) : (s.modLaunch i f).hodOff = s.hodOff := rfl
@[simp] theorem State.modLaunch_hodFaults (s : State) (i : Nat) (f : Launch → Launch) : (s.modLaunch i f).hodFaults = s.hodFaults := rfl
@[simp] theorem State.modLaunch_meters (s : State) (i : Nat) (f : Launch → Launch) : (s.modLaunch i f).meters = s.meters := rfl
@[simp] theorem State.modLaunch_activity (s : State) (i : Nat) (f : Launch → Launch) : (s.modLaunch i f).activity = s.activity := rfl
@[simp] theorem State.modLaunch_enablings (s : State) (i : Nat) (f : Launch → Launch) : (s.modLaunch i f).enablings = s.enablings := rfl
@[simp] theorem State.modLaunch_checkpoints (s : State) (i : Nat) (f : Launch → Launch) : (s.modLaunch i f).checkpoints = s.checkpoints := rfl
@[simp] theorem State.modLaunch_sidx (s : State) (i : Nat) (f : Launch → Launch) : (s.modLaunch i f).sidx = s.sidx := rfl
@[simp] theorem State.modLaunch_sensed (s : State) (i : Nat) (f : Launch → Launch) : (s.modLaunch i f).sensed = s.sensed := rfl
@[simp] theorem State.modLaunch_reserved (s : State) (i : Nat) (f : Launch → Launch) : (s.modLaunch i f).reserved = s.reserved := rfl
@[simp] theorem State.modLaunch_resets (s : State) (i : Nat) (f : Launch → Launch) : (s.modLaunch i f).resets = s.resets := rfl
@[simp] theorem State.modLaunch_reading (s : State) (i : Nat) (f : Launch → Launch) : (s.modLaunch i f).reading = s.reading := rfl
@[simp] theorem State.modLaunch_warned (s : State) (i : Nat) (f : Launch → Launch) : (s.modLaunch i f).warned = s.warned := rfl
@[simp] theorem State.modLaunch_sigGone (s : State) (i : Nat) (f : Launch → Launch) : (s.modLaunch i f).sigGone = s.sigGone := rfl
@[simp] theorem State.modLaunch_tries (s : State) (i : Nat) (f : Launch → Launch) : (s.modLaunch i f).tries = s.tries := rfl
@[simp] theorem State.modLaunch_retired (s : State) (i : Nat) (f : Launch → Launch) : (s.modLaunch i f).retired = s.retired := rfl
@[simp] theorem State.modLaunch_fwfail (s : State) (i : Nat) (f : Launch → Launch) : (s.modLaunch i f).fwfail = s.fwfail := rfl
@[simp] theorem State.modLaunch_cycles (s : State) (i : Nat) (f : Launch → Launch) : (s.modLaunch i f).cycles = s.cycles := rfl
@[simp] theorem State.modLaunch_cyclesTold (s : State) (i : Nat) (f : Launch → Launch) : (s.modLaunch i f).cyclesTold = s.cyclesTold := rfl
@[simp] theorem State.modLaunch_hostAnswer (s : State) (i : Nat) (f : Launch → Launch) : (s.modLaunch i f).hostAnswer = s.hostAnswer := rfl
@[simp] theorem State.modLaunch_fabAnswer (s : State) (i : Nat) (f : Launch → Launch) : (s.modLaunch i f).fabAnswer = s.fabAnswer := rfl
@[simp] theorem State.modLaunch_answerMarked (s : State) (i : Nat) (f : Launch → Launch) : (s.modLaunch i f).answerMarked = s.answerMarked := rfl
@[simp] theorem State.modLaunch_hostHeld (s : State) (i : Nat) (f : Launch → Launch) : (s.modLaunch i f).hostHeld = s.hostHeld := rfl
@[simp] theorem State.modLaunch_snooped (s : State) (i : Nat) (f : Launch → Launch) : (s.modLaunch i f).snooped = s.snooped := rfl
@[simp] theorem State.modLaunch_hostLine (s : State) (i : Nat) (f : Launch → Launch) : (s.modLaunch i f).hostLine = s.hostLine := rfl
@[simp] theorem State.modLaunch_fabAnswered (s : State) (i : Nat) (f : Launch → Launch) : (s.modLaunch i f).fabAnswered = s.fabAnswered := rfl
@[simp] theorem State.modLaunch_remote (s : State) (i : Nat) (f : Launch → Launch) : (s.modLaunch i f).remote = s.remote := rfl
@[simp] theorem State.modLaunch_fabOut (s : State) (i : Nat) (f : Launch → Launch) : (s.modLaunch i f).fabOut = s.fabOut := rfl

/-! ## `modQueue` -/

@[simp] theorem State.modQueue_clk (s : State) (i : Nat) (f : Queue → Queue) : (s.modQueue i f).clk = s.clk := rfl
@[simp] theorem State.modQueue_mem (s : State) (i : Nat) (f : Queue → Queue) : (s.modQueue i f).mem = s.mem := rfl
@[simp] theorem State.modQueue_poison (s : State) (i : Nat) (f : Queue → Queue) : (s.modQueue i f).poison = s.poison := rfl
@[simp] theorem State.modQueue_lines (s : State) (i : Nat) (f : Queue → Queue) : (s.modQueue i f).lines = s.lines := rfl
@[simp] theorem State.modQueue_slices (s : State) (i : Nat) (f : Queue → Queue) : (s.modQueue i f).slices = s.slices := rfl
@[simp] theorem State.modQueue_cores (s : State) (i : Nat) (f : Queue → Queue) : (s.modQueue i f).cores = s.cores := rfl
@[simp] theorem State.modQueue_tlb (s : State) (i : Nat) (f : Queue → Queue) : (s.modQueue i f).tlb = s.tlb := rfl
@[simp] theorem State.modQueue_csr (s : State) (i : Nat) (f : Queue → Queue) : (s.modQueue i f).csr = s.csr := rfl
@[simp] theorem State.modQueue_dev (s : State) (i : Nat) (f : Queue → Queue) : (s.modQueue i f).dev = s.dev := rfl
@[simp] theorem State.modQueue_teams (s : State) (i : Nat) (f : Queue → Queue) : (s.modQueue i f).teams = s.teams := rfl
@[simp] theorem State.modQueue_launches (s : State) (i : Nat) (f : Queue → Queue) : (s.modQueue i f).launches = s.launches := rfl
@[simp] theorem State.modQueue_contexts (s : State) (i : Nat) (f : Queue → Queue) : (s.modQueue i f).contexts = s.contexts := rfl
@[simp] theorem State.modQueue_ops (s : State) (i : Nat) (f : Queue → Queue) : (s.modQueue i f).ops = s.ops := rfl
@[simp] theorem State.modQueue_monitors (s : State) (i : Nat) (f : Queue → Queue) : (s.modQueue i f).monitors = s.monitors := rfl
@[simp] theorem State.modQueue_relaxed (s : State) (i : Nat) (f : Queue → Queue) : (s.modQueue i f).relaxed = s.relaxed := rfl
@[simp] theorem State.modQueue_groups (s : State) (i : Nat) (f : Queue → Queue) : (s.modQueue i f).groups = s.groups := rfl
@[simp] theorem State.modQueue_pos (s : State) (i : Nat) (f : Queue → Queue) : (s.modQueue i f).pos = s.pos := rfl
@[simp] theorem State.modQueue_agenda (s : State) (i : Nat) (f : Queue → Queue) : (s.modQueue i f).agenda = s.agenda := rfl
@[simp] theorem State.modQueue_free (s : State) (i : Nat) (f : Queue → Queue) : (s.modQueue i f).free = s.free := rfl
@[simp] theorem State.modQueue_phase (s : State) (i : Nat) (f : Queue → Queue) : (s.modQueue i f).phase = s.phase := rfl
@[simp] theorem State.modQueue_accepted (s : State) (i : Nat) (f : Queue → Queue) : (s.modQueue i f).accepted = s.accepted := rfl
@[simp] theorem State.modQueue_units (s : State) (i : Nat) (f : Queue → Queue) : (s.modQueue i f).units = s.units := rfl
@[simp] theorem State.modQueue_fwPts (s : State) (i : Nat) (f : Queue → Queue) : (s.modQueue i f).fwPts = s.fwPts := rfl
@[simp] theorem State.modQueue_harts (s : State) (i : Nat) (f : Queue → Queue) : (s.modQueue i f).harts = s.harts := rfl
@[simp] theorem State.modQueue_nextOp (s : State) (i : Nat) (f : Queue → Queue) : (s.modQueue i f).nextOp = s.nextOp := rfl
@[simp] theorem State.modQueue_kilns (s : State) (i : Nat) (f : Queue → Queue) : (s.modQueue i f).kilns = s.kilns := rfl
@[simp] theorem State.modQueue_senders (s : State) (i : Nat) (f : Queue → Queue) : (s.modQueue i f).senders = s.senders := rfl
@[simp] theorem State.modQueue_fabSent (s : State) (i : Nat) (f : Queue → Queue) : (s.modQueue i f).fabSent = s.fabSent := rfl
@[simp] theorem State.modQueue_fabSince (s : State) (i : Nat) (f : Queue → Queue) : (s.modQueue i f).fabSince = s.fabSince := rfl
@[simp] theorem State.modQueue_fabDone (s : State) (i : Nat) (f : Queue → Queue) : (s.modQueue i f).fabDone = s.fabDone := rfl
@[simp] theorem State.modQueue_markers (s : State) (i : Nat) (f : Queue → Queue) : (s.modQueue i f).markers = s.markers := rfl
@[simp] theorem State.modQueue_ownStores (s : State) (i : Nat) (f : Queue → Queue) : (s.modQueue i f).ownStores = s.ownStores := rfl
@[simp] theorem State.modQueue_nextFab (s : State) (i : Nat) (f : Queue → Queue) : (s.modQueue i f).nextFab = s.nextFab := rfl
@[simp] theorem State.modQueue_fabIn (s : State) (i : Nat) (f : Queue → Queue) : (s.modQueue i f).fabIn = s.fabIn := rfl
@[simp] theorem State.modQueue_fabLost (s : State) (i : Nat) (f : Queue → Queue) : (s.modQueue i f).fabLost = s.fabLost := rfl
@[simp] theorem State.modQueue_toldRefusals (s : State) (i : Nat) (f : Queue → Queue) : (s.modQueue i f).toldRefusals = s.toldRefusals := rfl
@[simp] theorem State.modQueue_walks (s : State) (i : Nat) (f : Queue → Queue) : (s.modQueue i f).walks = s.walks := rfl
@[simp] theorem State.modQueue_asks (s : State) (i : Nat) (f : Queue → Queue) : (s.modQueue i f).asks = s.asks := rfl
@[simp] theorem State.modQueue_sliceGone (s : State) (i : Nat) (f : Queue → Queue) : (s.modQueue i f).sliceGone = s.sliceGone := rfl
@[simp] theorem State.modQueue_bayResets (s : State) (i : Nat) (f : Queue → Queue) : (s.modQueue i f).bayResets = s.bayResets := rfl
@[simp] theorem State.modQueue_softReads (s : State) (i : Nat) (f : Queue → Queue) : (s.modQueue i f).softReads = s.softReads := rfl
@[simp] theorem State.modQueue_blocksGone (s : State) (i : Nat) (f : Queue → Queue) : (s.modQueue i f).blocksGone = s.blocksGone := rfl
@[simp] theorem State.modQueue_lost (s : State) (i : Nat) (f : Queue → Queue) : (s.modQueue i f).lost = s.lost := rfl
@[simp] theorem State.modQueue_raised (s : State) (i : Nat) (f : Queue → Queue) : (s.modQueue i f).raised = s.raised := rfl
@[simp] theorem State.modQueue_holdoff (s : State) (i : Nat) (f : Queue → Queue) : (s.modQueue i f).holdoff = s.holdoff := rfl
@[simp] theorem State.modQueue_msix (s : State) (i : Nat) (f : Queue → Queue) : (s.modQueue i f).msix = s.msix := rfl
@[simp] theorem State.modQueue_svcMsi (s : State) (i : Nat) (f : Queue → Queue) : (s.modQueue i f).svcMsi = s.svcMsi := rfl
@[simp] theorem State.modQueue_qosUse (s : State) (i : Nat) (f : Queue → Queue) : (s.modQueue i f).qosUse = s.qosUse := rfl
@[simp] theorem State.modQueue_qosNext (s : State) (i : Nat) (f : Queue → Queue) : (s.modQueue i f).qosNext = s.qosNext := rfl
@[simp] theorem State.modQueue_programs (s : State) (i : Nat) (f : Queue → Queue) : (s.modQueue i f).programs = s.programs := rfl
@[simp] theorem State.modQueue_installing (s : State) (i : Nat) (f : Queue → Queue) : (s.modQueue i f).installing = s.installing := rfl
@[simp] theorem State.modQueue_nextSent (s : State) (i : Nat) (f : Queue → Queue) : (s.modQueue i f).nextSent = s.nextSent := rfl
@[simp] theorem State.modQueue_hodOff (s : State) (i : Nat) (f : Queue → Queue) : (s.modQueue i f).hodOff = s.hodOff := rfl
@[simp] theorem State.modQueue_hodFaults (s : State) (i : Nat) (f : Queue → Queue) : (s.modQueue i f).hodFaults = s.hodFaults := rfl
@[simp] theorem State.modQueue_meters (s : State) (i : Nat) (f : Queue → Queue) : (s.modQueue i f).meters = s.meters := rfl
@[simp] theorem State.modQueue_activity (s : State) (i : Nat) (f : Queue → Queue) : (s.modQueue i f).activity = s.activity := rfl
@[simp] theorem State.modQueue_enablings (s : State) (i : Nat) (f : Queue → Queue) : (s.modQueue i f).enablings = s.enablings := rfl
@[simp] theorem State.modQueue_checkpoints (s : State) (i : Nat) (f : Queue → Queue) : (s.modQueue i f).checkpoints = s.checkpoints := rfl
@[simp] theorem State.modQueue_sidx (s : State) (i : Nat) (f : Queue → Queue) : (s.modQueue i f).sidx = s.sidx := rfl
@[simp] theorem State.modQueue_sensed (s : State) (i : Nat) (f : Queue → Queue) : (s.modQueue i f).sensed = s.sensed := rfl
@[simp] theorem State.modQueue_reserved (s : State) (i : Nat) (f : Queue → Queue) : (s.modQueue i f).reserved = s.reserved := rfl
@[simp] theorem State.modQueue_resets (s : State) (i : Nat) (f : Queue → Queue) : (s.modQueue i f).resets = s.resets := rfl
@[simp] theorem State.modQueue_reading (s : State) (i : Nat) (f : Queue → Queue) : (s.modQueue i f).reading = s.reading := rfl
@[simp] theorem State.modQueue_warned (s : State) (i : Nat) (f : Queue → Queue) : (s.modQueue i f).warned = s.warned := rfl
@[simp] theorem State.modQueue_sigGone (s : State) (i : Nat) (f : Queue → Queue) : (s.modQueue i f).sigGone = s.sigGone := rfl
@[simp] theorem State.modQueue_tries (s : State) (i : Nat) (f : Queue → Queue) : (s.modQueue i f).tries = s.tries := rfl
@[simp] theorem State.modQueue_retired (s : State) (i : Nat) (f : Queue → Queue) : (s.modQueue i f).retired = s.retired := rfl
@[simp] theorem State.modQueue_fwfail (s : State) (i : Nat) (f : Queue → Queue) : (s.modQueue i f).fwfail = s.fwfail := rfl
@[simp] theorem State.modQueue_cycles (s : State) (i : Nat) (f : Queue → Queue) : (s.modQueue i f).cycles = s.cycles := rfl
@[simp] theorem State.modQueue_cyclesTold (s : State) (i : Nat) (f : Queue → Queue) : (s.modQueue i f).cyclesTold = s.cyclesTold := rfl
@[simp] theorem State.modQueue_hostAnswer (s : State) (i : Nat) (f : Queue → Queue) : (s.modQueue i f).hostAnswer = s.hostAnswer := rfl
@[simp] theorem State.modQueue_fabAnswer (s : State) (i : Nat) (f : Queue → Queue) : (s.modQueue i f).fabAnswer = s.fabAnswer := rfl
@[simp] theorem State.modQueue_answerMarked (s : State) (i : Nat) (f : Queue → Queue) : (s.modQueue i f).answerMarked = s.answerMarked := rfl
@[simp] theorem State.modQueue_hostHeld (s : State) (i : Nat) (f : Queue → Queue) : (s.modQueue i f).hostHeld = s.hostHeld := rfl
@[simp] theorem State.modQueue_snooped (s : State) (i : Nat) (f : Queue → Queue) : (s.modQueue i f).snooped = s.snooped := rfl
@[simp] theorem State.modQueue_hostLine (s : State) (i : Nat) (f : Queue → Queue) : (s.modQueue i f).hostLine = s.hostLine := rfl
@[simp] theorem State.modQueue_fabAnswered (s : State) (i : Nat) (f : Queue → Queue) : (s.modQueue i f).fabAnswered = s.fabAnswered := rfl
@[simp] theorem State.modQueue_remote (s : State) (i : Nat) (f : Queue → Queue) : (s.modQueue i f).remote = s.remote := rfl
@[simp] theorem State.modQueue_fabOut (s : State) (i : Nat) (f : Queue → Queue) : (s.modQueue i f).fabOut = s.fabOut := rfl

/-! ## `modCore` -/

@[simp] theorem State.modCore_clk (s : State) (c : Nat) (f : Core → Core) : (s.modCore c f).clk = s.clk := rfl
@[simp] theorem State.modCore_mem (s : State) (c : Nat) (f : Core → Core) : (s.modCore c f).mem = s.mem := rfl
@[simp] theorem State.modCore_poison (s : State) (c : Nat) (f : Core → Core) : (s.modCore c f).poison = s.poison := rfl
@[simp] theorem State.modCore_lines (s : State) (c : Nat) (f : Core → Core) : (s.modCore c f).lines = s.lines := rfl
@[simp] theorem State.modCore_slices (s : State) (c : Nat) (f : Core → Core) : (s.modCore c f).slices = s.slices := rfl
@[simp] theorem State.modCore_tlb (s : State) (c : Nat) (f : Core → Core) : (s.modCore c f).tlb = s.tlb := rfl
@[simp] theorem State.modCore_csr (s : State) (c : Nat) (f : Core → Core) : (s.modCore c f).csr = s.csr := rfl
@[simp] theorem State.modCore_dev (s : State) (c : Nat) (f : Core → Core) : (s.modCore c f).dev = s.dev := rfl
@[simp] theorem State.modCore_teams (s : State) (c : Nat) (f : Core → Core) : (s.modCore c f).teams = s.teams := rfl
@[simp] theorem State.modCore_launches (s : State) (c : Nat) (f : Core → Core) : (s.modCore c f).launches = s.launches := rfl
@[simp] theorem State.modCore_contexts (s : State) (c : Nat) (f : Core → Core) : (s.modCore c f).contexts = s.contexts := rfl
@[simp] theorem State.modCore_queues (s : State) (c : Nat) (f : Core → Core) : (s.modCore c f).queues = s.queues := rfl
@[simp] theorem State.modCore_ops (s : State) (c : Nat) (f : Core → Core) : (s.modCore c f).ops = s.ops := rfl
@[simp] theorem State.modCore_monitors (s : State) (c : Nat) (f : Core → Core) : (s.modCore c f).monitors = s.monitors := rfl
@[simp] theorem State.modCore_relaxed (s : State) (c : Nat) (f : Core → Core) : (s.modCore c f).relaxed = s.relaxed := rfl
@[simp] theorem State.modCore_groups (s : State) (c : Nat) (f : Core → Core) : (s.modCore c f).groups = s.groups := rfl
@[simp] theorem State.modCore_pos (s : State) (c : Nat) (f : Core → Core) : (s.modCore c f).pos = s.pos := rfl
@[simp] theorem State.modCore_agenda (s : State) (c : Nat) (f : Core → Core) : (s.modCore c f).agenda = s.agenda := rfl
@[simp] theorem State.modCore_free (s : State) (c : Nat) (f : Core → Core) : (s.modCore c f).free = s.free := rfl
@[simp] theorem State.modCore_phase (s : State) (c : Nat) (f : Core → Core) : (s.modCore c f).phase = s.phase := rfl
@[simp] theorem State.modCore_accepted (s : State) (c : Nat) (f : Core → Core) : (s.modCore c f).accepted = s.accepted := rfl
@[simp] theorem State.modCore_units (s : State) (c : Nat) (f : Core → Core) : (s.modCore c f).units = s.units := rfl
@[simp] theorem State.modCore_fwPts (s : State) (c : Nat) (f : Core → Core) : (s.modCore c f).fwPts = s.fwPts := rfl
@[simp] theorem State.modCore_harts (s : State) (c : Nat) (f : Core → Core) : (s.modCore c f).harts = s.harts := rfl
@[simp] theorem State.modCore_nextOp (s : State) (c : Nat) (f : Core → Core) : (s.modCore c f).nextOp = s.nextOp := rfl
@[simp] theorem State.modCore_kilns (s : State) (c : Nat) (f : Core → Core) : (s.modCore c f).kilns = s.kilns := rfl
@[simp] theorem State.modCore_senders (s : State) (c : Nat) (f : Core → Core) : (s.modCore c f).senders = s.senders := rfl
@[simp] theorem State.modCore_fabSent (s : State) (c : Nat) (f : Core → Core) : (s.modCore c f).fabSent = s.fabSent := rfl
@[simp] theorem State.modCore_fabSince (s : State) (c : Nat) (f : Core → Core) : (s.modCore c f).fabSince = s.fabSince := rfl
@[simp] theorem State.modCore_fabDone (s : State) (c : Nat) (f : Core → Core) : (s.modCore c f).fabDone = s.fabDone := rfl
@[simp] theorem State.modCore_markers (s : State) (c : Nat) (f : Core → Core) : (s.modCore c f).markers = s.markers := rfl
@[simp] theorem State.modCore_ownStores (s : State) (c : Nat) (f : Core → Core) : (s.modCore c f).ownStores = s.ownStores := rfl
@[simp] theorem State.modCore_nextFab (s : State) (c : Nat) (f : Core → Core) : (s.modCore c f).nextFab = s.nextFab := rfl
@[simp] theorem State.modCore_fabIn (s : State) (c : Nat) (f : Core → Core) : (s.modCore c f).fabIn = s.fabIn := rfl
@[simp] theorem State.modCore_fabLost (s : State) (c : Nat) (f : Core → Core) : (s.modCore c f).fabLost = s.fabLost := rfl
@[simp] theorem State.modCore_toldRefusals (s : State) (c : Nat) (f : Core → Core) : (s.modCore c f).toldRefusals = s.toldRefusals := rfl
@[simp] theorem State.modCore_walks (s : State) (c : Nat) (f : Core → Core) : (s.modCore c f).walks = s.walks := rfl
@[simp] theorem State.modCore_asks (s : State) (c : Nat) (f : Core → Core) : (s.modCore c f).asks = s.asks := rfl
@[simp] theorem State.modCore_sliceGone (s : State) (c : Nat) (f : Core → Core) : (s.modCore c f).sliceGone = s.sliceGone := rfl
@[simp] theorem State.modCore_bayResets (s : State) (c : Nat) (f : Core → Core) : (s.modCore c f).bayResets = s.bayResets := rfl
@[simp] theorem State.modCore_softReads (s : State) (c : Nat) (f : Core → Core) : (s.modCore c f).softReads = s.softReads := rfl
@[simp] theorem State.modCore_blocksGone (s : State) (c : Nat) (f : Core → Core) : (s.modCore c f).blocksGone = s.blocksGone := rfl
@[simp] theorem State.modCore_lost (s : State) (c : Nat) (f : Core → Core) : (s.modCore c f).lost = s.lost := rfl
@[simp] theorem State.modCore_raised (s : State) (c : Nat) (f : Core → Core) : (s.modCore c f).raised = s.raised := rfl
@[simp] theorem State.modCore_holdoff (s : State) (c : Nat) (f : Core → Core) : (s.modCore c f).holdoff = s.holdoff := rfl
@[simp] theorem State.modCore_msix (s : State) (c : Nat) (f : Core → Core) : (s.modCore c f).msix = s.msix := rfl
@[simp] theorem State.modCore_svcMsi (s : State) (c : Nat) (f : Core → Core) : (s.modCore c f).svcMsi = s.svcMsi := rfl
@[simp] theorem State.modCore_qosUse (s : State) (c : Nat) (f : Core → Core) : (s.modCore c f).qosUse = s.qosUse := rfl
@[simp] theorem State.modCore_qosNext (s : State) (c : Nat) (f : Core → Core) : (s.modCore c f).qosNext = s.qosNext := rfl
@[simp] theorem State.modCore_programs (s : State) (c : Nat) (f : Core → Core) : (s.modCore c f).programs = s.programs := rfl
@[simp] theorem State.modCore_installing (s : State) (c : Nat) (f : Core → Core) : (s.modCore c f).installing = s.installing := rfl
@[simp] theorem State.modCore_nextSent (s : State) (c : Nat) (f : Core → Core) : (s.modCore c f).nextSent = s.nextSent := rfl
@[simp] theorem State.modCore_hodOff (s : State) (c : Nat) (f : Core → Core) : (s.modCore c f).hodOff = s.hodOff := rfl
@[simp] theorem State.modCore_hodFaults (s : State) (c : Nat) (f : Core → Core) : (s.modCore c f).hodFaults = s.hodFaults := rfl
@[simp] theorem State.modCore_meters (s : State) (c : Nat) (f : Core → Core) : (s.modCore c f).meters = s.meters := rfl
@[simp] theorem State.modCore_activity (s : State) (c : Nat) (f : Core → Core) : (s.modCore c f).activity = s.activity := rfl
@[simp] theorem State.modCore_enablings (s : State) (c : Nat) (f : Core → Core) : (s.modCore c f).enablings = s.enablings := rfl
@[simp] theorem State.modCore_checkpoints (s : State) (c : Nat) (f : Core → Core) : (s.modCore c f).checkpoints = s.checkpoints := rfl
@[simp] theorem State.modCore_sidx (s : State) (c : Nat) (f : Core → Core) : (s.modCore c f).sidx = s.sidx := rfl
@[simp] theorem State.modCore_sensed (s : State) (c : Nat) (f : Core → Core) : (s.modCore c f).sensed = s.sensed := rfl
@[simp] theorem State.modCore_reserved (s : State) (c : Nat) (f : Core → Core) : (s.modCore c f).reserved = s.reserved := rfl
@[simp] theorem State.modCore_resets (s : State) (c : Nat) (f : Core → Core) : (s.modCore c f).resets = s.resets := rfl
@[simp] theorem State.modCore_reading (s : State) (c : Nat) (f : Core → Core) : (s.modCore c f).reading = s.reading := rfl
@[simp] theorem State.modCore_warned (s : State) (c : Nat) (f : Core → Core) : (s.modCore c f).warned = s.warned := rfl
@[simp] theorem State.modCore_sigGone (s : State) (c : Nat) (f : Core → Core) : (s.modCore c f).sigGone = s.sigGone := rfl
@[simp] theorem State.modCore_tries (s : State) (c : Nat) (f : Core → Core) : (s.modCore c f).tries = s.tries := rfl
@[simp] theorem State.modCore_retired (s : State) (c : Nat) (f : Core → Core) : (s.modCore c f).retired = s.retired := rfl
@[simp] theorem State.modCore_fwfail (s : State) (c : Nat) (f : Core → Core) : (s.modCore c f).fwfail = s.fwfail := rfl
@[simp] theorem State.modCore_cycles (s : State) (c : Nat) (f : Core → Core) : (s.modCore c f).cycles = s.cycles := rfl
@[simp] theorem State.modCore_cyclesTold (s : State) (c : Nat) (f : Core → Core) : (s.modCore c f).cyclesTold = s.cyclesTold := rfl
@[simp] theorem State.modCore_hostAnswer (s : State) (c : Nat) (f : Core → Core) : (s.modCore c f).hostAnswer = s.hostAnswer := rfl
@[simp] theorem State.modCore_fabAnswer (s : State) (c : Nat) (f : Core → Core) : (s.modCore c f).fabAnswer = s.fabAnswer := rfl
@[simp] theorem State.modCore_answerMarked (s : State) (c : Nat) (f : Core → Core) : (s.modCore c f).answerMarked = s.answerMarked := rfl
@[simp] theorem State.modCore_hostHeld (s : State) (c : Nat) (f : Core → Core) : (s.modCore c f).hostHeld = s.hostHeld := rfl
@[simp] theorem State.modCore_snooped (s : State) (c : Nat) (f : Core → Core) : (s.modCore c f).snooped = s.snooped := rfl
@[simp] theorem State.modCore_hostLine (s : State) (c : Nat) (f : Core → Core) : (s.modCore c f).hostLine = s.hostLine := rfl
@[simp] theorem State.modCore_fabAnswered (s : State) (c : Nat) (f : Core → Core) : (s.modCore c f).fabAnswered = s.fabAnswered := rfl
@[simp] theorem State.modCore_remote (s : State) (c : Nat) (f : Core → Core) : (s.modCore c f).remote = s.remote := rfl
@[simp] theorem State.modCore_fabOut (s : State) (c : Nat) (f : Core → Core) : (s.modCore c f).fabOut = s.fabOut := rfl

/-! ## `modPart` -/

@[simp] theorem State.modPart_clk (s : State) (c p : Nat) (f : Part → Part) : (s.modPart c p f).clk = s.clk := rfl
@[simp] theorem State.modPart_mem (s : State) (c p : Nat) (f : Part → Part) : (s.modPart c p f).mem = s.mem := rfl
@[simp] theorem State.modPart_poison (s : State) (c p : Nat) (f : Part → Part) : (s.modPart c p f).poison = s.poison := rfl
@[simp] theorem State.modPart_lines (s : State) (c p : Nat) (f : Part → Part) : (s.modPart c p f).lines = s.lines := rfl
@[simp] theorem State.modPart_slices (s : State) (c p : Nat) (f : Part → Part) : (s.modPart c p f).slices = s.slices := rfl
@[simp] theorem State.modPart_tlb (s : State) (c p : Nat) (f : Part → Part) : (s.modPart c p f).tlb = s.tlb := rfl
@[simp] theorem State.modPart_csr (s : State) (c p : Nat) (f : Part → Part) : (s.modPart c p f).csr = s.csr := rfl
@[simp] theorem State.modPart_dev (s : State) (c p : Nat) (f : Part → Part) : (s.modPart c p f).dev = s.dev := rfl
@[simp] theorem State.modPart_teams (s : State) (c p : Nat) (f : Part → Part) : (s.modPart c p f).teams = s.teams := rfl
@[simp] theorem State.modPart_launches (s : State) (c p : Nat) (f : Part → Part) : (s.modPart c p f).launches = s.launches := rfl
@[simp] theorem State.modPart_contexts (s : State) (c p : Nat) (f : Part → Part) : (s.modPart c p f).contexts = s.contexts := rfl
@[simp] theorem State.modPart_queues (s : State) (c p : Nat) (f : Part → Part) : (s.modPart c p f).queues = s.queues := rfl
@[simp] theorem State.modPart_ops (s : State) (c p : Nat) (f : Part → Part) : (s.modPart c p f).ops = s.ops := rfl
@[simp] theorem State.modPart_monitors (s : State) (c p : Nat) (f : Part → Part) : (s.modPart c p f).monitors = s.monitors := rfl
@[simp] theorem State.modPart_relaxed (s : State) (c p : Nat) (f : Part → Part) : (s.modPart c p f).relaxed = s.relaxed := rfl
@[simp] theorem State.modPart_groups (s : State) (c p : Nat) (f : Part → Part) : (s.modPart c p f).groups = s.groups := rfl
@[simp] theorem State.modPart_pos (s : State) (c p : Nat) (f : Part → Part) : (s.modPart c p f).pos = s.pos := rfl
@[simp] theorem State.modPart_agenda (s : State) (c p : Nat) (f : Part → Part) : (s.modPart c p f).agenda = s.agenda := rfl
@[simp] theorem State.modPart_free (s : State) (c p : Nat) (f : Part → Part) : (s.modPart c p f).free = s.free := rfl
@[simp] theorem State.modPart_phase (s : State) (c p : Nat) (f : Part → Part) : (s.modPart c p f).phase = s.phase := rfl
@[simp] theorem State.modPart_accepted (s : State) (c p : Nat) (f : Part → Part) : (s.modPart c p f).accepted = s.accepted := rfl
@[simp] theorem State.modPart_units (s : State) (c p : Nat) (f : Part → Part) : (s.modPart c p f).units = s.units := rfl
@[simp] theorem State.modPart_fwPts (s : State) (c p : Nat) (f : Part → Part) : (s.modPart c p f).fwPts = s.fwPts := rfl
@[simp] theorem State.modPart_harts (s : State) (c p : Nat) (f : Part → Part) : (s.modPart c p f).harts = s.harts := rfl
@[simp] theorem State.modPart_nextOp (s : State) (c p : Nat) (f : Part → Part) : (s.modPart c p f).nextOp = s.nextOp := rfl
@[simp] theorem State.modPart_kilns (s : State) (c p : Nat) (f : Part → Part) : (s.modPart c p f).kilns = s.kilns := rfl
@[simp] theorem State.modPart_senders (s : State) (c p : Nat) (f : Part → Part) : (s.modPart c p f).senders = s.senders := rfl
@[simp] theorem State.modPart_fabSent (s : State) (c p : Nat) (f : Part → Part) : (s.modPart c p f).fabSent = s.fabSent := rfl
@[simp] theorem State.modPart_fabSince (s : State) (c p : Nat) (f : Part → Part) : (s.modPart c p f).fabSince = s.fabSince := rfl
@[simp] theorem State.modPart_fabDone (s : State) (c p : Nat) (f : Part → Part) : (s.modPart c p f).fabDone = s.fabDone := rfl
@[simp] theorem State.modPart_markers (s : State) (c p : Nat) (f : Part → Part) : (s.modPart c p f).markers = s.markers := rfl
@[simp] theorem State.modPart_ownStores (s : State) (c p : Nat) (f : Part → Part) : (s.modPart c p f).ownStores = s.ownStores := rfl
@[simp] theorem State.modPart_nextFab (s : State) (c p : Nat) (f : Part → Part) : (s.modPart c p f).nextFab = s.nextFab := rfl
@[simp] theorem State.modPart_fabIn (s : State) (c p : Nat) (f : Part → Part) : (s.modPart c p f).fabIn = s.fabIn := rfl
@[simp] theorem State.modPart_fabLost (s : State) (c p : Nat) (f : Part → Part) : (s.modPart c p f).fabLost = s.fabLost := rfl
@[simp] theorem State.modPart_toldRefusals (s : State) (c p : Nat) (f : Part → Part) : (s.modPart c p f).toldRefusals = s.toldRefusals := rfl
@[simp] theorem State.modPart_walks (s : State) (c p : Nat) (f : Part → Part) : (s.modPart c p f).walks = s.walks := rfl
@[simp] theorem State.modPart_asks (s : State) (c p : Nat) (f : Part → Part) : (s.modPart c p f).asks = s.asks := rfl
@[simp] theorem State.modPart_sliceGone (s : State) (c p : Nat) (f : Part → Part) : (s.modPart c p f).sliceGone = s.sliceGone := rfl
@[simp] theorem State.modPart_bayResets (s : State) (c p : Nat) (f : Part → Part) : (s.modPart c p f).bayResets = s.bayResets := rfl
@[simp] theorem State.modPart_softReads (s : State) (c p : Nat) (f : Part → Part) : (s.modPart c p f).softReads = s.softReads := rfl
@[simp] theorem State.modPart_blocksGone (s : State) (c p : Nat) (f : Part → Part) : (s.modPart c p f).blocksGone = s.blocksGone := rfl
@[simp] theorem State.modPart_lost (s : State) (c p : Nat) (f : Part → Part) : (s.modPart c p f).lost = s.lost := rfl
@[simp] theorem State.modPart_raised (s : State) (c p : Nat) (f : Part → Part) : (s.modPart c p f).raised = s.raised := rfl
@[simp] theorem State.modPart_holdoff (s : State) (c p : Nat) (f : Part → Part) : (s.modPart c p f).holdoff = s.holdoff := rfl
@[simp] theorem State.modPart_msix (s : State) (c p : Nat) (f : Part → Part) : (s.modPart c p f).msix = s.msix := rfl
@[simp] theorem State.modPart_svcMsi (s : State) (c p : Nat) (f : Part → Part) : (s.modPart c p f).svcMsi = s.svcMsi := rfl
@[simp] theorem State.modPart_qosUse (s : State) (c p : Nat) (f : Part → Part) : (s.modPart c p f).qosUse = s.qosUse := rfl
@[simp] theorem State.modPart_qosNext (s : State) (c p : Nat) (f : Part → Part) : (s.modPart c p f).qosNext = s.qosNext := rfl
@[simp] theorem State.modPart_programs (s : State) (c p : Nat) (f : Part → Part) : (s.modPart c p f).programs = s.programs := rfl
@[simp] theorem State.modPart_installing (s : State) (c p : Nat) (f : Part → Part) : (s.modPart c p f).installing = s.installing := rfl
@[simp] theorem State.modPart_nextSent (s : State) (c p : Nat) (f : Part → Part) : (s.modPart c p f).nextSent = s.nextSent := rfl
@[simp] theorem State.modPart_hodOff (s : State) (c p : Nat) (f : Part → Part) : (s.modPart c p f).hodOff = s.hodOff := rfl
@[simp] theorem State.modPart_hodFaults (s : State) (c p : Nat) (f : Part → Part) : (s.modPart c p f).hodFaults = s.hodFaults := rfl
@[simp] theorem State.modPart_meters (s : State) (c p : Nat) (f : Part → Part) : (s.modPart c p f).meters = s.meters := rfl
@[simp] theorem State.modPart_activity (s : State) (c p : Nat) (f : Part → Part) : (s.modPart c p f).activity = s.activity := rfl
@[simp] theorem State.modPart_enablings (s : State) (c p : Nat) (f : Part → Part) : (s.modPart c p f).enablings = s.enablings := rfl
@[simp] theorem State.modPart_checkpoints (s : State) (c p : Nat) (f : Part → Part) : (s.modPart c p f).checkpoints = s.checkpoints := rfl
@[simp] theorem State.modPart_sidx (s : State) (c p : Nat) (f : Part → Part) : (s.modPart c p f).sidx = s.sidx := rfl
@[simp] theorem State.modPart_sensed (s : State) (c p : Nat) (f : Part → Part) : (s.modPart c p f).sensed = s.sensed := rfl
@[simp] theorem State.modPart_reserved (s : State) (c p : Nat) (f : Part → Part) : (s.modPart c p f).reserved = s.reserved := rfl
@[simp] theorem State.modPart_resets (s : State) (c p : Nat) (f : Part → Part) : (s.modPart c p f).resets = s.resets := rfl
@[simp] theorem State.modPart_reading (s : State) (c p : Nat) (f : Part → Part) : (s.modPart c p f).reading = s.reading := rfl
@[simp] theorem State.modPart_warned (s : State) (c p : Nat) (f : Part → Part) : (s.modPart c p f).warned = s.warned := rfl
@[simp] theorem State.modPart_sigGone (s : State) (c p : Nat) (f : Part → Part) : (s.modPart c p f).sigGone = s.sigGone := rfl
@[simp] theorem State.modPart_tries (s : State) (c p : Nat) (f : Part → Part) : (s.modPart c p f).tries = s.tries := rfl
@[simp] theorem State.modPart_retired (s : State) (c p : Nat) (f : Part → Part) : (s.modPart c p f).retired = s.retired := rfl
@[simp] theorem State.modPart_fwfail (s : State) (c p : Nat) (f : Part → Part) : (s.modPart c p f).fwfail = s.fwfail := rfl
@[simp] theorem State.modPart_cycles (s : State) (c p : Nat) (f : Part → Part) : (s.modPart c p f).cycles = s.cycles := rfl
@[simp] theorem State.modPart_cyclesTold (s : State) (c p : Nat) (f : Part → Part) : (s.modPart c p f).cyclesTold = s.cyclesTold := rfl
@[simp] theorem State.modPart_hostAnswer (s : State) (c p : Nat) (f : Part → Part) : (s.modPart c p f).hostAnswer = s.hostAnswer := rfl
@[simp] theorem State.modPart_fabAnswer (s : State) (c p : Nat) (f : Part → Part) : (s.modPart c p f).fabAnswer = s.fabAnswer := rfl
@[simp] theorem State.modPart_answerMarked (s : State) (c p : Nat) (f : Part → Part) : (s.modPart c p f).answerMarked = s.answerMarked := rfl
@[simp] theorem State.modPart_hostHeld (s : State) (c p : Nat) (f : Part → Part) : (s.modPart c p f).hostHeld = s.hostHeld := rfl
@[simp] theorem State.modPart_snooped (s : State) (c p : Nat) (f : Part → Part) : (s.modPart c p f).snooped = s.snooped := rfl
@[simp] theorem State.modPart_hostLine (s : State) (c p : Nat) (f : Part → Part) : (s.modPart c p f).hostLine = s.hostLine := rfl
@[simp] theorem State.modPart_fabAnswered (s : State) (c p : Nat) (f : Part → Part) : (s.modPart c p f).fabAnswered = s.fabAnswered := rfl
@[simp] theorem State.modPart_remote (s : State) (c p : Nat) (f : Part → Part) : (s.modPart c p f).remote = s.remote := rfl
@[simp] theorem State.modPart_fabOut (s : State) (c p : Nat) (f : Part → Part) : (s.modPart c p f).fabOut = s.fabOut := rfl

/-! ## `modSlice` -/

@[simp] theorem State.modSlice_clk (s : State) (i : Nat) (f : Slice → Slice) : (s.modSlice i f).clk = s.clk := rfl
@[simp] theorem State.modSlice_mem (s : State) (i : Nat) (f : Slice → Slice) : (s.modSlice i f).mem = s.mem := rfl
@[simp] theorem State.modSlice_poison (s : State) (i : Nat) (f : Slice → Slice) : (s.modSlice i f).poison = s.poison := rfl
@[simp] theorem State.modSlice_lines (s : State) (i : Nat) (f : Slice → Slice) : (s.modSlice i f).lines = s.lines := rfl
@[simp] theorem State.modSlice_cores (s : State) (i : Nat) (f : Slice → Slice) : (s.modSlice i f).cores = s.cores := rfl
@[simp] theorem State.modSlice_tlb (s : State) (i : Nat) (f : Slice → Slice) : (s.modSlice i f).tlb = s.tlb := rfl
@[simp] theorem State.modSlice_csr (s : State) (i : Nat) (f : Slice → Slice) : (s.modSlice i f).csr = s.csr := rfl
@[simp] theorem State.modSlice_dev (s : State) (i : Nat) (f : Slice → Slice) : (s.modSlice i f).dev = s.dev := rfl
@[simp] theorem State.modSlice_teams (s : State) (i : Nat) (f : Slice → Slice) : (s.modSlice i f).teams = s.teams := rfl
@[simp] theorem State.modSlice_launches (s : State) (i : Nat) (f : Slice → Slice) : (s.modSlice i f).launches = s.launches := rfl
@[simp] theorem State.modSlice_contexts (s : State) (i : Nat) (f : Slice → Slice) : (s.modSlice i f).contexts = s.contexts := rfl
@[simp] theorem State.modSlice_queues (s : State) (i : Nat) (f : Slice → Slice) : (s.modSlice i f).queues = s.queues := rfl
@[simp] theorem State.modSlice_ops (s : State) (i : Nat) (f : Slice → Slice) : (s.modSlice i f).ops = s.ops := rfl
@[simp] theorem State.modSlice_monitors (s : State) (i : Nat) (f : Slice → Slice) : (s.modSlice i f).monitors = s.monitors := rfl
@[simp] theorem State.modSlice_relaxed (s : State) (i : Nat) (f : Slice → Slice) : (s.modSlice i f).relaxed = s.relaxed := rfl
@[simp] theorem State.modSlice_groups (s : State) (i : Nat) (f : Slice → Slice) : (s.modSlice i f).groups = s.groups := rfl
@[simp] theorem State.modSlice_pos (s : State) (i : Nat) (f : Slice → Slice) : (s.modSlice i f).pos = s.pos := rfl
@[simp] theorem State.modSlice_agenda (s : State) (i : Nat) (f : Slice → Slice) : (s.modSlice i f).agenda = s.agenda := rfl
@[simp] theorem State.modSlice_free (s : State) (i : Nat) (f : Slice → Slice) : (s.modSlice i f).free = s.free := rfl
@[simp] theorem State.modSlice_phase (s : State) (i : Nat) (f : Slice → Slice) : (s.modSlice i f).phase = s.phase := rfl
@[simp] theorem State.modSlice_accepted (s : State) (i : Nat) (f : Slice → Slice) : (s.modSlice i f).accepted = s.accepted := rfl
@[simp] theorem State.modSlice_units (s : State) (i : Nat) (f : Slice → Slice) : (s.modSlice i f).units = s.units := rfl
@[simp] theorem State.modSlice_fwPts (s : State) (i : Nat) (f : Slice → Slice) : (s.modSlice i f).fwPts = s.fwPts := rfl
@[simp] theorem State.modSlice_harts (s : State) (i : Nat) (f : Slice → Slice) : (s.modSlice i f).harts = s.harts := rfl
@[simp] theorem State.modSlice_nextOp (s : State) (i : Nat) (f : Slice → Slice) : (s.modSlice i f).nextOp = s.nextOp := rfl
@[simp] theorem State.modSlice_kilns (s : State) (i : Nat) (f : Slice → Slice) : (s.modSlice i f).kilns = s.kilns := rfl
@[simp] theorem State.modSlice_senders (s : State) (i : Nat) (f : Slice → Slice) : (s.modSlice i f).senders = s.senders := rfl
@[simp] theorem State.modSlice_fabSent (s : State) (i : Nat) (f : Slice → Slice) : (s.modSlice i f).fabSent = s.fabSent := rfl
@[simp] theorem State.modSlice_fabSince (s : State) (i : Nat) (f : Slice → Slice) : (s.modSlice i f).fabSince = s.fabSince := rfl
@[simp] theorem State.modSlice_fabDone (s : State) (i : Nat) (f : Slice → Slice) : (s.modSlice i f).fabDone = s.fabDone := rfl
@[simp] theorem State.modSlice_markers (s : State) (i : Nat) (f : Slice → Slice) : (s.modSlice i f).markers = s.markers := rfl
@[simp] theorem State.modSlice_ownStores (s : State) (i : Nat) (f : Slice → Slice) : (s.modSlice i f).ownStores = s.ownStores := rfl
@[simp] theorem State.modSlice_nextFab (s : State) (i : Nat) (f : Slice → Slice) : (s.modSlice i f).nextFab = s.nextFab := rfl
@[simp] theorem State.modSlice_fabIn (s : State) (i : Nat) (f : Slice → Slice) : (s.modSlice i f).fabIn = s.fabIn := rfl
@[simp] theorem State.modSlice_fabLost (s : State) (i : Nat) (f : Slice → Slice) : (s.modSlice i f).fabLost = s.fabLost := rfl
@[simp] theorem State.modSlice_toldRefusals (s : State) (i : Nat) (f : Slice → Slice) : (s.modSlice i f).toldRefusals = s.toldRefusals := rfl
@[simp] theorem State.modSlice_walks (s : State) (i : Nat) (f : Slice → Slice) : (s.modSlice i f).walks = s.walks := rfl
@[simp] theorem State.modSlice_asks (s : State) (i : Nat) (f : Slice → Slice) : (s.modSlice i f).asks = s.asks := rfl
@[simp] theorem State.modSlice_sliceGone (s : State) (i : Nat) (f : Slice → Slice) : (s.modSlice i f).sliceGone = s.sliceGone := rfl
@[simp] theorem State.modSlice_bayResets (s : State) (i : Nat) (f : Slice → Slice) : (s.modSlice i f).bayResets = s.bayResets := rfl
@[simp] theorem State.modSlice_softReads (s : State) (i : Nat) (f : Slice → Slice) : (s.modSlice i f).softReads = s.softReads := rfl
@[simp] theorem State.modSlice_blocksGone (s : State) (i : Nat) (f : Slice → Slice) : (s.modSlice i f).blocksGone = s.blocksGone := rfl
@[simp] theorem State.modSlice_lost (s : State) (i : Nat) (f : Slice → Slice) : (s.modSlice i f).lost = s.lost := rfl
@[simp] theorem State.modSlice_raised (s : State) (i : Nat) (f : Slice → Slice) : (s.modSlice i f).raised = s.raised := rfl
@[simp] theorem State.modSlice_holdoff (s : State) (i : Nat) (f : Slice → Slice) : (s.modSlice i f).holdoff = s.holdoff := rfl
@[simp] theorem State.modSlice_msix (s : State) (i : Nat) (f : Slice → Slice) : (s.modSlice i f).msix = s.msix := rfl
@[simp] theorem State.modSlice_svcMsi (s : State) (i : Nat) (f : Slice → Slice) : (s.modSlice i f).svcMsi = s.svcMsi := rfl
@[simp] theorem State.modSlice_qosUse (s : State) (i : Nat) (f : Slice → Slice) : (s.modSlice i f).qosUse = s.qosUse := rfl
@[simp] theorem State.modSlice_qosNext (s : State) (i : Nat) (f : Slice → Slice) : (s.modSlice i f).qosNext = s.qosNext := rfl
@[simp] theorem State.modSlice_programs (s : State) (i : Nat) (f : Slice → Slice) : (s.modSlice i f).programs = s.programs := rfl
@[simp] theorem State.modSlice_installing (s : State) (i : Nat) (f : Slice → Slice) : (s.modSlice i f).installing = s.installing := rfl
@[simp] theorem State.modSlice_nextSent (s : State) (i : Nat) (f : Slice → Slice) : (s.modSlice i f).nextSent = s.nextSent := rfl
@[simp] theorem State.modSlice_hodOff (s : State) (i : Nat) (f : Slice → Slice) : (s.modSlice i f).hodOff = s.hodOff := rfl
@[simp] theorem State.modSlice_hodFaults (s : State) (i : Nat) (f : Slice → Slice) : (s.modSlice i f).hodFaults = s.hodFaults := rfl
@[simp] theorem State.modSlice_meters (s : State) (i : Nat) (f : Slice → Slice) : (s.modSlice i f).meters = s.meters := rfl
@[simp] theorem State.modSlice_activity (s : State) (i : Nat) (f : Slice → Slice) : (s.modSlice i f).activity = s.activity := rfl
@[simp] theorem State.modSlice_enablings (s : State) (i : Nat) (f : Slice → Slice) : (s.modSlice i f).enablings = s.enablings := rfl
@[simp] theorem State.modSlice_checkpoints (s : State) (i : Nat) (f : Slice → Slice) : (s.modSlice i f).checkpoints = s.checkpoints := rfl
@[simp] theorem State.modSlice_sidx (s : State) (i : Nat) (f : Slice → Slice) : (s.modSlice i f).sidx = s.sidx := rfl
@[simp] theorem State.modSlice_sensed (s : State) (i : Nat) (f : Slice → Slice) : (s.modSlice i f).sensed = s.sensed := rfl
@[simp] theorem State.modSlice_reserved (s : State) (i : Nat) (f : Slice → Slice) : (s.modSlice i f).reserved = s.reserved := rfl
@[simp] theorem State.modSlice_resets (s : State) (i : Nat) (f : Slice → Slice) : (s.modSlice i f).resets = s.resets := rfl
@[simp] theorem State.modSlice_reading (s : State) (i : Nat) (f : Slice → Slice) : (s.modSlice i f).reading = s.reading := rfl
@[simp] theorem State.modSlice_warned (s : State) (i : Nat) (f : Slice → Slice) : (s.modSlice i f).warned = s.warned := rfl
@[simp] theorem State.modSlice_sigGone (s : State) (i : Nat) (f : Slice → Slice) : (s.modSlice i f).sigGone = s.sigGone := rfl
@[simp] theorem State.modSlice_tries (s : State) (i : Nat) (f : Slice → Slice) : (s.modSlice i f).tries = s.tries := rfl
@[simp] theorem State.modSlice_retired (s : State) (i : Nat) (f : Slice → Slice) : (s.modSlice i f).retired = s.retired := rfl
@[simp] theorem State.modSlice_fwfail (s : State) (i : Nat) (f : Slice → Slice) : (s.modSlice i f).fwfail = s.fwfail := rfl
@[simp] theorem State.modSlice_cycles (s : State) (i : Nat) (f : Slice → Slice) : (s.modSlice i f).cycles = s.cycles := rfl
@[simp] theorem State.modSlice_cyclesTold (s : State) (i : Nat) (f : Slice → Slice) : (s.modSlice i f).cyclesTold = s.cyclesTold := rfl
@[simp] theorem State.modSlice_hostAnswer (s : State) (i : Nat) (f : Slice → Slice) : (s.modSlice i f).hostAnswer = s.hostAnswer := rfl
@[simp] theorem State.modSlice_fabAnswer (s : State) (i : Nat) (f : Slice → Slice) : (s.modSlice i f).fabAnswer = s.fabAnswer := rfl
@[simp] theorem State.modSlice_answerMarked (s : State) (i : Nat) (f : Slice → Slice) : (s.modSlice i f).answerMarked = s.answerMarked := rfl
@[simp] theorem State.modSlice_hostHeld (s : State) (i : Nat) (f : Slice → Slice) : (s.modSlice i f).hostHeld = s.hostHeld := rfl
@[simp] theorem State.modSlice_snooped (s : State) (i : Nat) (f : Slice → Slice) : (s.modSlice i f).snooped = s.snooped := rfl
@[simp] theorem State.modSlice_hostLine (s : State) (i : Nat) (f : Slice → Slice) : (s.modSlice i f).hostLine = s.hostLine := rfl
@[simp] theorem State.modSlice_fabAnswered (s : State) (i : Nat) (f : Slice → Slice) : (s.modSlice i f).fabAnswered = s.fabAnswered := rfl
@[simp] theorem State.modSlice_remote (s : State) (i : Nat) (f : Slice → Slice) : (s.modSlice i f).remote = s.remote := rfl
@[simp] theorem State.modSlice_fabOut (s : State) (i : Nat) (f : Slice → Slice) : (s.modSlice i f).fabOut = s.fabOut := rfl

/-! ## `modContext` -/

@[simp] theorem State.modContext_clk (s : State) (i : Nat) (f : Context → Context) : (s.modContext i f).clk = s.clk := rfl
@[simp] theorem State.modContext_mem (s : State) (i : Nat) (f : Context → Context) : (s.modContext i f).mem = s.mem := rfl
@[simp] theorem State.modContext_poison (s : State) (i : Nat) (f : Context → Context) : (s.modContext i f).poison = s.poison := rfl
@[simp] theorem State.modContext_lines (s : State) (i : Nat) (f : Context → Context) : (s.modContext i f).lines = s.lines := rfl
@[simp] theorem State.modContext_slices (s : State) (i : Nat) (f : Context → Context) : (s.modContext i f).slices = s.slices := rfl
@[simp] theorem State.modContext_cores (s : State) (i : Nat) (f : Context → Context) : (s.modContext i f).cores = s.cores := rfl
@[simp] theorem State.modContext_tlb (s : State) (i : Nat) (f : Context → Context) : (s.modContext i f).tlb = s.tlb := rfl
@[simp] theorem State.modContext_csr (s : State) (i : Nat) (f : Context → Context) : (s.modContext i f).csr = s.csr := rfl
@[simp] theorem State.modContext_dev (s : State) (i : Nat) (f : Context → Context) : (s.modContext i f).dev = s.dev := rfl
@[simp] theorem State.modContext_teams (s : State) (i : Nat) (f : Context → Context) : (s.modContext i f).teams = s.teams := rfl
@[simp] theorem State.modContext_launches (s : State) (i : Nat) (f : Context → Context) : (s.modContext i f).launches = s.launches := rfl
@[simp] theorem State.modContext_queues (s : State) (i : Nat) (f : Context → Context) : (s.modContext i f).queues = s.queues := rfl
@[simp] theorem State.modContext_ops (s : State) (i : Nat) (f : Context → Context) : (s.modContext i f).ops = s.ops := rfl
@[simp] theorem State.modContext_monitors (s : State) (i : Nat) (f : Context → Context) : (s.modContext i f).monitors = s.monitors := rfl
@[simp] theorem State.modContext_relaxed (s : State) (i : Nat) (f : Context → Context) : (s.modContext i f).relaxed = s.relaxed := rfl
@[simp] theorem State.modContext_groups (s : State) (i : Nat) (f : Context → Context) : (s.modContext i f).groups = s.groups := rfl
@[simp] theorem State.modContext_pos (s : State) (i : Nat) (f : Context → Context) : (s.modContext i f).pos = s.pos := rfl
@[simp] theorem State.modContext_agenda (s : State) (i : Nat) (f : Context → Context) : (s.modContext i f).agenda = s.agenda := rfl
@[simp] theorem State.modContext_free (s : State) (i : Nat) (f : Context → Context) : (s.modContext i f).free = s.free := rfl
@[simp] theorem State.modContext_phase (s : State) (i : Nat) (f : Context → Context) : (s.modContext i f).phase = s.phase := rfl
@[simp] theorem State.modContext_accepted (s : State) (i : Nat) (f : Context → Context) : (s.modContext i f).accepted = s.accepted := rfl
@[simp] theorem State.modContext_units (s : State) (i : Nat) (f : Context → Context) : (s.modContext i f).units = s.units := rfl
@[simp] theorem State.modContext_fwPts (s : State) (i : Nat) (f : Context → Context) : (s.modContext i f).fwPts = s.fwPts := rfl
@[simp] theorem State.modContext_harts (s : State) (i : Nat) (f : Context → Context) : (s.modContext i f).harts = s.harts := rfl
@[simp] theorem State.modContext_nextOp (s : State) (i : Nat) (f : Context → Context) : (s.modContext i f).nextOp = s.nextOp := rfl
@[simp] theorem State.modContext_kilns (s : State) (i : Nat) (f : Context → Context) : (s.modContext i f).kilns = s.kilns := rfl
@[simp] theorem State.modContext_senders (s : State) (i : Nat) (f : Context → Context) : (s.modContext i f).senders = s.senders := rfl
@[simp] theorem State.modContext_fabSent (s : State) (i : Nat) (f : Context → Context) : (s.modContext i f).fabSent = s.fabSent := rfl
@[simp] theorem State.modContext_fabSince (s : State) (i : Nat) (f : Context → Context) : (s.modContext i f).fabSince = s.fabSince := rfl
@[simp] theorem State.modContext_fabDone (s : State) (i : Nat) (f : Context → Context) : (s.modContext i f).fabDone = s.fabDone := rfl
@[simp] theorem State.modContext_markers (s : State) (i : Nat) (f : Context → Context) : (s.modContext i f).markers = s.markers := rfl
@[simp] theorem State.modContext_ownStores (s : State) (i : Nat) (f : Context → Context) : (s.modContext i f).ownStores = s.ownStores := rfl
@[simp] theorem State.modContext_nextFab (s : State) (i : Nat) (f : Context → Context) : (s.modContext i f).nextFab = s.nextFab := rfl
@[simp] theorem State.modContext_fabIn (s : State) (i : Nat) (f : Context → Context) : (s.modContext i f).fabIn = s.fabIn := rfl
@[simp] theorem State.modContext_fabLost (s : State) (i : Nat) (f : Context → Context) : (s.modContext i f).fabLost = s.fabLost := rfl
@[simp] theorem State.modContext_toldRefusals (s : State) (i : Nat) (f : Context → Context) : (s.modContext i f).toldRefusals = s.toldRefusals := rfl
@[simp] theorem State.modContext_walks (s : State) (i : Nat) (f : Context → Context) : (s.modContext i f).walks = s.walks := rfl
@[simp] theorem State.modContext_asks (s : State) (i : Nat) (f : Context → Context) : (s.modContext i f).asks = s.asks := rfl
@[simp] theorem State.modContext_sliceGone (s : State) (i : Nat) (f : Context → Context) : (s.modContext i f).sliceGone = s.sliceGone := rfl
@[simp] theorem State.modContext_bayResets (s : State) (i : Nat) (f : Context → Context) : (s.modContext i f).bayResets = s.bayResets := rfl
@[simp] theorem State.modContext_softReads (s : State) (i : Nat) (f : Context → Context) : (s.modContext i f).softReads = s.softReads := rfl
@[simp] theorem State.modContext_blocksGone (s : State) (i : Nat) (f : Context → Context) : (s.modContext i f).blocksGone = s.blocksGone := rfl
@[simp] theorem State.modContext_lost (s : State) (i : Nat) (f : Context → Context) : (s.modContext i f).lost = s.lost := rfl
@[simp] theorem State.modContext_raised (s : State) (i : Nat) (f : Context → Context) : (s.modContext i f).raised = s.raised := rfl
@[simp] theorem State.modContext_holdoff (s : State) (i : Nat) (f : Context → Context) : (s.modContext i f).holdoff = s.holdoff := rfl
@[simp] theorem State.modContext_msix (s : State) (i : Nat) (f : Context → Context) : (s.modContext i f).msix = s.msix := rfl
@[simp] theorem State.modContext_svcMsi (s : State) (i : Nat) (f : Context → Context) : (s.modContext i f).svcMsi = s.svcMsi := rfl
@[simp] theorem State.modContext_qosUse (s : State) (i : Nat) (f : Context → Context) : (s.modContext i f).qosUse = s.qosUse := rfl
@[simp] theorem State.modContext_qosNext (s : State) (i : Nat) (f : Context → Context) : (s.modContext i f).qosNext = s.qosNext := rfl
@[simp] theorem State.modContext_programs (s : State) (i : Nat) (f : Context → Context) : (s.modContext i f).programs = s.programs := rfl
@[simp] theorem State.modContext_installing (s : State) (i : Nat) (f : Context → Context) : (s.modContext i f).installing = s.installing := rfl
@[simp] theorem State.modContext_nextSent (s : State) (i : Nat) (f : Context → Context) : (s.modContext i f).nextSent = s.nextSent := rfl
@[simp] theorem State.modContext_hodOff (s : State) (i : Nat) (f : Context → Context) : (s.modContext i f).hodOff = s.hodOff := rfl
@[simp] theorem State.modContext_hodFaults (s : State) (i : Nat) (f : Context → Context) : (s.modContext i f).hodFaults = s.hodFaults := rfl
@[simp] theorem State.modContext_meters (s : State) (i : Nat) (f : Context → Context) : (s.modContext i f).meters = s.meters := rfl
@[simp] theorem State.modContext_activity (s : State) (i : Nat) (f : Context → Context) : (s.modContext i f).activity = s.activity := rfl
@[simp] theorem State.modContext_enablings (s : State) (i : Nat) (f : Context → Context) : (s.modContext i f).enablings = s.enablings := rfl
@[simp] theorem State.modContext_checkpoints (s : State) (i : Nat) (f : Context → Context) : (s.modContext i f).checkpoints = s.checkpoints := rfl
@[simp] theorem State.modContext_sidx (s : State) (i : Nat) (f : Context → Context) : (s.modContext i f).sidx = s.sidx := rfl
@[simp] theorem State.modContext_sensed (s : State) (i : Nat) (f : Context → Context) : (s.modContext i f).sensed = s.sensed := rfl
@[simp] theorem State.modContext_reserved (s : State) (i : Nat) (f : Context → Context) : (s.modContext i f).reserved = s.reserved := rfl
@[simp] theorem State.modContext_resets (s : State) (i : Nat) (f : Context → Context) : (s.modContext i f).resets = s.resets := rfl
@[simp] theorem State.modContext_reading (s : State) (i : Nat) (f : Context → Context) : (s.modContext i f).reading = s.reading := rfl
@[simp] theorem State.modContext_warned (s : State) (i : Nat) (f : Context → Context) : (s.modContext i f).warned = s.warned := rfl
@[simp] theorem State.modContext_sigGone (s : State) (i : Nat) (f : Context → Context) : (s.modContext i f).sigGone = s.sigGone := rfl
@[simp] theorem State.modContext_tries (s : State) (i : Nat) (f : Context → Context) : (s.modContext i f).tries = s.tries := rfl
@[simp] theorem State.modContext_retired (s : State) (i : Nat) (f : Context → Context) : (s.modContext i f).retired = s.retired := rfl
@[simp] theorem State.modContext_fwfail (s : State) (i : Nat) (f : Context → Context) : (s.modContext i f).fwfail = s.fwfail := rfl
@[simp] theorem State.modContext_cycles (s : State) (i : Nat) (f : Context → Context) : (s.modContext i f).cycles = s.cycles := rfl
@[simp] theorem State.modContext_cyclesTold (s : State) (i : Nat) (f : Context → Context) : (s.modContext i f).cyclesTold = s.cyclesTold := rfl
@[simp] theorem State.modContext_hostAnswer (s : State) (i : Nat) (f : Context → Context) : (s.modContext i f).hostAnswer = s.hostAnswer := rfl
@[simp] theorem State.modContext_fabAnswer (s : State) (i : Nat) (f : Context → Context) : (s.modContext i f).fabAnswer = s.fabAnswer := rfl
@[simp] theorem State.modContext_answerMarked (s : State) (i : Nat) (f : Context → Context) : (s.modContext i f).answerMarked = s.answerMarked := rfl
@[simp] theorem State.modContext_hostHeld (s : State) (i : Nat) (f : Context → Context) : (s.modContext i f).hostHeld = s.hostHeld := rfl
@[simp] theorem State.modContext_snooped (s : State) (i : Nat) (f : Context → Context) : (s.modContext i f).snooped = s.snooped := rfl
@[simp] theorem State.modContext_hostLine (s : State) (i : Nat) (f : Context → Context) : (s.modContext i f).hostLine = s.hostLine := rfl
@[simp] theorem State.modContext_fabAnswered (s : State) (i : Nat) (f : Context → Context) : (s.modContext i f).fabAnswered = s.fabAnswered := rfl
@[simp] theorem State.modContext_remote (s : State) (i : Nat) (f : Context → Context) : (s.modContext i f).remote = s.remote := rfl
@[simp] theorem State.modContext_fabOut (s : State) (i : Nat) (f : Context → Context) : (s.modContext i f).fabOut = s.fabOut := rfl

/-! ## `later` -/

@[simp] theorem State.later_clk (s : State) (is : List Instr) : (s.later is).clk = s.clk := rfl
@[simp] theorem State.later_mem (s : State) (is : List Instr) : (s.later is).mem = s.mem := rfl
@[simp] theorem State.later_poison (s : State) (is : List Instr) : (s.later is).poison = s.poison := rfl
@[simp] theorem State.later_lines (s : State) (is : List Instr) : (s.later is).lines = s.lines := rfl
@[simp] theorem State.later_slices (s : State) (is : List Instr) : (s.later is).slices = s.slices := rfl
@[simp] theorem State.later_cores (s : State) (is : List Instr) : (s.later is).cores = s.cores := rfl
@[simp] theorem State.later_tlb (s : State) (is : List Instr) : (s.later is).tlb = s.tlb := rfl
@[simp] theorem State.later_csr (s : State) (is : List Instr) : (s.later is).csr = s.csr := rfl
@[simp] theorem State.later_dev (s : State) (is : List Instr) : (s.later is).dev = s.dev := rfl
@[simp] theorem State.later_teams (s : State) (is : List Instr) : (s.later is).teams = s.teams := rfl
@[simp] theorem State.later_launches (s : State) (is : List Instr) : (s.later is).launches = s.launches := rfl
@[simp] theorem State.later_contexts (s : State) (is : List Instr) : (s.later is).contexts = s.contexts := rfl
@[simp] theorem State.later_queues (s : State) (is : List Instr) : (s.later is).queues = s.queues := rfl
@[simp] theorem State.later_ops (s : State) (is : List Instr) : (s.later is).ops = s.ops := rfl
@[simp] theorem State.later_monitors (s : State) (is : List Instr) : (s.later is).monitors = s.monitors := rfl
@[simp] theorem State.later_relaxed (s : State) (is : List Instr) : (s.later is).relaxed = s.relaxed := rfl
@[simp] theorem State.later_groups (s : State) (is : List Instr) : (s.later is).groups = s.groups := rfl
@[simp] theorem State.later_pos (s : State) (is : List Instr) : (s.later is).pos = s.pos := rfl
@[simp] theorem State.later_free (s : State) (is : List Instr) : (s.later is).free = s.free := rfl
@[simp] theorem State.later_phase (s : State) (is : List Instr) : (s.later is).phase = s.phase := rfl
@[simp] theorem State.later_accepted (s : State) (is : List Instr) : (s.later is).accepted = s.accepted := rfl
@[simp] theorem State.later_units (s : State) (is : List Instr) : (s.later is).units = s.units := rfl
@[simp] theorem State.later_fwPts (s : State) (is : List Instr) : (s.later is).fwPts = s.fwPts := rfl
@[simp] theorem State.later_harts (s : State) (is : List Instr) : (s.later is).harts = s.harts := rfl
@[simp] theorem State.later_nextOp (s : State) (is : List Instr) : (s.later is).nextOp = s.nextOp := rfl
@[simp] theorem State.later_kilns (s : State) (is : List Instr) : (s.later is).kilns = s.kilns := rfl
@[simp] theorem State.later_senders (s : State) (is : List Instr) : (s.later is).senders = s.senders := rfl
@[simp] theorem State.later_fabSent (s : State) (is : List Instr) : (s.later is).fabSent = s.fabSent := rfl
@[simp] theorem State.later_fabSince (s : State) (is : List Instr) : (s.later is).fabSince = s.fabSince := rfl
@[simp] theorem State.later_fabDone (s : State) (is : List Instr) : (s.later is).fabDone = s.fabDone := rfl
@[simp] theorem State.later_markers (s : State) (is : List Instr) : (s.later is).markers = s.markers := rfl
@[simp] theorem State.later_ownStores (s : State) (is : List Instr) : (s.later is).ownStores = s.ownStores := rfl
@[simp] theorem State.later_nextFab (s : State) (is : List Instr) : (s.later is).nextFab = s.nextFab := rfl
@[simp] theorem State.later_fabIn (s : State) (is : List Instr) : (s.later is).fabIn = s.fabIn := rfl
@[simp] theorem State.later_fabLost (s : State) (is : List Instr) : (s.later is).fabLost = s.fabLost := rfl
@[simp] theorem State.later_toldRefusals (s : State) (is : List Instr) : (s.later is).toldRefusals = s.toldRefusals := rfl
@[simp] theorem State.later_walks (s : State) (is : List Instr) : (s.later is).walks = s.walks := rfl
@[simp] theorem State.later_asks (s : State) (is : List Instr) : (s.later is).asks = s.asks := rfl
@[simp] theorem State.later_sliceGone (s : State) (is : List Instr) : (s.later is).sliceGone = s.sliceGone := rfl
@[simp] theorem State.later_bayResets (s : State) (is : List Instr) : (s.later is).bayResets = s.bayResets := rfl
@[simp] theorem State.later_softReads (s : State) (is : List Instr) : (s.later is).softReads = s.softReads := rfl
@[simp] theorem State.later_blocksGone (s : State) (is : List Instr) : (s.later is).blocksGone = s.blocksGone := rfl
@[simp] theorem State.later_lost (s : State) (is : List Instr) : (s.later is).lost = s.lost := rfl
@[simp] theorem State.later_raised (s : State) (is : List Instr) : (s.later is).raised = s.raised := rfl
@[simp] theorem State.later_holdoff (s : State) (is : List Instr) : (s.later is).holdoff = s.holdoff := rfl
@[simp] theorem State.later_msix (s : State) (is : List Instr) : (s.later is).msix = s.msix := rfl
@[simp] theorem State.later_svcMsi (s : State) (is : List Instr) : (s.later is).svcMsi = s.svcMsi := rfl
@[simp] theorem State.later_qosUse (s : State) (is : List Instr) : (s.later is).qosUse = s.qosUse := rfl
@[simp] theorem State.later_qosNext (s : State) (is : List Instr) : (s.later is).qosNext = s.qosNext := rfl
@[simp] theorem State.later_programs (s : State) (is : List Instr) : (s.later is).programs = s.programs := rfl
@[simp] theorem State.later_installing (s : State) (is : List Instr) : (s.later is).installing = s.installing := rfl
@[simp] theorem State.later_nextSent (s : State) (is : List Instr) : (s.later is).nextSent = s.nextSent := rfl
@[simp] theorem State.later_hodOff (s : State) (is : List Instr) : (s.later is).hodOff = s.hodOff := rfl
@[simp] theorem State.later_hodFaults (s : State) (is : List Instr) : (s.later is).hodFaults = s.hodFaults := rfl
@[simp] theorem State.later_meters (s : State) (is : List Instr) : (s.later is).meters = s.meters := rfl
@[simp] theorem State.later_activity (s : State) (is : List Instr) : (s.later is).activity = s.activity := rfl
@[simp] theorem State.later_enablings (s : State) (is : List Instr) : (s.later is).enablings = s.enablings := rfl
@[simp] theorem State.later_checkpoints (s : State) (is : List Instr) : (s.later is).checkpoints = s.checkpoints := rfl
@[simp] theorem State.later_sidx (s : State) (is : List Instr) : (s.later is).sidx = s.sidx := rfl
@[simp] theorem State.later_sensed (s : State) (is : List Instr) : (s.later is).sensed = s.sensed := rfl
@[simp] theorem State.later_reserved (s : State) (is : List Instr) : (s.later is).reserved = s.reserved := rfl
@[simp] theorem State.later_resets (s : State) (is : List Instr) : (s.later is).resets = s.resets := rfl
@[simp] theorem State.later_reading (s : State) (is : List Instr) : (s.later is).reading = s.reading := rfl
@[simp] theorem State.later_warned (s : State) (is : List Instr) : (s.later is).warned = s.warned := rfl
@[simp] theorem State.later_sigGone (s : State) (is : List Instr) : (s.later is).sigGone = s.sigGone := rfl
@[simp] theorem State.later_tries (s : State) (is : List Instr) : (s.later is).tries = s.tries := rfl
@[simp] theorem State.later_retired (s : State) (is : List Instr) : (s.later is).retired = s.retired := rfl
@[simp] theorem State.later_fwfail (s : State) (is : List Instr) : (s.later is).fwfail = s.fwfail := rfl
@[simp] theorem State.later_cycles (s : State) (is : List Instr) : (s.later is).cycles = s.cycles := rfl
@[simp] theorem State.later_cyclesTold (s : State) (is : List Instr) : (s.later is).cyclesTold = s.cyclesTold := rfl
@[simp] theorem State.later_hostAnswer (s : State) (is : List Instr) : (s.later is).hostAnswer = s.hostAnswer := rfl
@[simp] theorem State.later_fabAnswer (s : State) (is : List Instr) : (s.later is).fabAnswer = s.fabAnswer := rfl
@[simp] theorem State.later_answerMarked (s : State) (is : List Instr) : (s.later is).answerMarked = s.answerMarked := rfl
@[simp] theorem State.later_hostHeld (s : State) (is : List Instr) : (s.later is).hostHeld = s.hostHeld := rfl
@[simp] theorem State.later_snooped (s : State) (is : List Instr) : (s.later is).snooped = s.snooped := rfl
@[simp] theorem State.later_hostLine (s : State) (is : List Instr) : (s.later is).hostLine = s.hostLine := rfl
@[simp] theorem State.later_fabAnswered (s : State) (is : List Instr) : (s.later is).fabAnswered = s.fabAnswered := rfl
@[simp] theorem State.later_remote (s : State) (is : List Instr) : (s.later is).remote = s.remote := rfl
@[simp] theorem State.later_fabOut (s : State) (is : List Instr) : (s.later is).fabOut = s.fabOut := rfl

/-! ## `tick` -/

@[simp] theorem State.tick_clk (s : State) : (s.tick).clk = s.clk := rfl
@[simp] theorem State.tick_mem (s : State) : (s.tick).mem = s.mem := rfl
@[simp] theorem State.tick_poison (s : State) : (s.tick).poison = s.poison := rfl
@[simp] theorem State.tick_lines (s : State) : (s.tick).lines = s.lines := rfl
@[simp] theorem State.tick_slices (s : State) : (s.tick).slices = s.slices := rfl
@[simp] theorem State.tick_cores (s : State) : (s.tick).cores = s.cores := rfl
@[simp] theorem State.tick_tlb (s : State) : (s.tick).tlb = s.tlb := rfl
@[simp] theorem State.tick_csr (s : State) : (s.tick).csr = s.csr := rfl
@[simp] theorem State.tick_dev (s : State) : (s.tick).dev = s.dev := rfl
@[simp] theorem State.tick_teams (s : State) : (s.tick).teams = s.teams := rfl
@[simp] theorem State.tick_launches (s : State) : (s.tick).launches = s.launches := rfl
@[simp] theorem State.tick_contexts (s : State) : (s.tick).contexts = s.contexts := rfl
@[simp] theorem State.tick_queues (s : State) : (s.tick).queues = s.queues := rfl
@[simp] theorem State.tick_ops (s : State) : (s.tick).ops = s.ops := rfl
@[simp] theorem State.tick_monitors (s : State) : (s.tick).monitors = s.monitors := rfl
@[simp] theorem State.tick_relaxed (s : State) : (s.tick).relaxed = s.relaxed := rfl
@[simp] theorem State.tick_groups (s : State) : (s.tick).groups = s.groups := rfl
@[simp] theorem State.tick_pos (s : State) : (s.tick).pos = s.pos := rfl
@[simp] theorem State.tick_agenda (s : State) : (s.tick).agenda = s.agenda := rfl
@[simp] theorem State.tick_phase (s : State) : (s.tick).phase = s.phase := rfl
@[simp] theorem State.tick_accepted (s : State) : (s.tick).accepted = s.accepted := rfl
@[simp] theorem State.tick_units (s : State) : (s.tick).units = s.units := rfl
@[simp] theorem State.tick_fwPts (s : State) : (s.tick).fwPts = s.fwPts := rfl
@[simp] theorem State.tick_harts (s : State) : (s.tick).harts = s.harts := rfl
@[simp] theorem State.tick_nextOp (s : State) : (s.tick).nextOp = s.nextOp := rfl
@[simp] theorem State.tick_kilns (s : State) : (s.tick).kilns = s.kilns := rfl
@[simp] theorem State.tick_senders (s : State) : (s.tick).senders = s.senders := rfl
@[simp] theorem State.tick_fabSent (s : State) : (s.tick).fabSent = s.fabSent := rfl
@[simp] theorem State.tick_fabSince (s : State) : (s.tick).fabSince = s.fabSince := rfl
@[simp] theorem State.tick_fabDone (s : State) : (s.tick).fabDone = s.fabDone := rfl
@[simp] theorem State.tick_markers (s : State) : (s.tick).markers = s.markers := rfl
@[simp] theorem State.tick_ownStores (s : State) : (s.tick).ownStores = s.ownStores := rfl
@[simp] theorem State.tick_nextFab (s : State) : (s.tick).nextFab = s.nextFab := rfl
@[simp] theorem State.tick_fabIn (s : State) : (s.tick).fabIn = s.fabIn := rfl
@[simp] theorem State.tick_fabLost (s : State) : (s.tick).fabLost = s.fabLost := rfl
@[simp] theorem State.tick_toldRefusals (s : State) : (s.tick).toldRefusals = s.toldRefusals := rfl
@[simp] theorem State.tick_walks (s : State) : (s.tick).walks = s.walks := rfl
@[simp] theorem State.tick_asks (s : State) : (s.tick).asks = s.asks := rfl
@[simp] theorem State.tick_sliceGone (s : State) : (s.tick).sliceGone = s.sliceGone := rfl
@[simp] theorem State.tick_bayResets (s : State) : (s.tick).bayResets = s.bayResets := rfl
@[simp] theorem State.tick_softReads (s : State) : (s.tick).softReads = s.softReads := rfl
@[simp] theorem State.tick_blocksGone (s : State) : (s.tick).blocksGone = s.blocksGone := rfl
@[simp] theorem State.tick_lost (s : State) : (s.tick).lost = s.lost := rfl
@[simp] theorem State.tick_raised (s : State) : (s.tick).raised = s.raised := rfl
@[simp] theorem State.tick_holdoff (s : State) : (s.tick).holdoff = s.holdoff := rfl
@[simp] theorem State.tick_msix (s : State) : (s.tick).msix = s.msix := rfl
@[simp] theorem State.tick_svcMsi (s : State) : (s.tick).svcMsi = s.svcMsi := rfl
@[simp] theorem State.tick_qosUse (s : State) : (s.tick).qosUse = s.qosUse := rfl
@[simp] theorem State.tick_qosNext (s : State) : (s.tick).qosNext = s.qosNext := rfl
@[simp] theorem State.tick_programs (s : State) : (s.tick).programs = s.programs := rfl
@[simp] theorem State.tick_installing (s : State) : (s.tick).installing = s.installing := rfl
@[simp] theorem State.tick_nextSent (s : State) : (s.tick).nextSent = s.nextSent := rfl
@[simp] theorem State.tick_hodOff (s : State) : (s.tick).hodOff = s.hodOff := rfl
@[simp] theorem State.tick_hodFaults (s : State) : (s.tick).hodFaults = s.hodFaults := rfl
@[simp] theorem State.tick_meters (s : State) : (s.tick).meters = s.meters := rfl
@[simp] theorem State.tick_activity (s : State) : (s.tick).activity = s.activity := rfl
@[simp] theorem State.tick_enablings (s : State) : (s.tick).enablings = s.enablings := rfl
@[simp] theorem State.tick_checkpoints (s : State) : (s.tick).checkpoints = s.checkpoints := rfl
@[simp] theorem State.tick_sidx (s : State) : (s.tick).sidx = s.sidx := rfl
@[simp] theorem State.tick_sensed (s : State) : (s.tick).sensed = s.sensed := rfl
@[simp] theorem State.tick_reserved (s : State) : (s.tick).reserved = s.reserved := rfl
@[simp] theorem State.tick_resets (s : State) : (s.tick).resets = s.resets := rfl
@[simp] theorem State.tick_reading (s : State) : (s.tick).reading = s.reading := rfl
@[simp] theorem State.tick_warned (s : State) : (s.tick).warned = s.warned := rfl
@[simp] theorem State.tick_sigGone (s : State) : (s.tick).sigGone = s.sigGone := rfl
@[simp] theorem State.tick_tries (s : State) : (s.tick).tries = s.tries := rfl
@[simp] theorem State.tick_retired (s : State) : (s.tick).retired = s.retired := rfl
@[simp] theorem State.tick_fwfail (s : State) : (s.tick).fwfail = s.fwfail := rfl
@[simp] theorem State.tick_cycles (s : State) : (s.tick).cycles = s.cycles := rfl
@[simp] theorem State.tick_cyclesTold (s : State) : (s.tick).cyclesTold = s.cyclesTold := rfl
@[simp] theorem State.tick_hostAnswer (s : State) : (s.tick).hostAnswer = s.hostAnswer := rfl
@[simp] theorem State.tick_fabAnswer (s : State) : (s.tick).fabAnswer = s.fabAnswer := rfl
@[simp] theorem State.tick_answerMarked (s : State) : (s.tick).answerMarked = s.answerMarked := rfl
@[simp] theorem State.tick_hostHeld (s : State) : (s.tick).hostHeld = s.hostHeld := rfl
@[simp] theorem State.tick_snooped (s : State) : (s.tick).snooped = s.snooped := rfl
@[simp] theorem State.tick_hostLine (s : State) : (s.tick).hostLine = s.hostLine := rfl
@[simp] theorem State.tick_fabAnswered (s : State) : (s.tick).fabAnswered = s.fabAnswered := rfl
@[simp] theorem State.tick_remote (s : State) : (s.tick).remote = s.remote := rfl
@[simp] theorem State.tick_fabOut (s : State) : (s.tick).fabOut = s.fabOut := rfl

/-! ## `goTo` -/

@[simp] theorem State.goTo_clk (s : State) (r : TRef) (pc : W32) : (s.goTo r pc).clk = s.clk := rfl
@[simp] theorem State.goTo_mem (s : State) (r : TRef) (pc : W32) : (s.goTo r pc).mem = s.mem := rfl
@[simp] theorem State.goTo_poison (s : State) (r : TRef) (pc : W32) : (s.goTo r pc).poison = s.poison := rfl
@[simp] theorem State.goTo_lines (s : State) (r : TRef) (pc : W32) : (s.goTo r pc).lines = s.lines := rfl
@[simp] theorem State.goTo_slices (s : State) (r : TRef) (pc : W32) : (s.goTo r pc).slices = s.slices := rfl
@[simp] theorem State.goTo_cores (s : State) (r : TRef) (pc : W32) : (s.goTo r pc).cores = s.cores := rfl
@[simp] theorem State.goTo_tlb (s : State) (r : TRef) (pc : W32) : (s.goTo r pc).tlb = s.tlb := rfl
@[simp] theorem State.goTo_csr (s : State) (r : TRef) (pc : W32) : (s.goTo r pc).csr = s.csr := rfl
@[simp] theorem State.goTo_dev (s : State) (r : TRef) (pc : W32) : (s.goTo r pc).dev = s.dev := rfl
@[simp] theorem State.goTo_launches (s : State) (r : TRef) (pc : W32) : (s.goTo r pc).launches = s.launches := rfl
@[simp] theorem State.goTo_contexts (s : State) (r : TRef) (pc : W32) : (s.goTo r pc).contexts = s.contexts := rfl
@[simp] theorem State.goTo_queues (s : State) (r : TRef) (pc : W32) : (s.goTo r pc).queues = s.queues := rfl
@[simp] theorem State.goTo_ops (s : State) (r : TRef) (pc : W32) : (s.goTo r pc).ops = s.ops := rfl
@[simp] theorem State.goTo_monitors (s : State) (r : TRef) (pc : W32) : (s.goTo r pc).monitors = s.monitors := rfl
@[simp] theorem State.goTo_relaxed (s : State) (r : TRef) (pc : W32) : (s.goTo r pc).relaxed = s.relaxed := rfl
@[simp] theorem State.goTo_groups (s : State) (r : TRef) (pc : W32) : (s.goTo r pc).groups = s.groups := rfl
@[simp] theorem State.goTo_pos (s : State) (r : TRef) (pc : W32) : (s.goTo r pc).pos = s.pos := rfl
@[simp] theorem State.goTo_agenda (s : State) (r : TRef) (pc : W32) : (s.goTo r pc).agenda = s.agenda := rfl
@[simp] theorem State.goTo_free (s : State) (r : TRef) (pc : W32) : (s.goTo r pc).free = s.free := rfl
@[simp] theorem State.goTo_phase (s : State) (r : TRef) (pc : W32) : (s.goTo r pc).phase = s.phase := rfl
@[simp] theorem State.goTo_accepted (s : State) (r : TRef) (pc : W32) : (s.goTo r pc).accepted = s.accepted := rfl
@[simp] theorem State.goTo_units (s : State) (r : TRef) (pc : W32) : (s.goTo r pc).units = s.units := rfl
@[simp] theorem State.goTo_fwPts (s : State) (r : TRef) (pc : W32) : (s.goTo r pc).fwPts = s.fwPts := rfl
@[simp] theorem State.goTo_harts (s : State) (r : TRef) (pc : W32) : (s.goTo r pc).harts = s.harts := rfl
@[simp] theorem State.goTo_nextOp (s : State) (r : TRef) (pc : W32) : (s.goTo r pc).nextOp = s.nextOp := rfl
@[simp] theorem State.goTo_kilns (s : State) (r : TRef) (pc : W32) : (s.goTo r pc).kilns = s.kilns := rfl
@[simp] theorem State.goTo_senders (s : State) (r : TRef) (pc : W32) : (s.goTo r pc).senders = s.senders := rfl
@[simp] theorem State.goTo_fabSent (s : State) (r : TRef) (pc : W32) : (s.goTo r pc).fabSent = s.fabSent := rfl
@[simp] theorem State.goTo_fabSince (s : State) (r : TRef) (pc : W32) : (s.goTo r pc).fabSince = s.fabSince := rfl
@[simp] theorem State.goTo_fabDone (s : State) (r : TRef) (pc : W32) : (s.goTo r pc).fabDone = s.fabDone := rfl
@[simp] theorem State.goTo_markers (s : State) (r : TRef) (pc : W32) : (s.goTo r pc).markers = s.markers := rfl
@[simp] theorem State.goTo_ownStores (s : State) (r : TRef) (pc : W32) : (s.goTo r pc).ownStores = s.ownStores := rfl
@[simp] theorem State.goTo_nextFab (s : State) (r : TRef) (pc : W32) : (s.goTo r pc).nextFab = s.nextFab := rfl
@[simp] theorem State.goTo_fabIn (s : State) (r : TRef) (pc : W32) : (s.goTo r pc).fabIn = s.fabIn := rfl
@[simp] theorem State.goTo_fabLost (s : State) (r : TRef) (pc : W32) : (s.goTo r pc).fabLost = s.fabLost := rfl
@[simp] theorem State.goTo_toldRefusals (s : State) (r : TRef) (pc : W32) : (s.goTo r pc).toldRefusals = s.toldRefusals := rfl
@[simp] theorem State.goTo_walks (s : State) (r : TRef) (pc : W32) : (s.goTo r pc).walks = s.walks := rfl
@[simp] theorem State.goTo_asks (s : State) (r : TRef) (pc : W32) : (s.goTo r pc).asks = s.asks := rfl
@[simp] theorem State.goTo_sliceGone (s : State) (r : TRef) (pc : W32) : (s.goTo r pc).sliceGone = s.sliceGone := rfl
@[simp] theorem State.goTo_bayResets (s : State) (r : TRef) (pc : W32) : (s.goTo r pc).bayResets = s.bayResets := rfl
@[simp] theorem State.goTo_softReads (s : State) (r : TRef) (pc : W32) : (s.goTo r pc).softReads = s.softReads := rfl
@[simp] theorem State.goTo_blocksGone (s : State) (r : TRef) (pc : W32) : (s.goTo r pc).blocksGone = s.blocksGone := rfl
@[simp] theorem State.goTo_lost (s : State) (r : TRef) (pc : W32) : (s.goTo r pc).lost = s.lost := rfl
@[simp] theorem State.goTo_raised (s : State) (r : TRef) (pc : W32) : (s.goTo r pc).raised = s.raised := rfl
@[simp] theorem State.goTo_holdoff (s : State) (r : TRef) (pc : W32) : (s.goTo r pc).holdoff = s.holdoff := rfl
@[simp] theorem State.goTo_msix (s : State) (r : TRef) (pc : W32) : (s.goTo r pc).msix = s.msix := rfl
@[simp] theorem State.goTo_svcMsi (s : State) (r : TRef) (pc : W32) : (s.goTo r pc).svcMsi = s.svcMsi := rfl
@[simp] theorem State.goTo_qosUse (s : State) (r : TRef) (pc : W32) : (s.goTo r pc).qosUse = s.qosUse := rfl
@[simp] theorem State.goTo_qosNext (s : State) (r : TRef) (pc : W32) : (s.goTo r pc).qosNext = s.qosNext := rfl
@[simp] theorem State.goTo_programs (s : State) (r : TRef) (pc : W32) : (s.goTo r pc).programs = s.programs := rfl
@[simp] theorem State.goTo_installing (s : State) (r : TRef) (pc : W32) : (s.goTo r pc).installing = s.installing := rfl
@[simp] theorem State.goTo_nextSent (s : State) (r : TRef) (pc : W32) : (s.goTo r pc).nextSent = s.nextSent := rfl
@[simp] theorem State.goTo_hodOff (s : State) (r : TRef) (pc : W32) : (s.goTo r pc).hodOff = s.hodOff := rfl
@[simp] theorem State.goTo_hodFaults (s : State) (r : TRef) (pc : W32) : (s.goTo r pc).hodFaults = s.hodFaults := rfl
@[simp] theorem State.goTo_meters (s : State) (r : TRef) (pc : W32) : (s.goTo r pc).meters = s.meters := rfl
@[simp] theorem State.goTo_activity (s : State) (r : TRef) (pc : W32) : (s.goTo r pc).activity = s.activity := rfl
@[simp] theorem State.goTo_enablings (s : State) (r : TRef) (pc : W32) : (s.goTo r pc).enablings = s.enablings := rfl
@[simp] theorem State.goTo_checkpoints (s : State) (r : TRef) (pc : W32) : (s.goTo r pc).checkpoints = s.checkpoints := rfl
@[simp] theorem State.goTo_sidx (s : State) (r : TRef) (pc : W32) : (s.goTo r pc).sidx = s.sidx := rfl
@[simp] theorem State.goTo_sensed (s : State) (r : TRef) (pc : W32) : (s.goTo r pc).sensed = s.sensed := rfl
@[simp] theorem State.goTo_reserved (s : State) (r : TRef) (pc : W32) : (s.goTo r pc).reserved = s.reserved := rfl
@[simp] theorem State.goTo_resets (s : State) (r : TRef) (pc : W32) : (s.goTo r pc).resets = s.resets := rfl
@[simp] theorem State.goTo_reading (s : State) (r : TRef) (pc : W32) : (s.goTo r pc).reading = s.reading := rfl
@[simp] theorem State.goTo_warned (s : State) (r : TRef) (pc : W32) : (s.goTo r pc).warned = s.warned := rfl
@[simp] theorem State.goTo_sigGone (s : State) (r : TRef) (pc : W32) : (s.goTo r pc).sigGone = s.sigGone := rfl
@[simp] theorem State.goTo_tries (s : State) (r : TRef) (pc : W32) : (s.goTo r pc).tries = s.tries := rfl
@[simp] theorem State.goTo_retired (s : State) (r : TRef) (pc : W32) : (s.goTo r pc).retired = s.retired := rfl
@[simp] theorem State.goTo_fwfail (s : State) (r : TRef) (pc : W32) : (s.goTo r pc).fwfail = s.fwfail := rfl
@[simp] theorem State.goTo_cycles (s : State) (r : TRef) (pc : W32) : (s.goTo r pc).cycles = s.cycles := rfl
@[simp] theorem State.goTo_cyclesTold (s : State) (r : TRef) (pc : W32) : (s.goTo r pc).cyclesTold = s.cyclesTold := rfl
@[simp] theorem State.goTo_hostAnswer (s : State) (r : TRef) (pc : W32) : (s.goTo r pc).hostAnswer = s.hostAnswer := rfl
@[simp] theorem State.goTo_fabAnswer (s : State) (r : TRef) (pc : W32) : (s.goTo r pc).fabAnswer = s.fabAnswer := rfl
@[simp] theorem State.goTo_answerMarked (s : State) (r : TRef) (pc : W32) : (s.goTo r pc).answerMarked = s.answerMarked := rfl
@[simp] theorem State.goTo_hostHeld (s : State) (r : TRef) (pc : W32) : (s.goTo r pc).hostHeld = s.hostHeld := rfl
@[simp] theorem State.goTo_snooped (s : State) (r : TRef) (pc : W32) : (s.goTo r pc).snooped = s.snooped := rfl
@[simp] theorem State.goTo_hostLine (s : State) (r : TRef) (pc : W32) : (s.goTo r pc).hostLine = s.hostLine := rfl
@[simp] theorem State.goTo_fabAnswered (s : State) (r : TRef) (pc : W32) : (s.goTo r pc).fabAnswered = s.fabAnswered := rfl
@[simp] theorem State.goTo_remote (s : State) (r : TRef) (pc : W32) : (s.goTo r pc).remote = s.remote := rfl
@[simp] theorem State.goTo_fabOut (s : State) (r : TRef) (pc : W32) : (s.goTo r pc).fabOut = s.fabOut := rfl

/-! ## `passStall` -/

@[simp] theorem State.passStall_clk (s : State) (r : TRef) (n : Nat) (l : List LateResult) : (s.passStall r n l).clk = s.clk := rfl
@[simp] theorem State.passStall_mem (s : State) (r : TRef) (n : Nat) (l : List LateResult) : (s.passStall r n l).mem = s.mem := rfl
@[simp] theorem State.passStall_poison (s : State) (r : TRef) (n : Nat) (l : List LateResult) : (s.passStall r n l).poison = s.poison := rfl
@[simp] theorem State.passStall_lines (s : State) (r : TRef) (n : Nat) (l : List LateResult) : (s.passStall r n l).lines = s.lines := rfl
@[simp] theorem State.passStall_slices (s : State) (r : TRef) (n : Nat) (l : List LateResult) : (s.passStall r n l).slices = s.slices := rfl
@[simp] theorem State.passStall_cores (s : State) (r : TRef) (n : Nat) (l : List LateResult) : (s.passStall r n l).cores = s.cores := rfl
@[simp] theorem State.passStall_tlb (s : State) (r : TRef) (n : Nat) (l : List LateResult) : (s.passStall r n l).tlb = s.tlb := rfl
@[simp] theorem State.passStall_csr (s : State) (r : TRef) (n : Nat) (l : List LateResult) : (s.passStall r n l).csr = s.csr := rfl
@[simp] theorem State.passStall_dev (s : State) (r : TRef) (n : Nat) (l : List LateResult) : (s.passStall r n l).dev = s.dev := rfl
@[simp] theorem State.passStall_launches (s : State) (r : TRef) (n : Nat) (l : List LateResult) : (s.passStall r n l).launches = s.launches := rfl
@[simp] theorem State.passStall_contexts (s : State) (r : TRef) (n : Nat) (l : List LateResult) : (s.passStall r n l).contexts = s.contexts := rfl
@[simp] theorem State.passStall_queues (s : State) (r : TRef) (n : Nat) (l : List LateResult) : (s.passStall r n l).queues = s.queues := rfl
@[simp] theorem State.passStall_ops (s : State) (r : TRef) (n : Nat) (l : List LateResult) : (s.passStall r n l).ops = s.ops := rfl
@[simp] theorem State.passStall_monitors (s : State) (r : TRef) (n : Nat) (l : List LateResult) : (s.passStall r n l).monitors = s.monitors := rfl
@[simp] theorem State.passStall_relaxed (s : State) (r : TRef) (n : Nat) (l : List LateResult) : (s.passStall r n l).relaxed = s.relaxed := rfl
@[simp] theorem State.passStall_groups (s : State) (r : TRef) (n : Nat) (l : List LateResult) : (s.passStall r n l).groups = s.groups := rfl
@[simp] theorem State.passStall_pos (s : State) (r : TRef) (n : Nat) (l : List LateResult) : (s.passStall r n l).pos = s.pos := rfl
@[simp] theorem State.passStall_agenda (s : State) (r : TRef) (n : Nat) (l : List LateResult) : (s.passStall r n l).agenda = s.agenda := rfl
@[simp] theorem State.passStall_free (s : State) (r : TRef) (n : Nat) (l : List LateResult) : (s.passStall r n l).free = s.free := rfl
@[simp] theorem State.passStall_phase (s : State) (r : TRef) (n : Nat) (l : List LateResult) : (s.passStall r n l).phase = s.phase := rfl
@[simp] theorem State.passStall_accepted (s : State) (r : TRef) (n : Nat) (l : List LateResult) : (s.passStall r n l).accepted = s.accepted := rfl
@[simp] theorem State.passStall_units (s : State) (r : TRef) (n : Nat) (l : List LateResult) : (s.passStall r n l).units = s.units := rfl
@[simp] theorem State.passStall_fwPts (s : State) (r : TRef) (n : Nat) (l : List LateResult) : (s.passStall r n l).fwPts = s.fwPts := rfl
@[simp] theorem State.passStall_harts (s : State) (r : TRef) (n : Nat) (l : List LateResult) : (s.passStall r n l).harts = s.harts := rfl
@[simp] theorem State.passStall_nextOp (s : State) (r : TRef) (n : Nat) (l : List LateResult) : (s.passStall r n l).nextOp = s.nextOp := rfl
@[simp] theorem State.passStall_kilns (s : State) (r : TRef) (n : Nat) (l : List LateResult) : (s.passStall r n l).kilns = s.kilns := rfl
@[simp] theorem State.passStall_senders (s : State) (r : TRef) (n : Nat) (l : List LateResult) : (s.passStall r n l).senders = s.senders := rfl
@[simp] theorem State.passStall_fabSent (s : State) (r : TRef) (n : Nat) (l : List LateResult) : (s.passStall r n l).fabSent = s.fabSent := rfl
@[simp] theorem State.passStall_fabSince (s : State) (r : TRef) (n : Nat) (l : List LateResult) : (s.passStall r n l).fabSince = s.fabSince := rfl
@[simp] theorem State.passStall_fabDone (s : State) (r : TRef) (n : Nat) (l : List LateResult) : (s.passStall r n l).fabDone = s.fabDone := rfl
@[simp] theorem State.passStall_markers (s : State) (r : TRef) (n : Nat) (l : List LateResult) : (s.passStall r n l).markers = s.markers := rfl
@[simp] theorem State.passStall_ownStores (s : State) (r : TRef) (n : Nat) (l : List LateResult) : (s.passStall r n l).ownStores = s.ownStores := rfl
@[simp] theorem State.passStall_nextFab (s : State) (r : TRef) (n : Nat) (l : List LateResult) : (s.passStall r n l).nextFab = s.nextFab := rfl
@[simp] theorem State.passStall_fabIn (s : State) (r : TRef) (n : Nat) (l : List LateResult) : (s.passStall r n l).fabIn = s.fabIn := rfl
@[simp] theorem State.passStall_fabLost (s : State) (r : TRef) (n : Nat) (l : List LateResult) : (s.passStall r n l).fabLost = s.fabLost := rfl
@[simp] theorem State.passStall_toldRefusals (s : State) (r : TRef) (n : Nat) (l : List LateResult) : (s.passStall r n l).toldRefusals = s.toldRefusals := rfl
@[simp] theorem State.passStall_walks (s : State) (r : TRef) (n : Nat) (l : List LateResult) : (s.passStall r n l).walks = s.walks := rfl
@[simp] theorem State.passStall_asks (s : State) (r : TRef) (n : Nat) (l : List LateResult) : (s.passStall r n l).asks = s.asks := rfl
@[simp] theorem State.passStall_sliceGone (s : State) (r : TRef) (n : Nat) (l : List LateResult) : (s.passStall r n l).sliceGone = s.sliceGone := rfl
@[simp] theorem State.passStall_bayResets (s : State) (r : TRef) (n : Nat) (l : List LateResult) : (s.passStall r n l).bayResets = s.bayResets := rfl
@[simp] theorem State.passStall_softReads (s : State) (r : TRef) (n : Nat) (l : List LateResult) : (s.passStall r n l).softReads = s.softReads := rfl
@[simp] theorem State.passStall_blocksGone (s : State) (r : TRef) (n : Nat) (l : List LateResult) : (s.passStall r n l).blocksGone = s.blocksGone := rfl
@[simp] theorem State.passStall_lost (s : State) (r : TRef) (n : Nat) (l : List LateResult) : (s.passStall r n l).lost = s.lost := rfl
@[simp] theorem State.passStall_raised (s : State) (r : TRef) (n : Nat) (l : List LateResult) : (s.passStall r n l).raised = s.raised := rfl
@[simp] theorem State.passStall_holdoff (s : State) (r : TRef) (n : Nat) (l : List LateResult) : (s.passStall r n l).holdoff = s.holdoff := rfl
@[simp] theorem State.passStall_msix (s : State) (r : TRef) (n : Nat) (l : List LateResult) : (s.passStall r n l).msix = s.msix := rfl
@[simp] theorem State.passStall_svcMsi (s : State) (r : TRef) (n : Nat) (l : List LateResult) : (s.passStall r n l).svcMsi = s.svcMsi := rfl
@[simp] theorem State.passStall_qosUse (s : State) (r : TRef) (n : Nat) (l : List LateResult) : (s.passStall r n l).qosUse = s.qosUse := rfl
@[simp] theorem State.passStall_qosNext (s : State) (r : TRef) (n : Nat) (l : List LateResult) : (s.passStall r n l).qosNext = s.qosNext := rfl
@[simp] theorem State.passStall_programs (s : State) (r : TRef) (n : Nat) (l : List LateResult) : (s.passStall r n l).programs = s.programs := rfl
@[simp] theorem State.passStall_installing (s : State) (r : TRef) (n : Nat) (l : List LateResult) : (s.passStall r n l).installing = s.installing := rfl
@[simp] theorem State.passStall_nextSent (s : State) (r : TRef) (n : Nat) (l : List LateResult) : (s.passStall r n l).nextSent = s.nextSent := rfl
@[simp] theorem State.passStall_hodOff (s : State) (r : TRef) (n : Nat) (l : List LateResult) : (s.passStall r n l).hodOff = s.hodOff := rfl
@[simp] theorem State.passStall_hodFaults (s : State) (r : TRef) (n : Nat) (l : List LateResult) : (s.passStall r n l).hodFaults = s.hodFaults := rfl
@[simp] theorem State.passStall_meters (s : State) (r : TRef) (n : Nat) (l : List LateResult) : (s.passStall r n l).meters = s.meters := rfl
@[simp] theorem State.passStall_activity (s : State) (r : TRef) (n : Nat) (l : List LateResult) : (s.passStall r n l).activity = s.activity := rfl
@[simp] theorem State.passStall_enablings (s : State) (r : TRef) (n : Nat) (l : List LateResult) : (s.passStall r n l).enablings = s.enablings := rfl
@[simp] theorem State.passStall_checkpoints (s : State) (r : TRef) (n : Nat) (l : List LateResult) : (s.passStall r n l).checkpoints = s.checkpoints := rfl
@[simp] theorem State.passStall_sidx (s : State) (r : TRef) (n : Nat) (l : List LateResult) : (s.passStall r n l).sidx = s.sidx := rfl
@[simp] theorem State.passStall_sensed (s : State) (r : TRef) (n : Nat) (l : List LateResult) : (s.passStall r n l).sensed = s.sensed := rfl
@[simp] theorem State.passStall_reserved (s : State) (r : TRef) (n : Nat) (l : List LateResult) : (s.passStall r n l).reserved = s.reserved := rfl
@[simp] theorem State.passStall_resets (s : State) (r : TRef) (n : Nat) (l : List LateResult) : (s.passStall r n l).resets = s.resets := rfl
@[simp] theorem State.passStall_reading (s : State) (r : TRef) (n : Nat) (l : List LateResult) : (s.passStall r n l).reading = s.reading := rfl
@[simp] theorem State.passStall_warned (s : State) (r : TRef) (n : Nat) (l : List LateResult) : (s.passStall r n l).warned = s.warned := rfl
@[simp] theorem State.passStall_sigGone (s : State) (r : TRef) (n : Nat) (l : List LateResult) : (s.passStall r n l).sigGone = s.sigGone := rfl
@[simp] theorem State.passStall_tries (s : State) (r : TRef) (n : Nat) (l : List LateResult) : (s.passStall r n l).tries = s.tries := rfl
@[simp] theorem State.passStall_retired (s : State) (r : TRef) (n : Nat) (l : List LateResult) : (s.passStall r n l).retired = s.retired := rfl
@[simp] theorem State.passStall_fwfail (s : State) (r : TRef) (n : Nat) (l : List LateResult) : (s.passStall r n l).fwfail = s.fwfail := rfl
@[simp] theorem State.passStall_cycles (s : State) (r : TRef) (n : Nat) (l : List LateResult) : (s.passStall r n l).cycles = s.cycles := rfl
@[simp] theorem State.passStall_cyclesTold (s : State) (r : TRef) (n : Nat) (l : List LateResult) : (s.passStall r n l).cyclesTold = s.cyclesTold := rfl
@[simp] theorem State.passStall_hostAnswer (s : State) (r : TRef) (n : Nat) (l : List LateResult) : (s.passStall r n l).hostAnswer = s.hostAnswer := rfl
@[simp] theorem State.passStall_fabAnswer (s : State) (r : TRef) (n : Nat) (l : List LateResult) : (s.passStall r n l).fabAnswer = s.fabAnswer := rfl
@[simp] theorem State.passStall_answerMarked (s : State) (r : TRef) (n : Nat) (l : List LateResult) : (s.passStall r n l).answerMarked = s.answerMarked := rfl
@[simp] theorem State.passStall_hostHeld (s : State) (r : TRef) (n : Nat) (l : List LateResult) : (s.passStall r n l).hostHeld = s.hostHeld := rfl
@[simp] theorem State.passStall_snooped (s : State) (r : TRef) (n : Nat) (l : List LateResult) : (s.passStall r n l).snooped = s.snooped := rfl
@[simp] theorem State.passStall_hostLine (s : State) (r : TRef) (n : Nat) (l : List LateResult) : (s.passStall r n l).hostLine = s.hostLine := rfl
@[simp] theorem State.passStall_fabAnswered (s : State) (r : TRef) (n : Nat) (l : List LateResult) : (s.passStall r n l).fabAnswered = s.fabAnswered := rfl
@[simp] theorem State.passStall_remote (s : State) (r : TRef) (n : Nat) (l : List LateResult) : (s.passStall r n l).remote = s.remote := rfl
@[simp] theorem State.passStall_fabOut (s : State) (r : TRef) (n : Nat) (l : List LateResult) : (s.passStall r n l).fabOut = s.fabOut := rfl

/-! ## `block` -/

@[simp] theorem State.block_clk (s : State) (r : TRef) (w : Wait) (pc : W32) : (s.block r w pc).clk = s.clk := rfl
@[simp] theorem State.block_mem (s : State) (r : TRef) (w : Wait) (pc : W32) : (s.block r w pc).mem = s.mem := rfl
@[simp] theorem State.block_poison (s : State) (r : TRef) (w : Wait) (pc : W32) : (s.block r w pc).poison = s.poison := rfl
@[simp] theorem State.block_lines (s : State) (r : TRef) (w : Wait) (pc : W32) : (s.block r w pc).lines = s.lines := rfl
@[simp] theorem State.block_slices (s : State) (r : TRef) (w : Wait) (pc : W32) : (s.block r w pc).slices = s.slices := rfl
@[simp] theorem State.block_cores (s : State) (r : TRef) (w : Wait) (pc : W32) : (s.block r w pc).cores = s.cores := rfl
@[simp] theorem State.block_tlb (s : State) (r : TRef) (w : Wait) (pc : W32) : (s.block r w pc).tlb = s.tlb := rfl
@[simp] theorem State.block_csr (s : State) (r : TRef) (w : Wait) (pc : W32) : (s.block r w pc).csr = s.csr := rfl
@[simp] theorem State.block_dev (s : State) (r : TRef) (w : Wait) (pc : W32) : (s.block r w pc).dev = s.dev := rfl
@[simp] theorem State.block_launches (s : State) (r : TRef) (w : Wait) (pc : W32) : (s.block r w pc).launches = s.launches := rfl
@[simp] theorem State.block_contexts (s : State) (r : TRef) (w : Wait) (pc : W32) : (s.block r w pc).contexts = s.contexts := rfl
@[simp] theorem State.block_queues (s : State) (r : TRef) (w : Wait) (pc : W32) : (s.block r w pc).queues = s.queues := rfl
@[simp] theorem State.block_ops (s : State) (r : TRef) (w : Wait) (pc : W32) : (s.block r w pc).ops = s.ops := rfl
@[simp] theorem State.block_monitors (s : State) (r : TRef) (w : Wait) (pc : W32) : (s.block r w pc).monitors = s.monitors := rfl
@[simp] theorem State.block_relaxed (s : State) (r : TRef) (w : Wait) (pc : W32) : (s.block r w pc).relaxed = s.relaxed := rfl
@[simp] theorem State.block_groups (s : State) (r : TRef) (w : Wait) (pc : W32) : (s.block r w pc).groups = s.groups := rfl
@[simp] theorem State.block_pos (s : State) (r : TRef) (w : Wait) (pc : W32) : (s.block r w pc).pos = s.pos := rfl
@[simp] theorem State.block_agenda (s : State) (r : TRef) (w : Wait) (pc : W32) : (s.block r w pc).agenda = s.agenda := rfl
@[simp] theorem State.block_free (s : State) (r : TRef) (w : Wait) (pc : W32) : (s.block r w pc).free = s.free := rfl
@[simp] theorem State.block_phase (s : State) (r : TRef) (w : Wait) (pc : W32) : (s.block r w pc).phase = s.phase := rfl
@[simp] theorem State.block_accepted (s : State) (r : TRef) (w : Wait) (pc : W32) : (s.block r w pc).accepted = s.accepted := rfl
@[simp] theorem State.block_units (s : State) (r : TRef) (w : Wait) (pc : W32) : (s.block r w pc).units = s.units := rfl
@[simp] theorem State.block_fwPts (s : State) (r : TRef) (w : Wait) (pc : W32) : (s.block r w pc).fwPts = s.fwPts := rfl
@[simp] theorem State.block_harts (s : State) (r : TRef) (w : Wait) (pc : W32) : (s.block r w pc).harts = s.harts := rfl
@[simp] theorem State.block_nextOp (s : State) (r : TRef) (w : Wait) (pc : W32) : (s.block r w pc).nextOp = s.nextOp := rfl
@[simp] theorem State.block_kilns (s : State) (r : TRef) (w : Wait) (pc : W32) : (s.block r w pc).kilns = s.kilns := rfl
@[simp] theorem State.block_senders (s : State) (r : TRef) (w : Wait) (pc : W32) : (s.block r w pc).senders = s.senders := rfl
@[simp] theorem State.block_fabSent (s : State) (r : TRef) (w : Wait) (pc : W32) : (s.block r w pc).fabSent = s.fabSent := rfl
@[simp] theorem State.block_fabSince (s : State) (r : TRef) (w : Wait) (pc : W32) : (s.block r w pc).fabSince = s.fabSince := rfl
@[simp] theorem State.block_fabDone (s : State) (r : TRef) (w : Wait) (pc : W32) : (s.block r w pc).fabDone = s.fabDone := rfl
@[simp] theorem State.block_markers (s : State) (r : TRef) (w : Wait) (pc : W32) : (s.block r w pc).markers = s.markers := rfl
@[simp] theorem State.block_ownStores (s : State) (r : TRef) (w : Wait) (pc : W32) : (s.block r w pc).ownStores = s.ownStores := rfl
@[simp] theorem State.block_nextFab (s : State) (r : TRef) (w : Wait) (pc : W32) : (s.block r w pc).nextFab = s.nextFab := rfl
@[simp] theorem State.block_fabIn (s : State) (r : TRef) (w : Wait) (pc : W32) : (s.block r w pc).fabIn = s.fabIn := rfl
@[simp] theorem State.block_fabLost (s : State) (r : TRef) (w : Wait) (pc : W32) : (s.block r w pc).fabLost = s.fabLost := rfl
@[simp] theorem State.block_toldRefusals (s : State) (r : TRef) (w : Wait) (pc : W32) : (s.block r w pc).toldRefusals = s.toldRefusals := rfl
@[simp] theorem State.block_walks (s : State) (r : TRef) (w : Wait) (pc : W32) : (s.block r w pc).walks = s.walks := rfl
@[simp] theorem State.block_asks (s : State) (r : TRef) (w : Wait) (pc : W32) : (s.block r w pc).asks = s.asks := rfl
@[simp] theorem State.block_sliceGone (s : State) (r : TRef) (w : Wait) (pc : W32) : (s.block r w pc).sliceGone = s.sliceGone := rfl
@[simp] theorem State.block_bayResets (s : State) (r : TRef) (w : Wait) (pc : W32) : (s.block r w pc).bayResets = s.bayResets := rfl
@[simp] theorem State.block_softReads (s : State) (r : TRef) (w : Wait) (pc : W32) : (s.block r w pc).softReads = s.softReads := rfl
@[simp] theorem State.block_blocksGone (s : State) (r : TRef) (w : Wait) (pc : W32) : (s.block r w pc).blocksGone = s.blocksGone := rfl
@[simp] theorem State.block_lost (s : State) (r : TRef) (w : Wait) (pc : W32) : (s.block r w pc).lost = s.lost := rfl
@[simp] theorem State.block_raised (s : State) (r : TRef) (w : Wait) (pc : W32) : (s.block r w pc).raised = s.raised := rfl
@[simp] theorem State.block_holdoff (s : State) (r : TRef) (w : Wait) (pc : W32) : (s.block r w pc).holdoff = s.holdoff := rfl
@[simp] theorem State.block_msix (s : State) (r : TRef) (w : Wait) (pc : W32) : (s.block r w pc).msix = s.msix := rfl
@[simp] theorem State.block_svcMsi (s : State) (r : TRef) (w : Wait) (pc : W32) : (s.block r w pc).svcMsi = s.svcMsi := rfl
@[simp] theorem State.block_qosUse (s : State) (r : TRef) (w : Wait) (pc : W32) : (s.block r w pc).qosUse = s.qosUse := rfl
@[simp] theorem State.block_qosNext (s : State) (r : TRef) (w : Wait) (pc : W32) : (s.block r w pc).qosNext = s.qosNext := rfl
@[simp] theorem State.block_programs (s : State) (r : TRef) (w : Wait) (pc : W32) : (s.block r w pc).programs = s.programs := rfl
@[simp] theorem State.block_installing (s : State) (r : TRef) (w : Wait) (pc : W32) : (s.block r w pc).installing = s.installing := rfl
@[simp] theorem State.block_nextSent (s : State) (r : TRef) (w : Wait) (pc : W32) : (s.block r w pc).nextSent = s.nextSent := rfl
@[simp] theorem State.block_hodOff (s : State) (r : TRef) (w : Wait) (pc : W32) : (s.block r w pc).hodOff = s.hodOff := rfl
@[simp] theorem State.block_hodFaults (s : State) (r : TRef) (w : Wait) (pc : W32) : (s.block r w pc).hodFaults = s.hodFaults := rfl
@[simp] theorem State.block_meters (s : State) (r : TRef) (w : Wait) (pc : W32) : (s.block r w pc).meters = s.meters := rfl
@[simp] theorem State.block_activity (s : State) (r : TRef) (w : Wait) (pc : W32) : (s.block r w pc).activity = s.activity := rfl
@[simp] theorem State.block_enablings (s : State) (r : TRef) (w : Wait) (pc : W32) : (s.block r w pc).enablings = s.enablings := rfl
@[simp] theorem State.block_checkpoints (s : State) (r : TRef) (w : Wait) (pc : W32) : (s.block r w pc).checkpoints = s.checkpoints := rfl
@[simp] theorem State.block_sidx (s : State) (r : TRef) (w : Wait) (pc : W32) : (s.block r w pc).sidx = s.sidx := rfl
@[simp] theorem State.block_sensed (s : State) (r : TRef) (w : Wait) (pc : W32) : (s.block r w pc).sensed = s.sensed := rfl
@[simp] theorem State.block_reserved (s : State) (r : TRef) (w : Wait) (pc : W32) : (s.block r w pc).reserved = s.reserved := rfl
@[simp] theorem State.block_resets (s : State) (r : TRef) (w : Wait) (pc : W32) : (s.block r w pc).resets = s.resets := rfl
@[simp] theorem State.block_reading (s : State) (r : TRef) (w : Wait) (pc : W32) : (s.block r w pc).reading = s.reading := rfl
@[simp] theorem State.block_warned (s : State) (r : TRef) (w : Wait) (pc : W32) : (s.block r w pc).warned = s.warned := rfl
@[simp] theorem State.block_sigGone (s : State) (r : TRef) (w : Wait) (pc : W32) : (s.block r w pc).sigGone = s.sigGone := rfl
@[simp] theorem State.block_tries (s : State) (r : TRef) (w : Wait) (pc : W32) : (s.block r w pc).tries = s.tries := rfl
@[simp] theorem State.block_retired (s : State) (r : TRef) (w : Wait) (pc : W32) : (s.block r w pc).retired = s.retired := rfl
@[simp] theorem State.block_fwfail (s : State) (r : TRef) (w : Wait) (pc : W32) : (s.block r w pc).fwfail = s.fwfail := rfl
@[simp] theorem State.block_cycles (s : State) (r : TRef) (w : Wait) (pc : W32) : (s.block r w pc).cycles = s.cycles := rfl
@[simp] theorem State.block_cyclesTold (s : State) (r : TRef) (w : Wait) (pc : W32) : (s.block r w pc).cyclesTold = s.cyclesTold := rfl
@[simp] theorem State.block_hostAnswer (s : State) (r : TRef) (w : Wait) (pc : W32) : (s.block r w pc).hostAnswer = s.hostAnswer := rfl
@[simp] theorem State.block_fabAnswer (s : State) (r : TRef) (w : Wait) (pc : W32) : (s.block r w pc).fabAnswer = s.fabAnswer := rfl
@[simp] theorem State.block_answerMarked (s : State) (r : TRef) (w : Wait) (pc : W32) : (s.block r w pc).answerMarked = s.answerMarked := rfl
@[simp] theorem State.block_hostHeld (s : State) (r : TRef) (w : Wait) (pc : W32) : (s.block r w pc).hostHeld = s.hostHeld := rfl
@[simp] theorem State.block_snooped (s : State) (r : TRef) (w : Wait) (pc : W32) : (s.block r w pc).snooped = s.snooped := rfl
@[simp] theorem State.block_hostLine (s : State) (r : TRef) (w : Wait) (pc : W32) : (s.block r w pc).hostLine = s.hostLine := rfl
@[simp] theorem State.block_fabAnswered (s : State) (r : TRef) (w : Wait) (pc : W32) : (s.block r w pc).fabAnswered = s.fabAnswered := rfl
@[simp] theorem State.block_remote (s : State) (r : TRef) (w : Wait) (pc : W32) : (s.block r w pc).remote = s.remote := rfl
@[simp] theorem State.block_fabOut (s : State) (r : TRef) (w : Wait) (pc : W32) : (s.block r w pc).fabOut = s.fabOut := rfl

/-! ## `advance` -/

theorem State.advance_eq (s : State) : ∃ g p, s.advance = { s with groups := g, pos := p } := by
  unfold State.advance
  split
  · exact ⟨s.groups, s.pos, rfl⟩
  · split <;> exact ⟨_, _, rfl⟩

@[simp] theorem State.advance_clk (s : State) : s.advance.clk = s.clk := by obtain ⟨_, _, h⟩ := s.advance_eq; rw [h]
@[simp] theorem State.advance_mem (s : State) : s.advance.mem = s.mem := by obtain ⟨_, _, h⟩ := s.advance_eq; rw [h]
@[simp] theorem State.advance_poison (s : State) : s.advance.poison = s.poison := by obtain ⟨_, _, h⟩ := s.advance_eq; rw [h]
@[simp] theorem State.advance_lines (s : State) : s.advance.lines = s.lines := by obtain ⟨_, _, h⟩ := s.advance_eq; rw [h]
@[simp] theorem State.advance_slices (s : State) : s.advance.slices = s.slices := by obtain ⟨_, _, h⟩ := s.advance_eq; rw [h]
@[simp] theorem State.advance_cores (s : State) : s.advance.cores = s.cores := by obtain ⟨_, _, h⟩ := s.advance_eq; rw [h]
@[simp] theorem State.advance_tlb (s : State) : s.advance.tlb = s.tlb := by obtain ⟨_, _, h⟩ := s.advance_eq; rw [h]
@[simp] theorem State.advance_csr (s : State) : s.advance.csr = s.csr := by obtain ⟨_, _, h⟩ := s.advance_eq; rw [h]
@[simp] theorem State.advance_dev (s : State) : s.advance.dev = s.dev := by obtain ⟨_, _, h⟩ := s.advance_eq; rw [h]
@[simp] theorem State.advance_teams (s : State) : s.advance.teams = s.teams := by obtain ⟨_, _, h⟩ := s.advance_eq; rw [h]
@[simp] theorem State.advance_launches (s : State) : s.advance.launches = s.launches := by obtain ⟨_, _, h⟩ := s.advance_eq; rw [h]
@[simp] theorem State.advance_contexts (s : State) : s.advance.contexts = s.contexts := by obtain ⟨_, _, h⟩ := s.advance_eq; rw [h]
@[simp] theorem State.advance_queues (s : State) : s.advance.queues = s.queues := by obtain ⟨_, _, h⟩ := s.advance_eq; rw [h]
@[simp] theorem State.advance_ops (s : State) : s.advance.ops = s.ops := by obtain ⟨_, _, h⟩ := s.advance_eq; rw [h]
@[simp] theorem State.advance_monitors (s : State) : s.advance.monitors = s.monitors := by obtain ⟨_, _, h⟩ := s.advance_eq; rw [h]
@[simp] theorem State.advance_relaxed (s : State) : s.advance.relaxed = s.relaxed := by obtain ⟨_, _, h⟩ := s.advance_eq; rw [h]
@[simp] theorem State.advance_agenda (s : State) : s.advance.agenda = s.agenda := by obtain ⟨_, _, h⟩ := s.advance_eq; rw [h]
@[simp] theorem State.advance_free (s : State) : s.advance.free = s.free := by obtain ⟨_, _, h⟩ := s.advance_eq; rw [h]
@[simp] theorem State.advance_phase (s : State) : s.advance.phase = s.phase := by obtain ⟨_, _, h⟩ := s.advance_eq; rw [h]
@[simp] theorem State.advance_accepted (s : State) : s.advance.accepted = s.accepted := by obtain ⟨_, _, h⟩ := s.advance_eq; rw [h]
@[simp] theorem State.advance_units (s : State) : s.advance.units = s.units := by obtain ⟨_, _, h⟩ := s.advance_eq; rw [h]
@[simp] theorem State.advance_fwPts (s : State) : s.advance.fwPts = s.fwPts := by obtain ⟨_, _, h⟩ := s.advance_eq; rw [h]
@[simp] theorem State.advance_harts (s : State) : s.advance.harts = s.harts := by obtain ⟨_, _, h⟩ := s.advance_eq; rw [h]
@[simp] theorem State.advance_nextOp (s : State) : s.advance.nextOp = s.nextOp := by obtain ⟨_, _, h⟩ := s.advance_eq; rw [h]
@[simp] theorem State.advance_kilns (s : State) : s.advance.kilns = s.kilns := by obtain ⟨_, _, h⟩ := s.advance_eq; rw [h]
@[simp] theorem State.advance_senders (s : State) : s.advance.senders = s.senders := by obtain ⟨_, _, h⟩ := s.advance_eq; rw [h]
@[simp] theorem State.advance_fabSent (s : State) : s.advance.fabSent = s.fabSent := by obtain ⟨_, _, h⟩ := s.advance_eq; rw [h]
@[simp] theorem State.advance_fabSince (s : State) : s.advance.fabSince = s.fabSince := by obtain ⟨_, _, h⟩ := s.advance_eq; rw [h]
@[simp] theorem State.advance_fabDone (s : State) : s.advance.fabDone = s.fabDone := by obtain ⟨_, _, h⟩ := s.advance_eq; rw [h]
@[simp] theorem State.advance_markers (s : State) : s.advance.markers = s.markers := by obtain ⟨_, _, h⟩ := s.advance_eq; rw [h]
@[simp] theorem State.advance_ownStores (s : State) : s.advance.ownStores = s.ownStores := by obtain ⟨_, _, h⟩ := s.advance_eq; rw [h]
@[simp] theorem State.advance_nextFab (s : State) : s.advance.nextFab = s.nextFab := by obtain ⟨_, _, h⟩ := s.advance_eq; rw [h]
@[simp] theorem State.advance_fabIn (s : State) : s.advance.fabIn = s.fabIn := by obtain ⟨_, _, h⟩ := s.advance_eq; rw [h]
@[simp] theorem State.advance_fabLost (s : State) : s.advance.fabLost = s.fabLost := by obtain ⟨_, _, h⟩ := s.advance_eq; rw [h]
@[simp] theorem State.advance_toldRefusals (s : State) : s.advance.toldRefusals = s.toldRefusals := by obtain ⟨_, _, h⟩ := s.advance_eq; rw [h]
@[simp] theorem State.advance_walks (s : State) : s.advance.walks = s.walks := by obtain ⟨_, _, h⟩ := s.advance_eq; rw [h]
@[simp] theorem State.advance_asks (s : State) : s.advance.asks = s.asks := by obtain ⟨_, _, h⟩ := s.advance_eq; rw [h]
@[simp] theorem State.advance_sliceGone (s : State) : s.advance.sliceGone = s.sliceGone := by obtain ⟨_, _, h⟩ := s.advance_eq; rw [h]
@[simp] theorem State.advance_bayResets (s : State) : s.advance.bayResets = s.bayResets := by obtain ⟨_, _, h⟩ := s.advance_eq; rw [h]
@[simp] theorem State.advance_softReads (s : State) : s.advance.softReads = s.softReads := by obtain ⟨_, _, h⟩ := s.advance_eq; rw [h]
@[simp] theorem State.advance_blocksGone (s : State) : s.advance.blocksGone = s.blocksGone := by obtain ⟨_, _, h⟩ := s.advance_eq; rw [h]
@[simp] theorem State.advance_lost (s : State) : s.advance.lost = s.lost := by obtain ⟨_, _, h⟩ := s.advance_eq; rw [h]
@[simp] theorem State.advance_raised (s : State) : s.advance.raised = s.raised := by obtain ⟨_, _, h⟩ := s.advance_eq; rw [h]
@[simp] theorem State.advance_holdoff (s : State) : s.advance.holdoff = s.holdoff := by obtain ⟨_, _, h⟩ := s.advance_eq; rw [h]
@[simp] theorem State.advance_msix (s : State) : s.advance.msix = s.msix := by obtain ⟨_, _, h⟩ := s.advance_eq; rw [h]
@[simp] theorem State.advance_svcMsi (s : State) : s.advance.svcMsi = s.svcMsi := by obtain ⟨_, _, h⟩ := s.advance_eq; rw [h]
@[simp] theorem State.advance_qosUse (s : State) : s.advance.qosUse = s.qosUse := by obtain ⟨_, _, h⟩ := s.advance_eq; rw [h]
@[simp] theorem State.advance_qosNext (s : State) : s.advance.qosNext = s.qosNext := by obtain ⟨_, _, h⟩ := s.advance_eq; rw [h]
@[simp] theorem State.advance_programs (s : State) : s.advance.programs = s.programs := by obtain ⟨_, _, h⟩ := s.advance_eq; rw [h]
@[simp] theorem State.advance_installing (s : State) : s.advance.installing = s.installing := by obtain ⟨_, _, h⟩ := s.advance_eq; rw [h]
@[simp] theorem State.advance_nextSent (s : State) : s.advance.nextSent = s.nextSent := by obtain ⟨_, _, h⟩ := s.advance_eq; rw [h]
@[simp] theorem State.advance_hodOff (s : State) : s.advance.hodOff = s.hodOff := by obtain ⟨_, _, h⟩ := s.advance_eq; rw [h]
@[simp] theorem State.advance_hodFaults (s : State) : s.advance.hodFaults = s.hodFaults := by obtain ⟨_, _, h⟩ := s.advance_eq; rw [h]
@[simp] theorem State.advance_meters (s : State) : s.advance.meters = s.meters := by obtain ⟨_, _, h⟩ := s.advance_eq; rw [h]
@[simp] theorem State.advance_activity (s : State) : s.advance.activity = s.activity := by obtain ⟨_, _, h⟩ := s.advance_eq; rw [h]
@[simp] theorem State.advance_enablings (s : State) : s.advance.enablings = s.enablings := by obtain ⟨_, _, h⟩ := s.advance_eq; rw [h]
@[simp] theorem State.advance_checkpoints (s : State) : s.advance.checkpoints = s.checkpoints := by obtain ⟨_, _, h⟩ := s.advance_eq; rw [h]
@[simp] theorem State.advance_sidx (s : State) : s.advance.sidx = s.sidx := by obtain ⟨_, _, h⟩ := s.advance_eq; rw [h]
@[simp] theorem State.advance_sensed (s : State) : s.advance.sensed = s.sensed := by obtain ⟨_, _, h⟩ := s.advance_eq; rw [h]
@[simp] theorem State.advance_reserved (s : State) : s.advance.reserved = s.reserved := by obtain ⟨_, _, h⟩ := s.advance_eq; rw [h]
@[simp] theorem State.advance_resets (s : State) : s.advance.resets = s.resets := by obtain ⟨_, _, h⟩ := s.advance_eq; rw [h]
@[simp] theorem State.advance_reading (s : State) : s.advance.reading = s.reading := by obtain ⟨_, _, h⟩ := s.advance_eq; rw [h]
@[simp] theorem State.advance_warned (s : State) : s.advance.warned = s.warned := by obtain ⟨_, _, h⟩ := s.advance_eq; rw [h]
@[simp] theorem State.advance_sigGone (s : State) : s.advance.sigGone = s.sigGone := by obtain ⟨_, _, h⟩ := s.advance_eq; rw [h]
@[simp] theorem State.advance_tries (s : State) : s.advance.tries = s.tries := by obtain ⟨_, _, h⟩ := s.advance_eq; rw [h]
@[simp] theorem State.advance_retired (s : State) : s.advance.retired = s.retired := by obtain ⟨_, _, h⟩ := s.advance_eq; rw [h]
@[simp] theorem State.advance_fwfail (s : State) : s.advance.fwfail = s.fwfail := by obtain ⟨_, _, h⟩ := s.advance_eq; rw [h]
@[simp] theorem State.advance_cycles (s : State) : s.advance.cycles = s.cycles := by obtain ⟨_, _, h⟩ := s.advance_eq; rw [h]
@[simp] theorem State.advance_cyclesTold (s : State) : s.advance.cyclesTold = s.cyclesTold := by obtain ⟨_, _, h⟩ := s.advance_eq; rw [h]
@[simp] theorem State.advance_hostAnswer (s : State) : s.advance.hostAnswer = s.hostAnswer := by obtain ⟨_, _, h⟩ := s.advance_eq; rw [h]
@[simp] theorem State.advance_fabAnswer (s : State) : s.advance.fabAnswer = s.fabAnswer := by obtain ⟨_, _, h⟩ := s.advance_eq; rw [h]
@[simp] theorem State.advance_answerMarked (s : State) : s.advance.answerMarked = s.answerMarked := by obtain ⟨_, _, h⟩ := s.advance_eq; rw [h]
@[simp] theorem State.advance_hostHeld (s : State) : s.advance.hostHeld = s.hostHeld := by obtain ⟨_, _, h⟩ := s.advance_eq; rw [h]
@[simp] theorem State.advance_snooped (s : State) : s.advance.snooped = s.snooped := by obtain ⟨_, _, h⟩ := s.advance_eq; rw [h]
@[simp] theorem State.advance_hostLine (s : State) : s.advance.hostLine = s.hostLine := by obtain ⟨_, _, h⟩ := s.advance_eq; rw [h]
@[simp] theorem State.advance_fabAnswered (s : State) : s.advance.fabAnswered = s.fabAnswered := by obtain ⟨_, _, h⟩ := s.advance_eq; rw [h]
@[simp] theorem State.advance_remote (s : State) : s.advance.remote = s.remote := by obtain ⟨_, _, h⟩ := s.advance_eq; rw [h]
@[simp] theorem State.advance_fabOut (s : State) : s.advance.fabOut = s.fabOut := by obtain ⟨_, _, h⟩ := s.advance_eq; rw [h]

/-! ## Teams and threads -/

@[simp] theorem State.later_team (s : State) (is : List Instr) (i : Nat) : (s.later is).team i = s.team i := rfl
@[simp] theorem State.later_thread (s : State) (is : List Instr) (r : TRef) : (s.later is).thread r = s.thread r := rfl
@[simp] theorem State.tick_team (s : State) (i : Nat) : s.tick.team i = s.team i := rfl
@[simp] theorem State.tick_thread (s : State) (r : TRef) : s.tick.thread r = s.thread r := rfl
@[simp] theorem State.advance_team (s : State) (i : Nat) : s.advance.team i = s.team i := by simp [State.team]
@[simp] theorem State.advance_thread (s : State) (r : TRef) : s.advance.thread r = s.thread r := by simp [State.thread]

@[simp] theorem State.modTeam_team_same (s : State) (i : Nat) (f : Team → Team) : (s.modTeam i f).team i = (s.team i).map f := by
  simp [State.team, State.modTeam]
theorem State.modTeam_team_other (s : State) {i j : Nat} (f : Team → Team) (h : j ≠ i) : (s.modTeam i f).team j = s.team j := by
  simp [State.team, State.modTeam, h.symm]
theorem State.modThread_team_same (s : State) (r : TRef) (f : Thread → Thread) :
    (s.modThread r f).team r.team = (s.team r.team).map fun tm => tm.modThread r.tid f := State.modTeam_team_same s r.team _
theorem State.modThread_team_other (s : State) (r : TRef) {j : Nat} (f : Thread → Thread) (h : j ≠ r.team) :
    (s.modThread r f).team j = s.team j := State.modTeam_team_other s _ h
@[simp] theorem State.modThread_thread_same (s : State) (r : TRef) (f : Thread → Thread) :
    (s.modThread r f).thread r = (s.thread r).map f := by
  simp only [State.thread, State.modThread_team_same]
  cases s.team r.team <;> simp [Team.modThread]
theorem State.modThread_thread_other (s : State) {r u : TRef} (f : Thread → Thread) (h : u ≠ r) :
    (s.modThread r f).thread u = s.thread u := by
  simp only [State.thread]
  by_cases ht : u.team = r.team
  · have hk : u.tid ≠ r.tid := fun hk => h (by cases u; cases r; simp_all)
    rw [ht, State.modThread_team_same]
    cases s.team r.team <;> simp [Team.modThread, hk.symm]
  · rw [State.modThread_team_other s r f ht]
/-- A change of a team's own figures leaves its threads alone. -/
theorem State.modTeam_thread (s : State) (i : Nat) (f : Team → Team) (hf : ∀ tm, (f tm).threads = tm.threads) (r : TRef) :
    (s.modTeam i f).thread r = s.thread r := by
  simp only [State.thread]
  by_cases h : r.team = i
  · subst h; rw [State.modTeam_team_same]; cases s.team r.team <;> simp [hf]
  · rw [State.modTeam_team_other s f h]

@[simp] theorem State.modLaunch_team (s : State) (i : Nat) (f : Launch → Launch) (j : Nat) : (s.modLaunch i f).team j = s.team j := rfl
@[simp] theorem State.modLaunch_thread (s : State) (i : Nat) (f : Launch → Launch) (r : TRef) : (s.modLaunch i f).thread r = s.thread r := rfl
@[simp] theorem State.modCore_team (s : State) (i : Nat) (f : Core → Core) (j : Nat) : (s.modCore i f).team j = s.team j := rfl
@[simp] theorem State.modCore_thread (s : State) (i : Nat) (f : Core → Core) (r : TRef) : (s.modCore i f).thread r = s.thread r := rfl
@[simp] theorem State.modSlice_team (s : State) (i : Nat) (f : Slice → Slice) (j : Nat) : (s.modSlice i f).team j = s.team j := rfl
@[simp] theorem State.modSlice_thread (s : State) (i : Nat) (f : Slice → Slice) (r : TRef) : (s.modSlice i f).thread r = s.thread r := rfl

@[simp] theorem State.goTo_thread_same (s : State) (r : TRef) (pc : W32) :
    (s.goTo r pc).thread r = (s.thread r).map fun th => { th with pc } := State.modThread_thread_same s r _
@[simp] theorem State.passStall_thread_same (s : State) (r : TRef) (n : Nat) (l : List LateResult) :
    (s.passStall r n l).thread r = (s.thread r).map fun th => { th with stall := n + 1, idle := 0, late := l ++ passLate th.late (n + 1) } :=
  State.modThread_thread_same s r _
@[simp] theorem State.block_thread_same (s : State) (r : TRef) (w : Wait) (pc : W32) :
    (s.block r w pc).thread r = (s.thread r).map fun th => { th with wait := some { why := w, next := pc, group := (s.clk, s.groups.length) } } := State.modThread_thread_same s r _
theorem State.goTo_thread_other (s : State) {r u : TRef} (pc : W32) (h : u ≠ r) : (s.goTo r pc).thread u = s.thread u :=
  State.modThread_thread_other s _ h
theorem State.passStall_thread_other (s : State) {r u : TRef} (n : Nat) (l : List LateResult) (h : u ≠ r) :
    (s.passStall r n l).thread u = s.thread u := State.modThread_thread_other s _ h
theorem State.block_thread_other (s : State) {r u : TRef} (w : Wait) (pc : W32) (h : u ≠ r) : (s.block r w pc).thread u = s.thread u :=
  State.modThread_thread_other s _ h

end Sys2Proof.Machine
end

