-- ==== Sys2Proof/Laws/Frames.lean ====
section
/-!
SUPPORT. What the shared operations can change, said once for each: the end of waits (`Woken`), the writing of records (`Recorded`), a
store at a physical address, the raising of a vector, the saving of teams. A proof about an event cites these in place of unfolding.
-/
namespace Sys2Proof.Machine

/-- What the end of a wait can change of a thread. -/
def ThreadWoken (a b : Thread) : Prop := ∃ v w pc pts l, b = { a with v := v, wait := w, pc := pc, pts := pts, late := l }
/-- What the end of a wait can change of a team. -/
def TeamWoken (a b : Team) : Prop :=
  ∃ (s : SMap W64) (p : List Nat) (w : Option Nat) (r : Option Nat) (ths : List Thread), b = { a with s := s, sPending := p, waitSince := w, runnable := r, threads := ths }
    ∧ ths.length = a.threads.length ∧ ∀ (i : Nat) (x y : Thread), a.threads[i]? = some x → ths[i]? = some y → ThreadWoken x y
/-- What the end of a wait leaves of a core: its first-level cache, its code, its holder and the reductions of its partitions. -/
def CoreWoken (a b : Core) : Prop := b.l1 = a.l1 ∧ b.code = a.code ∧ b.holder = a.holder ∧ ∀ p, (b.part p).reds = (a.part p).reds
/-- What a write can change of a queue: what the monitor of its wait-value packet has seen. -/
def unwatched (q : Queue) : Queue := { q with watch := none }
/-- What the end of waits can change of the state. -/
def Woken (s t : State) : Prop :=
  ∃ (cores : SMap Core) (teams : List Team) (mons : List Monitor) (ag : List Instr) (rem : List RemoteMonitor) (fo : List (Nat × W64)) (qs : List Queue) (act : SMap Nat),
    t = { s with cores := cores, teams := teams, monitors := mons, agenda := ag, remote := rem, fabOut := fo, queues := qs, activity := act }
    ∧ (∃ l, ag = s.agenda ++ l) ∧ teams.length = s.teams.length
    ∧ (∀ (i : Nat) (x y : Team), s.teams[i]? = some x → teams[i]? = some y → TeamWoken x y)
    ∧ (∀ c, CoreWoken (s.core c) (t.core c)) ∧ qs.map unwatched = s.queues.map unwatched

/-- Nothing need change of a thread. -/
theorem ThreadWoken.refl (a) : ThreadWoken a a := ⟨_, _, _, _, _, rfl⟩
/-- Two changes of a thread by ends of waits are one. -/
theorem ThreadWoken.trans {a b c} (h : ThreadWoken a b) (k : ThreadWoken b c) : ThreadWoken a c := by
  obtain ⟨_, _, _, _, _, rfl⟩ := h; obtain ⟨_, _, _, _, _, rfl⟩ := k; exact ⟨_, _, _, _, _, rfl⟩
/-- Nothing need change of a team. -/
theorem TeamWoken.refl (a) : TeamWoken a a :=
  ⟨_, _, _, _, _, rfl, rfl, fun _ _ _ h k => by rw [h] at k; cases k; exact .refl _⟩
/-- Two changes of a team by ends of waits are one. -/
theorem TeamWoken.trans {a b c} (h : TeamWoken a b) (k : TeamWoken b c) : TeamWoken a c := by
  obtain ⟨_, _, _, _, l1, rfl, e1, f1⟩ := h; obtain ⟨_, _, _, _, l2, rfl, e2, f2⟩ := k
  refine ⟨_, _, _, _, _, rfl, e2.trans e1, fun i x y hx hy => ?_⟩
  have : i < l1.length := by have := (List.getElem?_eq_some_iff.1 hx).1; omega
  exact (f1 i x _ hx (List.getElem?_eq_getElem this)).trans (f2 i _ y (List.getElem?_eq_getElem this) hy)
/-- Nothing need change of a core. -/
theorem CoreWoken.refl (a) : CoreWoken a a := ⟨rfl, rfl, rfl, fun _ => rfl⟩
/-- Two changes of a core by ends of waits are one. -/
theorem CoreWoken.trans {a b c} (h : CoreWoken a b) (k : CoreWoken b c) : CoreWoken a c :=
  ⟨k.1.trans h.1, k.2.1.trans h.2.1, k.2.2.1.trans h.2.2.1, fun p => (k.2.2.2 p).trans (h.2.2.2 p)⟩
/-- The end of no wait changes nothing. -/
theorem Woken.refl (s) : Woken s s :=
  ⟨_, _, _, _, _, _, _, _, rfl, ⟨[], by simp⟩, rfl, fun _ _ _ h k => by rw [h] at k; cases k; exact .refl _, fun _ => .refl _, rfl⟩
/-- The ends of waits compose. -/
theorem Woken.trans {a b c} (h : Woken a b) (k : Woken b c) : Woken a c := by
  obtain ⟨_, l1, _, _, _, _, _, _, rfl, ⟨x, rfl⟩, e1, f1, g1, q1⟩ := h; obtain ⟨_, l2, _, _, _, _, _, _, rfl, ⟨y, rfl⟩, e2, f2, g2, q2⟩ := k
  refine ⟨_, _, _, _, _, _, _, _, rfl, ⟨x ++ y, by simp⟩, e2.trans e1, fun i x y hx hy => ?_, fun c => (g1 c).trans (g2 c), q2.trans q1⟩
  have : i < l1.length := by have := (List.getElem?_eq_some_iff.1 hx).1; omega
  exact (f1 i x _ hx (List.getElem?_eq_getElem this)).trans (f2 i _ y (List.getElem?_eq_getElem this) hy)

/-- Changes beside teams, cores and queues that the end of waits allows. -/
theorem Woken.beside (s : State) (mons ag rem fo qs act) (ha : ∃ l, ag = s.agenda ++ l) (hq : qs.map unwatched = s.queues.map unwatched) :
    Woken s { s with monitors := mons, agenda := ag, remote := rem, fabOut := fo, queues := qs, activity := act } :=
  ⟨_, s.teams, _, _, _, _, _, _, rfl, ha, rfl, fun _ _ _ h k => by rw [h] at k; cases k; exact .refl _, fun _ => .refl _, hq⟩

/-- A change that a team allows is one that the state allows. -/
theorem Woken.modTeam (s : State) (i : Nat) (f : Team → Team) (hf : ∀ a, TeamWoken a (f a)) : Woken s (s.modTeam i f) := by
  refine ⟨_, _, _, _, _, _, _, _, rfl, ⟨[], by simp⟩, by simp, fun j x y hx hy => ?_, fun _ => .refl _, rfl⟩
  rw [List.getElem?_modify, hx] at hy
  split at hy <;> simp at hy <;> subst hy
  · exact hf _
  · exact .refl _

/-- A change that a thread allows is one that its team allows. -/
theorem TeamWoken.modThread (a : Team) (i : Nat) (f : Thread → Thread) (hf : ∀ a, ThreadWoken a (f a)) : TeamWoken a (a.modThread i f) := by
  refine ⟨_, _, _, _, _, rfl, by simp, fun j x y hx hy => ?_⟩
  rw [List.getElem?_modify, hx] at hy
  split at hy <;> simp at hy <;> subst hy
  · exact hf _
  · exact .refl _

/-- A change that a thread allows is one that the state allows. -/
theorem Woken.modThread (s : State) (r : TRef) (f : Thread → Thread) (hf : ∀ a, ThreadWoken a (f a)) : Woken s (s.modThread r f) :=
  .modTeam _ _ _ fun a => .modThread a _ f hf

/-- A changed core reads as changed, every other core as before. -/
theorem core_modCore (s : State) (c d : Nat) (f : Core → Core) : (s.modCore c f).core d = if d = c then f (s.core c) else s.core d := by
  unfold State.core State.modCore SMap.modify
  rw [SMap.get_set]

/-- A change of a partition that leaves its reductions is one that the end of a wait allows. -/
theorem Woken.modPart (s : State) (c p : Nat) (f : Part → Part) (hf : ∀ a, (f a).reds = a.reds) : Woken s (s.modPart c p f) := by
  refine ⟨_, s.teams, _, _, _, _, _, _, rfl, ⟨[], by simp⟩, rfl, fun _ _ _ h k => by rw [h] at k; cases k; exact .refl _, fun d => ?_, rfl⟩
  rw [State.modPart, core_modCore]
  split
  · subst_vars
    refine ⟨rfl, rfl, rfl, fun q => ?_⟩
    simp only [Core.part, SMap.modify, SMap.get_set]
    split
    · subst_vars; exact hf _
    · rfl
  · exact .refl _

/-- An event put on the agenda. -/
theorem Woken.later (s : State) (l) : Woken s (s.later l) := .beside _ _ _ _ _ _ _ ⟨l, rfl⟩ rfl

/-- What entering the pool of runnable teams can change (R317). -/
theorem Woken.enterPool (s : State) (t) : Woken s (s.enterPool t) := by
  unfold State.enterPool
  split; · exact .refl _
  split; · exact .refl _
  simp only []
  split; · exact .refl _
  split
  · exact .modPart _ _ _ _ fun _ => rfl
  · split <;> exact .modPart _ _ _ _ fun _ => rfl

/-- What waking a team can change. -/
theorem Woken.wakeTeam (s : State) (i) : Woken s (s.wakeTeam i) := by
  unfold State.wakeTeam
  split; · exact .refl _
  split
  · refine Woken.trans (.modTeam _ _ _ fun a => ⟨_, _, _, _, _, rfl, rfl, fun _ _ _ h k => by rw [h] at k; cases k; exact .refl _⟩) (.later _ _)
  · exact .refl _

/-- The fields of a team itself that the end of a wait can change. -/
theorem TeamWoken.fields (a : Team) (s p w r) : TeamWoken a { a with s := s, sPending := p, waitSince := w, runnable := r } :=
  ⟨_, _, _, _, _, rfl, rfl, fun _ _ _ h k => by rw [h] at k; cases k; exact .refl _⟩

/-- What resuming a thread at a program counter can change. -/
theorem Woken.resumeAt (s : State) (t pc) : Woken s (s.resumeAt t pc) := by
  unfold State.resumeAt
  refine Woken.trans (Woken.trans (Woken.trans (.modThread _ _ _ ?_) (.modTeam _ _ _ ?_)) (.enterPool _ _)) (.wakeTeam _ _)
  · exact fun a => ⟨_, _, _, _, _, rfl⟩
  · exact fun a => .fields _ _ _ _ _

/-- What resuming a thread can change. -/
theorem Woken.resume (s : State) (t) : Woken s (s.resume t) := by
  unfold State.resume
  split
  · exact .resumeAt _ _ _
  · exact .refl _

/-- What raising a thread timestamp can change. -/
theorem Woken.raisePts (s : State) (t ts) : Woken s (s.raisePts t ts) := .modThread _ _ _ fun _ => ⟨_, _, _, _, _, rfl⟩

/-- What writing the destination of a wait can change. -/
theorem Woken.writeDest (s : State) (t d n w) : Woken s (s.writeDest t d n w) := by
  unfold State.writeDest
  split
  · exact .modThread _ _ _ fun a => ⟨_, _, _, _, _, rfl⟩
  · exact (Woken.modThread _ _ _ fun a => ⟨_, _, _, _, _, rfl⟩).trans (.modTeam _ _ _ fun a => .fields _ _ _ _ _)
  · exact .refl _

/-- A change of the monitors held. -/
theorem Woken.monitors (s : State) (m) : Woken s { s with monitors := m } :=
  .beside _ _ _ _ _ _ _ ⟨[], by simp⟩ rfl

/-- A write leaves a queue, but for what its monitor has seen. -/
theorem unwatched_noteWrite (q : Queue) (mem : Memory) (pa n ts : Nat) : unwatched (q.noteWrite mem pa n ts) = unwatched q := by
  unfold Queue.noteWrite
  split
  · rfl
  · split <;> rfl

/-- What releasing a monitor can change. -/
theorem Woken.release (s : State) (m ts) : Woken s (s.release m ts) := by
  unfold State.release
  exact (Woken.monitors _ _).trans ((Woken.writeDest _ _ _ _ _).trans ((Woken.raisePts _ _ _).trans (.resume _ _)))

/-- Ends of waits, one after another. -/
theorem Woken.foldl {α} (f : State → α → State) (hf : ∀ s a, Woken s (f s a)) (l : List α) (s : State) : Woken s (l.foldl f s) := by
  induction l generalizing s with
  | nil => exact .refl _
  | cons a l ih => exact (hf s a).trans (ih _)

/-- Counting the evaluation of a monitor. -/
theorem Woken.noteEvaluation (s : State) (m) : Woken s (s.noteEvaluation m) := by
  unfold State.noteEvaluation
  split
  · exact .beside _ _ _ _ _ _ _ ⟨[], by simp⟩ rfl
  · exact .refl _

/-- What evaluating the monitors at a location can change. -/
theorem Woken.evaluate (s : State) (l n ts) : Woken s (s.evaluate l n ts) := by
  unfold State.evaluate
  simp only []
  generalize (s.monitors.filter fun m => !m.loc.elsewhere && m.loc.meets m.n l n) = met
  refine ((Woken.foldl State.noteEvaluation Woken.noteEvaluation met s).trans
    (Woken.foldl (fun s m => s.release m ts) (fun s m => Woken.release s m ts) (met.filter (met.foldl State.noteEvaluation s).satisfied) _)).trans ?_
  split
  · refine .beside _ _ _ _ _ _ _ ⟨[], by simp⟩ ?_
    rw [List.map_map]
    exact List.map_congr_left fun q _ => unwatched_noteWrite _ _ _ _ _
  · exact .refl _

/-! ## Stores of firmware -/

/-- What a use of its frames, and the count of requests, leave of a slice. -/
def unframed (l : Slice) : Slice := { l with frames := [], queued := [] }

/-- A changed slice reads as changed, every other slice as before. -/
theorem slice_modSlice (s : State) (c d : Nat) (f : Slice → Slice) : (s.modSlice c f).slice d = if d = c then f (s.slice c) else s.slice d := by
  unfold State.slice State.modSlice SMap.modify
  rw [SMap.get_set]

/-- A slice whose frames one access uses. -/
theorem unframed_use (s : State) (c : Nat) (sb : Nat) (g : Frame → Frame) (k : Nat) :
    unframed ((s.modSlice c fun l => l.use sb g).slice k) = unframed (s.slice k) := by
  rw [slice_modSlice]
  split
  · subst_vars
    unfold Slice.use
    split <;> rfl
  · rfl

/-- What an access at its home can change: timestamps, the frames of slices, the counts of activity, what the host holds, and the agenda. -/
def AtHome (s t : State) : Prop :=
  ∃ l act sl ag hh sn, t = { s with lines := l, activity := act, slices := sl, agenda := ag, hostHeld := hh, snooped := sn }
    ∧ (∃ more, ag = s.agenda ++ more) ∧ ∀ k, unframed (t.slice k) = unframed (s.slice k)

/-- An access that needs no home changes nothing. -/
theorem AtHome.refl (s) : AtHome s s := ⟨_, _, _, _, _, _, rfl, ⟨[], by simp⟩, fun _ => rfl⟩
/-- Accesses compose. -/
theorem AtHome.trans {a b c} (h : AtHome a b) (k : AtHome b c) : AtHome a c := by
  obtain ⟨_, _, _, _, _, _, rfl, ⟨x, rfl⟩, h⟩ := h
  obtain ⟨_, _, _, _, _, _, rfl, ⟨y, rfl⟩, k⟩ := k
  exact ⟨_, _, _, _, _, _, rfl, ⟨x ++ y, by simp⟩, fun i => (k i).trans (h i)⟩
/-- A slice has one request more to serve. -/
theorem AtHome.queueRequest (s : State) (c : Nat) (q : Req) : AtHome s (s.queueRequest c q) := by
  unfold State.queueRequest
  split
  · refine ⟨_, _, _, _, _, _, rfl, ⟨[], by simp⟩, fun k => ?_⟩
    rw [slice_modSlice]
    split
    · subst_vars; rfl
    · rfl
  · exact .refl _
/-- An access reaches its home slice. -/
theorem AtHome.reachL2 (s : State) (l : Loc) (store : Bool) (ts : Nat) (q : Req) : AtHome s (s.reachL2 l store ts q) := by
  have used (u : State) (c sb : Nat) (g : Frame → Frame) (h : AtHome s u) : AtHome s (u.modSlice c fun k => k.use sb g) :=
    h.trans ⟨_, _, _, _, _, _, rfl, ⟨[], by simp⟩, unframed_use u c sb g⟩
  have later (u : State) (l : List Instr) (h : AtHome s u) : AtHome s (u.later l) := h.trans ⟨_, _, _, _, _, _, rfl, ⟨l, rfl⟩, fun _ => rfl⟩
  unfold State.reachL2
  split
  · simp only []
    split
    · exact used _ _ _ _ (.queueRequest _ _ _)
    · exact later _ _ (.queueRequest _ _ _)
  · simp only []
    split
    · exact used _ _ _ _ (.queueRequest _ _ _)
    · exact later _ _ (.queueRequest _ _ _)
  · exact .refl _
/-- A line takes timestamps. -/
theorem AtHome.setLine (s : State) (pa x) : AtHome s (s.setLine pa x) := ⟨_, _, _, _, _, _, rfl, ⟨[], by simp⟩, fun _ => rfl⟩
/-- A line that the host holds is taken back. -/
theorem AtHome.backInvalidate (s : State) (pa) : AtHome s (s.backInvalidate pa) := by
  unfold State.backInvalidate
  split
  · exact ⟨_, _, _, _, _, _, rfl, ⟨[], by simp⟩, fun _ => rfl⟩
  · exact .refl _
/-- R116: a store of an agent without an L1 takes its timestamp. -/
theorem AtHome.storeStamp (s : State) (pts pa : Nat) (q : Req) : AtHome s (s.storeStamp none pts (.phys pa 0) q).1 :=
  ((AtHome.backInvalidate s pa).trans (.setLine _ _ _)).trans (.reachL2 _ (.phys pa 0) true _ q)

/-- An access at its home leaves memory and its marks. -/
theorem AtHome.mem {s t} (h : AtHome s t) : t.mem = s.mem ∧ t.poison = s.poison := by
  obtain ⟨_, _, _, _, _, _, rfl, -⟩ := h
  exact ⟨rfl, rfl⟩

/-- What firmware's pts is stands beside the end of a wait. -/
theorem Woken.withFwPts {s t : State} (h : Woken s t) (fp : Nat) : Woken { s with fwPts := fp } { t with fwPts := fp } := by
  obtain ⟨_, _, _, _, _, _, _, _, rfl, h1, h2, h3, h4, h5⟩ := h
  exact ⟨_, _, _, _, _, _, _, _, rfl, h1, h2, h3, h4, h5⟩

/-- What a store of firmware leaves alone. -/
theorem fwStore_spec (s : State) (pa n w : Nat) (q : Req) :
    ∃ u fp, AtHome s u ∧ Woken { u with mem := s.mem.write pa n w, poison := unmark 16 pa n s.poison, fwPts := fp } (s.fwStore pa n w q) := by
  have h := AtHome.storeStamp s s.fwPts pa q
  refine ⟨_, (s.fwStore pa n w q).fwPts, h, ?_⟩
  rw [← h.mem.1, ← h.mem.2]
  exact (Woken.evaluate ((s.storeStamp none s.fwPts (.phys pa 0) q).1.poke (.phys pa 0) n w) (.phys pa 0) n
    (s.storeStamp none s.fwPts (.phys pa 0) q).2).withFwPts _

/-- Raising a vector. -/
theorem raiseVector_spec (s : State) (ring : Nat) :
    ∃ r h m v ag, s.raiseVector ring = { s with raised := r, holdoff := h, msix := m, svcMsi := v, agenda := ag } ∧ ∃ l, ag = s.agenda ++ l := by
  unfold State.raiseVector
  simp only []
  split
  · split
    · exact ⟨_, _, _, _, _, rfl, [], by simp⟩
    · exact ⟨_, _, _, _, _, rfl, _, rfl⟩
  · unfold State.sendVector
    simp only []
    split
    · exact ⟨_, _, _, _, _, rfl, [], by simp⟩
    · split <;> exact ⟨_, _, _, _, _, rfl, [], by simp⟩

/-- What writing records leaves alone, besides what ends of waits change. -/
def Recorded (s t : State) : Prop :=
  ∃ (l : SMap (Nat × Nat)) (m : Memory) (p : List Nat) (r : SMap Nat) (h x v : List Nat) (cs : List Context)
    (act : SMap Nat) (sl : SMap Slice) (hh : List (Nat × Nat)) (sn : List Nat) (fp : Nat),
    Woken { s with lines := l, mem := m, poison := p, raised := r, holdoff := h, msix := x, svcMsi := v, contexts := cs,
                   activity := act, slices := sl, hostHeld := hh, snooped := sn, fwPts := fp } t
    ∧ cs.map (fun c => ({ c with held := [], dropped := 0 } : Context)) = s.contexts.map (fun c => ({ c with held := [], dropped := 0 } : Context))
    ∧ (∀ k, unframed (SMap.get {} sl k) = unframed (s.slice k))
    ∧ (s.mem.wf = true → m.wf = true)

/-- The end of a wait is within what a record can change. -/
theorem Recorded.woken {s t} (h : Woken s t) : Recorded s t := ⟨_, _, _, _, _, _, _, _, _, s.slices, _, _, _, h, rfl, fun _ => rfl, id⟩
/-- No record changes nothing. -/
theorem Recorded.refl (s) : Recorded s s := .woken (.refl s)
/-- The fields that only records change stand beside the end of a wait. -/
theorem Woken.withFields {s t : State} (h : Woken s t) (l m p r x y v cs act sl hh sn fp) :
    Woken { s with lines := l, mem := m, poison := p, raised := r, holdoff := x, msix := y, svcMsi := v, contexts := cs,
                   activity := act, slices := sl, hostHeld := hh, snooped := sn, fwPts := fp }
      { t with lines := l, mem := m, poison := p, raised := r, holdoff := x, msix := y, svcMsi := v, contexts := cs,
               activity := act, slices := sl, hostHeld := hh, snooped := sn, fwPts := fp } := by
  obtain ⟨_, _, _, _, _, _, _, _, rfl, h1, h2, h3, h4, h5⟩ := h
  exact ⟨_, _, _, _, _, _, _, _, rfl, h1, h2, h3, h4, h5⟩
/-- Records compose. -/
theorem Recorded.trans {a b c} (h : Recorded a b) (k : Recorded b c) : Recorded a c := by
  obtain ⟨l, m, p, r, x, y, v, cs, act, sl, hh, sn, fp, h, e, u, g⟩ := h
  obtain ⟨l', m', p', r', x', y', v', cs', act', sl', hh', sn', fp', k, e', u', g'⟩ := k
  refine ⟨l', m', p', r', x', y', v', cs', act', sl', hh', sn', fp', (h.withFields l' m' p' r' x' y' v' cs' act' sl' hh' sn' fp').trans k,
    e'.trans ?_, fun i => (u' i).trans ?_, ?_⟩ <;>
    obtain ⟨_, _, _, _, _, _, _, _, rfl, -⟩ := h
  · exact e
  · exact u i
  · exact fun w => g' (g w)

/-- A store of firmware. -/
theorem Recorded.fwStore (s : State) (pa n w q) : Recorded s (s.fwStore pa n w q) := by
  obtain ⟨_, fp, ⟨l, act, sl, _, hh, sn, rfl, ⟨ag, rfl⟩, hs⟩, h⟩ := fwStore_spec s pa n w q
  exact ⟨l, _, _, s.raised, s.holdoff, s.msix, s.svcMsi, s.contexts, act, sl, hh, sn, fp, .trans (.later _ ag) h, rfl, hs, Memory.wf_write _ _ _ _⟩
/-- Raising a vector. -/
theorem Recorded.raiseVector (s : State) (ring) : Recorded s (s.raiseVector ring) := by
  obtain ⟨r, h, m, v, _, e, ag, rfl⟩ := raiseVector_spec s ring
  rw [e]
  exact ⟨_, _, _, r, h, m, v, _, _, s.slices, _, _, _, .later _ ag, rfl, fun _ => rfl, id⟩
/-- What writing one record into its ring can change. -/
theorem Recorded.writeRecord (s : State) (ring e) : Recorded s (s.writeRecord ring e) := by
  unfold State.writeRecord
  simp only []
  exact (((((Recorded.fwStore _ _ _ _ _).trans (.fwStore _ _ _ _ _)).trans (.fwStore _ _ _ _ _)).trans (.fwStore _ _ _ _ _)).trans (.fwStore _ _ _ _ _)).trans (.raiseVector _ _)
/-- A change of what a context holds back. -/
theorem Recorded.modContext (s : State) (a : Nat) (f : Context → Context)
    (hf : ∀ c : Context, ({ f c with held := [], dropped := 0 } : Context) = { c with held := [], dropped := 0 }) : Recorded s (s.modContext a f) := by
  refine ⟨_, _, _, _, _, _, _, _, _, s.slices, _, _, _, .refl _, ?_, fun _ => rfl, id⟩
  simp only [List.map_map]
  refine List.map_congr_left fun c _ => ?_
  simp only [Function.comp]
  split
  · exact hf c
  · rfl
/-- What a record to an owner can change. -/
theorem Recorded.recordTo (s : State) (o ring e) : Recorded s (s.recordTo o ring e) := by
  unfold State.recordTo
  split; · exact .refl _
  split
  · split <;> exact .modContext _ _ _ fun _ => rfl
  · exact .writeRecord _ _ _
/-- What a record to the operator can change. -/
theorem Recorded.toOperator (s : State) (k v) : Recorded s (s.toOperator k v) := by
  unfold State.toOperator
  split
  · exact .refl _
  · exact .recordTo _ _ _ _
/-- What recording an event can change. -/
theorem Recorded.record (s : State) (k v) : Recorded s (s.record k v) := by
  unfold State.record
  split
  · exact .refl _
  · exact .recordTo _ _ _ _
/-- Records, one after another. -/
theorem Recorded.foldl {α} (f : State → α → State) (hf : ∀ s a, Recorded s (f s a)) (l : List α) (s : State) : Recorded s (l.foldl f s) := by
  induction l generalizing s with
  | nil => exact .refl _
  | cons a l ih => exact (hf s a).trans (ih _)

/-- A device register reads back the value stored. -/
theorem store_stored (s : State) (pa : Nat) (v : W64) : Dev.stored (Dev.store s pa v) pa = v := by
  simp [Dev.stored, Dev.store]

/-- Storing a device register leaves every other one. -/
theorem store_stored_ne (s : State) (pa pb : Nat) (v : W64) (h : pb ≠ pa) : Dev.stored (Dev.store s pa v) pb = Dev.stored s pb := by
  unfold Dev.stored Dev.store SMap.set
  simp only []
  split
  · exact SMap.get_drop_other _ _ h
  · exact SMap.get_put_other _ _ _ h

/-- A record leaves the phase, the retired cores, the failed firmware, the queues but for what their monitors have seen, the device registers, and of each core its holder and its code. -/
theorem Recorded.phase {s t} (h : Recorded s t) : t.phase = s.phase ∧ t.retired = s.retired ∧ t.fwfail = s.fwfail ∧ t.queues.map unwatched = s.queues.map unwatched ∧ t.dev = s.dev
   ∧ ∀ c, (t.core c).holder = (s.core c).holder ∧ (t.core c).code = (s.core c).code := by
  obtain ⟨l, m, p, r, x, y, v, cs, act, sl, hh, sn, fp, ⟨_, _, _, _, _, _, _, _, rfl, h1, h2, h3, h4, h5⟩, e, -⟩ := h
  exact ⟨rfl, rfl, rfl, h5, rfl, fun c => ⟨(h4 c).2.2.1, (h4 c).2.1⟩⟩

/-- What beginning the save of a unit can change: its teams and the agenda. -/
theorem beginSave_spec (s : State) (i) : ∃ tms ag, s.beginSave i = { s with teams := tms, agenda := s.agenda ++ ag } := by
  unfold State.beginSave
  have : ∀ (l : List Nat) (s : State), ∃ tms, l.foldl (fun (s : State) j => s.modTeam j fun tm => if tm.status = .placed then { tm with saving := true } else tm) s = { s with teams := tms } := by
    intro l; induction l with
    | nil => intro s; exact ⟨s.teams, rfl⟩
    | cons a l ih => intro s; obtain ⟨x, hx⟩ := ih (s.modTeam a fun tm => if tm.status = .placed then { tm with saving := true } else tm); exact ⟨x, by rw [List.foldl_cons, hx]; rfl⟩
  obtain ⟨x, hx⟩ := this (s.unit i) s
  exact ⟨x, [.teamSave i], by rw [hx]; rfl⟩

/-- Saves, one after another. -/
theorem saves_spec {α} (f : State → α → State) (hf : ∀ s a, ∃ tms ag, f s a = { s with teams := tms, agenda := s.agenda ++ ag }) (l : List α) (s : State) :
   ∃ tms ag, l.foldl f s = { s with teams := tms, agenda := s.agenda ++ ag } := by
  induction l generalizing s with
  | nil => exact ⟨s.teams, [], by simp⟩
  | cons a l ih =>
    rw [List.foldl_cons]
    obtain ⟨x', y', h⟩ := hf s a
    obtain ⟨x, y, hx⟩ := ih (f s a)
    rw [hx, h]
    exact ⟨x, y' ++ y, by simp⟩

/-- What emptying a core can change: the teams, the agenda and the holder of that core. -/
theorem emptyCore_spec (s : State) (c) : ∃ tms ag, s.emptyCore c = { s with teams := tms, agenda := s.agenda ++ ag, cores := (s.modCore c fun k => { k with holder := none }).cores } := by
  unfold State.emptyCore
  obtain ⟨x, y, h⟩ := saves_spec (fun (s : State) (i : Nat) => match s.team i with | some tm => if tm.saving then s else s.beginSave i | none => s) (by
    intro s i
    split
    · split
      · exact ⟨s.teams, [], by simp⟩
      · exact beginSave_spec s i
    · exact ⟨s.teams, [], by simp⟩) ((s.residents c).map (·.1)) s
  refine ⟨x, y, ?_⟩
  exact congrArg (fun (u : State) => u.modCore c fun k => { k with holder := none }) h

/-- The end of a wait leaves memory. -/
theorem Woken.mem {s t : State} (h : Woken s t) : t.mem = s.mem := by
  obtain ⟨_, _, _, _, _, _, _, _, rfl, -⟩ := h
  rfl

/-- What a store of firmware makes of memory. -/
theorem fwStore_mem (s : State) (pa n w : Nat) (q : Req) : (s.fwStore pa n w q).mem = s.mem.write pa n w := by
  obtain ⟨_, _, -, h⟩ := fwStore_spec s pa n w q
  exact h.mem

/-- Records keep the canonical form of memory. -/
theorem Recorded.wf {s t : State} (h : Recorded s t) (w : s.mem.wf = true) : t.mem.wf = true := by
  obtain ⟨_, _, _, _, _, _, _, _, _, _, _, _, _, h, -, -, g⟩ := h
  rw [h.mem]
  exact g w

end Sys2Proof.Machine
end

