-- ==== Sys2Proof/Laws/Issue.lean ====
section
/-!
SUPPORT. What the issue of an instruction comes to when its own effect is due (`State.performs`), and what a result leaves in the
registers: the lemmas that a proof about one instruction cites in place of the definitions of issue and of results.
-/
namespace Sys2Proof.Machine

/-- What `State.performs` says. -/
theorem State.performs_spec {s : State} {i : Instr} {c : Ctx} {s0 : State} (h : s.performs i = some (c, s0)) :
    ∃ op e ws, i.parts = some (op, e, ws) ∧ s.ctx op e ws = some (c, s0) ∧ guardTrue e c.r.p = true ∧ c.causes s0 true = []
      ∧ (uniformOp op e && performedAlready c.tm c.th) = false := by
  unfold State.performs at h
  split at h
  · simp at h
  · rename_i op e ws hp
    split at h
    · simp at h
    · rename_i c' s0' hc
      split at h
      · rename_i hg
        simp only [Option.some.injEq, Prod.mk.injEq] at h
        obtain ⟨rfl, rfl⟩ := h
        simp only [Bool.and_eq_true, Bool.not_eq_true', List.isEmpty_iff] at hg
        exact ⟨op, e, ws, hp, hc, hg.1.1, hg.1.2, hg.2⟩
      · simp at h

/-- What the context of an issue is. -/
theorem State.ctx_spec {s : State} {op : Nat} {e : Ext} {ws : List W32} {c : Ctx} {s0 : State} (h : s.ctx op e ws = some (c, s0)) :
    s.current = some c.t ∧ s.team c.t.team = some c.tm ∧ s.thread c.t = some c.th ∧ c.op = op ∧ c.e = e ∧ c.ws = ws
      ∧ c.next = c.th.pc + BitVec.ofNat 32 (4 * ws.length) ∧ ∃ k, s0 = { s with free := k } := by
  unfold State.ctx at h
  split at h
  · simp at h
  · rename_i t ht
    split at h
    · rename_i tm th htm hth
      simp only [Option.some.injEq, Prod.mk.injEq] at h
      obtain ⟨rfl, rfl⟩ := h
      exact ⟨ht, htm, hth, rfl, rfl, rfl, rfl, _, rfl⟩
    · simp at h

/-- An issue whose own effect is due comes to that effect, an indirect transfer's target having been noted (R357). -/
theorem issue_performs {s : State} {i : Instr} {c : Ctx} {s0 : State} {op : Nat} {e : Ext} {ws : List W32}
    (h : s.performs i = some (c, s0)) (hp : i.parts = some (op, e, ws)) (body onFalse : Ctx → State → Effect) :
    issue op e ws body s onFalse
      = .next (State.advance (c.settle (c.noteTargets s0) (c.freshLate (c.noteTargets s0)) (body c (c.noteTargets s0)))) := by
  obtain ⟨op', e', ws', hp', hc, hg, hcause, hu⟩ := State.performs_spec h
  rw [hp] at hp'
  simp only [Option.some.injEq, Prod.mk.injEq] at hp'
  obtain ⟨rfl, rfl, rfl⟩ := hp'
  unfold issue
  simp only [hc, hg, hcause, hu]
  rfl

/-- Only jmpi and calli note targets. -/
theorem Ctx.noteTargets_direct (c : Ctx) (s : State) (h : c.op ≠ 0x43 ∧ c.op ≠ 0x44) : c.noteTargets s = s := by
  simp [Ctx.noteTargets, h.1, h.2]

/-! ## Reading registers -/

theorem State.vreg_of_thread {s t : State} {r : TRef} (h : t.thread r = s.thread r) (k : Nat) : t.vreg r k = s.vreg r k := by
  simp [State.vreg, h]

/-- Counting an occurrence changes nothing else of the thread. -/
theorem State.countOccurrence_thread (s : State) (r : TRef) (pc : W32) (performs : Bool) :
    (s.countOccurrence r pc performs).thread r = (s.thread r).map fun th => { th with occ := SMap.modify 0 th.occ pc.toNat (· + 1) } := by
  unfold State.countOccurrence
  cases performs
  · simp
  · refine (State.modTeam_thread _ _ _ (by intro; rfl) _).trans ?_
    simp

/-- R141: what a completed effect makes of the thread's late results before the stall count passes: an instruction with late results of its own
keeps those that stood before it. -/
def Ctx.keptLate (c : Ctx) (fresh : List LateResult) (s1 : State) : State :=
  if fresh.isEmpty then s1 else s1.modThread c.t fun th => { th with late := c.th.late }

theorem Ctx.keptLate_thread (c : Ctx) (fresh : List LateResult) (s1 : State) :
    (c.keptLate fresh s1).thread c.t = (s1.thread c.t).map fun th => { th with late := if fresh.isEmpty then th.late else c.th.late } := by
  unfold Ctx.keptLate
  split
  · simp
  · simp

/-- A completed effect in terms of `keptLate`. -/
theorem Ctx.settle_done (c : Ctx) (s0 : State) (fresh : List LateResult) (s1 : State) :
    c.settle s0 fresh (.done s1)
      = ((if uniformOp c.op c.e then (c.keptLate fresh s1).countOccurrence c.t c.th.pc true else c.keptLate fresh s1).passStall c.t c.e.s.toNat fresh).goTo c.t c.next := rfl

/-- The state after a completed effect: the thread goes on, with its registers as the effect left them. -/
theorem settle_done_thread (c : Ctx) (s0 : State) (fresh : List LateResult) (s1 : State) :
    ((c.settle s0 fresh (.done s1)).advance).thread c.t
      = (s1.thread c.t).map fun th =>
          { th with
            occ := if uniformOp c.op c.e then SMap.modify 0 th.occ c.th.pc.toNat (· + 1) else th.occ
            stall := c.e.s.toNat + 1, idle := 0
            late := fresh ++ passLate (if fresh.isEmpty then th.late else c.th.late) (c.e.s.toNat + 1), pc := c.next } := by
  rw [Ctx.settle_done, State.advance_thread, State.goTo_thread_same, State.passStall_thread_same, Option.map_map]
  split
  · rw [State.countOccurrence_thread, Ctx.keptLate_thread, Option.map_map, Option.map_map]
    rfl
  · rw [Ctx.keptLate_thread, Option.map_map]
    rfl

/-- A completed effect: the thread is at the next instruction. -/
theorem settle_done_goesOn (c : Ctx) (s0 : State) (fresh : List LateResult) {s1 : State} (h : (s1.thread c.t).isSome) :
    ((c.settle s0 fresh (.done s1)).advance).goesOn c := by
  obtain ⟨th, hth⟩ := Option.isSome_iff_exists.1 h
  rw [State.goesOn, settle_done_thread, hth]
  rfl

theorem settle_done_vreg (c : Ctx) (s0 : State) (fresh : List LateResult) (s1 : State) (k : Nat) :
    ((c.settle s0 fresh (.done s1)).advance).vreg c.t k = s1.vreg c.t k := by
  simp only [State.vreg, settle_done_thread, Option.map_map]; rfl

theorem settle_done_preg (c : Ctx) (s0 : State) (fresh : List LateResult) (s1 : State) (k : Nat) :
    ((c.settle s0 fresh (.done s1)).advance).preg c.t k = s1.preg c.t k := by
  simp only [State.preg, settle_done_thread, Option.map_map]; rfl

/-- Late results are a thread's own. -/
theorem Ctx.keptLate_sreg (c : Ctx) (fresh : List LateResult) (s1 : State) (k : Nat) :
    (c.keptLate fresh s1).sreg c.t.team k = s1.sreg c.t.team k := by
  unfold Ctx.keptLate
  split
  · rfl
  · simp only [State.sreg, State.modThread_team_same, Option.map_map]; rfl

theorem settle_done_sreg (c : Ctx) (s0 : State) (fresh : List LateResult) (s1 : State) (k : Nat) :
    ((c.settle s0 fresh (.done s1)).advance).sreg c.t.team k = s1.sreg c.t.team k := by
  rw [← Ctx.keptLate_sreg c fresh s1 k, Ctx.settle_done]
  simp only [State.sreg, State.advance_team, State.goTo, State.passStall, State.modThread_team_same, Option.map_map]
  split
  · rw [State.countOccurrence, if_pos rfl, State.modTeam_team_same, State.modThread_team_same, Option.map_map, Option.map_map]
    rfl
  · rfl

/-! ## Results (R148) -/

/-- Setting `n` consecutive registers. -/
theorem get_setMany (m : SMap W32) (k n : Nat) (f : Nat → W32) (a j : Nat) :
    SMap.get 0 ((numbers a n).foldl (fun v j => SMap.set 0 v (k + j) (f j)) m) (k + j)
      = if a ≤ j ∧ j < a + n then f j else SMap.get 0 m (k + j) := by
  induction n generalizing m a with
  | zero => simp only [numbers, List.foldl_nil]; rw [if_neg (by omega)]
  | succ n ih =>
    simp only [numbers, List.foldl_cons]
    rw [ih]
    by_cases h : j = a
    · subst h
      rw [if_neg (by omega), if_pos (by omega), SMap.get_set_same]
    · rw [SMap.get_set_other _ _ _ (by omega)]
      by_cases h1 : a + 1 ≤ j ∧ j < a + 1 + n
      · rw [if_pos h1, if_pos (by omega)]
      · rw [if_neg h1, if_neg (by omega)]

/-- R148: after `wr` the destination holds the result. -/
theorem State.wr_holds (s : State) (r : TRef) (d : BitVec 11) (n : Nat) (signed : Bool) (x : Nat) (hn : n = 32 ∨ n = 64)
    (ht : (s.team r.team).isSome) (hr : (s.thread r).isSome) : (s.wr r d n signed x).holds r d n signed x := by
  obtain ⟨tm, htm⟩ := Option.isSome_iff_exists.1 ht
  obtain ⟨th, hth⟩ := Option.isSome_iff_exists.1 hr
  unfold State.holds State.wr State.writeDest
  split
  · rename_i k hk
    intro j hj
    simp only [hk, State.vreg, State.modThread_thread_same, hth, Option.map_some, Option.getD_some]
    rw [get_setMany th.v k _ (fun j => BitVec.ofNat 32 (x % 2 ^ n / 2 ^ (32 * j))) 0 j, if_pos]
    refine ⟨by omega, ?_⟩
    rcases hn with rfl | rfl <;> simp at hj ⊢ <;> omega
  · rename_i k hk
    simp only [hk]
    by_cases hs : n ≤ 32 ∧ signed = true
    · rw [if_pos hs, if_pos (by simpa using hs)]
      simp only [State.sreg, State.modTeam_team_same, State.modThread_team_same, htm, Option.map_some, Option.getD_some]
      apply BitVec.eq_of_toNat_eq
      simp [Nat.mod_eq_of_lt (BitVec.isLt _)]
    · rw [if_neg hs, if_neg (by simpa using hs)]
      refine ⟨?_, fun h => by omega⟩
      have hle : n ≤ 64 := by omega
      simp only [State.sreg, State.modTeam_team_same, State.modThread_team_same, htm, Option.map_some, Option.getD_some, hle, if_true, SMap.get_set_same]
      simp
  · trivial

end Sys2Proof.Machine
end

