-- ==== Sys2Proof/Tests/Slice0.lean ====
section
/-!
SUPPORT. The model's own tests: ill-formed instructions refused, words of the spec decoded, single steps, and a witness for
every statement that has hypotheses.
-/
namespace Sys2Proof.Tests
open Sys2Proof Sys2Proof.Machine

/-- An extended form whose fields are all 0. -/
def e0 : Ext :=
  { s := 0, fn := 0, ty := 0, guard := none, rnd := .rne, sat := false, d := 0, a := 0, space := 0, size := 0, scope := 0, hint := 0, b := 0, c := 0, x := 0, lit := none }

/-! ## Decoding: the words are put together by hand from R131 and R133, the opcodes from R144, the fields from each row of the field-use
tables; three of them (0x0014_1040, 0x0510_2FE0, and the three words of cmp.lt) are the spec's own worked cases of R132 and R136 -/

/-- Each word is the instruction it stands for. -/
def decodes (l : List (Nat × Nat × Instr)) : Bool := l.all fun x => decodeTableWord x.1 x.2.1 = some x.2.2

theorem test_decode_base_integer : decodes [
    (32, 0x141040, .addBase { s := 0, g := 1, d := 1, a := 1, b := 0 }),
    (32, 0x1820007E, .subBase { s := 3, g := 0, d := 0, a := 1, b := 62 }),
    (32, 0x330C31, .mulBase { s := 0, g := 0, d := 48, a := 48, b := 49 }),
    (32, 0x885187, .andBase { s := 0, g := 2, d := 5, a := 6, b := 7 }),
    (32, 0x9C51BD, .orBase { s := 0, g := 3, d := 5, a := 6, b := 61 }),
    (32, 0xA2FBAD, .xorBase { s := 0, g := 0, d := 47, a := 46, b := 45 }),
    (32, 0xB01083, .andnBase { s := 0, g := 0, d := 1, a := 2, b := 3 }),
    (32, 0xC010B9, .shlBase { s := 0, g := 0, d := 1, a := 2, b := 57 }),
    (32, 0xD010BA, .shrBase { s := 0, g := 0, d := 1, a := 2, b := 58 }),
    (32, 0xE010BB, .sarBase { s := 0, g := 0, d := 1, a := 2, b := 59 }),
    (32, 0x1537FF6, .minBase { s := 0, g := 0, d := 55, a := 63, b := 54 }),
    (32, 0x160313F, .maxBase { s := 0, g := 0, d := 3, a := 4, b := 63 }),
    (32, 0x1B01C80, .movBase { s := 0, g := 0, d := 1, a := 50, b := 0 }),
    (32, 0x1C05FFE, .moviBase { s := 0, g := 0, d := 5, a := 63, b := 62 })] = true := by decide

theorem test_decode_base_others : decodes [
    (32, 0x30010BE, .faddBase { s := 0, g := 0, d := 1, a := 2, b := 62 }),
    (32, 0x3101083, .fsubBase { s := 0, g := 0, d := 1, a := 2, b := 3 }),
    (32, 0x3201083, .fmulBase { s := 0, g := 0, d := 1, a := 2, b := 3 }),
    (32, 0x3501083, .fminBase { s := 0, g := 0, d := 1, a := 2, b := 3 }),
    (32, 0x3601083, .fmaxBase { s := 0, g := 0, d := 1, a := 2, b := 3 }),
    (32, 0x407FFFC, .braBase { s := 0, g := 1, d := 63, a := 63, b := 60 }),
    (32, 0x4100040, .callBase { s := 0, g := 0, d := 0, a := 1, b := 0 }),
    (32, 0x4200000, .retBase { s := 0, g := 0, d := 0, a := 0, b := 0 }),
    (32, 0x4780000, .exitBase { s := 0, g := 2, d := 0, a := 0, b := 0 }),
    (32, 0x3C800000, .nopBase { s := 7, g := 0, d := 0, a := 0, b := 0 }),
    (32, 0x4900000, .yieldBase { s := 0, g := 0, d := 0, a := 0, b := 0 }),
    (32, 0x4A00000, .barBase { s := 0, g := 0, d := 0, a := 0, b := 0 }),
    (32, 0x5003C3F, .ldBase { s := 0, g := 0, d := 3, a := 48, b := 63 }),
    (32, 0x5102FE0, .stBase { s := 0, g := 0, d := 2, a := 63, b := 32 })] = true := by decide

theorem test_decode_base_literal : decodes [
    (96, 0x1234581C05000, .movi (.baseLit { s := 0, g := 0, d := 5, a := 0, b := 0 } 0x12345)),
    (96, 0xFFFFFFFFFFFFFFFF801010BF, .add (.baseLit { s := 0, g := 0, d := 1, a := 2, b := 63 } 0xFFFFFFFFFFFFFFFF)),
    (96, 0xFFFFFFFFFFFFFFF884000000, .bra (.baseLit { s := 0, g := 0, d := 0, a := 0, b := 0 } 0xFFFFFFFFFFFFFFF8)),
    (96, 0x100085003100, .ld (.baseLit { s := 0, g := 0, d := 3, a := 4, b := 0 } 0x1000)),
    (96, 0x40490FDB830010BF, .fadd (.baseLit { s := 0, g := 0, d := 1, a := 2, b := 63 } 0x40490FDB)),
    (96, 0x1084100000, .call (.baseLit { s := 0, g := 0, d := 0, a := 0, b := 0 } 0x10))] = true := by decide

theorem test_decode_integer : decodes [
    (96, 0x4000000060040040102402, .add (.ext { e0 with ty := 9, d := 3, a := 1, b := 2, sat := true })),
    (96, 0xC000000080080040202BF0, .sub (.ext { e0 with ty := 10, d := 4, a := 2, b := 6, guard := some (true, 15) })),
    (96, 0xFFFFFFFF0020080040301400, .mul (.ext { e0 with ty := 5, d := 1, a := 2, b := 2047, c := 2047, x := 1023 })),
    (96, 0xC000000040100040401800, .mulh (.ext { e0 with ty := 6, d := 2, a := 4, b := 6 })),
    (96, 0x400C00BFE0040040502400, .mad (.ext { e0 with ty := 9, d := 1535, a := 1, b := 2, c := 3 })),
    (96, 0x6000000020080040601400, .div (.ext { e0 with ty := 5, d := 1, a := 2, b := 3 })),
    (96, 0xC7E00000C018040040702800, .rem (.ext { e0 with ty := 10, d := 1536, a := 1537, b := 1599 })),
    (96, 0xFFC000000020080040802400, .and (.ext { e0 with ty := 9, d := 1, a := 2, b := 2046 })),
    (96, 0xFF0000000020080040902400, .or (.ext { e0 with ty := 9, d := 1, a := 2, b := 2040 })),
    (96, 0x6000000020080040A02400, .xor (.ext { e0 with ty := 9, d := 1, a := 2, b := 3 })),
    (96, 0x6000000020080040B02400, .andn (.ext { e0 with ty := 9, d := 1, a := 2, b := 3 })),
    (96, 0xFFE0001F0020080040C02400, .shl (.ext { e0 with ty := 9, d := 1, a := 2, b := 2047, x := 31 })),
    (96, 0x8000000040080040D01800, .shr (.ext { e0 with ty := 6, d := 2, a := 2, b := 4 })),
    (96, 0x6000000020080040E01400, .sar (.ext { e0 with ty := 5, d := 1, a := 2, b := 3 }))] = true := by decide

theorem test_decode_integer_b : decodes [
    (96, 0x6000000020080040F02400, .rot (.ext { e0 with ty := 9, d := 1, a := 2, b := 3 })),
    (96, 0x20080041002400, .popc (.ext { e0 with ty := 9, d := 1, a := 2 })),
    (96, 0x40100041102800, .clz (.ext { e0 with ty := 10, d := 2, a := 4 })),
    (96, 0x20080041202400, .brev (.ext { e0 with ty := 9, d := 1, a := 2 })),
    (96, 0xFFE004040020080041301400, .bfx (.ext { e0 with ty := 5, d := 1, a := 2, b := 2047, c := 1, x := 4 })),
    (96, 0x6000000020080041402400, .bfi (.ext { e0 with ty := 9, d := 1, a := 2, b := 3 })),
    (96, 0x6000000020080041501400, .min (.ext { e0 with ty := 5, d := 1, a := 2, b := 3 })),
    (96, 0xC000000040100041602800, .max (.ext { e0 with ty := 10, d := 2, a := 4, b := 6 })),
    (96, 0x20080041701402, .abs (.ext { e0 with ty := 5, d := 1, a := 2, sat := true })),
    (96, 0x793C000020080041802400, .sel (.ext { e0 with ty := 9, d := 1, a := 2, b := 3, c := 1615 })),
    (96, 0xFF800000C800000041912400, .cmp (.ext { e0 with fn := 2, ty := 9, d := 1600, a := 0, b := 2044 })),
    (96, 0x1FFFF80040120041A00000, .lea (.ext { e0 with d := 2, a := 4, space := 4, c := 2047, x := 1016 })),
    (96, 0x40100041B02800, .mov (.ext { e0 with ty := 10, d := 2, a := 4 })),
    (96, 0x4010020000041C02400, .movi (.ext { e0 with ty := 9, d := 1, c := 1, x := 1 })),
    (96, 0x40340041D02800, .movs (.ext { e0 with ty := 10, d := 2, a := 13 })),
    (96, 0x1BFFC0041E00000, .movt (.ext { e0 with d := 13, a := 2047 }))] = true := by decide

theorem test_decode_predicates_and_collectives : decodes [
    (96, 0xC8400000C819040042000000, .pand (.ext { e0 with d := 1600, a := 1601, b := 1602 })),
    (96, 0xFF000000FFF9000042100000, .por (.ext { e0 with d := 2047, a := 1600, b := 2040 })),
    (96, 0xFFE00000C879100042200000, .pxor (.ext { e0 with d := 1603, a := 1604, b := 2047 })),
    (96, 0xC819000042300000, .pnot (.ext { e0 with d := 1600, a := 1600 })),
    (96, 0x39000042400000, .ballot (.ext { e0 with d := 1, a := 1600 })),
    (96, 0xFFE00001002008004251A400, .shfl (.ext { e0 with fn := 3, ty := 9, d := 1, a := 2, b := 2047, x := 1 })),
    (96, 0x20080042600008, .cred (.ext { e0 with fn := 0, ty := 0, rnd := .rd, d := 1, a := 2 })),
    (96, 0x4010004272A800, .cscan (.ext { e0 with fn := 5, ty := 10, d := 2, a := 4 })),
    (96, 0x42800000, .cbar (.ext e0)),
    (96, 0x6000000020080042904406, .fpk (.ext { e0 with ty := 17, d := 1, a := 2, b := 3, rnd := .rz, sat := true }))] = true := by decide

theorem test_decode_floating_point : decodes [
    (96, 0x600000002008004300000C, .fadd (.ext { e0 with ty := 0, d := 1, a := 2, b := 3, rnd := .ru })),
    (96, 0x6000000020080043100402, .fsub (.ext { e0 with ty := 1, d := 1, a := 2, b := 3, sat := true })),
    (96, 0x6000000020080043204000, .fmul (.ext { e0 with ty := 16, d := 1, a := 2, b := 3 })),
    (96, 0x6010000020080043300800, .ffma (.ext { e0 with ty := 2, d := 1, a := 2, b := 3, c := 4 })),
    (96, 0x6010000020080043404400, .ffma2 (.ext { e0 with ty := 17, d := 1, a := 2, b := 3, c := 4 })),
    (96, 0x6000000020080043500000, .fmin (.ext { e0 with ty := 0, d := 1, a := 2, b := 3 })),
    (96, 0xFFC000000020080043600000, .fmax (.ext { e0 with ty := 0, d := 1, a := 2, b := 2046 })),
    (96, 0x600000C800080043738400, .fcmp (.ext { e0 with fn := 7, ty := 1, d := 1600, a := 2, b := 3 })),
    (96, 0x20080043800004, .frcp (.ext { e0 with ty := 0, d := 1, a := 2, rnd := .rz })),
    (96, 0x20080043900000, .frsq (.ext { e0 with ty := 0, d := 1, a := 2 })),
    (96, 0x20080043A00008, .fsqrt (.ext { e0 with ty := 0, d := 1, a := 2, rnd := .rd })),
    (96, 0x20080043B00000, .fex2 (.ext { e0 with ty := 0, d := 1, a := 2 })),
    (96, 0x20080043C00000, .flg2 (.ext { e0 with ty := 0, d := 1, a := 2 })),
    (96, 0x20080043D00800, .ftanh (.ext { e0 with ty := 2, d := 1, a := 2 })),
    (96, 0x40040043E01806, .fcvt (.ext { e0 with fn := 0, ty := 6, d := 2, a := 1, rnd := .rz, sat := true })),
    (96, 0x20080043F00400, .fcla (.ext { e0 with ty := 1, d := 1, a := 2 }))] = true := by decide

theorem test_decode_control : decodes [
    (96, 0x1FFFFF0000000044000000, .bra (.ext { e0 with c := 2047, x := 1023 })),
    (160, 0x400000000000000000C4100000, .call (.ext { e0 with lit := some 0x40 })),
    (96, 0x44200070, .ret (.ext { e0 with guard := some (false, 3) })),
    (96, 0x140044300000, .jmpi (.ext { e0 with a := 5 })),
    (96, 0x140044400000, .calli (.ext { e0 with a := 5 })),
    (96, 0x400003C0044500000, .jmpf (.ext { e0 with a := 15, c := 0, x := 4 })),
    (96, 0xC04000000018020044600000, .cfetch (.ext { e0 with a := 1536, b := 1538, space := 4 })),
    (96, 0x44700000, .exit (.ext e0)),
    (96, 0x44800000, .nop (.ext e0)),
    (96, 0x44900000, .yield (.ext e0)),
    (96, 0x44A00000, .bar (.ext e0)),
    (96, 0xFFE0000800001C0044B00000, .barn (.ext { e0 with a := 7, b := 2047, x := 8 })),
    (96, 0x6000000000000044C00000, .sleep (.ext { e0 with b := 3 })),
    (96, 0x600000002008A044D2A400, .waitc (.ext { e0 with fn := 5, ty := 9, d := 1, a := 2, b := 3, space := 1, size := 2 }))] = true := by decide

theorem test_decode_memory : decodes [
    (96, 0x1000800A4345000000, .ld (.ext { e0 with d := 4, a := 2, space := 4, size := 4, hint := 3, c := 0, x := 16 })),
    (96, 0x1FFFFC00A0180045100000, .st (.ext { e0 with d := 5, a := 6, space := 0, size := 0, c := 2047, x := 1020 })),
    (96, 0x6010100043FC8045200000, .ldt (.ext { e0 with d := 2, a := 255, b := 3, c := 4, space := 1, x := 16 })),
    (160, 0x2000300000060102000400580C5300000, .stt (.ext { e0 with d := 2, a := 1, b := 3, c := 4, space := 3, x := 32, lit := some 0x200030000 })),
    (96, 0xC0200000800A2445438000, .atom (.ext { e0 with fn := 7, ty := 0, d := 4, a := 2, b := 6, c := 8, space := 4, size := 2, scope := 1 })),
    (96, 0x603E0000000A2045500004, .red (.ext { e0 with fn := 0, ty := 0, a := 2, b := 3, c := 15, space := 4, size := 2, rnd := .rz, x := 512 })),
    (96, 0x45600000, .rflush (.ext e0)),
    (96, 0xC0045700000, .rclose (.ext { e0 with a := 3 })),
    (96, 0x845800000, .fence (.ext { e0 with scope := 2 })),
    (96, 0xC020FF0040120045900000, .gcall (.ext { e0 with d := 2, a := 4, b := 6, c := 8, x := 255, space := 4 })),
    (96, 0x4000000000000045A00000, .gret (.ext { e0 with b := 2 })),
    (96, 0xC020010040120045B00000, .hmsg (.ext { e0 with d := 2, a := 4, b := 6, c := 8, space := 4, x := 1 }))] = true := by decide

theorem test_decode_rings_and_futures : decodes [
    (96, 0x203C0045C00000, .rget (.ext { e0 with d := 1, a := 15 })),
    (96, 0x100060100045D00000, .rput (.ext { e0 with d := 3, a := 4, space := 0, x := 16 })),
    (96, 0x40045E00000, .reos (.ext { e0 with a := 1 })),
    (96, 0x80045F00000, .rjoin (.ext { e0 with a := 2 })),
    (96, 0x80000000000A3046000000, .fres (.ext { e0 with a := 2, b := 4, space := 4, size := 3 })),
    (96, 0x80000000000A3046000002, .fresPoison (.ext { e0 with a := 2, b := 4, space := 4, size := 3, sat := true })),
    (96, 0xA0046100000, .treg (.ext { e0 with a := 2, space := 4 })),
    (96, 0x4000000A0046200000, .tspawn (.ext { e0 with a := 2, space := 4, x := 64 })),
    (96, 0xC01E100040120146300000, .cpy (.ext { e0 with d := 2, a := 4, b := 6, c := 7, space := 4, hint := 1, x := 528 })),
    (96, 0xC01E180060108046300000, .cpyRing (.ext { e0 with d := 3, a := 4, b := 6, c := 7, space := 1, x := 536 })),
    (96, 0xC01E10004010A046400000, .gath (.ext { e0 with d := 2, a := 4, b := 6, c := 7, space := 1, size := 2, x := 528 })),
    (96, 0xC01CA00040124046500000, .scat (.ext { e0 with d := 2, a := 4, b := 6, c := 7, space := 4, size := 4, x := 160 })),
    (96, 0x104000000A0046618000, .coll (.ext { e0 with fn := 3, a := 2, c := 4, space := 4, x := 64 })),
    (96, 0xC000000040113046700000, .waito (.ext { e0 with d := 2, a := 4, b := 6, space := 2, size := 3 }))] = true := by decide

theorem test_decode_matrix_and_transforms : decodes [
    (96, 0x6010100000240046800000, .mwld (.ext { e0 with a := 9, b := 3, c := 4, x := 16 })),
    (96, 0x46900000, .mflip (.ext e0)),
    (96, 0x103000000C0046A00000, .mop (.ext { e0 with a := 3, c := 4, x := 48 })),
    (96, 0x46B00000, .mjoin (.ext e0)),
    (96, 0x46C00000, .mtake (.ext e0)),
    (96, 0x46D00000, .mpass (.ext e0)),
    (96, 0x60101001E3200046E00006, .mrd (.ext { e0 with d := 15, a := 200, b := 3, c := 4, x := 16, rnd := .rz, sat := true })),
    (96, 0xC100020080046F00000, .xfwd (.ext { e0 with d := 1, a := 2, c := 3, x := 16 })),
    (96, 0xC201FE3F80047000000, .xinv (.ext { e0 with d := 255, a := 254, c := 3, x := 32 })),
    (96, 0xC10002008004710000C, .qbx (.ext { e0 with d := 1, a := 2, c := 3, x := 16, rnd := .ru })),
    (160, 0xFFFF000000000000104000200800C7200002, .dqbx (.ext { e0 with d := 1, a := 2, c := 4, x := 64, sat := true, lit := some 0xFFFF00000000 }))] = true := by decide

theorem test_decode_system : decodes [
    (96, 0x1FE000400020088047300000, .thset (.ext { e0 with d := 1, a := 2, b := 255, space := 1, x := 64 })),
    (96, 0x60000000000A0047400000, .thget (.ext { e0 with a := 2, b := 3, space := 4 })),
    (96, 0xFFE000050000000047500000, .trap (.ext { e0 with b := 2047, x := 5 })),
    (96, 0x47600000, .tret (.ext e0)),
    (96, 0x160000000200C0047700000, .tlog (.ext { e0 with d := 1, a := 3, b := 11 })),
    (96, 0x40047800000, .tskip (.ext { e0 with a := 1 })),
    (96, 0x8000010000080047800000, .tskipValue (.ext { e0 with a := 2, b := 4, x := 1 })),
    (96, 0x40200047900000, .csrr (.ext { e0 with d := 2, a := 8 })),
    (96, 0x8000000000080047A00000, .csrw (.ext { e0 with a := 2, b := 4 })),
    (96, 0xFFE001FF0000000047B00000, .evsig (.ext { e0 with b := 2047, x := 511 })),
    (96, 0xC020000047C00000, .time (.ext { e0 with d := 1537 })),
    (96, 0x60000000203C0047D00000, .sig (.ext { e0 with d := 1, a := 15, b := 3 })),
    (96, 0x47E00000, .sigret (.ext e0)),
    (96, 0xFFE000000000100047F00000, .cinval (.ext { e0 with a := 4, b := 2047 }))] = true := by decide
/-- R129, R133, R135, R144, R147: what is refused, and by which name. -/
def refuses (l : List (List W32 × DecodeError)) : Bool :=
  l.all fun x => match decode (x.1.flatMap wordBytes) with | .error err => err = x.2 | .ok _ => false

theorem test_decode_refuses : refuses [
    ([], .truncated), ([0x40100000, 0], .truncated), ([0xC0100000, 0, 0, 0], .truncated),
    ([0], .unassigned 0), ([0x01F00000], .unassigned 0x1F), ([0x02A00000], .unassigned 0x2A), ([0x04E00000], .unassigned 0x4E),
    ([0x00400000], .noBaseForm 4), ([0x80400000, 0, 0], .noBaseForm 4),
    ([0x44800001, 0, 0], .reservedBit), ([0x44800200, 0, 0], .guardWithoutG), ([0x44800020, 0, 0], .guardWithoutG),
    ([0x44800000, 0, 1], .illegalField 0x48)] = true := by decide

/-! ## Ill-formed instructions: for each check an instruction that keeps to it and one that breaks it (R147) -/

def accepted (l : List Instr) : Bool := l.all Instr.wf
def refused (l : List Instr) : Bool := l.all fun i => !i.wf

/-- A 32-bit add of registers, well-formed. -/
def add' : Ext := { e0 with ty := 9, d := 3, a := 1, b := 2 }
/-- A 32-bit load of the course scratchpad. -/
def ld' : Ext := { e0 with d := 3, a := 1, space := 1, size := 2 }
/-- A 32-bit add to a word of module memory. -/
def atom' : Ext := { e0 with ty := 9, d := 3, a := 2, b := 4, space := 4, size := 2 }
/-- A copy from module memory to the scratchpad, its completion word there too. -/
def cpy' : Ext := { e0 with d := 2, a := 4, b := 6, c := 7, space := 1, x := 0x210 }

/-- R148, R203: the D field: a source code, a predicate, an odd pair, a misaligned quadruple, a predicate where a register is due. -/
theorem test_wf_d :
    accepted [.add (.ext add'), .add (.ext { add' with d := 2047 }), .sub (.ext { add' with ty := 10, d := 4, a := 6, b := 8 }), .cmp (.ext { add' with d := 1615 }),
      .ld (.ext { ld' with size := 4, d := 4 }), .csrr (.ext { e0 with d := 1599, a := 11 }), .movt (.ext { e0 with d := 10 }), .rput (.ext { e0 with d := 15 })]
    && refused [.add (.ext { add' with d := 2040 }), .add (.ext { add' with d := 1600 }), .add (.ext { add' with d := 1616 }), .sub (.ext { add' with ty := 10, d := 5, a := 6, b := 8 }),
      .cmp (.ext { add' with d := 3 }), .ld (.ext { ld' with size := 4, d := 6 }), .movt (.ext { e0 with d := 9 }), .movt (.ext { e0 with d := 14 }), .rput (.ext { e0 with d := 16 }),
      .nop (.ext { e0 with d := 1 })] = true := by decide

/-- R69, R140, R200, R268: the A, B and C fields. -/
theorem test_wf_abc :
    accepted [.sel (.ext { add' with c := 1615 }), .movs (.ext { e0 with ty := 9, d := 1, a := 13 }), .csrw (.ext { e0 with a := 3, b := 2 }), .jmpf (.ext { e0 with a := 15 }),
      .ld (.ext { ld' with a := 1599 }), .ld (.ext { ld' with space := 4, a := 2 }), .tlog (.ext { e0 with d := 1, a := 3, b := 11 }), .red (.ext { e0 with a := 2, b := 3, c := 15, space := 4, size := 2 })]
    && refused [.add (.ext { add' with a := 1600 }), .add (.ext { add' with b := 1700 }), .sub (.ext { add' with ty := 10, d := 4, a := 5, b := 8 }), .sub (.ext { add' with ty := 10, d := 4, a := 6, b := 7 }),
      .sel (.ext { add' with c := 5 }), .sel (.ext { add' with c := 2041 }), .movs (.ext { e0 with ty := 9, d := 1, a := 14 }), .csrw (.ext { e0 with a := 4, b := 2 }), .csrw (.ext { e0 with a := 12, b := 2 }),
      .jmpf (.ext { e0 with a := 16 }), .ld (.ext { ld' with a := 2040 }), .ld (.ext { ld' with space := 4, a := 3 }), .tlog (.ext { e0 with d := 1, a := 4 }), .tlog (.ext { e0 with d := 1, b := 12 }),
      .red (.ext { e0 with a := 2, b := 3, c := 16, space := 4, size := 2 }), .mad (.ext { add' with c := 1600 }), .popc (.ext { add' with b := 1 }), .ret (.ext { e0 with a := 1 })] = true := by decide

/-- R139, R145, R200, R203: type, fn, space and size codes that the instruction does not admit. -/
theorem test_wf_codes :
    accepted [.abs (.ext { add' with ty := 5, b := 0 }), .cmp (.ext { add' with fn := 5, d := 1600 }), .ld (.ext ld'), .ld (.ext { ld' with ty := 3, size := 0 }), .ld (.ext { ld' with ty := 4, size := 1 }),
      .atom (.ext atom'), .coll (.ext { e0 with fn := 3, a := 2, c := 4, space := 4, x := 0x10 })]
    && refused [.add (.ext { add' with ty := 0 }), .abs (.ext { add' with b := 0 }), .cmp (.ext { add' with fn := 6, d := 1600 }), .ld (.ext { ld' with space := 5 }), .ld (.ext { ld' with size := 5 }),
      .ld (.ext { ld' with ty := 5 }), .ld (.ext { ld' with ty := 3, size := 1 }), .ld (.ext { ld' with ty := 4 }), .atom (.ext { atom' with space := 0 }), .atom (.ext { atom' with size := 3 }),
      .atom (.ext { atom' with ty := 0, fn := 3 }), .waito (.ext { e0 with d := 2, a := 4, b := 6, space := 0, size := 3 }), .waitc (.ext { e0 with ty := 9, d := 1, a := 2, b := 4, space := 1, size := 3 }),
      .coll (.ext { e0 with fn := 4, a := 2, c := 4, space := 4, x := 0x10 }), .red (.ext { e0 with ty := 9, a := 2, b := 4, space := 4, size := 3 }),
      .cred (.ext { e0 with ty := 0, fn := 3, d := 1, a := 2 })] = true := by decide

/-- R138, R198, R241: rnd, sat, scope and hint where the instruction does not use them. -/
theorem test_wf_modifiers :
    accepted [.fadd (.ext { add' with ty := 0, rnd := .ru, sat := true }), .add (.ext { add' with sat := true }), .fence (.ext { e0 with scope := 2 }), .ld (.ext { ld' with space := 4, a := 2, hint := 3 }),
      .atom (.ext { atom' with ty := 0, fn := 0, rnd := .rz, scope := 2 }), .cpy (.ext { cpy' with space := 4, hint := 3 }), .cred (.ext { e0 with rnd := .rd, d := 1, a := 2 })]
    && refused [.fmin (.ext { add' with ty := 0, rnd := .ru }), .and (.ext { add' with sat := true }), .add (.ext { add' with rnd := .rz }), .fence (.ext { e0 with scope := 3 }), .add (.ext { add' with scope := 1 }),
      .add (.ext { add' with hint := 1 }), .ld (.ext { ld' with hint := 1 }), .st (.ext { ld' with hint := 1 }), .atom (.ext { atom' with scope := 3 }), .atom (.ext { atom' with rnd := .rz }), .cpy (.ext { cpy' with hint := 1 }),
      .gath (.ext { cpy' with hint := 2 }), .cred (.ext { e0 with fn := 1, rnd := .rd, d := 1, a := 2 })] = true := by decide

/-- R15, R151, R198, R331: team-uniform instructions, and cfetch with a guard. -/
theorem test_wf_uniform :
    accepted [.add (.ext { add' with d := 1536, a := 1537, b := 2040 }), .movs (.ext { e0 with ty := 10, d := 1536, a := 9 }), .ld (.ext { ld' with d := 1536, a := 1537 }),
      .cfetch (.ext { e0 with a := 1536, b := 1537, space := 4 })]
    && refused [.add (.ext { add' with d := 1536, a := 1537, b := 2 }), .add (.ext { add' with d := 1536, a := 1, b := 2040 }), .add (.ext { add' with d := 1536, a := 1537, b := 2040, guard := some (false, 0) }),
      .mad (.ext { add' with d := 1536, a := 1537, b := 2040, c := 1 }), .sel (.ext { add' with d := 1536, a := 1537, b := 2040, c := 1600 }), .movs (.ext { e0 with ty := 10, d := 1536, a := 0 }),
      .movs (.ext { e0 with ty := 10, d := 1536, a := 10 }), .ld (.ext { ld' with d := 1536, a := 1537, space := 0 }), .ballot (.ext { e0 with d := 1536, a := 1600 }),
      .cfetch (.ext { e0 with a := 1536, b := 1537, space := 4, guard := some (false, 0) }), .cfetch (.ext { e0 with a := 1, b := 1537, space := 4 })] = true := by decide

/-- R136, R137, R149, R201: immediates, the fields that a literal replaces, and the spaces that x names. -/
theorem test_wf_immediates :
    accepted [.add (.ext { add' with b := 2047, c := 2047, x := 1023 }), .add (.ext { add' with b := 2047, lit := some 7 }), .ld (.ext { ld' with lit := some 7 }), .bra (.ext { e0 with lit := some 8 }), .cpy (.ext cpy'),
      .cpy (.ext { cpy' with b := 2047, lit := some 0xFFFFFFFFFFFFFFFF }), .cpyRing (.ext { cpy' with x := 0x218, d := 3, lit := some 0x10000 })]
    && refused [.add (.ext { add' with x := 1 }), .add (.ext { add' with c := 1 }), .add (.ext { add' with lit := some 7 }), .add (.ext { add' with b := 2047, x := 1, lit := some 7 }), .ld (.ext { ld' with x := 1, lit := some 7 }),
      .ld (.ext { ld' with c := 1, lit := some 7 }), .bra (.ext { e0 with lit := some 6 }), .popc (.ext { e0 with ty := 9, d := 1, a := 2, lit := some 0 }), .cpy (.ext { cpy' with x := 0x211 }), .cpy (.ext { cpy' with x := 0x200 }),
      .cpy (.ext { cpy' with x := 0x250 }), .cpy (.ext { cpy' with x := 0x010 }), .cpy (.ext { cpy' with x := 0x290 }), .cpy (.ext { cpy' with lit := some 0x1000000000000 }),
      .cpyRing (.ext { cpy' with x := 0x218, d := 3, lit := some 1 }), .mop (.ext { e0 with a := 3, c := 4, x := 0x30, lit := some 0xFFFF }), .gcall (.ext { e0 with d := 2, a := 4, b := 6, c := 8, x := 256, space := 4 }),
      .tskip (.ext { e0 with x := 2 })] = true := by decide

/-- R226, R232, R266: the rows of one opcode that a bit tells apart; and R132, R137: base words. -/
theorem test_wf_rows :
    accepted [.fres (.ext { e0 with a := 2, b := 4, space := 4, size := 3 }), .fresPoison (.ext { e0 with a := 2, b := 4, space := 4, size := 3, sat := true }), .tskip (.ext { e0 with a := 3 }), .tskipValue (.ext { e0 with a := 3, b := 1, x := 1 }),
      .stBase { s := 0, g := 0, d := 2, a := 63, b := 32 }, .braBase { s := 0, g := 0, d := 63, a := 63, b := 63 }, .movi (.baseLit { s := 0, g := 0, d := 5, a := 0, b := 0 } 7), .add (.baseLit { s := 0, g := 0, d := 5, a := 0, b := 63 } 7)]
    && refused [.fres (.ext { e0 with a := 2, b := 4, space := 4, size := 3, sat := true }), .fresPoison (.ext { e0 with a := 2, b := 4, space := 4, size := 3 }), .tskip (.ext { e0 with a := 3, b := 1, x := 1 }), .tskipValue (.ext { e0 with a := 3 }),
      .cpy (.ext { cpy' with x := 0x218 }), .cpyRing (.ext cpy'), .stBase { s := 0, g := 0, d := 2, a := 56, b := 32 }, .movBase { s := 0, g := 0, d := 2, a := 1, b := 1 }, .addBase { s := 0, g := 0, d := 56, a := 1, b := 1 },
      .retBase { s := 0, g := 0, d := 1, a := 0, b := 0 }, .addBase { s := 0, g := 1, d := 48, a := 49, b := 50 }, .movi (.baseLit { s := 0, g := 0, d := 5, a := 0, b := 1 } 7), .add (.baseLit { s := 0, g := 0, d := 5, a := 0, b := 62 } 7),
      .ld (.baseLit { s := 0, g := 0, d := 5, a := 0, b := 1 } 7), .bra (.baseLit { s := 0, g := 0, d := 0, a := 0, b := 0 } 2), .mulh (.baseLit { s := 0, g := 0, d := 5, a := 0, b := 63 } 7)] = true := by decide

set_option maxRecDepth 16384
/-! ## Small states -/

/-- The thread that `withCode` makes, and its neighbour. -/
def T : TRef := { team := 0, tid := 0 }
def U : TRef := { team := 0, tid := 1 }
/-- The machine right after reset with one thread about to issue at address 0. -/
def at0 : State := State.reset.withCode []
/-- That thread with its v registers and its predicates. -/
def rg (v : SMap W32) (p : BitVec 16 := 0) : State := at0.modThread T fun th => { th with v, p }
/-- The launch's body, and the launch itself, changed. -/
def body (f : LaunchBody → LaunchBody) (s : State) : State := { s with launches := s.launches.map fun (l : Launch) => { l with body := f l.body } }
/-- A context 0 whose first 1 GiB of addresses are cached as physical addresses of type `ty`. -/
def mapped (pa ty : Nat) (s : State) : State :=
  { s with contexts := [{ asid := 0, bay := 0 }], tlb := [{ die := 0, asid := 0, page := 0, bits := 30, pa, type := ty, u := true, x := true, w := true, d := true }] }
/-- A second thread in the team, as `f` leaves it. -/
def pairOf (f : Thread → Thread) (s : State) : State := s.modTeam 0 fun tm => { tm with threads := tm.threads ++ [f {}] }
/-- A trap entry in the launch. -/
def entry (s : State) : State := s |> body fun b => { b with tentry := 0x100 }

/-- A privileged thread: firmware's own launch on the firmware core of die 0. -/
def privileged (s : State) : State := { s with launches := s.launches.map fun (l : Launch) => { l with priv := true } }.modTeam 0 fun tm => { tm with core := 60 }

/-- Full service with every feature accepted. -/
def full (s : State) : State := { s with phase := .full, accepted := 0x1FFF }

/-- The step that runs `i`, and what holds of its next state. -/
def run (i : Instr) (s : State) (ok : State → Bool) : Bool := match exec i s with | .next t => ok t | _ => false
/-- `i` runs, and leaves `x` in v register `d`. -/
def gives (i : Instr) (s : State) (d : Nat) (x : W32) : Bool := run i s fun t => t.vreg T d = x
/-- `i` runs, and leaves the predicate register 0 so. -/
def sets (i : Instr) (s : State) (b : Bool) : Bool := run i s fun t => t.preg T 0 = b
/-- The thread's pc and wait. -/
def pcIs (t : State) (r : TRef) (pc : W32) : Bool := (t.thread r).map (fun th => (th.pc, th.wait.isNone, th.exited)) = some (pc, true, false)
def waits (t : State) (r : TRef) (w : Wait) : Bool := ((t.thread r).bind (·.wait)).map (·.why) = some w
/-- `i` runs, and the thread has taken a trap of this code and taux. -/
def traps (i : Instr) (s : State) (code : W32) (aux : W64) : Bool :=
  run i s fun t => (t.thread T).map (fun th => (th.inTrap, th.tcause, th.taux, th.pc)) = some (true, code, aux, 0x100)
/-- `i` is well-formed and its own effect is due. -/
def due (s : State) (l : List Instr) : Bool := l.all fun i => i.wf && (s.performs i).isSome

/-- Operands v1 and v2 to v3; the pairs v6 and v8 to v4. -/
def r3 (ty : BitVec 5) : Ext := { e0 with ty, d := 3, a := 1, b := 2 }
def r6 (ty : BitVec 5) : Ext := { e0 with ty, d := 4, a := 6, b := 8 }
def ab (a b : W32) : State := rg [(1, a), (2, b)]

/-! ## Single steps; the results are worked out by hand from the rules cited -/

/-- R154. -/
theorem test_add_wraps : gives (.add (.ext (r3 9))) (ab 0xFFFFFFFF 2) 3 1 = true := by decide
theorem test_add_saturates : gives (.add (.ext { r3 5 with sat := true })) (ab 0x7FFFFFFF 1) 3 0x7FFFFFFF = true := by decide
theorem test_sub_saturates_unsigned : gives (.sub (.ext { r3 9 with sat := true })) (ab 1 2) 3 0 = true := by decide
theorem test_sub_order : gives (.subBase { s := 0, g := 0, d := 3, a := 1, b := 2 }) (ab 7 2) 3 5 = true := by decide
theorem test_mul_low_half : gives (.mul (.ext (r3 9))) (ab 0x10001 0x10000) 3 0x10000 = true := by decide
theorem test_mulh_signed : (gives (.mulh (.ext (r3 5))) (ab 0xFFFFFFFF 2) 3 0xFFFFFFFF && gives (.mulh (.ext (r3 9))) (ab 0xFFFFFFFF 2) 3 1) = true := by decide
theorem test_mad_third_operand : gives (.mad (.ext { r3 9 with c := 4 })) (rg [(1, 3), (2, 4), (4, 5)]) 3 17 = true := by decide
theorem test_abs_least : (gives (.abs (.ext { e0 with ty := 5, d := 3, a := 1 })) (ab 0x80000000 0) 3 0x80000000
    && gives (.abs (.ext { e0 with ty := 5, sat := true, d := 3, a := 1 })) (ab 0x80000000 0) 3 0x7FFFFFFF) = true := by decide
theorem test_min_by_type : (gives (.min (.ext (r3 5))) (ab 0xFFFFFFFF 1) 3 0xFFFFFFFF && gives (.min (.ext (r3 9))) (ab 0xFFFFFFFF 1) 3 1
    && gives (.max (.ext (r3 5))) (ab 0xFFFFFFFF 1) 3 1) = true := by decide
/-- R148: a pair in consecutive registers, and a 32-bit signed result sign-extended in an s register. -/
theorem test_add_pair : (run (.add (.ext (r6 10))) (rg [(6, 0xFFFFFFFF), (7, 1), (8, 1)]) fun t => t.vreg T 4 = 0 && t.vreg T 5 = 2) = true := by decide
theorem test_add_s_sign_extends : (run (.add (.ext { e0 with ty := 5, d := 1536, a := 2045, b := 2047 })) at0 fun t => t.sreg 0 0 = 0xFFFFFFFFFFFFFFFF) = true := by decide
theorem test_zero_discards : (run (.add (.ext { r3 9 with d := 2047 })) (ab 1 2) fun t => (t.thread T).map (fun th => (th.v, th.pc)) = some ([(1, 1), (2, 2)], 12)) = true := by decide
/-- R155. -/
theorem test_div : (gives (.div (.ext (r3 5))) (ab 0xFFFFFFF9 2) 3 0xFFFFFFFD && gives (.div (.ext (r3 9))) (ab 5 0) 3 0xFFFFFFFF) = true := by decide
theorem test_rem : (gives (.rem (.ext (r3 5))) (ab 0xFFFFFFF9 2) 3 0xFFFFFFFF && gives (.rem (.ext (r3 5))) (ab 0x80000000 0xFFFFFFFF) 3 0
    && gives (.rem (.ext (r3 9))) (ab 5 0) 3 5) = true := by decide
/-- R157. -/
theorem test_logic : (gives (.and (.ext (r3 9))) (ab 12 10) 3 8 && gives (.or (.ext (r3 9))) (ab 12 10) 3 14 && gives (.xor (.ext (r3 9))) (ab 12 10) 3 6
    && gives (.andn (.ext (r3 9))) (ab 12 10) 3 4) = true := by decide
theorem test_shift_modulo : (gives (.shl (.ext (r3 9))) (ab 1 33) 3 2 && gives (.shr (.ext (r3 9))) (ab 0x80000000 63) 3 1
    && gives (.sar (.ext (r3 9))) (ab 0x80000000 31) 3 0xFFFFFFFF && gives (.rot (.ext (r3 9))) (ab 0x80000001 1) 3 3) = true := by decide
theorem test_counts : (gives (.popc (.ext { e0 with ty := 9, d := 3, a := 1 })) (ab 0xF0F1 0) 3 9 && gives (.clz (.ext { e0 with ty := 9, d := 3, a := 1 })) (ab 0 0) 3 32
    && gives (.brev (.ext { e0 with ty := 9, d := 3, a := 1 })) (ab 6 0) 3 0x60000000) = true := by decide
/-- R158: pos 4 and len 4; a field that reaches beyond the operand. -/
theorem test_bfx : (gives (.bfx (.ext (r3 5))) (ab 0xF0 0x404) 3 0xFFFFFFFF && gives (.bfx (.ext (r3 9))) (ab 0xF0 0x404) 3 15 && gives (.bfx (.ext (r3 5))) (ab 0x80000000 0x41F) 3 1) = true := by decide
theorem test_bfi : gives (.bfi (.ext (r3 9))) (rg [(1, 0), (2, 0x808), (3, 0xFFFFFFFF)]) 3 0xFFFF00FF = true := by decide
/-- R160-R162. -/
theorem test_sel : (gives (.sel (.ext { r3 9 with c := 1601 })) (rg [(1, 7), (2, 8)] 2) 3 7 && gives (.sel (.ext { r3 9 with c := 1600 })) (rg [(1, 7), (2, 8)] 2) 3 8) = true := by decide
theorem test_cmp_by_type : (sets (.cmp (.ext { r3 5 with fn := 2, d := 1600 })) (ab 0xFFFFFFFF 1) true && sets (.cmp (.ext { r3 9 with fn := 2, d := 1600 })) (ab 0xFFFFFFFF 1) false) = true := by decide
theorem test_lea : (run (.lea (.ext { e0 with d := 4, a := 6, space := 4, c := 2047, x := 1023 })) (rg [(6, 0), (7, 1)]) fun t => t.vreg T 4 = 0xFFFFFFFF && t.vreg T 5 = 0) = true := by decide
theorem test_movi : (gives (.moviBase { s := 0, g := 0, d := 3, a := 63, b := 62 }) at0 3 0xFFFFFFFE && gives (.movi (.ext { e0 with ty := 9, d := 3, c := 1, x := 1 })) at0 3 1025
    && gives (.mov (.ext { e0 with ty := 9, d := 3, a := 2046 })) at0 3 0x3F800000) = true := by decide
theorem test_movs : (gives (.movs (.ext { e0 with ty := 9, d := 3, a := 2 })) at0 3 1 && gives (.movs (.ext { e0 with ty := 9, d := 3, a := 3 })) at0 3 0xFFFFFFFF
    && gives (.movs (.ext { e0 with ty := 9, d := 3, a := 5 })) at0 3 16) = true := by decide
theorem test_movt : (run (.movt (.ext { e0 with d := 13, a := 1 })) (ab 0xFFFFFFFF 0) fun t => (t.thread T).map (·.sigmask) = some 0xFFFF) = true := by decide
/-- R165, R10. -/
theorem test_predicates : (sets (.pand (.ext { e0 with d := 1600, a := 1600, b := 1601 })) (rg [] 1) false && sets (.por (.ext { e0 with d := 1600, a := 1600, b := 1601 })) (rg [] 2) true
    && sets (.pxor (.ext { e0 with d := 1600, a := 1600, b := 1601 })) (rg [] 3) false && sets (.pnot (.ext { e0 with d := 1600, a := 1600 })) (rg [] 0) true) = true := by decide
theorem test_false_guard : (run (.add (.ext { r3 9 with guard := some (true, 0) })) (rg [(1, 1), (2, 2)] 1) fun t => t.vreg T 3 = 0 && pcIs t T 12) = true := by decide
/-- R166-R175. -/
theorem test_fadd_rounds : (gives (.fadd (.ext { r3 0 with rnd := .ru })) (ab 0x3F800000 0x33800000) 3 0x3F800001 && gives (.fadd (.ext (r3 0))) (ab 0x3F800000 0x33800000) 3 0x3F800000) = true := by decide
theorem test_fsub_signed_zero : (gives (.fsub (.ext (r3 0))) (ab 0x3F800000 0x3F800000) 3 0 && gives (.fsub (.ext { r3 0 with rnd := .rd })) (ab 0x3F800000 0x3F800000) 3 0x80000000) = true := by decide
theorem test_fmul_saturates : (gives (.fmul (.ext (r3 0))) (ab 0x7F7FFFFF 0xC0000000) 3 0xFF800000 && gives (.fmul (.ext { r3 0 with sat := true })) (ab 0x7F7FFFFF 0xC0000000) 3 0xFF7FFFFF) = true := by decide
theorem test_fmul_pair : gives (.fmul (.ext (r3 17))) (ab 0x40003C00 0x40004000) 3 0x44004000 = true := by decide
theorem test_ffma_one_rounding : gives (.ffma (.ext { r3 0 with c := 4 })) (rg [(1, 0x3F800001), (2, 0x3F800001), (4, 0xBF800002)]) 3 0x28800000 = true := by decide
theorem test_ffma2 : gives (.ffma2 (.ext { r3 17 with c := 4 })) (rg [(1, 0x40003C00), (2, 0x40003C00), (4, 0x3F800000)]) 3 0x40C00000 = true := by decide
theorem test_fmin_zero_and_nan : (gives (.fmin (.ext (r3 0))) (ab 0 0x80000000) 3 0x80000000 && gives (.fmax (.ext (r3 0))) (ab 0x7FC00000 0x3F800000) 3 0x3F800000) = true := by decide
theorem test_fcmp_unordered : (sets (.fcmp (.ext { r3 0 with fn := 1, d := 1600 })) (ab 0x7FC00000 0) true && sets (.fcmp (.ext { r3 0 with fn := 3, d := 1600 })) (ab 0x7FC00000 0) false) = true := by decide
theorem test_frcp : (gives (.frcp (.ext { e0 with d := 3, a := 1 })) (ab 0x40000000 0) 3 0x3F000000 && gives (.frcp (.ext { e0 with d := 3, a := 1 })) (ab 0x80000000 0) 3 0xFF800000) = true := by decide
set_option maxRecDepth 8192 in
theorem test_roots : (gives (.fsqrt (.ext { e0 with d := 3, a := 1 })) (ab 0x40800000 0) 3 0x40000000 && gives (.frsq (.ext { e0 with d := 3, a := 1 })) (ab 0x40800000 0) 3 0x3F000000
    && gives (.fsqrt (.ext { e0 with d := 3, a := 1 })) (ab 0xBF800000 0) 3 0x7FC00000) = true := by decide
theorem test_special_functions : (gives (.fex2 (.ext { e0 with d := 3, a := 1 })) (ab 0xFF800000 0) 3 0 && gives (.flg2 (.ext { e0 with d := 3, a := 1 })) (ab 0 0) 3 0xFF800000
    && gives (.ftanh (.ext { e0 with d := 3, a := 1 })) (ab 0xFF800000 0) 3 0xBF800000) = true := by decide
theorem test_fcvt : (gives (.fcvt (.ext { e0 with ty := 5, fn := 0, d := 3, a := 1 })) (ab 0x40200000 0) 3 2 && gives (.fcvt (.ext { e0 with ty := 7, fn := 0, d := 3, a := 1 })) (ab 0xBF800000 0) 3 0
    && gives (.fcvt (.ext { e0 with ty := 3, fn := 5, d := 3, a := 1 })) (ab 0x180 0) 3 0xFFFFFF80) = true := by decide
theorem test_fcla : (gives (.fcla (.ext { e0 with d := 3, a := 1 })) (ab 0x80000000 0) 3 8 && gives (.fcla (.ext { e0 with ty := 1, d := 3, a := 1 })) (ab 0x7E00 0) 3 0x100) = true := by decide
theorem test_fpk : gives (.fpk (.ext (r3 17))) (ab 0x3F800000 0x40000000) 3 0x40003C00 = true := by decide
/-- R188-R190: a backward branch stays in the slot; a call pushes the next address; ret pops it. -/
theorem test_bra : (run (.bra (.ext { e0 with c := 2047, x := 1023 })) (at0.modThread T fun th => { th with pc := 0x10000008 }) fun t => pcIs t T 0x10000004) = true := by decide
theorem test_call : (run (.callBase { s := 0, g := 0, d := 0, a := 0, b := 2 }) at0 fun t =>
    pcIs t T 8 && (t.thread T).map (fun th => (th.depth, th.lane.read 1016 8)) = some (1, 4)) = true := by decide
theorem test_ret : (run (.retBase { s := 0, g := 0, d := 0, a := 0, b := 0 }) (at0.modThread T fun th => { th with depth := 1, lane := [(1016, 0x44)] }) fun t => pcIs t T 0x44 && (t.thread T).map (·.depth) = some 0) = true := by decide
theorem test_ret_underflow : traps (.ret (.ext e0)) (entry at0) 0x19 0 = true := by decide
theorem test_jmpi : (run (.jmpi (.ext { e0 with a := 1 })) (ab 0x30000004 0) fun t => pcIs t T 0x30000004) = true := by decide
theorem test_jmpf_waits : (run (.jmpf (.ext { e0 with a := 3, x := 4 })) (at0.modTeam 0 fun tm => { tm with slots := [(3, { state := 1 })] }) fun t => waits t T (.jmpf 0x30000010)) = true := by decide
theorem test_cfetch_slot_0 : traps (.cfetch (.ext { e0 with a := 1536, b := 1537, space := 4 })) (entry at0) 0x1C 0 = true := by decide
theorem test_exit : (run (.exitBase { s := 0, g := 0, d := 0, a := 0, b := 0 }) at0 fun t => (t.thread T).map (·.exited) = some true) = true := by decide
theorem test_bar : (run (.bar (.ext e0)) at0 (fun t => pcIs t T 12) && run (.bar (.ext e0)) (pairOf id at0) fun t => waits t T .bar) = true := by decide
theorem test_barn_count : (run (.barn (.ext { e0 with a := 7, b := 2040 })) at0 (fun t => pcIs t T 12) && traps (.barn (.ext { e0 with a := 7, b := 2041 })) (entry at0) 0x1B 2) = true := by decide
theorem test_sleep : (run (.sleep (.ext { e0 with b := 2043 })) at0 (fun t => waits t T (.sleep 8)) && run (.sleep (.ext { e0 with b := 2047 })) at0 fun t => pcIs t T 12) = true := by decide
theorem test_waitc : (run (.waitc (.ext { e0 with ty := 9, fn := 5, d := 3, a := 2047, b := 2, space := 1, size := 2 })) (ab 0 1) (fun t => waits t T .monitor)
    && gives (.waitc (.ext { e0 with ty := 9, fn := 3, d := 3, a := 2047, b := 2, space := 1, size := 2 })) (ab 0 1) 3 0) = true := by decide
theorem test_ballot : gives (.ballot (.ext { e0 with d := 3, a := 1600 })) (rg [(3, 7)] 1) 3 1 = true := by decide
theorem test_collectives_of_one : (gives (.cred (.ext { e0 with ty := 9, d := 3, a := 1 })) (ab 5 0) 3 5 && gives (.cscan (.ext { e0 with ty := 9, fn := 1, d := 3, a := 1 })) (ab 5 0) 3 0xFFFFFFFF
    && gives (.shfl (.ext { e0 with ty := 9, fn := 2, d := 3, a := 1, b := 2 })) (ab 5 1) 3 5) = true := by decide
/-- R203, R204, R210: the lane slice holds -1 in a byte; a store of 16 bits; a swap. -/
theorem test_ld_sign : (run (.ld (.ext { e0 with ty := 3, d := 3, a := 2047, x := 2 })) (at0.modThread T fun th => { th with lane := [(2, 255)] }) fun t =>
    run (.varResultReturn T 0) t fun u => t.vreg T 3 = 0 && u.vreg T 3 = 0xFFFFFFFF) = true := by decide
theorem test_st_size : (run (.st (.ext { e0 with d := 1, a := 2047, size := 1, space := 1, x := 4 })) (ab 0xAABBCCDD 0) fun t => (t.team 0).map (·.scratch) = some [(4, 0xDD), (5, 0xCC)]) = true := by decide
theorem test_st_misaligned : (run (.st (.ext { e0 with d := 1, a := 2047, size := 2, space := 1, x := 2 })) (ab 1 0) fun t =>
    (t.team 0).map (·.scratch) = some [] && (t.thread T).bind (fun th => (th.log[0]?).bind (·.fault)) = some { code := 0x42, aux := 2 }) = true := by decide
theorem test_atom_swap : (run (.atom (.ext { e0 with fn := 6, ty := 9, d := 3, a := 2047, b := 1, size := 2, space := 1 })) (ab 9 0 |>.modTeam 0 fun tm => { tm with scratch := [(0, 5)] }) fun t =>
    (t.team 0).map (·.scratch) = some [(0, 9)] && (t.thread T).bind (fun th => (th.log[0]?).map (·.value)) = some 5) = true := by decide
theorem test_st_module_memory : (run (.st (.ext { e0 with d := 1, a := 4, size := 2, space := 4 })) (mapped 0x1000 0 (rg [(1, 0x01020304), (4, 8)])) fun t =>
    t.mem = [(0x1008, 4), (0x1009, 3), (0x100A, 2), (0x100B, 1)]) = true := by decide
/-- R83, R223; R220. -/
def ring0 : Ring := { base := 64, size := 16, count := 2, res := 0, head := 0, free := 2, filled := 0, prod := 1, tok := 0, eos := false, fill := [], held := [], reqs := [] }
def ringed (f : Ring → Ring) : State := at0.modTeam 0 fun tm => { tm with rings := [f ring0] }
theorem test_rjoin : (run (.rjoin (.ext e0)) (ringed id) fun t => (t.ring 0 0).map (·.prod) = some 2 && (t.thread T).map (·.owes) = some [0]) = true := by decide
theorem test_rget : (gives (.rget (.ext { e0 with d := 3 })) (ringed fun r => { r with free := 1, filled := 1, fill := [.slot 1 true] }) 3 80
    && run (.rget (.ext { e0 with d := 3 })) (ringed id) fun t => waits t T (.rget 0 3)) = true := by decide
theorem test_rput : (run (.rput (.ext { e0 with a := 2047 })) (ringed id |>.modThread T fun th => { th with lane := [(0, 1)] }) fun t => (t.team 0).map (·.scratch) = some [(64, 1)]) = true := by decide
theorem test_reos : (run (.reos (.ext e0)) (ringed id |>.modThread T fun th => { th with owes := [0] }) fun t => (t.ring 0 0).map (·.tok) = some 1) = true := by decide
/-- R226: the payload stands in bits [63:16]. -/
theorem test_fres : (run (.fres (.ext { e0 with a := 2047, b := 6, space := 4, size := 3 })) (mapped 0 0 (rg [(6, 0x7)])) fun t => t.mem = [(0, 1), (2, 7)]) = true := by decide
/-- R202, R231: a copy of two bytes is in flight, one element to come. -/
theorem test_cpy : (run (.cpy (.ext { e0 with d := 2047, a := 1, b := 2, c := 4, space := 1, x := 0x090 })) (rg [(1, 32), (2, 2), (4, 8)] |>.modTeam 0 fun tm => { tm with scratch := [(32, 9), (33, 8)] }) fun t =>
    t.ops.map (·.kind) = [.cpy 1 0 1 32 2] && t.ops.map (·.todo) = [[0]]) = true := by decide
/-- R246-R249. -/
theorem test_trowel : (run (.mjoin (.ext e0)) at0 fun t => (t.team 0).map (fun tm => (tm.mat.members, tm.mat.holder)) = some ([0], some 0)) = true := by decide
theorem test_mflip : (run (.mflip (.ext e0)) (at0.modTeam 0 fun tm => { tm with mat := { tm.mat with shadow := { fmt := 1 } } }) fun t =>
    (t.team 0).map (fun tm => (tm.mat.active.fmt, tm.mat.shadow.fmt)) = some (1, 15)) = true := by decide
theorem test_no_tiles : traps (.mflip (.ext e0)) (entry at0 |> body fun b => { b with acc := 0 }) 0x12 0x69 = true := by decide
set_option exponentiation.threshold 600 in
/-- R261: a record that is not valid has status 0, and is written. -/
theorem test_thset : (run (.thset (.ext { e0 with d := 3, a := 2047, b := 9, space := 1 })) (mapped 0 0 at0 |>.modTeam 0 fun tm => { tm with scratch := [(0, 5)] }) fun t =>
    t.vreg T 3 = 0 && (t.context 0).map (·.handles) = some [(9, 5)]) = true := by decide
/-- R264, R267: trap and tret. -/
theorem test_trap : (run (.trap (.ext { e0 with b := 2047, x := 5 })) (entry at0) fun t => (t.thread T).map (fun th => (th.tcause, th.taux, th.tepc, th.pc)) = some (0x20, 5, 12, 0x100)) = true := by decide
theorem test_tret : (run (.tret (.ext e0)) (at0.modThread T fun th => { th with inTrap := true, tepc := 0x40 }) (fun t => pcIs t T 0x40 && (t.thread T).map (·.inTrap) = some false)
    && traps (.tret (.ext e0)) (entry at0) 0x0A 0x76) = true := by decide
theorem test_illegal : (match step (entry (State.reset.withFetchWord 32 0x00000000)) with | .next t => (t.thread T).map (fun th => (th.tcause, th.taux, th.pc)) = some (0x08, 0, 0x100) | _ => false) = true := by decide
/-- R268: the bits of ptbase that can be set. -/
theorem test_csrw : (run (.csrw (.ext { e0 with a := 1, b := 6 })) (privileged (rg [(6, 0xFFFFFFFF), (7, 0xFFFFFFFF)])) fun t => SMap.get 0 t.csr 1 = 0x000FFFFFFFFFF000) = true := by decide
theorem test_csrr_user : traps (.csrr (.ext { e0 with d := 6, a := 0 })) (entry at0) 0x0A 0x79 = true := by decide
theorem test_time : (run (.time (.ext { e0 with d := 4 })) { at0 with clk := 24 } fun t => t.vreg T 4 = 10) = true := by decide
theorem test_sig_no_entry : gives (.sig (.ext { e0 with d := 3, b := 2047 })) at0 3 3 = true := by decide
theorem test_cinval : (run (.cinval (.ext { e0 with a := 2, b := 2047 })) (mapped 0 0 at0) fun t => t.tlb = []) = true := by decide
theorem test_fence : (run (.fence (.ext { e0 with scope := 1 })) { at0 with fabSince := [(2, .thread T)], fabSent := [(2, 7)] } fun t =>
    waits t T (.fence [0] []) && t.markers = [{ id := 0, port := 2, count := 7, who := [.thread T], covers := [] }] && t.agenda = [.fenceMarkerAnswer 0 false]) = true := by decide
/-- One step fetches, decodes and runs: add v2, v0, v1. -/
theorem test_step : (match step (State.reset.withFetchWord 32 0x00102001) with | .next t => pcIs t T 4 | _ => false) = true := by decide
/-- R34: a picker cycle is one cycle of the clock. -/
theorem test_picker_cycle : (run .pickerCycle at0 fun t => t.clk = at0.clk + 1) = true := by decide
theorem test_host_write : (run (.hostWrite 0x100 [1, 0, 2]) State.reset fun t => t.mem = [(0x100, 1), (0x102, 2)]) = true := by decide
theorem test_reset_memory : Memory.wf State.reset.mem = true := by decide
/-- R296; the words are those of the public definition of RV64IMAC: addi, ld, sd, lui, beq, jal, mul, lr.d, sc.d, amoadd.d, ecall, ebreak, wfi. -/
theorem test_hod_decodes : ([(0x00150513, .aluImm .add false 10 10 1), (0x0005B783, .load 8 true 15 11 0), (0x00F5B423, .store 8 11 15 8), (0x12345537, .lui 10 0x12345000),
    (0x00B50463, .branch 0 10 11 8), (0x010000EF, .jal 1 16), (0x02B50533, .alu .mul false 10 10 11), (0x1006352F, .lr 8 10 12), (0x18B6352F, .sc 8 10 12 11), (0x00B6352F, .amo .add 8 10 12 11),
    (0x73, .ecall), (0x00100073, .forbidden), (0x10500073, .forbidden), (0, .illegal)] : List (Nat × RvInstr)).all fun x => rvDecode x.1 = x.2 := by decide
/-- c.li a0,5; c.mv a0,a1; c.jr ra; c.addi sp,-16; c.sdsp ra,8(sp). -/
theorem test_hod_short : ([(0x4515, .aluImm .add false 10 0 5), (0x852E, .alu .add false 10 0 11), (0x8082, .jalr 0 1 0), (0x1141, .aluImm .add false 2 2 0xFFFFFFFFFFFFFFF0),
    (0xE406, .store 8 2 1 8)] : List (Nat × RvInstr)).all fun x => rvDecode x.1 = x.2 := by decide
/-! ## Witnesses: for each statement, states and operands that meet its hypotheses -/

/-- `i` is well-formed, its own effect is due, and `ok` holds of the context and the state in which the effect starts. -/
def meets (s : State) (i : Instr) (ok : Ctx → State → Bool) : Bool := i.wf && match s.performs i with | some (c, s0) => ok c s0 | none => false

def intInstrs : List Instr :=
  [.addBase { s := 0, g := 0, d := 3, a := 1, b := 2 }, .subBase { s := 0, g := 0, d := 3, a := 1, b := 2 }, .mulBase { s := 0, g := 0, d := 3, a := 1, b := 2 },
   .minBase { s := 0, g := 0, d := 3, a := 1, b := 2 }, .maxBase { s := 0, g := 0, d := 3, a := 1, b := 2 }, .add (.ext (r3 9)), .sub (.ext (r3 9)), .mul (.ext (r3 9)), .mad (.ext { r3 9 with c := 4 }),
   .abs (.ext { r3 5 with b := 0 }), .mulh (.ext (r6 10)), .min (.ext (r3 5)), .max (.ext (r3 5)), .add (.ext { r3 5 with d := 1536, a := 1537, b := 2047, lit := some 0xFFFFFFFF })]
theorem witness_IntegerArithmeticResult : (due at0 intInstrs && intInstrs.all fun i => (Claims.intRow i).isSome) = true := by decide
/-- A zero divisor, the one overflow, and an ordinary division. -/
theorem witness_DivisionResult : ([ab 5 0, ab 0x80000000 0xFFFFFFFF, ab 0xFFFFFFF9 2].all fun s => due s [.div (.ext (r3 5)), .rem (.ext (r3 5)), .div (.ext (r6 10)), .rem (.ext (r6 6))]) = true := by decide
def logicInstrs : List Instr :=
  [.andBase { s := 0, g := 0, d := 3, a := 1, b := 2 }, .orBase { s := 0, g := 0, d := 3, a := 1, b := 2 }, .xorBase { s := 0, g := 0, d := 3, a := 1, b := 2 }, .andnBase { s := 0, g := 0, d := 3, a := 1, b := 2 },
   .shlBase { s := 0, g := 0, d := 3, a := 1, b := 2 }, .shrBase { s := 0, g := 0, d := 3, a := 1, b := 2 }, .sarBase { s := 0, g := 0, d := 3, a := 1, b := 2 }, .and (.ext (r3 9)), .or (.ext (r3 9)), .xor (.ext (r3 9)),
   .andn (.ext (r3 9)), .shl (.ext (r3 9)), .shr (.ext (r6 10)), .sar (.ext (r3 5)), .rot (.ext (r3 9)), .popc (.ext { r3 9 with b := 0 }), .clz (.ext { r3 9 with b := 0 }), .brev (.ext { r3 9 with b := 0 })]
theorem witness_LogicAndBitFields : (due at0 logicInstrs && (logicInstrs.all fun i => (Claims.logicRow i).isSome) && due at0 [.bfx (.ext (r3 5)), .bfi (.ext (r3 9))]) = true := by decide
theorem witness_SelectMoveResult : (due (rg [] 1) [.sel (.ext { r3 9 with c := 1600 }), .sel (.ext { r3 9 with c := 1601 }), .lea (.ext { e0 with d := 4, a := 6, space := 4 }), .lea (.ext { e0 with d := 4, a := 6, space := 1 }),
    .movBase { s := 0, g := 0, d := 3, a := 1, b := 0 }, .mov (.ext { r3 9 with b := 0 }), .moviBase { s := 0, g := 0, d := 3, a := 63, b := 63 }, .movi (.ext { e0 with ty := 9, d := 3 }), .movi (.ext { e0 with ty := 9, d := 3, lit := some 7 }),
    .movi (.baseLit { s := 0, g := 0, d := 3, a := 0, b := 0 } 7)]) = true := by decide
theorem witness_PredicateResult : (due at0 ([0, 1, 2, 3, 4, 5].map fun fn => Instr.cmp (.ext { r3 9 with fn, d := 1600 }))
    && due at0 [.pand (.ext { e0 with d := 1600, a := 1601, b := 1602 }), .por (.ext { e0 with d := 1600, a := 1601, b := 1602 }), .pxor (.ext { e0 with d := 1600, a := 1601, b := 1602 }), .pnot (.ext { e0 with d := 1600, a := 1601 })]) = true := by decide
/-- In a handler, where movs and movt reach the trap registers. -/
def handling : State := at0.modThread T fun th => { th with inTrap := true }
theorem witness_SpecialRegisters : (due handling ([0, 1, 2, 3, 4, 5, 6, 7, 8, 9, 10, 11, 12, 13].map fun a => Instr.movs (.ext { e0 with ty := 10, d := 4, a }))
    && due handling ([10, 11, 12, 13].map fun d => Instr.movt (.ext { e0 with d, a := 1 })) && due at0 [.movt (.ext { e0 with d := 13, a := 1 })]) = true := by decide
/-- Sums of finite terms with a zero result, of infinities of both signs and of one, of NaN; and a product with NaN. -/
theorem witness_FloatRounding : exactSum .rd [.fin false 1 0, .fin true 1 0] = .fin true 0 0 ∧ exactSum .rne [.inf true, .inf false] = .nan ∧ exactSum .rne [.inf true, .fin false 1 0] = .inf true
    ∧ exactSum .rne [.nan, .inf true] = .nan ∧ FVal.mul (.inf true) (.fin false 0 0) = .nan ∧ F32 ∈ Claims.formats ∧ F32.round .rne true 0 0 = 0x80000000 ∧ F16.round .rz false 0x1FFFF 0 = 0x7BFF := by decide
def fpInstrs : List Instr :=
  [.faddBase { s := 0, g := 0, d := 3, a := 1, b := 2 }, .fsubBase { s := 0, g := 0, d := 3, a := 1, b := 2 }, .fmulBase { s := 0, g := 0, d := 3, a := 1, b := 2 }, .fadd (.ext { r3 0 with rnd := .ru, sat := true }), .fsub (.ext (r3 1)),
   .fmul (.ext (r3 16)), .ffma (.ext { r3 2 with c := 4 })]
theorem witness_FloatArithmetic : (due at0 fpInstrs && (fpInstrs.all fun i => (Claims.floatRow i).isSome) && due at0 [.fpk (.ext (r3 16)), .ffma2 (.ext { r3 17 with c := 4 })]) = true := by decide
theorem witness_FloatCompareResult : (due at0 [.fminBase { s := 0, g := 0, d := 3, a := 1, b := 2 }, .fmaxBase { s := 0, g := 0, d := 3, a := 1, b := 2 }, .fmin (.ext (r3 16)), .fmax (.ext (r3 1))]
    && due (ab 0x7FC00000 0) ([0, 1, 2, 3, 4, 5, 6, 7].map fun fn => Instr.fcmp (.ext { r3 0 with fn, d := 1600 }))) = true := by decide
def functions : List Instr :=
  [.frcp (.ext { r3 0 with b := 0 }), .frsq (.ext { r3 0 with b := 0 }), .fsqrt (.ext { r3 1 with b := 0 }), .fex2 (.ext { r3 0 with b := 0 }), .flg2 (.ext { r3 0 with b := 0 }), .ftanh (.ext { r3 2 with b := 0 })]
/-- A positive power of two, NaN, both infinities, both zeros. -/
theorem witness_FloatFunctionResult : ([0x40800000, 0x7FC00000, 0x7F800000, 0xFF800000, 0, 0x80000000, 0xBF800000].all fun a => due (ab a 0) functions) = true := by decide
theorem witness_FloatConversionResult : (due at0 [.fcvt (.ext { e0 with ty := 5, d := 3, a := 1 }), .fcvt (.ext { e0 with ty := 0, fn := 6, d := 3, a := 2 }), .fcvt (.ext { e0 with ty := 3, fn := 10, d := 3, a := 2 })]
    && ([0, 0x80000000, 1, 0x80000001, 0x3F800000, 0xBF800000, 0x7F800000, 0xFF800000, 0x7F800001, 0x7FC00000].all fun a => due (ab a 0) [.fcla (.ext { e0 with d := 3, a := 1 })])) = true := by decide

def collectives : List Instr :=
  [.ballot (.ext { e0 with d := 3, a := 1600 }), .shfl (.ext (r3 9)), .cred (.ext { r3 0 with b := 0 }), .cscan (.ext { r3 9 with b := 0 }), .cbar (.ext e0)]
/-- The second thread of the course has joined nothing; or waits in the record that the first one closes. -/
def joined (i : Instr) : State :=
  let e := match i.parts with | some (_, e, _) => e | none => e0
  let op := match i.parts with | some (op, _, _) => op | none => 0
  (pairOf (fun th => { th with wait := some { why := .coll 0, next := 12 } }) at0).modTeam 0 fun tm =>
    { tm with colls := [{ course := 0, pc := 0, opcode := op, fn := e.fn, ty := e.ty, rnd := e.rnd, joined := [1], live := [{ tid := 1, value := 1, sel := 0, dest := e.d, next := 12 }] }] }
theorem witness_Collectives : (collectives.all fun i =>
    meets (pairOf id at0) i (fun c _ => Claims.isCollective i && !c.th.exited && (c.tm.colls.isEmpty) && Claims.others c (pairOf id at0) = [1])
      && meets (joined i) i fun c _ =>
        let r := Claims.openRecord c (joined i)
        let live := r.live ++ [Claims.presents c]
        (c.tm.colls.all fun q => decide (q = r)) && c.tm.colls.length ≤ 1 && !r.joined.contains c.t.tid
          && ((Claims.others c (joined i)).all fun k => r.joined.contains k) && live.map (·.tid) = [1, 0] && !c.th.exited
          && r.live.all fun j => (joined i).courseOf c.tm j.tid = r.course && (match regOf j.dest with | .s _ => false | _ => true)
            && ((c.tm.threads[j.tid]?).bind (·.wait)).map (fun w => (w.why, w.next)) = some (.coll r.pc, j.next)) = true := by decide
theorem witness_ControlTransfer : (due at0 [.braBase { s := 0, g := 0, d := 63, a := 63, b := 60 }, .bra (.ext { e0 with lit := some 8 }), .jmpi (.ext { e0 with a := 1 }), .callBase { s := 0, g := 0, d := 0, a := 0, b := 2 }, .call (.ext { e0 with x := 3 }),
      .calli (.ext { e0 with a := 1 })]
    && due (at0.modThread T fun th => { th with depth := 1 }) [.retBase { s := 0, g := 0, d := 0, a := 0, b := 0 }, .ret (.ext e0)]) = true := by decide
/-- A slot that is fetching, and slots that are not. -/
def fetching : State := at0.modTeam 0 fun tm => { tm with slots := [(3, { state := 1 })], s := [(1, 3)] }
theorem witness_OverlayCode : (due fetching [.jmpf (.ext { e0 with a := 3, x := 4 }), .jmpf (.ext { e0 with a := 0 }), .jmpf (.ext { e0 with a := 15, lit := some 8 })]
    && meets fetching (.cfetch (.ext { e0 with a := 1536, b := 1537, space := 4 })) (fun c _ => c.r.valImm c.e false 32 = 3 && c.r.val c.e.a 64 % 256 = 0)
    && meets (fetching.modTeam 0 fun tm => { tm with s := [(1, 0x15)] }) (.cfetch (.ext { e0 with a := 1536, b := 1537, space := 4 })) fun c _ => c.r.valImm c.e false 32 % 16 = 5) = true := by decide
/-- A neighbour that has not arrived, and one that waits at the barrier. -/
theorem witness_BarrierGenerations : ([Instr.bar (.ext e0), .barBase { s := 0, g := 0, d := 0, a := 0, b := 0 }].all fun i =>
    meets (pairOf id at0) i (fun c _ => c.tm.alive = [0, 1] && c.th.wait.isNone && (at0.lostRed T).isNone)
      && meets (pairOf (fun th => { th with wait := some { why := .bar, next := 12 } }) at0) i fun c _ => c.tm.alive = [0, 1])
    && meets (pairOf id at0) (.barn (.ext { e0 with a := 7, b := 2041 })) (fun c _ => (c.tm.barnWaiters 7).length + 1 < c.r.valImm c.e false 32)
    && meets ((pairOf (fun th => { th with wait := some { why := .barn 7, next := 12 } }) at0).modTeam 0 fun tm => { tm with barns := [(7, 2)] }) (.barn (.ext { e0 with a := 7, b := 2041 })) (fun c _ =>
      (c.tm.barnWaiters 7).length + 1 = c.r.valImm c.e false 32) = true := by decide
theorem witness_ExitNopYieldSleep : (due at0 [.nopBase { s := 0, g := 0, d := 0, a := 0, b := 0 }, .nop (.ext e0), .yieldBase { s := 0, g := 0, d := 0, a := 0, b := 0 }, .yield (.ext e0), .exitBase { s := 0, g := 0, d := 0, a := 0, b := 0 },
    .exit (.ext e0), .sleep (.ext { e0 with b := 2047 }), .sleep (.ext { e0 with b := 2040 })] && (at0.lostRed T).isNone) = true := by decide
/-- The access of `i` reaches a place that `ok` accepts, in the state that `locate` leaves. -/
def reaches (s : State) (i : Instr) (wide store : Bool) (ok : Ctx → State → Loc → Bool) : Bool :=
  meets s i fun c s0 =>
    let n := Claims.bytes c.e
    let s2 := if store && 2 ≤ c.e.space.toNat then c.revoke s0 else s0
    match s2.locate (c.agent s2) c.e.space (c.r.ea c.e c.e.a wide) n n store 0 (c.op = 0x54) with
    | .ok (s1, l) => ok c s1 l
    | .error _ => false
/-- R354: entry 0 of the operand log is free. -/
def freeLog (c : Ctx) : Bool := (c.th.log[0]?).map (fun en => (en.busy, en.valid)) = some (false, false)
/-- Module memory, host memory through the stream-free window of type 2, and the spaces on the chip. -/
def gmem : State := mapped 0x1000 0 (rg [(4, 8), (6, 5)]) |> body fun b => { b with dscr := 1 }
def spaces : List (BitVec 3) := [0, 1, 2, 3, 4]
/-- A load there has its answer, and no mark. -/
def answers (c : Ctx) (s : State) (l : Loc) (n : Nat) : Bool := !s.isFabric l && !s.isPosted l && !s.linkGone l && !s.loadMarked (l1Of (c.agent s).core) (s.ptsOf c.t) l n
theorem witness_LoadResult : ((spaces.all fun space => reaches gmem (.ld (.ext { e0 with d := 8, a := 4, size := 3, space })) false false fun c s1 l => freeLog c && answers c s1 l 8)
    && [3, 4].all fun ty => reaches gmem (.ld (.ext { e0 with ty, d := 8, a := 4, size := if ty = 3 then 0 else 1 })) false false fun c s1 l => freeLog c && answers c s1 l 8
    && reaches gmem (.ldBase { s := 0, g := 0, d := 8, a := 4, b := 3 }) false false fun c s1 l => freeLog c && answers c s1 l 4) = true := by decide
def isOrdinary (l : Loc) : Bool := match l with | .phys _ type => type = 0 || type = 2 | _ => true
theorem witness_StoreResult : ((spaces.all fun space => [0, 1, 2, 3, 4].all fun size => reaches gmem (.st (.ext { e0 with d := 8, a := 2047, size, space })) false true fun c s1 l => freeLog c && isOrdinary l && !s1.unowned l)
    && reaches (mapped 0x100000000000 2 (full at0)) (.st (.ext { e0 with d := 8, a := 4, size := 2, space := 4 })) false true (fun c s1 l => freeLog c && isOrdinary l && s1.unowned l && !s1.linkGone l)
    && reaches gmem (.stBase { s := 0, g := 0, d := 8, a := 4, b := 2 }) false true fun c s1 l => freeLog c && isOrdinary l && !s1.unowned l) = true := by decide
/-- Each function, in integer and floating-point types; host memory with scope 2. -/
theorem witness_AtomResult : (([0, 1, 2, 3, 4, 5, 6].all fun fn => [1, 2, 3, 4].all fun space =>
      reaches gmem (.atom (.ext { e0 with ty := 9, fn, d := 8, a := 2047, b := 6, size := 2, space })) false true fun c s1 l => freeLog c && isOrdinary l && !s1.poisoned l 4 && !s1.linkGone l && !s1.unowned l)
    && reaches gmem (.atom (.ext { e0 with fn := 7, d := 8, a := 4, b := 12, c := 16, size := 4, space := 4, x := 8 })) true true (fun c s1 l => freeLog c && isOrdinary l && !s1.poisoned l 16 && !s1.linkGone l && !s1.unowned l)
    && reaches (mapped 0x100000000000 2 (full at0)) (.atom (.ext { e0 with ty := 10, d := 8, a := 4, b := 6, size := 3, space := 4, scope := 2 })) false true fun c s1 l => freeLog c && !s1.poisoned l 8 && !s1.linkGone l && s1.unowned l && match l with | .phys _ 2 => true | _ => false) = true := by decide
/-- A misaligned address, and the first address beyond each space. -/
theorem witness_AccessFaultIsLogged : ([(0, 2), (1, 2), (3, 2), (0, 1024), (1, 4096), (3, 65536)].all fun (space, a) => [Instr.ld (.ext { e0 with d := 3, a := 1, size := 2, space := BitVec.ofNat 3 space }),
      .st (.ext { e0 with d := 3, a := 1, size := 2, space := BitVec.ofNat 3 space })].all fun i =>
    meets (rg [(1, BitVec.ofNat 32 a)] |> body fun b => { b with dscr := 1 }) i fun c _ => freeLog c && c.tm.wave.isNone && (c.r.ea c.e c.e.a false).toNat = a) = true := by decide
/-- An access under way, without and with a fault. -/
def inLog (en : LogEntry) : State := at0.modThread T fun th => { th with log := [en, {}, {}, {}] }
theorem witness_VariableResultReturns : ([none, some { code := 0x42, aux := 1 }].all fun fault => let s := inLog { busy := true, dest := 3, fault }
    ((s.thread T).bind (·.log[0]?)).map (·.busy) = some true && !s.hodHolds (.thread T)) = true
    ∧ (inLog { busy := true, dest := 3, link := some (3, 0) }).lost = [] ∧ (3, 0) ∈ ({ inLog { busy := true, dest := 3, link := some (3, 0) } with lost := [(3, 0)] } : State).lost
    ∧ (let s := inLog { busy := true, opcode := 0x51, size := 2, place := some (.phys 0x100000000000 2), link := some (0, 0) }
       let t := { s with slices := [(s.homeOf 0x100000000000, { frames := [{ sb := 0x100000000000 / 512, va := 0, valid := 15, dirty := 0, strm := 0, kept := false, asid := 0, bay := 0 }] })] }
       s.l2Holds 0x100000000000 = false ∧ s.linkGone (.phys 0x100000000000 2) = false ∧ s.lost = [] ∧ s.hodHolds (.thread T) = false ∧ t.l2Holds 0x100000000000 = true ∧ t.lost = [] ∧ t.hodHolds (.thread T) = false) := by decide
theorem witness_FlushPoints : (due at0 [.rflush (.ext e0), .rclose (.ext { e0 with a := 3 }), .fence (.ext { e0 with scope := 0 }), .fence (.ext { e0 with scope := 1 }), .fence (.ext { e0 with scope := 2 })]
    && due { at0 with fabSince := [(1, .thread T)], relaxed := [{ port := 0, pa := 0, bytes := [] }] } [.fence (.ext { e0 with scope := 1 }), .fence (.ext { e0 with scope := 2 })] && (at0.lostRed T).isNone && at0.fabSince = [] && at0.markers = [] && at0.relaxed = []) = true := by decide
/-- Of no thread but T is there a wait, and T has none. -/
theorem witness_storesDone : at0.storesDone T := by
  refine ⟨rfl, by decide, rfl, ?_, by decide⟩
  rintro ⟨i, k⟩ fab sys
  match i, k with
  | 0, 0 => exact fun h => nomatch h
  | 0, k + 1 => exact fun h => nomatch h
  | i + 1, k => exact fun h => nomatch h
/-- A contribution to region 15 of physical address 0x1008. -/
def contribution : Contribution := { pa := 0x1008, va := 8, op := 0, ty := 9, rnd := .rne, value := 5, region := 15, key := [0, 0, 0, 0, 0], asid := 0, launch := 0, pts := 0, bad := false }
theorem witness_Reductions : (meets gmem (.red (.ext { e0 with ty := 9, a := 4, b := 6, c := 15, space := 4, size := 2 })) (fun c s0 => match s0.locate (c.agent s0) 4 (c.r.ea c.e c.e.a true) 4 4 true with
      | .ok (_, .phys pa type) => (pa, type) = (0x1008, 0) | _ => false)
    && (((({ gmem with contexts := [{ asid := 0, bay := 0, pending := [contribution] }] } : State).context 0).map fun (x : Context) => x.pending.length) = some 1)) = true := by decide
def trappable (s : State) (tm : Team) (th : Thread) (inHandler : Bool) : Bool :=
  th.inTrap = inHandler && tm.wave.isNone && (s.privileged tm || (s.launchOf tm).body.tentry ≠ 0)
def get3 : Instr := .rget (.ext { e0 with d := 3 })
theorem witness_RingRead : ([ringed fun r => { r with eos := true }, ringed fun r => { r with free := 1, filled := 1, fill := [.slot 1 true], head := 1 }, ringed fun r => { r with tok := 1 }, ringed id].all fun s =>
    meets s get3 fun c _ => match c.tm.rings[c.e.a.toNat]? with | some r => r.filled = filledOf r.fill | none => false) = true := by decide
theorem witness_RingSlotsAndProducers :
    (([0, 1].all fun space => meets (ringed id) (.rput (.ext { e0 with a := 2047, space })) (fun c s0 =>
        (c.tm.rings[0]?).map (fun r => r.reqs = [] && r.canReserve && !r.eos) = some true && s0.slotFaults (c.agent s0) space (c.r.ea c.e c.e.a false) 1 = [] && c.th.lanePoison = [] && c.tm.scratchPoison = []
        && (ringed id).windowFor 0 (.ring T 0 (.put T space 0)) = [] && (match (c.revoke s0).putSlot T 0 space 0 with | .ok _ => true | .error _ => false)))
    && ([ringed fun r => { r with free := 0, held := [0, 1] }, ringed fun r => { r with reqs := [.put U 0 0] }].all fun s => meets s (.rput (.ext { e0 with a := 2047 })) (fun c s0 => s0.slotFaults (c.agent s0) 0 0 1 = []
        && (s.windowFor 0 (.ring T 0 (.put T 0 0))) = [] && s.pushQueue c.tm.core < 16 && (c.tm.rings[0]?).any fun r => !r.eos && (r.reqs ≠ [] || !r.canReserve)))
    && due (ringed id) [.rjoin (.ext e0)]
    && meets (entry (ringed fun r => { r with prod := 255 })) (.rjoin (.ext e0)) (fun c _ => c.th.owes = [] && trappable (entry (ringed fun r => { r with prod := 255 })) c.tm c.th false && c.th.log.all fun en => en.fault = none)
    && ([ringed fun r => { r with free := 0, held := [0, 1], reqs := [.put U 0 0] }, ringed id, ringed fun r => { r with free := 1, filled := 1, fill := [.slot 1 true], head := 1 }].all fun s =>
      meets (s.modThread T fun th => { th with owes := [0] }) (.reos (.ext e0)) fun c _ => !s.copiesReserving T 0 && s.ringReaders 0 0 = [] && c.th.owes = [0] && (c.tm.rings[0]?).any fun r =>
        r.filled = filledOf r.fill && (r.reqs = [] || (r.reqs = [.put U 0 0] && !r.canReserve)))
    && ([ringed id, { ringed id with ops := [{ id := 0, t := T, asid := 0, core := 0, kind := .ring 0 1 0 16 [], word := none, todo := [], pts := 0 }] }].all fun s =>
      due (s.modThread T fun th => { th with owes := [0] }) [.rjoin (.ext e0), .reos (.ext e0)])
    && (ringed id).copiesReserving T 0 = false
    && { ringed id with ops := [{ id := 0, t := T, asid := 0, core := 0, kind := .ring 0 1 0 16 [], word := none, todo := [], pts := 0 }] }.copiesReserving T 0 = true) = true := by decide
set_option exponentiation.threshold 600

/-! Futures, tasks and engines: a context with handles, descriptors of zeros in the scratchpad, and registers that point there. -/

def fresI (poison : Bool) : Instr := if poison then .fresPoison (.ext { e0 with a := 2047, b := 6, space := 4, size := 3, sat := true }) else .fres (.ext { e0 with a := 2047, b := 6, space := 4, size := 3 })
def isOk {α β : Type} (x : Except α β) (ok : β → Bool) : Bool := match x with | .ok y => ok y | .error _ => false
def tasks (mem : Memory) : State := { mapped 0 0 (rg [(4, 64)]) with mem, contexts := [{ asid := 0, bay := 0, regs := [{ future := 0, record := 128, va := 128, f := 0 }] }] }
/-- A pending future at 0 with a registration, whose record waits for it alone; a sound record at 64 that names the first `n` of the futures at 0, 8, 16 and 24,
which are pending, resolved, poisoned and pending. -/
theorem witness_FuturesAndTasks : (([true, false].all fun p => meets (tasks [(128, 8)]) (fresI p) fun c s0 => isOk (c.objectAt s0 (c.r.ea c.e c.e.a false) 8) fun x => x.1.mem.read x.2 8 % 4 = 0)
    && ([.tspawn (.ext { e0 with a := 4, space := 4 }), .treg (.ext { e0 with a := 4, space := 4 })] : List Instr).all fun i => [0, 1, 2, 3, 4].all fun n =>
      meets (tasks [(8, 1), (16, 2), (64, n), (88, 8), (96, 16), (104, 24)]) i fun c s0 => isOk (c.objectAt s0 (c.r.ea c.e c.e.a false) 64) fun x =>
        let r := x.1.mem.read x.2 64
        recordFault r = none && r % 8 = n.toNat && isOk (c.futures x.1 r (numbers 0 n.toNat)) fun y =>
          y.2.map (·.2) = (List.range n.toNat).map (8 * ·) && y.2.all fun f => f.2 + 8 ≤ x.2 && y.1.registeredAt (y.1.homeOf f.2) + n.toNat ≤ 1024
            && y.1.windowFor 0 (.treg (y.1.homeOf f.2) T 0 0 { future := f.2, record := x.2, va := 64, f := f.1 }) = [] && y.1.mem.read f.2 8 % 4 < 3 && y.1.mem.read f.2 8 / 4 % 2 ^ 14 < 16383) = true := by decide

/-- R104: a valid record of format `fmt` with first extent `d0`, the others 1, and further bits of word 7. -/
def record (fmt d0 more : Nat) : Nat := d0 * 2 ^ 128 + 2 ^ 152 + (1 + 2 ^ 24) * 2 ^ 192 + (fmt + 128 + more) * 2 ^ 448
/-- Handles of f32, bf16, spectral complex bf16 with blocks of 64, and bx8. -/
def handles : SMap Nat := [(1, record 0 64 0), (2, record 2 64 0), (3, record 13 64 (4096 + 16384)), (4, record 11 64 0)]
def eng : State :=
  { full (mapped 0 0 (rg [(1, 64), (2, 16)])) with contexts := [{ asid := 0, bay := 0, handles }] }.modTeam 0 fun tm =>
    { tm with scratch := [(69, 2)], mat := { active := { fmt := 2 } } }
def ready (s0 : State) (c : Ctx) : Bool := (s0.ops.filter (·.core = Claims.engineOf s0 c)).length < 64 && (c.checkWord s0).faults = []
/-- R202: the completion word in the scratchpad at 0. -/
def word (x : BitVec 10 := 0) : Ext := { e0 with c := 2047, x := 0x10 ||| x }

/-- A list of one word, or of none, at 16. -/
def listed (n : Nat) : State := eng.modTeam 0 fun tm => { tm with scratch := if n = 0 then tm.scratch else (16, 1) :: tm.scratch }
theorem witness_Copies : ([2, 2047].all (fun b => meets eng (.cpy (.ext { word 0x080 with d := 1, a := 2, b, space := 1 })) (fun c s0 => ready s0 c && ((c.checkWord s0).loc = some (.scr 0 0)) && (c.r.val c.e.b 32 = 0) = (b = 2047)))
    && meets eng (.cpy (.ext { word 0x200 with d := 1, a := 4, b := 2047, space := 1, lit := some 0x0010000000000000 })) (fun c s0 => ready s0 c)
    && (([.gath (.ext { word 0x080 with d := 1, a := 2, b := 2, space := 1, size := 2 }), .scat (.ext { word 0x080 with d := 1, a := 2, b := 2, space := 1, size := 2 })] : List Instr).all fun i => [0, 1].all fun n => meets (listed n) i fun c s0 =>
        let w := c.checkWord s0
        let l := c.readDesc w.s 1 (BitVec.ofNat 64 (c.r.val c.e.b 32)) 4 4 0
        ready s0 c && l.faults = [] && c.listFaults l.s (BitVec.ofNat 64 (c.r.val c.e.b 32)) l.value = [] && (c.readWords l.s (eaPlus 1 (BitVec.ofNat 64 (c.r.val c.e.b 32)) 4) l.value).1.faults = []
          && (c.readWords l.s (eaPlus 1 (BitVec.ofNat 64 (c.r.val c.e.b 32)) 4) l.value).2.length = n)
    && (([.ldt (.ext { word with d := 1, a := 1, b := 2, space := 1 }), .stt (.ext { word with d := 1, a := 1, b := 2, space := 1 })] : List Instr).all fun i => meets eng i fun c s0 =>
        let d := c.readDesc (c.checkWord s0).s 1 (c.r.ea0 c.e.b 1 (((c.e.lit.getD 0).extractLsb' 16 16).signExtend 64)) 16 16
        let h := Handle.ofRecord (c.handleRecord s0 c.e.a.toNat)
        ready s0 c && d.faults = [] && tileFaults c.e.a.toNat d.value 4 0 = [] && h.valid && bxFaults c.e.a.toNat d.value h.fmt = [])
    && meets { eng with mem := [(22, 2)] } (.coll (.ext { word with fn := 1, a := 2047, space := 4 })) (fun c s0 =>
        let g := c.readDesc (c.checkWord s0).s 4 (Claims.engineAddr c c.e.a 4 16) 64 64
        ready s0 c && g.faults = [] && collFaults c.e.fn.toNat g.value = [])
    && meets (ringed id |>.modThread T fun th => { th with v := [(2, 16)] }) (.cpyRing (.ext { word 0x208 with d := 0, a := 4, b := 2, space := 1 })) (fun c s0 => ready s0 c && c.r.val c.e.b 32 = 16 && s0.windowFor 0 (.ring T 0 (.copy 0)) = [] && s0.ops = []
        && (c.tm.rings[c.e.d.toNat]?).map (fun r => (r.eos, r.reqs.length, 16 % r.size)) = some (false, 0, 0))) = true := by decide

/-- With no participant, and with the trowel held. -/
theorem witness_MatrixOperationsStart : ([eng, eng.modTeam 0 fun tm => { tm with mat := { tm.mat with members := [0], holder := some 0 } }].all fun s =>
    meets s (.mflip (.ext e0)) (fun c _ => c.tm.mat.order = []) && meets (s.modTeam 0 fun tm => { tm with mat := { tm.mat with order := [7] } }) (.mflip (.ext e0)) (fun c _ => c.tm.mat.order ≠ [])
    && meets s (.mwld (.ext { word with a := 2, b := 2047 })) (fun c s0 =>
        let d := c.readDesc (c.checkWord s0).s 1 (c.r.ea0 c.e.b 1 (((c.e.lit.getD 0).extractLsb' 16 16).signExtend 64)) 32 32
        let h := Handle.ofRecord (c.handleRecord s0 2)
        ready s0 c && d.faults = [] && tileFaults 2 d.value 4 0 = [] && d.value / 2 ^ 128 % 2 ^ 57 = 0 && reservedFaults 2 d.value [(2, 63, 57), (3, 63, 0)] = [] && h.valid
          && (s0.mwldTop h.fmt).any (fun top => tileCols d.value ≤ top) && bxFaults 2 d.value h.fmt = [])
    && meets s (.mop (.ext { word with a := 1 })) (fun c s0 =>
        let d := c.readDesc (c.checkWord s0).s 1 (c.r.ea0 c.e.a 1 (((c.e.lit.getD 0).extractLsb' 16 16).signExtend 64)) 64 64
        let n := d.value / 2 ^ 40 % 2 ^ 8
        let h := Handle.ofRecord (c.handleRecord s0 n)
        ready s0 c && d.faults = [] && c.mopFaults d.s d.value = [] && n = 2 && h.valid && d.s.mopHandleFaults n (MopBlock.ofBits d.value) h (s0.planeHeads c.tm.mat).1 = [])
    && meets s (.mrd (.ext { word with a := 1, b := 2 })) fun c s0 =>
        let d := c.readDesc (c.checkWord s0).s 1 (c.r.ea0 c.e.b 1 (((c.e.lit.getD 0).extractLsb' 16 16).signExtend 64)) 16 16
        let h := Handle.ofRecord (c.handleRecord s0 1)
        ready s0 c && d.faults = [] && tileFaults 1 d.value 2 0 = [] && c.e.d.toNat < (s.launchOf c.tm).body.acc && h.valid && s0.mrdFmtOk h.fmt && !isComplex h.fmt) = true := by decide

theorem witness_TransformsStart :
    (meets eng (.xfwd (.ext { word with d := 3, a := 1 })) (fun c s0 => ready s0 c && transformFaults true 3 1 (Handle.ofRecord (c.handleRecord s0 3)) (Handle.ofRecord (c.handleRecord s0 1)) = [])
    && meets eng (.xinv (.ext { word with d := 1, a := 3 })) (fun c s0 => ready s0 c && transformFaults false 1 3 (Handle.ofRecord (c.handleRecord s0 1)) (Handle.ofRecord (c.handleRecord s0 3)) = [])
    && meets eng (.qbx (.ext { word with d := 4, a := 1 })) (fun c s0 => ready s0 c && quantFaults true 4 1 (Handle.ofRecord (c.handleRecord s0 4)) (Handle.ofRecord (c.handleRecord s0 1)) = [])
    && meets eng (.dqbx (.ext { word with d := 1, a := 4 })) (fun c s0 => ready s0 c && quantFaults false 1 4 (Handle.ofRecord (c.handleRecord s0 1)) (Handle.ofRecord (c.handleRecord s0 4)) = [])) = true := by decide

def trowel (members : List Nat) (holder : Option Nat) : State := (pairOf (fun th => { th with wait := some { why := .mtake, next := 12 } }) at0).modTeam 0 fun tm => { tm with mat := { tm.mat with members, holder } }
theorem witness_Trowel : (due (trowel [] none) [.mjoin (.ext e0)] && due (trowel [0, 1] (some 0)) [.mjoin (.ext e0), .mtake (.ext e0), .mpass (.ext e0)] && due (trowel [1, 0] (some 1)) [.mtake (.ext e0)]) = true := by decide

/-- A record of each status in the scratchpad at 0. -/
theorem witness_Handles : (meets eng (.thset (.ext { e0 with d := 3, a := 2047, b := 9, space := 1 })) (fun c s0 => isOk (s0.locate (c.agent s0) 1 0 64 64 false 2) fun x =>
        (match x.2 with | .scr _ _ => true | _ => false) && match (x.1.readWide T (c.agent s0).core x.2 ((c.agent s0).req 0 0 (some (.thread T))) 8 0).2 with | .ok _ => true | .error _ => false)
    && meets eng (.thget (.ext { e0 with a := 2047, b := 9, space := 4 })) (fun c s0 => isOk (s0.locate (c.agent s0) 4 0 64 64 true 2) fun x => isOrdinary x.2)
    && [0, record 0 64 16, record 15 64 0, record 0 64 0 + 1, record 11 16 0, record 0 64 4096, record 0 64 0].map eng.recordStatus = [0, 1, 2, 3, 4, 5, 0] && at0.recordStatus (record 11 64 0) = 2 && eng.recordStatus (record 11 64 0) = 0) = true := by decide
/-! Traps, privileged registers, signals, grout. -/

/-- The context of the issuing thread for `i`, whatever its causes. -/
def ctxOf (s : State) (i : Instr) (ok : Ctx → State → Bool) : Bool :=
  i.wf && match i.parts with
  | some (op, e, ws) => match s.ctx op e ws with | some (c, s0) => ok c s0 | none => false
  | none => false
def quietLog (th : Thread) : Bool := th.log.all fun en => match en.fault with | some f => 0x40 ≤ f.code | none => true
/-- For the second claim: a ret at depth 0, and an instruction that needs an absent feature. -/
theorem witness_TrapsTaken : (meets (entry at0) (.trap (.ext { e0 with b := 2047, x := 5 })) (fun c _ => trappable (entry at0) c.tm c.th false && quietLog c.th)
    && ([.ret (.ext e0), .gret (.ext e0), .tret (.ext e0)] : List Instr).all fun i => ctxOf (entry at0) i fun c s0 => c.causes s0 (guardTrue c.e c.r.p) ≠ [] && trappable (entry at0) c.tm c.th false && quietLog c.th) = true := by decide
/-- Each instruction with a privileged-state cause, where it meets it and where it does not. -/
theorem witness_PrivilegeCauses : ((([.tret (.ext e0), .tlog (.ext { e0 with d := 3 }), .tskip (.ext e0), .tskipValue (.ext { e0 with x := 1 }), .movt (.ext { e0 with d := 10 }), .movt (.ext { e0 with d := 13 }), .csrr (.ext { e0 with d := 4 }),
      .csrw (.ext { e0 with a := 1 }), .cinval (.ext { e0 with a := 2 }), .cinval (.ext { e0 with a := 3 }), .sigret (.ext e0), .nop (.ext e0)] : List Instr).all fun i =>
    [at0, handling, privileged handling, at0.modThread T fun th => { th with inSignal := true, depth := 2 }].all fun s => ctxOf s i fun c _ => guardTrue c.e c.r.p)) = true := by decide
def logged (en : LogEntry) : State := entry (handling.modThread T fun th => { th with tepc := 0x40, log := [en, {}, {}, {}] })
/-- An ld of the scratchpad at 0, and one beyond its end. -/
def ldAt (ea : W64) : LogEntry := { valid := true, opcode := 0x50, space := 1, size := 2, dest := 3, ea }
theorem witness_HandlerInstructions : (meets handling (.tret (.ext e0)) (fun c _ => (c.th.log.all fun en => !en.valid) && c.tm.wave.isNone)
    && meets ((handling.modThread T fun th => { th with tepc := 0x30000000 }).modTeam 0 fun tm => { tm with slots := [(3, { state := 1 })] }) (.tret (.ext e0)) (fun c _ => (c.tm.overlay 3).state = 1)
    && meets (logged (ldAt 0)) (.tret (.ext e0)) (fun c s0 => (s0.perform c.t c.tm (ldAt 0)).2.fault = none && (s0.perform c.t c.tm (ldAt 0)).2.place = none)
    && meets (logged (ldAt 0x10000)) (.tret (.ext e0)) (fun c s0 => (s0.perform c.t c.tm (ldAt 0x10000)).2.fault ≠ none && trappable (logged (ldAt 0x10000)) c.tm c.th true)
    && ([0, 1, 2, 3, 4, 7, 8, 11].all fun b => due (logged (ldAt 0)) [.tlog (.ext { e0 with d := 3, b })]) && due (logged (ldAt 0)) [.tskip (.ext e0), .tskipValue (.ext { e0 with x := 1, b := 5 })]) = true := by decide
theorem witness_PrivilegedRegisters : ([0, 1, 2, 3, 8, 11].all fun a => due (privileged at0) [.csrr (.ext { e0 with d := 4, a }), .csrw (.ext { e0 with a, b := 6 })]) = true := by decide
/-- A queue of context 0 whose event ring at 0x2000 has room; and one whose ring is full. -/
def queue0 : Queue := { desc := 0x1000, die := 0, asid := 0, bay := 0, ctl := true, base := 0x4000, nblk := 1, evring := 0x2000, rdix := 0, seq := 0 }
def queued (mem : Memory) (s : State := at0) : State := { s with queues := [queue0], contexts := [{ asid := 0, bay := 0 }], mem }
theorem witness_EventAndTime : ([[], [(0x2008, 1)]].all fun mem => due (queued mem) [.evsig (.ext { e0 with b := 2047, x := 5 }), .time (.ext { e0 with d := 4 })]) = true := by decide
/-- A signal entry; the sending thread's own team takes signal 2. -/
def signalled (f : Team → Team) : State := (body (fun b => { b with sentry := 0x80 }) at0).modTeam 0 fun tm => f { tm with signals := 4, threads := tm.threads.map fun th => { th with sigmask := 4 } }
theorem witness_Signals : (due at0 [.sig (.ext { e0 with d := 3, b := 2047 })] && due (signalled id) [.sig (.ext { e0 with d := 3, b := 2047 }), .sig (.ext { e0 with d := 3, b := 2044 })]
    && due (signalled fun tm => { tm with threads := tm.threads.map fun th => { th with inSignal := true, depth := 2 } }) [.sigret (.ext e0)]
    && ((signalled id).team 0).any (fun tm => tm.status = .placed && tm.wave.isNone && tm.signals.getLsbD 2 && !tm.signals.getLsbD 1 && !tm.signals.getLsbD 0
      && (tm.threads[0]?).any fun th => !th.exited && th.wait.isNone && !(signalled id).awaitsResult T && th.sigmask.getLsbD 2 && !th.inTrap && !th.inSignal && th.log.all (fun en => en.fault = none) && 8 * (th.depth + 2) ≤ (signalled id).laneSize tm)) = true := by decide
theorem witness_Invalidation : (([0, 1, 2].all fun a => due (mapped 0 0 at0) [.cinval (.ext { e0 with a, b := 2047 })]) && [3, 4].all fun a => due (privileged (mapped 0 0 at0)) [.cinval (.ext { e0 with a, b := 2047 })]) = true := by decide
/-- An installed program with a method 0 and a message entry; and a wave of two lanes. -/
def program : SliceProgram := { ilen := 1, image := [], emiss := 0, efill := 0, eevict := 0, emsg := 0x40, methods := [{ valid := true, serial := false, code := [] }] }
def grouted : State := { full (mapped 0 0 at0) with programs := [(0, some program)] }
def waved : State := (pairOf id (full at0)).modTeam 0 fun tm => { tm with wave := some { asid := 0, slice := 0, object := 0, method := 0, serial := false, code := List.replicate 64 0, reqs := [], started := 0 } }
theorem witness_GroutAndMessages : (([2, 2047].all fun d => meets grouted (.gcall (.ext { e0 with d, a := 2047, b := 4, c := 6, space := 4 })) fun c s0 =>
        let k := s0.checkAt (c.agent s0) 4 (BitVec.ofNat 64 (c.r.val c.e.a 64)) 8 8 false true
        k.faults = [] && (match k.loc with | some (.phys _ _) => true | _ => false) && isOk (k.s.methodOf (k.s.homeOf 0) (c.tm.asid k.s) 0) (fun _ => true) && c.th.wait.isNone && k.s.senders.isEmpty && (k.s.slice (k.s.homeOf 0)).groutq.length < 128)
    && meets waved (.gret (.ext { e0 with b := 4 })) (fun c _ => c.tm.wave.isSome && c.tm.status = .placed && c.tm.colls.isEmpty && (c.tm.threads[1]?).map (·.reply) = some none)
    && ([full (mapped 0 0 at0), grouted].all fun s => [2, 2047].all fun d => meets s (.hmsg (.ext { e0 with d, a := 2047, b := 4, c := 6, space := 4 })) fun c s0 =>
        isOk (s0.translate (s0.coreOf c.tm 0) (s0.asidOf c.tm) (c.r.ea c.e c.e.a true).toNat false (!s0.privileged c.tm)) fun x =>
          c.th.wait.isNone && x.1.senders.isEmpty && (x.1.slice (x.1.homeOf x.2.1)).hodq.length < 32 && ((x.1.handlerOf 0 (x.1.homeOf x.2.1) 4).isSome = !s.programs.isEmpty))
    && (grouted.handlerOf 0 0 4).isSome && ((full (mapped 0 0 at0)).handlerOf 0 0 4).isNone) = true := by decide
/-! Events of threads, teams, engines and slices. -/

def thIs (s : State) (ok : Team → Thread → Bool) : Bool := match s.team 0, s.thread T with | some tm, some th => ok tm th | _, _ => false
def asleep (w : Wait) (s : State := at0) : State := s.modThread T fun th => { th with wait := some { why := w, next := 12 } }
def dueFault : State := entry ((State.reset.withFetchWord 32 0x04800000).modThread T fun th => { th with log := [{ valid := true, fault := some { code := 0x43, aux := 1 } }, {}, {}, {}] })
/-- The code fetch of overlay slot 3 from address 256, with these reads to come. -/
def cfetching (todo : List Nat) (s : State) : State :=
  { s with ops := [{ id := 0, t := T, asid := 0, core := 0, kind := .cfetch 3 256 64, word := none, todo, pts := 0 }] }.modTeam 0 fun tm => { tm with slots := [(3, { state := 1 })] }
/-- The whole fetch has been read. -/
def fetched (s : State) : Bool := match s.fetchOp 0 3 with
  | some o => s.op o.id = some o && s.mayRun o && !(s.runOp o.id o.todo.length).opHeld o.id && ((s.runOp o.id o.todo.length).team 0).isSome && ((s.runOp o.id o.todo.length).op o.id).any fun o1 =>
      o1.id = o.id && o1.t.team = 0 && o1.kind = .cfetch 3 256 64 && o1.todo = []
  | none => false
/-- A core whose one ready thread stands in no bin, or in one that has reached age 64. -/
def picking (bins : List Bin) : State := { at0 with groups := [] }.modPart 0 0 fun p => { p with bins, busy0 := 0 }
def pickable (s : State) (ok : List Bin → Bool) : Bool :=
  let x := s.toPick
  let part := (x.core 0).part 0
  let l := (x.partThreads 0 0).filter x.ready
  s.pickPlaces = [0] && part.busy0 = 0 && l = [T] && (x.team 0).map (·.launch) = some 0 && part.waitq = [] && ok part.bins
def marker : Marker := { id := 1, port := 2, count := 7, who := [.thread T], covers := [] }
def marked (s : State) : State := { s with markers := [marker] }
theorem witness_ThreadEvents : (at0.ops = [] && at0.relaxed = [] && at0.harts = [] && at0.lost = [] && at0.cores.all (fun x => x.2.parts.all fun y => y.2.bins.isEmpty && y.2.waitq.isEmpty)
    && (((at0.modPart 0 0 fun p => { p with bins := [{ launch := 0, pc := 0, age := 63, members := [T] }] }).core 0).part 0).bins.map (·.age) = [63]
    && (let s := { at0 with groups := [] }.modThread T fun th => { th with idle := 64 }
        thIs s fun tm th => tm.wave.isNone && 64 ≤ th.idle && s.ready T && !((s.core (s.coreOf tm 0)).part (s.partOf tm 0)).binned T)
    && thIs (at0.modThread T fun th => { th with quiet := 256 }) (fun tm th => tm.status = .placed && !th.exited && 256 ≤ th.quiet)
    && thIs dueFault (fun tm th => tm.status = .placed && !th.exited && th.wait.isNone && th.log.all (fun en => !en.busy) && trappable dueFault tm th false && dueFault.nextCause T = none)
    && thIs (asleep (.sleep 0)) (fun _ th => th.wait = some { why := .sleep 0, next := 12 })
    && pickable (picking []) List.isEmpty && pickable (picking [{ launch := 0, pc := 0, age := 64, members := [T] }]) (fun b => b = [{ launch := 0, pc := 0, age := 64, members := [T] }])
    && fetched (cfetching [] (mapped 0 0 at0))
    && at0.slices = [] && at0.installing = none && (at0.clk + 1) * 5 / 12 / 1000000 = at0.clk * 5 / 12 / 1000000
    && (marked (asleep (.fence [1] []))).markers.find? (·.id = 1) = some marker && marker.covers = [] && thIs (marked (asleep (.fence [1] []))) (fun _ th => th.wait = some { why := .fence [1] [], next := 12 })
    && thIs (asleep (.fence [] [0])) fun _ th => th.wait = some { why := .fence [] [0], next := 12 }) = true := by decide

/-- The one read of a code fetch faults. -/
theorem witness_fetch_faults : ∃ (s : State) (o : EngOp) (f : TrapInfo), s.fetchOp 0 3 = some o ∧ s.op o.id = some o ∧ o.kind = .cfetch 3 256 64 ∧ (s.team 0).isSome ∧ s.faultingElement o = some f :=
  ⟨cfetching [0] at0, _, _, rfl, rfl, rfl, rfl, by unfold State.faultingElement; rw [show max 1 [0].length = 1 from rfl, Nat.mod_one]; rfl⟩

/-- A team that awaits room, new or saved; core 5 is held by its slice. -/
def unplaced (f : Team → Team) : State :=
  let s := body (fun b => { b with mask := 32, budget := 0 }) at0
  { s with launches := s.launches.map (fun (l : Launch) => { l with mask := 32 }), contexts := [{ asid := 0, bay := 0 }], cores := [(5, { holder := some (0, 0) })] }.modTeam 0 fun tm =>
    f { tm with status := .unplaced, threads := [], parts := [], age := none, runnable := some 0 }
def offered (s : State) : Bool := match s.team 0 with
  | some tm => s.setSize tm = 1 && s.grantCores.nextOf tm.launch tm.slice = some 0 && tm.launch < s.launches.length
      && (s.grantCores.chooseCores (s.launchOf tm) (0, 0) 1 (freedFirst (s.launchOf tm) tm (s.grantCores.offerOrder 0 (s.launchOf tm) tm))).any fun l => l.map (·.1) = [5]
  | none => false
def teamIs (s : State) (ok : Team → Bool) : Bool := match s.team 0 with | some tm => ok tm | none => false
/-- One second after power-on. -/
def late (s : State) : State := { s with clk := 2400000000 }
theorem witness_ResidenceEvents : (offered (unplaced id) && offered (unplaced fun tm => { tm with status := .saved, threads := [{}] })
    && (let s := late ((asleep .mtake).modTeam 0 fun tm => { tm with waitSince := some 0 })
        teamIs s fun tm => s.setSize tm = 1 && tm.waitSince = some 0 && tm.status = .placed && tm.wave.isNone && !tm.saving && s.idleUnit 0 && tm.expired.isNone && 50000 ≤ s.ns && tm.since + 50000 ≤ s.ns && !s.draining 0)
    && ([true, false].all fun idem => let s := at0.modTeam 0 fun tm => { tm with saving := true, idem }
        teamIs s fun tm => s.setSize tm = 1 && tm.saving && tm.alive ≠ [] && !s.resultsDue 0 && (s.launchOf tm).body.kind = 0 && tm.spoilt = none)
    && (let s := { at0.modTeam 0 fun tm => { tm with saving := true, threads := tm.threads.map fun th => { th with lanePoison := [1] } } with retired := 1 }
        teamIs s fun tm => s.setSize tm = 1 && tm.saving && tm.alive ≠ [] && !tm.idem && !s.resultsDue 0 && tm.spoilt = some 0 && s.retired.getLsbD tm.core)
    && (let s := at0.modThread T fun th => { th with exited := true }
        teamIs s fun tm => tm.status = .placed && tm.wave.isNone && tm.threads ≠ [] && tm.alive = [] && s.ops = [])
    && (let s := at0.modTeam 0 fun tm => { tm with status := .retired }
        (s.launches[0]?).map (·.complete) = some false && s.launches.all fun l => l.closing.isNone && l.rel < 2 && l.teams.all fun j => (s.team j).map (·.status) = some .retired)
    && ([(2, none), (3, none), (2, some ([], []))].all fun x =>
        let s := { at0.modTeam 0 fun tm => { tm with status := .retired } with fabSince := [(1, .relay none)], relaxed := [{ port := 0, pa := 0, bytes := [] }], launches := [{ body := placedBody, teams := [0], rel := x.1, closing := x.2 }] }
        s.launches.all fun l => !l.complete && 2 ≤ l.rel && l.closing = x.2)
    && (let s := { body (fun b => { b with budget := 1 }) at0 with launches := [{ body := { placedBody with budget := 1 }, teams := [0], budgets := [(0, { left := 0 })] }] }
        !s.draining 0 && s.launches.all fun l => !l.complete && l.body.budget ≠ 0 && (l.budget 0).left = 0 && !(l.budget 0).exhausted)) = true := by decide

/-- A record at 64 whose launch body at 4096 has one team, any user core of cluster 0. -/
def tasked : State := { mapped 0 0 (full at0) with mem := [(73, 16), (4120, 1), (4168, 1)] }
def bodyWords (die asid va : Nat) : Nat → Nat → State → Option (State × List Nat)
  | 0, _, s => some (s, [])
  | n + 1, j, s => match s.bodyRead die asid (va + 8 * j) 8 with
    | .ok (s, w) => (bodyWords die asid va n (j + 1) s).map fun r => (r.1, w :: r.2)
    | .error _ => none
/-- A page being read, and a page held for a placed team. -/
def reading (s : State) : State := { s with kilns := [(0, { cur := some { req := { launch := 0, index := 0, entry := 0 }, retries := 0, since := 0 }, held := [{ team := 0, status := 1, retries := 0, data := [], counts := true }] })] }
theorem witness_TaskAndPageEvents : (isOk (tasked.bodyPlace 0 0 64 64 false) (fun x => x.2 = 64 && x.1.homeOf x.2 / 48 = 0 && x.1.mem.read (x.2 + 8) 8 % 2 ^ 57 = 4096
        && match bodyWords 0 0 4096 23 0 x.1 with
          | some (s2, ws) => (LaunchBody.ofWords (ws.map (BitVec.ofNat 64))).kind = 0 && (s2.checkLaunch 0 0 0 (ws.map (BitVec.ofNat 64)) 1).isSome
          | none => false)
    && (let s := late (reading (full at0))
        ((s.kiln 0).cur).map (·.retries) = some 0 && !s.channelFailed 0 && s.blocksGone = [] && (s.kiln 0).todo.isEmpty && 200000000 ≤ s.ns && (s.holder 0).isSome && teamIs s fun tm => tm.status = .placed)) = true := by decide
theorem low_half (x : BitVec 32) : x = (x.zeroExtend 64).extractLsb' 0 32 := by apply BitVec.eq_of_toNat_eq; simpa using (Nat.mod_eq_of_lt x.isLt).symm
/-- A page of zeros whose header has its check. -/
theorem witness_page_decodes : ∃ (data : List Byte) (w0 w1 : W64), data.length = 16384 ∧ crc32c (data ++ natBytes 8 w1.toNat) = w0.extractLsb' 0 32 ∧ w1.toNat % 2 ^ 33 = (0#64).toNat % 2 ^ 33
    ∧ ¬(w0 = BitVec.allOnes 64 ∧ w1 = BitVec.allOnes 64) :=
  ⟨List.replicate 16384 0, (crc32c (List.replicate 16384 0 ++ natBytes 8 (0#64).toNat)).zeroExtend 64, 0, List.length_replicate, low_half _, rfl, fun h => absurd h.2 (by decide)⟩

def running (kind : EngKind) (todo : List Nat) (s : State := at0) : State := { s with ops := [{ id := 4, t := T, asid := 0, core := 0, kind, word := some (1, 8), todo, pts := 0 }] }
theorem witness_EngineEvents : ((let s := asleep (.ringSlot 0) (ringed fun r => { r with reqs := [.put T 0 0] })
        (s.ring 0 0).any (fun r => r.reqs = [.put T 0 0] && r.canReserve && !r.eos) && !s.putHeld T && isOk ((((s.modRing 0 0 fun r => { r with reqs := [] }).takeTurn T).revokeTeam 0).putSlot T 0 0 0) fun s1 =>
          ((s1.thread T).bind (·.wait)).map (fun w => (w.why, w.next)) = some (.ringSlot 0, 12) && ((s.takeTurn T).postponeThread s1 T 0 none false).isNone)
    && (let s := running (.cpy 1 0 1 16 0) []
        (s.op 4).any (fun o => o.todo = [] && s.mayRun o && o.word = some (1, 8)) && !s.opHeld 4 && (s.op 4).any (fun o => o.granted.isNone && (s.postpone (s.closeOp o) (.op 4) (.op 4) (enginePort 0) none).isNone) && teamIs s fun tm => tm.wave.isNone && 16 ≤ (s.launchOf tm).body.scr * 4096)
    && (let s := running (.cpy 1 0x10000 1 16 4) [0]
        (s.op 4).any fun o => s.mayRun o && (match performElement (s, o) 0 with | .error _ => true | .ok _ => false))
    && (let s := late (running (.coll 0 (CollDesc.ofBits (2 ^ 128 * 3))) [0, 1, 2])
        (s.op 4).any fun o => o.issued + 1000000000 ≤ s.ns && match o.kind with | .coll 0 d => (numbers 0 d.count).all o.todo.contains | _ => false)) = true := by decide

/-- Whatever element comes first, the one element of the operation faults. -/
theorem witness_element_faults : ∃ (s : State) (o : EngOp) (f : TrapInfo), s.op 4 = some o ∧ s.mayRun o = true ∧ s.faultingElement o = some f :=
  ⟨running (.cpy 1 0x10000 1 16 4) [0], _, _, rfl, rfl, by unfold State.faultingElement; rw [show max 1 [0].length = 1 from rfl, Nat.mod_one]; rfl⟩

/-! Slices and grout -/
def ev (kind : Nat) : HodEvent := { kind, asid := 0, va := 0, a2 := 0, a3 := 0, a4 := 0, pts := 0, who := some (.thread T), dest := some 4, entry := 0, top := 1024, fill := none }
def sliced (l : Slice) (s : State := at0) : State := { s with slices := [(0, l)] }
def frame0 : Frame := { sb := 0, va := 0, valid := 15, dirty := 0, strm := 1, kept := false, asid := 0, bay := 0 }
/-- An invocation with 2^63 in x11, as `f` leaves it. -/
def hodRun (kind : Nat) : HodRun := { event := ev kind, started := 0, regs := [(11, 0x8000000000000000)] }
def hod (kind : Nat) (f : HodRun → HodRun := id) : Slice := { hod := some (f (hodRun kind)), frames := [frame0] }
/-- R87-R90: a context table at 0x1000, whose entry for ASID 0 leads to a leaf of 4 GiB at 0x4000. -/
def tables : State := { at0 with csr := [(1, 0x1000)], contexts := [{ asid := 0, bay := 0 }], mem := [(0x1001, 0x20), (0x2000, 1), (0x2001, 0x30), (0x3000, 1), (0x3001, 0x40), (0x4000, 0x1F), (0x4001, 8)] }
def wants0 : GroutReq := { asid := 0, object := 0, method := 0, arg0 := 1, arg1 := 2, pts := 0, t := T, dest := none, meth := { valid := true, serial := false, code := [] } }
/-- The program-install register of R294 with its start bit, and a descriptor that is accepted or not. -/
def installing (mem : Memory) : State := { Dev.store at0 (Dev.sliceBase + 8) 1 with mem }
theorem witness_SliceEvents : (([true, false].all fun store => isOk (tables.walk 0 0 8 (tables.chargedBay 0 0)) (fun x => x.2.2.1 = 0x4000) && isOk (tables.walkFor 0 0 8 store true) fun x => x.2.1 = 8)
    && !at0.l2Holds 0 && at0.windowLoad 0xFF (at0.homeOf 0) 2 + 5 ≤ 32 && (at0.handlerOf 0 (at0.homeOf 0) 1).isNone && at0.region 0 = .hbm
    && (let s := { grouted with programs := [(0, some { program with emiss := 0x40 })] }
        (s.handlerOf 0 (s.homeOf 0) 1).isSome && s.senders.isEmpty && (s.slice (s.homeOf 0)).hodq.isEmpty && !s.l2Holds 0 && s.region 0 = .hbm)
    && (let s := sliced { frames := [frame0] }
        (s.frameOf 0).any (fun f => (f.strm &&& f.valid).getLsbD 0) && s.leasesOver 0)
    && ((sliced { hodq := [ev 1] } grouted).hodDisabled 0 0 = false && ((sliced { hodq := [ev 1] }).slice 0).hod.isNone && ((sliced { hodq := [ev 1] }).slice 0).hodq = [ev 1])
    && (let s := sliced (hod 3) (mapped 0 0 at0)
        [1, 2, 4, 8].all fun n => (hodRun 3).event.top ≤ 16384 && ((hodRun 3).reg 11 + 8).toNat = 2 ^ 63 + 8 && isOk (s.handlerPlace 0 0 8 n true) (fun _ => true)
          && isOk (s.handlerPlace 0 0 8 n false) fun x => !x.1.physPoisoned x.2 n)
    && (((sliced (hod 4 fun r => { r with ended := true }) (asleep (.reply 4))).slice 0).hod.any fun r => r.ended && r.event.kind = 4 && r.event.who = some (.thread T) && r.event.dest = some 4)
    && (((asleep (.reply 4)).thread T).bind (·.wait)).map (fun w => (w.why, w.next)) = some (.reply 4, 12)
    && (let s := late (sliced (hod 3))
        (s.slice 0).hod.any fun r => r.started + 8192 ≤ s.clk && !r.ended)
    && (((sliced (hod 3 fun r => { r with fault := some 2 })).slice 0).hod.any fun r => r.fault = some 2)
    && ([(0x00, 1), (0x08, 0), (0x08, 1), (0x10, 1)].all fun w => let s := sliced (hod 3 fun r => { r with port := some w }) (mapped 0 0 at0)
        ((s.slice 0).hod.any fun r => r.port = some w) && !s.portWaits 0 w.2 && (s.portPlace 0 w.2).any fun x => x.1.homeOf x.2.1 = 0 && x.1.l2Holds x.2.1)
    && ((let s := installing ((List.range 8).map fun k => (8 + k, 255))
         (Dev.stored s (Dev.sliceBase + 8)).getLsbD 0 && (s.readProgram 0 0).1 = 0) && ((installing []).readProgram 0 0).1 ≠ 0)
    && (let s := { at0 with installing := some { asid := 0, old := none, left := [3] } }
        s.mayCopy 0 3)
    && (let s := sliced { groutq := [wants0] }
        (s.slice 0).groutq = [wants0] && s.objectFree 0 wants0)
    && teamIs (late waved) fun tm => tm.wave.any (fun w => w.started + 2048 ≤ (late waved).clk) && tm.status = .placed && tm.alive ≠ []) = true := by decide
/-! Queues, packets, contexts, relays, the outside world, the module. -/

/-- R276: a descriptor at 0x1000 of a queue with base 0x4000, 16 blocks, ASID 0, die 0, event ring 0x2000 of 16 records; R87: a context entry for ASID 0. -/
def descriptor : Memory := [(1, 0x10), (0x1001, 0x40), (0x1008, 15), (0x1019, 0x20), (0x2008, 63)]
def registering (mem : Memory) : State := { Dev.store (Dev.store (Dev.store at0 Dev.queueBase 0x1000) (Dev.queueBase + 8) 1) (Dev.bayBase + 0x20) 0x200000 with mem }
/-- A queue whose next slot holds a packet of `type` in its first block, with the body in `body`; its header has the check of R278. -/
def slotted (type : Nat) (more : Memory := []) : State :=
  let s := queued (Memory.write [] 0x4000 8 type)
  let h := type + (crc16 ((s.packetBytes queue0 type).drop 8)).toNat * 2 ^ 16
  queued (Memory.write more 0x4000 8 h)
def withQueue (f : Queue → Queue) (s : State) : State := s.modQueue 0 f
def sent : Entry := { id := 0, what := .hod 0 (ev 4), since := 0 }
def sender (s : State) : State := { s with senders := [{ coreid := 0, receiver := 0, queue := 2, window := [sent], backoff := 64, resend := 0, atMax := 0 }] }
/-- A thread whose request to slice 0 has been refused. -/
def asking : State := { asleep (.refused 0) with senders := [{ coreid := 0, receiver := 0, queue := 0, window := [{ id := 0, what := .request 0 0 (.thread T), since := 0 }], backoff := 64, resend := 0, atMax := 0 }] }
def fullQueue (s : State) : State := { s with slices := [(0, { hodq := List.replicate 32 (ev 1) })] }
def queueIs (s : State) (ok : Queue → Bool) : Bool := match s.queues[0]? with | some q => ok q | none => false
theorem witness_QueueEvents : ((Dev.stored (registering []) (Dev.queueBase + 8)).getLsbD 0 && (registering []).dieRuns 0 && (registering descriptor).registrationStatus 0 0x1000 = 0 && (registering []).registrationStatus 0 0x1000 ≠ 0
    && (queued []).liveQueue 0x1000 = some 0 && !(queued []).queueBusy 0 queue0 && !(queued []).fwfail.getLsbD 0
    && queueIs (slotted 4) (fun q => q.wants && (slotted 4).slotReason q = none && q.loop.isNone && q.skip = 0 && ((slotted 4).packetAt q).type = 4 && !(slotted 4).fwfail.getLsbD q.die)
    && queueIs (withQueue (fun q => { q with rejected := some (0, false, 0) }) (slotted 4)) (fun q => q.rejected ≠ none && q.wants)
    && queueIs (queued [(0x4004, 1)]) (fun q => (queued [(0x4004, 1)]).slotReason q = some 0 && q.rejected.isNone)
    && queueIs (queued [(0x4000, 4)]) (fun q => (queued [(0x4000, 4)]).slotReason q = some 1)
    && (late at0).ns ≥ 100000000
    && (let s := sender grouted
        (s.senders[0]?).any fun w => w.resend ≤ s.clk && w.window = [sent] && s.sendable sent && (s.accept sent.what).any (fun y => y.fault.isNone && y.s.senders = s.senders) && ((fullQueue s).accept sent.what).isNone)
    && ((asking.senders[0]?).any fun w => w.resend ≤ asking.clk && (w.window.head?).any fun x => asking.sendable x && asking.why T = some (.refused 0) && asking.standing 0 0 < depthOf 0 && x.since + 1000000 ≤ (late asking).ns)
    && (let s := late { at0 with holdoff := [0x2000] }
        s.holdoff.contains 0x2000 && SMap.get 0 s.raised 0x2000 + 999 ≤ s.ns && !s.present 2)
    && (late (full { at0 with holdoff := [0x2000] })).present 2
    && (let s := { queued [] with contexts := [{ asid := 0, bay := 0, held := [(0x2000, { kind := 2, asid := 0, coreid := 0, tix := 0, tid := 0, value := 0 })] }, { asid := 1, bay := 0, dropped := 3 }], queues := [queue0, { queue0 with asid := 1 }] }
        !s.ringFull 0x2000 && (s.context 0).map (fun c => (c.held.map (·.1), c.dropped)) = some ([0x2000], 0) && (s.context 1).map (fun c => (c.held, c.dropped)) = some ([], 3) && s.contextRing 1 = some 0x2000)) = true := by decide
/-- A packet of `type` with this body at the head of the queue. -/
def packet (type : Nat) (body : List W64) : Packet := { type, acq := 0, rel := 0, dep := false, seq := 0, len := if type ≤ 3 then 3 else 1, body, pts := 0 }
def packed (type : Nat) (body : List W64) (s : State) : State := { s with queues := [{ queue0 with ready := [packet type body] }] }
/-- R279, R280: the packet stands alone at the head, may start, and keeps to R279. -/
def packetReady (s : State) (type : Nat) : Bool := queueIs s fun q => match q.ready with
  | [p] => p.type = type && s.mayStart 0 q p && p.len = (if type ≤ 3 then 3 else 1) && p.bodyOk && (type < 12 || q.ctl) && q.skip = 0 && q.loop.isNone && q.gates.isEmpty
  | _ => false
def body1 (kind : W64) (grid : W64) : List W64 := ([0, 0x50000000, kind <<< 16, grid, 0, 0, 0, 0, 0, 1] : List W64) ++ List.replicate 13 0
/-- The word at 0x100 that a packet names reads 1. -/
def world : State := { full (mapped 0 0 at0) with mem := [(0x100, 1)] }
def testing (type : Nat) (value : W64) : State := packed type [0x100, value, 0] world
def launchOk (s : State) (count : Nat) : Bool := match s.queues[0]? with
  | some q => match q.ready with
    | [p] => let b := LaunchBody.ofWords p.body
      let s' := Claims.taken s 0
      let s1 := if b.kind = 2 then (match s'.bodyWordAt q (b.grid % 2 ^ 57) 4 false true with | .ok (x, pa) => let y := x.loadHome none q.pts pa 4 (q.req (b.grid % 2 ^ 57)); y.1.queueAt 0 y.2.2 | .error _ => s') else s'
      ((s1.checkLaunch 0 0 0 p.body count).bind fun s2 => s2.bodyAddresses 0 0 b).isSome
    | _ => false
  | none => false
theorem witness_packet_condition : Claims.cond 0 false 32 (1 % 2 ^ 32) 1 := rfl
theorem witness_PacketEvents : (packetReady (packed 1 (body1 0 1) world) 1 && launchOk (packed 1 (body1 0 1) world) 1
    && packetReady (packed 2 (body1 1 1) world) 2 && world.present 11 && launchOk (packed 2 (body1 1 1) world) 1
    && packetReady (packed 3 (body1 2 0x100) world) 3 && launchOk (packed 3 (body1 2 0x100) world) 1
    && packetReady (packed 4 [0x200000003] world) 4
    && ([5, 6].all fun type => [1, 2].all fun v => packetReady (testing type v) type && isOk ((Claims.taken (testing type v) 0).bodyWordAt queue0 0x100 4 false true) fun x => x.1.mem.read x.2 4 = 1)
    && ([none, some 3].all fun met => queueIs (withQueue (fun q => { q with waiting := some (packet 6 [0x100, 1, 0]), watch := some { pa := 0x100, n := 4, fn := 0, signed := false, value := 1, met }, ready := [] }) (testing 6 1)) fun q =>
        q.watch.any fun w => w.met = met && w.n = 4 && w.fn < 6)
    && ([0, 2, 3].all fun rel => let s := { world with queues := [{ queue0 with ready := [{ packet 9 [] with rel }] }], fabSince := [(1, .relay none)], relaxed := [{ port := 0, pa := 0, bytes := [] }] }
        packetReady s 9 && s.markers = [])
    && ([2, 3].all fun rel => let s := { world with queues := [{ queue0 with ready := [{ packet 9 [] with rel }] }] }
        packetReady s 9 && s.fabSince = [] && s.markers = [] && s.relaxed = [] && s.launches.all (fun la => la.closing.isNone) && thIs s fun tm th => tm.threads.length = 1 && s.teams.length = 1 && th.wait.isNone)
    && (let s := marked { world with queues := [{ queue0 with closing := some ([1], []) }] }
        queueIs s (fun q => q.closing = some ([1], [])) && s.markers.find? (·.id = 1) = some marker && s.ownStores = [])
    && packetReady (packed 7 [0x100, 5, 1] world) 7 && isOk ((Claims.taken (packed 7 [0x100, 5, 1] world) 0).bodyWordAt queue0 0x100 8 true false) (fun _ => true)
    && packetReady (packed 8 [5] world) 8 && packetReady (packed 9 [] world) 9 && packetReady (packed 11 [0x200, 3] world) 11
    && isOk ((Claims.taken (packed 11 [0x200, 3] world) 0).bodyWordAt queue0 0x200 8 true false) (fun x => isOk (x.1.bodyWordAt queue0 0x208 8 false false) fun _ => true)
    && ([true, false].all fun zero => let s := { world with queues := [{ queue0 with gates := [{ word := 0x200, va := 0x200, left := 0, zero, inLoop := false }] }], launches := [] }
        queueIs s fun q => q.gates.map (·.left) = [0] && s.mem.read 0x208 8 = 0 && q.waiting.isNone && q.relay.isNone && q.loop.isNone && q.ready.isEmpty && q.closing.isNone && q.effects.isEmpty && s.launches.isEmpty)) = true := by decide

def ctxState (state : CtxState) (s : State) : State := { s with contexts := [{ asid := 0, bay := 0, state }] }
theorem witness_ContextEvents : (packetReady (packed 12 [0, 0] world) 12 && (world.context 0).map (·.state) = some .active
    && (let s := ctxState (.draining 0 1) (late (at0.modTeam 0 fun tm => { tm with status := .retired }))
        s.quietContext 0 && 1 ≤ s.ns)
    && packetReady (packed 13 [0] (ctxState .preempted world)) 13
    && (let s := packed 14 [0, 7, 9] { world with launches := [{ body := placedBody, tag := 7, teams := [0], budgets := [(0, { left := 0, exhausted := true })] }] }
        packetReady s 14 && (s.contextLaunches 0).find? (fun j => ((s.launches[j]?).map (·.tag)) = some 7) = some 0)
    && packetReady (packed 15 [0] world) 15
    && (let s := ctxState (.resetting 2) { State.reset with teams := [] }
        s.resetDone 0 && s.contexts.map (·.asid) = [0] && (s.context 0).any fun c => !c.gone)) = true := by decide

def relaying (f : Relay → Relay) : State :=
  { world with queues := [{ queue0 with relay := some (f { buffer := 0x8000, next := 0xFFFF, chunk := 4096, count := 2, word := 0x300, landed := [], forwarded := 0, first := false, pred := none, started := 0, heard := 0, since := 0 }) }] }
theorem witness_RelayEvents : (packetReady (packed 10 [0x8000, 0xFFFF, 4096, 2, 0x300] world) 10 && world.present 10 && world.present 3
      && isOk ((Claims.taken (packed 10 [0x8000, 0xFFFF, 4096, 2, 0x300] world) 0).bodyWordAt queue0 0x300 8 true false) (fun x => isOk (x.1.bodyWordAt queue0 0x8000 8 false false) fun _ => true)
    && (relaying id).relayFor 1 0x8000 1 = some 0 && (relaying fun r => { r with chunk := 2 }).relayFor 1 0x8000 1 = some 0 && ((relaying fun r => { r with chunk := 2 }).landBytes queue0 0x8002 0 [1, 2] 2).isSome
    && queueIs (relaying fun r => { r with next := 2, landed := [0, 1] }) (fun q => q.relay.any fun r => r.next ≠ 0xFFFF && r.landed.contains r.forwarded)
    && queueIs (relaying fun r => { r with next := 2, landed := [0, 1], forwarded := 1 }) (fun q => q.relay.any fun r => r.landed.contains r.forwarded && r.forwarded + 1 = r.count)
    && (let s := relaying fun r => { r with next := 2, chunk := 0, landed := [0, 1], forwarded := 1 }
        queueIs s fun q => q.relay.any fun r => (s.sendChunk 0 q r r.forwarded).2)
    && 1000000000 ≤ (late at0).ns) = true := by decide

def watch (loc : Loc) : Monitor := { t := T, asid := 0, va := 0, loc, n := 8, fn := 0, signed := false, value := 5, dest := 4, overflow := false }
def watching (loc : Loc) : State := { asleep .monitor (full at0) with monitors := [watch loc] }
theorem witness_OutsideEvents : (State.reset.region 0x100 = .hbm && 0x100 + 4 ≤ State.reset.hbmTop && State.reset.region 0x100000000000 = .host && (full at0).present (hostPort 0x100000000000) && !State.reset.present 3 && (full at0).present 3 && (full at0).agenda = [] && !State.reset.physPoisoned 0x100 8
    && at0.programs = [] && !at0.hodHolds (.hart 31) && !at0.l2Holds 0x100000000000 && ({ at0 with slices := [(at0.homeOf 0x100000000000, { frames := [{ frame0 with sb := 0x800000000 }] })] } : State).l2Holds 0x100000000000
    && (let s := entry (watching (.phys 0x100000000000 3))
        !s.linkGone (.phys 0x100000000000 3) && (thIs s fun tm th => trappable s tm th false && th.log.all fun en => !en.busy && en.fault = none) && s.monitorOf T = some (watch (.phys 0x100000000000 3)) && s.isPosted (.phys 0x100000000000 3) && (s.poke (.phys 0x100000000000 3) 8 5).satisfied (watch (.phys 0x100000000000 3)))
    && (let s := watching (.phys 0x8000000000000 3)
        (s.monitorOf T).isSome && s.isFabric (.phys 0x8000000000000 3) && s.present 3)
    && condHolds 0 false 64 5 5 && (at0.hart 31).asked = [] && (at0.hart 31).granted = none && at0.senders = [] && at0.slices = [] && at0.walks = [] && at0.l1Copy (hartCache 31) 0x100 = none && at0.l1Copy sharedCache 0x100 = none
    && ([([1], []), ([], [0])].all fun x => let s := entry (asleep (.fence x.1 x.2))
        thIs s fun tm th => trappable s tm th false && th.log.all fun en => !en.busy && en.fault = none)
    && (let s := full (queued [])
        s.feature 0 && 0 < linkPorts 0 && s.lost = [] && (s.queues.find? (fun q => q.registered && q.ctl)) = some queue0 && ((s.context 0).map (·.held.length)) = some 0 && !s.ringFull queue0.evring)) = true := by decide

def bays (mem : List (Nat × W64)) : State := mem.foldl (fun s x => Dev.store s x.1 x.2) (full State.reset)
theorem witness_BayAndMeterEvents : (!(full State.reset).bayEnabled 3 && (full State.reset).bayMaskOk 3 && (full State.reset).bayRangeOk 3 ((full State.reset).bayWord 3)
    && (let s := bays [(Dev.bayBase + 0xC0 + 0x20, 0xC000000000000000)]
        s.bayEnabled 3 && s.contexts.isEmpty && (s.bayWord 3).getLsbD 62)
    && (full State.reset).bayEnabled 0 && ({ full State.reset with qosNext := [(3, 5)] } : State).qosNext = [(3, 5)]
    && ({ full State.reset with reserved := 1024 } : State).sidx + (enabledBays { full State.reset with reserved := 1024 }).length + 1 ≤ 1024
    && ([(0x80, false, true), (0x180, true, true), (0x83, false, false)].all fun x =>
        let s := { bays [(Dev.meterBase + 0x10, BitVec.ofNat 64 x.1)] with reserved := 64, checkpoints := [{ bay := 0, meter := {}, cores := 0, time := 0, sidx := none }] }
        let w := Dev.stored s (Dev.meterBase + 0x10)
        w.getLsbD 7 && w.getLsbD 8 = x.2.1 && s.bayEnabled (w.toNat % 64) = x.2.2 && s.reading.isNone && s.sidx < s.reserved && s.sidx < 2 ^ 40 && (s.checkpoints.reverse.find? (·.bay = 0)).isSome)
    && ({ State.reset with reading := some ([1, 2], 0x100) } : State).reading = some ([1, 2], 0x100)) = true := by decide

theorem witness_ModuleEvents : (({ State.reset with phase := .off } : State).phase = .off && State.reset.sliceGone = none && ({ State.reset with sliceGone := some 3 } : State).phase ≠ .off && State.reset.phase = .training && State.reset.contexts.isEmpty && SMap.get 0 ({ State.reset with tries := [(3, 2)] } : State).tries 3 = 2 && SMap.get 0 State.reset.tries 259 < 2
    && State.reset.retires 5 0 && isUserCore 5 && !State.reset.retired.getLsbD 5 && !State.reset.fwfail.getLsbD 0 && (full State.reset).feature 12 && !(Dev.stored (full State.reset) (Dev.meterBase + 0x10)).getLsbD 7 && Dev.block 0 = .absent
    && (let s := { mapped 0 0 at0 with cores := [(0, { code := [{ owner := 0, slot := 0, block := 0, bytes := [], bad := true }] })] }
        (s.core 0).code.any (fun b => b.owner = 0 && b.slot = 0 && b.block = 0) && (s.refillBytes 0 0 0 0).any (·.2.2))) = true := by decide

/-! Steps, decoding, frames. -/
/-- A thread whose code store is empty and whose line of code the L2 does not hold, with a slice program installed. -/
def missing : State := { (full (mapped 0 0 (State.reset.withFetchWord 32 0x04800000))) with programs := [(0, some program)], cores := [] }
theorem witness_missed : (missing.current = some T && missing.mayIssue T && (missing.methodStop T).isNone && isOk ((missing.takeTurn T).fetch T) fun x =>
    decide ((missing.takeTurn T).freshMisses x.1 (.thread T) ≠ [])) = true := by decide
/-- R289: the queue of home slice 8 has no room for the request of a load there. -/
def refusing : State :=
  { mapped 0x1000 0 (State.reset.withCode ((encode (.ld (.ext { e0 with d := 3, a := 2047, size := 2, space := 4 }))).getD [])) with slices := [(8, { queued := [(0, 64)] })] }
theorem witness_postponed : (refusing.mayIssue T && (refusing.methodStop T).isNone && isOk ((refusing.takeTurn T).fetch T) fun x =>
    (refusing.takeTurn T).freshMisses x.1 (.thread T) = [] && isOk (decode x.2) fun y => (refusing.postponed T y.1 x.1).map (fun z => z.2) = some (.refused 0)) = true := by decide
theorem witness_StepRunsTheInstruction : ([0x04800000, 0].all fun w => let s := State.reset.withFetchWord 32 w
    s.current = some T && s.mayIssue T && (s.methodStop T).isNone && match (s.takeTurn T).fetch T with
      | .ok (s1, bytes) => (s.takeTurn T).freshMisses s1 (.thread T) = [] && (match decode bytes with | .ok (i, len) => (s.postponed T i s1).isNone && i = .nopBase { s := 0, g := 0, d := 0, a := 0, b := 0 } && len = 4 && w ≠ 0 | .error err => err = .unassigned 0 && w = 0)
      | .error _ => false) = true ∧ State.reset.current = none ∧ State.reset.groups = [] ∧ (∀ j ∈ [Instr.plumbScan, .teamRetire 0], State.reset.comesFirst j = false) ∧ State.reset.comesFirst .qosWindow = true := by decide
/-- A base word, an extended form, and each form with a literal. -/
def encoded : List Instr := [.nopBase { s := 0, g := 0, d := 0, a := 0, b := 0 }, .add (.ext (r3 9)), .add (.ext { r3 9 with b := 2047, lit := some 7 }), .movi (.baseLit { s := 0, g := 0, d := 5, a := 0, b := 0 } 7)]
theorem witness_DecodeOfEncode : (encoded.all fun i => i.wf && (encode i).isSome) = true := by decide
theorem witness_DecodeIsWellFormed : (encoded.all fun i => (encode i).any fun bytes => isOk (decode (bytes ++ [0, 1])) fun x => x.1 = i && x.2 = bytes.length) = true := by decide
theorem witness_StepKeepsMemoryCanonical : ∃ t, State.reset.Inv ∧ step (State.reset.withFetchWord 32 0x04800000) = .next t := ⟨_, (by decide : Memory.wf State.reset.mem = true), rfl⟩
/-- Register-only instructions with the guard true and false, a team-uniform one among them. -/
theorem witness_RegisterFrame : ((intInstrs ++ logicInstrs ++ fpInstrs ++ functions).all fun i => (i.parts).any fun x => Claims.registerOnly x.1 && i.wf && (at0.performs i).isSome) = true
    ∧ ctxOf at0 (.add (.ext { r3 9 with guard := some (false, 0) })) (fun c s0 => !guardTrue c.e c.r.p && c.causes s0 false = []) = true := by decide
theorem witness_AccessFrame : (([.ldBase { s := 0, g := 0, d := 3, a := 1, b := 0 }, .st (.ext { ld' with space := 0 }), .fence (.ext e0), .mjoin (.ext e0), .sleep (.ext { e0 with b := 2040 }), .mflip (.ext e0), .movt (.ext { e0 with d := 13, a := 1 }),
      .yield (.ext e0)] : List Instr).all fun i => Claims.noRegister i && meets at0 i (fun c _ => c.th.log.all (fun en => !en.busy) && c.tm.wave.isNone) && run i at0 fun _ => true) = true ∧ at0.monitors = [] := by decide
end Sys2Proof.Tests
end

section
/-!
SUPPORT. Every step keeps physical memory in its canonical form (O57).

Memory is written only by `Memory.set` and the operations built of it, and the model's laws say that each of these keeps `Memory.wf`.
What is left is to say it of every function that makes a new state, in the order in which the model defines them:
* `f_mem`: `f` leaves memory as it was (a simp lemma, so a chain of updates reduces to the state it began with);
* `f_wf`: `f` may write memory, and keeps it canonical. Where the answer is an `Except`, `Ensures` says it of the answer that is no error.
An instruction's body is then covered by `Effect.wf` and `Keeps`, the execution and the step by `LeadsWf`, and what is chosen to run by `Turn.wf`.

`Effect.wf`, `LeadsWf` and `Turn.wf` are irreducible, and some proofs pass through `State.Inv.of_mem`, for one reason: comparing the memories
of two large states by unfolding would make the kernel run the model, where the lemmas about each operation do it by rewriting.
-/
namespace Sys2Proof.Machine

/-! ### Canonical memory in effects, folds and answers -/

/-- In every state that an effect leads to, memory is in its canonical form. -/
@[irreducible] def Effect.wf : Effect → Prop
  | .done s | .jump s _ | .wait s _ _ | .handled s => s.mem.wf
  | .trap _ => True
@[simp] theorem Effect.wf_done (s : State) : (Effect.done s).wf ↔ s.mem.wf := by simp [Effect.wf]
@[simp] theorem Effect.wf_jump (s : State) (pc) : (Effect.jump s pc).wf ↔ s.mem.wf := by simp [Effect.wf]
@[simp] theorem Effect.wf_wait (s : State) (w c) : (Effect.wait s w c).wf ↔ s.mem.wf := by simp [Effect.wf]
@[simp] theorem Effect.wf_handled (s : State) : (Effect.handled s).wf ↔ s.mem.wf := by simp [Effect.wf]
@[simp] theorem Effect.wf_trap (i) : (Effect.trap i).wf ↔ True := by simp [Effect.wf]
@[simp] theorem State.ite_mem (c : Prop) [Decidable c] (s t : State) : (if c then s else t).mem = if c then s.mem else t.mem := apply_ite ..
@[simp] theorem Memory.wf_ite (c : Prop) [Decidable c] {m n : Memory} (hm : m.wf) (hn : n.wf) :
    Memory.wf (if c then m else n) := by split <;> assumption
@[simp] theorem foldl_mem {α} {f : State → α → State} (hf : ∀ s a, (f s a).mem = s.mem) (l : List α) (s : State) :
    (l.foldl f s).mem = s.mem :=
  List.foldlRecOn (motive := fun t : State => t.mem = s.mem) _ _ rfl fun t ht a _ => (hf t a).trans ht
@[simp] theorem foldl_wf {α} {f : State → α → State} (hf : ∀ s a, s.mem.wf → (f s a).mem.wf) (l : List α) {s : State} (h : s.mem.wf) :
    (l.foldl f s).mem.wf :=
  List.foldlRecOn (motive := fun t : State => t.mem.wf) _ _ h fun t ht a _ => hf t a ht
theorem foldl_fst_mem {α β} {f : State × β → α → State × β} (hf : ∀ y a, (f y a).1.mem = y.1.mem) (l : List α) (y : State × β) :
    (l.foldl f y).1.mem = y.1.mem :=
  List.foldlRecOn (motive := fun z : State × β => z.1.mem = y.1.mem) _ _ rfl fun z hz a _ => (hf z a).trans hz
theorem foldl_fst_wf {α β} {f : State × β → α → State × β} (hf : ∀ y a, y.1.mem.wf → (f y a).1.mem.wf) (l : List α) {y : State × β}
    (hy : y.1.mem.wf) : (l.foldl f y).1.mem.wf :=
  List.foldlRecOn (motive := fun z : State × β => z.1.mem.wf) _ _ hy fun z hz a _ => hf z a hz
/-- Where `r` is an answer, the answer is as `P` says. -/
def Ensures {ε α} (r : Except ε α) (P : α → Prop) : Prop := ∀ a, r = .ok a → P a
@[simp] theorem ensures_error {ε α} (e : ε) (P : α → Prop) : Ensures (.error e) P := fun _ h => nomatch h
@[simp] theorem ensures_ok {ε α} (a : α) (P : α → Prop) : Ensures (.ok a : Except ε α) P ↔ P a :=
  ⟨fun h => h a rfl, fun h b e => by cases e; exact h⟩
@[simp] theorem ensures_true {ε α} (r : Except ε α) : Ensures r fun _ => True := fun _ _ => trivial
@[simp] theorem ensures_map {ε α β} (r : Except ε α) (f : α → β) (P : β → Prop) : Ensures (r.map f) P ↔ Ensures r fun a => P (f a) := by
  cases r <;> simp [Except.map]

theorem State.Inv.of_mem {s t : State} (h : t.mem = s.mem) (hs : s.Inv) : t.Inv := (congrArg Memory.wf h).trans hs
theorem State.withResetTables_mem (s : State) (m k q tm) :
    ({ s with monitors := m, senders := k, queues := q, teams := tm } : State).mem = s.mem := rfl
theorem State.withOps_mem (s : State) (l) : ({ s with ops := l } : State).mem = s.mem := rfl

/-! ### Reaching and changing the parts of the state -/

@[simp] theorem State.modKiln_mem (s : State) (i f) : (s.modKiln i f).mem = s.mem := by rfl
@[simp] theorem State.noteUse_mem (s : State) (src bay n) : (s.noteUse src bay n).mem = s.mem := by rfl
@[simp] theorem State.scanOverflow_mem (s : State) (c p) : (s.scanOverflow c p).mem = s.mem := by simp [State.scanOverflow]
@[simp] theorem State.enterPool_mem (s : State) (t) : (s.enterPool t).mem = s.mem := by
  unfold State.enterPool
  simp only []
  (repeat' split) <;> simp
@[simp] theorem State.leavePool_mem (s : State) (t) : (s.leavePool t).mem = s.mem := by
  unfold State.leavePool
  split <;> simp
@[simp] theorem State.wakeTeam_mem (s : State) (i) : (s.wakeTeam i).mem = s.mem := by
  unfold State.wakeTeam
  split <;> simp
@[simp] theorem State.resumeAt_mem (s : State) (t pc) : (s.resumeAt t pc).mem = s.mem := by simp [State.resumeAt]
@[simp] theorem State.resume_mem (s : State) (t) : (s.resume t).mem = s.mem := by
  unfold State.resume
  split <;> simp
@[simp] theorem State.revokeTeam_mem (s : State) (i) : (s.revokeTeam i).mem = s.mem := by rfl
@[simp] theorem State.raisePts_mem (s : State) (t ts) : (s.raisePts t ts).mem = s.mem := by rfl

/-! ### Device registers -/

@[simp] theorem Dev.store_mem (s : State) (pa v) : (Dev.store s pa v).mem = s.mem := by rfl
@[simp] theorem State.enableBay_mem (s : State) (b) : (s.enableBay b).mem = s.mem := by simp [State.enableBay]
@[simp] theorem State.disableBay_mem (s : State) (b) : (s.disableBay b).mem = s.mem := by simp [State.disableBay]
@[simp] theorem State.bayWrite_mem (s : State) (b off v) : (s.bayWrite b off v).mem = s.mem := by simp [State.bayWrite]
@[simp] theorem State.acceptFeatures_mem (s : State) (v) : (s.acceptFeatures v).mem = s.mem := by simp [State.acceptFeatures]
@[simp] theorem State.devWord_mem (s : State) (pa v) : (s.devWord pa v).mem = s.mem := by
  unfold State.devWord
  split <;> simp
@[simp] theorem State.devWriteN_mem (s : State) (pa n w) : (s.devWriteN pa n w).mem = s.mem := by simp [State.devWriteN]
@[simp] theorem State.countError_mem (s : State) (off high k) : (s.countError off high k).mem = s.mem := by simp [State.countError]

/-! ### Accesses to memory -/

@[simp] theorem State.poke_wf {s : State} (hm : s.mem.wf) (l n w) : (s.poke l n w).mem.wf := by
  unfold State.poke
  split
  · exact hm
  · exact hm
  · exact hm
  · split
    · simp [hm]
    · exact Memory.wf_write _ _ _ _ hm
@[simp] theorem State.mark_mem (s : State) (l n) : (s.mark l n).mem = s.mem := by
  unfold State.mark
  split <;> simp
@[simp] theorem State.writeDest_mem (s : State) (t dest n w) : (s.writeDest t dest n w).mem = s.mem := by
  unfold State.writeDest
  split <;> simp
@[simp] theorem State.release_mem (s : State) (m ts) : (s.release m ts).mem = s.mem := by simp [State.release]
@[simp] theorem State.noteEvaluation_mem (s : State) (m) : (s.noteEvaluation m).mem = s.mem := by
  unfold State.noteEvaluation
  split <;> simp
@[simp] theorem State.evaluate_mem (s : State) (l n ts) : (s.evaluate l n ts).mem = s.mem := by
  unfold State.evaluate
  split <;> simp
@[simp] theorem State.queueRequest_mem (s : State) (slice q) : (s.queueRequest slice q).mem = s.mem := by
  unfold State.queueRequest
  split <;> simp
@[simp] theorem State.useLine_mem (s : State) (pa store hint asid va) : (s.useLine pa store hint asid va).mem = s.mem := by rfl
@[simp] theorem State.reachL2_mem (s : State) (l store ts q) : (s.reachL2 l store ts q).mem = s.mem := by
  unfold State.reachL2
  split <;> simp
@[simp] theorem State.setLine_mem (s : State) (pa x) : (s.setLine pa x).mem = s.mem := by rfl
@[simp] theorem State.dropL1_mem (s : State) (core pa) : (s.dropL1 core pa).mem = s.mem := by rfl
@[simp] theorem State.keepCopy_mem (s : State) (core c) : (s.keepCopy core c).mem = s.mem := by simp [State.keepCopy]
@[simp] theorem State.fillL1_mem (s : State) (core pa x) : (s.fillL1 core pa x).mem = s.mem := by simp [State.fillL1]
@[simp] theorem State.touch_mem (s : State) (l pts) : (s.touch l pts).1.mem = s.mem := by
  unfold State.touch
  (repeat' split) <;> simp
@[simp] theorem State.loadHome_mem (s : State) (core pts pa n q) : (s.loadHome core pts pa n q).1.mem = s.mem := by
  unfold State.loadHome
  split <;> simp
@[simp] theorem State.load_mem (s : State) (core pts l n q) : (s.load core pts l n q).1.mem = s.mem := by
  unfold State.load
  simp only []
  (repeat' split) <;> simp
@[simp] theorem State.backInvalidate_mem (s : State) (pa) : (s.backInvalidate pa).mem = s.mem := by simp [State.backInvalidate]
@[simp] theorem State.storeStamp_mem (s : State) (core pts l q) : (s.storeStamp core pts l q).1.mem = s.mem := by
  unfold State.storeStamp
  (repeat' split) <;> simp
@[simp] theorem State.store_wf {s : State} (hm : s.mem.wf) (core pts l n w q) : (s.store core pts l n w q).1.mem.wf := by simp [State.store, hm]
@[simp] theorem State.walkRead_mem (s : State) (bay pts ea) : (s.walkRead bay pts ea).1.mem = s.mem := by simp [State.walkRead]
theorem State.walkLevels_wf {s : State} {bay va n k m} (hm : s.mem.wf) : Ensures (s.walkLevels bay va n k m) fun x => x.1.mem.wf := by
  induction n generalizing s k m with
  | zero => simp [State.walkLevels]
  | succ n ih =>
    unfold State.walkLevels
    simp only []
    have h1 : (s.walkRead bay k (m + 8 * (va / 2 ^ (12 + 9 * n) % 512))).1.mem.wf := by simp [hm]
    split
    · simp
    split
    · simp
    split
    · simp
    split
    · simp
    split
    · split <;> simp [hm]
    split
    · simp
    · exact ih h1
theorem State.rootOf_wf {s : State} {die asid bay} (hm : s.mem.wf) : Ensures (s.rootOf die asid bay) fun x => x.1.mem.wf := by
  unfold State.rootOf
  simp only []
  (repeat' split) <;> simp [hm]
theorem State.walk_wf {s : State} {die asid va bay} (hm : s.mem.wf) : Ensures (s.walk die asid va bay) fun x => x.1.mem.wf := by
  unfold State.walk
  split
  · simp
  have h1 := State.rootOf_wf hm _ ‹_›
  split
  · simp
  have h2 := State.walkLevels_wf h1 _ ‹_›
  split <;> simp [h2]
@[simp] theorem State.cacheTlb_mem (s : State) (t) : (s.cacheTlb t).mem = s.mem := by rfl
@[simp] theorem State.markLeaf_wf {s : State} (hm : s.mem.wf) (bay pts ea store) : (s.markLeaf bay pts ea store).mem.wf := by
  simp [State.markLeaf, Memory.wf_set, hm]
theorem State.walkFor_wf {s : State} {core asid va store user} (hm : s.mem.wf) : Ensures (s.walkFor core asid va store user) fun x => x.1.mem.wf := by
  unfold State.walkFor
  simp only []
  split
  · simp
  have h1 := State.walk_wf hm _ ‹_›
  split <;> simp [h1]
theorem State.translate_wf {s : State} {core asid va store user} (hm : s.mem.wf) :
    Ensures (s.translate core asid va store user) fun x => x.1.mem.wf := by
  unfold State.translate
  simp only []
  split
  · simp
  split
  · split <;> simp [hm]
  exact State.walkFor_wf hm
theorem State.locate_wf {s : State} {a space ea n align store alignReason atom} (hm : s.mem.wf) :
    Ensures (s.locate a space ea n align store alignReason atom) fun x => x.1.mem.wf := by
  unfold State.locate
  split
  · split
    · simp
    have h1 := State.translate_wf hm _ ‹_›
    split
    · simp
    split
    · simp
    split
    · simp
    split <;> simp [h1]
  · split
    · simp
    split <;> simp [hm]
@[simp] theorem State.fwLoad_mem (s : State) (pa n q) : (s.fwLoad pa n q).1.mem = s.mem := by simp [State.fwLoad]
@[simp] theorem State.fwStore_wf {s : State} (hm : s.mem.wf) (pa n w q) : (s.fwStore pa n w q).mem.wf := by simp [State.fwStore, hm]
@[simp] theorem State.fwAfter_mem (s : State) (pts) : (s.fwAfter pts).mem = s.mem := by rfl

/-! ### Records and vectors -/

@[simp] theorem State.sendVector_mem (s : State) (ring) : (s.sendVector ring).mem = s.mem := by simp [State.sendVector]
@[simp] theorem State.writeRecord_wf {s : State} (hm : s.mem.wf) (ring e) : (s.writeRecord ring e).mem.wf :=
  (Recorded.writeRecord s ring e).wf hm
@[simp] theorem State.recordTo_wf {s : State} (hm : s.mem.wf) (owner ring e) : (s.recordTo owner ring e).mem.wf := by
  unfold State.recordTo
  split <;> simp [hm]
@[simp] theorem State.record_wf {s : State} (hm : s.mem.wf) (asid e) : (s.record asid e).mem.wf := by
  unfold State.record
  split <;> simp [hm]
@[simp] theorem State.operatorRecord_wf {s : State} (hm : s.mem.wf) (die e) : (s.operatorRecord die e).mem.wf := by
  unfold State.operatorRecord
  split <;> simp [hm]
@[simp] theorem State.flushHeld_wf {s : State} (hm : s.mem.wf) (l) : (s.flushHeld l).1.mem.wf := by
  induction l generalizing s with
  | nil => exact hm
  | cons x l ih =>
    unfold State.flushHeld
    split <;> simp [ih, hm]

/-! ### Operands and results -/

@[simp] theorem State.wr_mem (s : State) (t d n signed x) : (s.wr t d n signed x).mem = s.mem := by
  unfold State.wr
  split <;> simp
@[simp] theorem State.wrPred_mem (s : State) (t d b) : (s.wrPred t d b).mem = s.mem := by
  unfold State.wrPred
  split <;> simp

/-! ### What every instruction shares -/

@[simp] theorem Ctx.wr_mem (s : State) (c n signed x) : (Ctx.wr c s n signed x).mem = s.mem := by simp [Ctx.wr]
@[simp] theorem Ctx.revoke_mem (s : State) (c) : (Ctx.revoke c s).mem = s.mem := by simp [Ctx.revoke]
theorem State.readBlock_wf {s : State} {t tm slot block} (hm : s.mem.wf) : ∀ x ∈ (s.readBlock t tm slot block), x.1.mem.wf := by
  unfold State.readBlock
  simp only []
  split
  · simp
  have h1 := State.translate_wf hm _ ‹_›
  split <;> simp [h1]
theorem State.fetchBlock_wf {s : State} {t tm slot block} (hm : s.mem.wf) : Ensures (s.fetchBlock t tm slot block) fun x => x.1.mem.wf := by
  unfold State.fetchBlock
  simp only []
  split
  · split <;> simp [hm]
  split
  · simp
  have h1 := State.readBlock_wf hm _ ‹_›
  split <;> simp [h1]
@[simp] theorem State.keepBad_mem (s : State) (t info) : (s.keepBad t info).mem = s.mem := by
  unfold State.keepBad
  split <;> simp
theorem State.codeBytes_wf {s : State} {t tm slot n k} (hm : s.mem.wf) : Ensures (s.codeBytes t tm slot n k) fun x => x.1.mem.wf := by
  cases k with
  | zero => simpa [State.codeBytes] using hm
  | succ n =>
    rw [State.codeBytes]
    split
    · simpa using hm
    split
    · simp
    have h1 := State.fetchBlock_wf hm _ ‹_›
    split
    · simpa using h1
    split
    · simp
    · simpa using State.fetchBlock_wf h1 _ ‹_›
theorem State.fetch_wf {s : State} {t} (hm : s.mem.wf) : Ensures (s.fetch t) fun x => x.1.mem.wf := by
  unfold State.fetch
  split
  · simp only []
    split
    · simp
    split
    · simp
    split
    · simp
    split
    · simp
    split
    · simp
    have h1 := State.codeBytes_wf hm _ ‹_›
    split
    · simp
    split
    · simp
    · simpa using State.codeBytes_wf h1 _ ‹_›
  · simp
@[simp] theorem State.deliver_mem (s : State) (t k) : (s.deliver t k).mem = s.mem := by
  unfold State.deliver
  split <;> simp
@[simp] theorem State.drain_mem (s : State) (t) : (s.drain t).mem = s.mem := by simp [State.drain]
@[simp] theorem State.forget_mem (s : State) (t) : (s.forget t).mem = s.mem := by simp [State.forget]
@[simp] theorem State.discardReds_mem (s : State) (i) : (s.discardReds i).mem = s.mem := by
  unfold State.discardReds
  split <;> simp
@[simp] theorem State.endTeam_mem (s : State) (i) : (s.endTeam i).mem = s.mem := by
  unfold State.endTeam
  split <;> simp
@[simp] theorem State.unperform_mem (s : State) (t w) : (s.unperform t w).mem = s.mem := by
  unfold State.unperform
  split <;> simp
@[simp] theorem State.withdraw_mem (s : State) (t) : (s.withdraw t).mem = s.mem := by
  unfold State.withdraw
  (repeat' split) <;> simp
@[simp] theorem State.enterHandler_mem (s : State) (t tm info tepc) : (s.enterHandler t tm info tepc).mem = s.mem := by simp [State.enterHandler]
@[simp] theorem State.trapThread_wf {s : State} (hm : s.mem.wf) (t cause replay) : (s.trapThread t cause replay).mem.wf := by
  unfold State.trapThread
  simp only []
  (repeat' split) <;> simp [hm]
@[simp] theorem State.replyTo_mem (s : State) (t dest v pts) : (s.replyTo t dest v pts).mem = s.mem := by
  unfold State.replyTo
  split <;> simp
@[simp] theorem State.failCall_wf {s : State} (hm : s.mem.wf) (asid object t dest info) : (s.failCall asid object t dest info).mem.wf := by
  unfold State.failCall
  (repeat' split) <;> simp [hm]
@[simp] theorem State.closeWave_mem (s : State) (i w) : (s.closeWave i w).mem = s.mem := by simp [State.closeWave]
@[simp] theorem State.stopWave_wf {s : State} (hm : s.mem.wf) (i lane pc reason) : (s.stopWave i lane pc reason).mem.wf := by
  unfold State.stopWave
  split
  · exact hm
  split
  · exact hm
  split
  · exact hm
  refine foldl_wf (fun u k hu => ?_) _ (by simpa using hm)
  split
  · split <;> simp [hu]
  · exact hu
@[simp] theorem State.raise_wf {s : State} (hm : s.mem.wf) (t info tepc) : (s.raise t info tepc).mem.wf := by
  unfold State.raise
  split <;> simp [hm]
@[simp] theorem State.countOccurrence_mem (s : State) (t pc performs) : (s.countOccurrence t pc performs).mem = s.mem := by
  simp [State.countOccurrence]
@[simp] theorem State.holdDest_mem (s : State) (c codes) : (s.holdDest c codes).mem = s.mem := by rfl
@[simp] theorem State.issued_mem (s : State) (t) : (s.issued t).mem = s.mem := by rfl
@[simp] theorem State.trapStall_mem (s : State) (t e) : (s.trapStall t e).mem = s.mem := by rfl
@[simp] theorem Ctx.settle_wf (c : Ctx) {s : State} (fresh) {x : Effect} (hx : x.wf) (hm : s.mem.wf) : (c.settle s fresh x).mem.wf := by
  cases x with
  | done u | jump u pc | wait u w counts => simpa [Ctx.settle] using hx
  | trap i => simp [Ctx.settle, hm]
  | handled u => simpa [Ctx.settle] using hx
theorem State.ctx_wf {s : State} {op e ws} (hm : s.mem.wf) : ∀ x ∈ (s.ctx op e ws), x.2.mem.wf := by
  unfold State.ctx
  (repeat' split) <;> simp [hm]
@[simp] theorem Ctx.noteTargets_mem (s : State) (c) : (Ctx.noteTargets c s).mem = s.mem := by
  unfold Ctx.noteTargets
  split
  · exact foldl_mem (fun u a => by simp) _ _
  · simp
theorem issue_wf {op e ws body} {s : State} {onFalse : Ctx → State → Effect} (hb : ∀ c u, u.mem.wf → (body c u).wf)
    (hf : ∀ c u, u.mem.wf → (onFalse c u).wf) (hm : s.mem.wf) {t : State} (hr : issue op e ws body s onFalse = .next t) :
    t.mem.wf := by
  unfold issue at hr
  split at hr
  · cases hr
  rename_i c u e
  have hu := State.ctx_wf hm _ e
  cases hr
  rw [State.advance_mem]
  split
  · simp [hu]
  simp only []
  split
  · exact Ctx.settle_wf _ _ (hf _ _ (by simp [hu])) (by simp [hu])
  split
  · simp [hu]
  · exact Ctx.settle_wf _ _ (hb _ _ (by simp [hu])) (by simp [hu])

/-! ### Integer arithmetic -/

@[simp] theorem arith_wf {s : State} (hm : s.mem.wf) (f hasC c) : (arith f hasC c s).wf := by simp [arith, hm]
@[simp] theorem mulhBody_wf {s : State} (hm : s.mem.wf) (c) : (mulhBody c s).wf := by simp [mulhBody, hm]
@[simp] theorem divBody_wf {s : State} (hm : s.mem.wf) (c) : (divBody c s).wf := by simp [divBody, hm]
@[simp] theorem remBody_wf {s : State} (hm : s.mem.wf) (c) : (remBody c s).wf := by simp [remBody, hm]
@[simp] theorem absBody_wf {s : State} (hm : s.mem.wf) (c) : (absBody c s).wf := by simp [absBody, hm]
@[simp] theorem addBody_wf {s : State} (hm : s.mem.wf) (c) : (addBody c s).wf := by simp [addBody, hm]
@[simp] theorem subBody_wf {s : State} (hm : s.mem.wf) (c) : (subBody c s).wf := by simp [subBody, hm]
@[simp] theorem mulBody_wf {s : State} (hm : s.mem.wf) (c) : (mulBody c s).wf := by simp [mulBody, hm]
@[simp] theorem minBody_wf {s : State} (hm : s.mem.wf) (c) : (minBody c s).wf := by simp [minBody, hm]
@[simp] theorem maxBody_wf {s : State} (hm : s.mem.wf) (c) : (maxBody c s).wf := by simp [maxBody, hm]
@[simp] theorem bitwise_wf {s : State} (hm : s.mem.wf) (f c) : (bitwise f c s).wf := by simp [bitwise, hm]
@[simp] theorem unaryBits_wf {s : State} (hm : s.mem.wf) (f c) : (unaryBits f c s).wf := by simp [unaryBits, hm]
@[simp] theorem bfxBody_wf {s : State} (hm : s.mem.wf) (c) : (bfxBody c s).wf := by simp [bfxBody, hm]
@[simp] theorem bfiBody_wf {s : State} (hm : s.mem.wf) (c) : (bfiBody c s).wf := by simp [bfiBody, hm]

/-! ### Floating point -/

@[simp] theorem farith_wf {s : State} (hm : s.mem.wf) (f hasC c) : (farith f hasC c s).wf := by simp [farith, hm]
@[simp] theorem faddBody_wf {s : State} (hm : s.mem.wf) (c) : (faddBody c s).wf := by simp [faddBody, hm]
@[simp] theorem fsubBody_wf {s : State} (hm : s.mem.wf) (c) : (fsubBody c s).wf := by simp [fsubBody, hm]
@[simp] theorem fmulBody_wf {s : State} (hm : s.mem.wf) (c) : (fmulBody c s).wf := by simp [fmulBody, hm]
@[simp] theorem ffmaBody_wf {s : State} (hm : s.mem.wf) (c) : (ffmaBody c s).wf := by simp [ffmaBody, hm]
@[simp] theorem ffma2Body_wf {s : State} (hm : s.mem.wf) (c) : (ffma2Body c s).wf := by simp [ffma2Body, hm]
@[simp] theorem fminmaxBody_wf {s : State} (hm : s.mem.wf) (greater c) : (fminmaxBody greater c s).wf := by simp [fminmaxBody, hm]
@[simp] theorem fcmpBody_wf {s : State} (hm : s.mem.wf) (c) : (fcmpBody c s).wf := by simp [fcmpBody, hm]
@[simp] theorem funary_wf {s : State} (hm : s.mem.wf) (f c) : (funary f c s).wf := by simp [funary, hm]
@[simp] theorem fcvtBody_wf {s : State} (hm : s.mem.wf) (c) : (fcvtBody c s).wf := by simp [fcvtBody, hm]
@[simp] theorem fclaBody_wf {s : State} (hm : s.mem.wf) (c) : (fclaBody c s).wf := by simp [fclaBody, hm]
@[simp] theorem fpkBody_wf {s : State} (hm : s.mem.wf) (c) : (fpkBody c s).wf := by simp [fpkBody, hm]

/-! ### Course collectives -/

@[simp] theorem State.closeRecord_mem (s : State) (i c) : (s.closeRecord i c).mem = s.mem := by
  unfold State.closeRecord
  split
  · rfl
  refine (foldl_mem (fun u k => ?_) _ _).trans ((foldl_mem (fun u j => ?_) _ _).trans (by simp))
  · split
    · split <;> simp
    · rfl
  · simp
@[simp] theorem State.closeComplete_mem (s : State) (i course) : (s.closeComplete i course).mem = s.mem := by
  unfold State.closeComplete
  split <;> simp
@[simp] theorem State.trapMismatch_wf {s : State} (hm : s.mem.wf) (i course) : (s.trapMismatch i course).mem.wf := by
  unfold State.trapMismatch
  simp only []
  split
  · simp [hm]
  split
  · simp [hm]
  refine foldl_wf (fun u a hu => ?_) _ hm
  split <;> simp [hu]
@[simp] theorem State.settleCourse_wf {s : State} (hm : s.mem.wf) (i course) : (s.settleCourse i course).mem.wf := by simp [State.settleCourse, hm]
@[simp] theorem collect_wf {s : State} (hm : s.mem.wf) (live c) : (collect live c s).wf := by
  unfold collect
  simp only []
  (repeat' split) <;> simp [hm]

/-! ### Reductions -/

@[simp] theorem State.setPts_mem (s : State) (t pts) : (s.setPts t pts).mem = s.mem := by rfl
@[simp] theorem State.drainPart_mem (s : State) (core part) : (s.drainPart core part).mem = s.mem := by
  unfold State.drainPart
  simp only []
  split
  · exact foldl_mem (fun u a => by simp) _ _
  · exact foldl_mem (fun u a => by simp) _ _
@[simp] theorem State.flushPoint_mem (s : State) (t) : (s.flushPoint t).mem = s.mem := by
  unfold State.flushPoint
  split <;> simp
@[simp] theorem State.dropRed_mem (s : State) (r) : (s.dropRed r).mem = s.mem := by rfl
@[simp] theorem flushes_wf {body : Ctx → State → Effect} {c : Ctx} {s : State} (hb : (body c s).wf) (hm : s.mem.wf) : (flushes body c s).wf := by
  unfold flushes
  split
  · exact hb
  · simp [hm]
theorem Ctx.redTarget_wf {s : State} {c} (hm : s.mem.wf) : Ensures (Ctx.redTarget c s) fun x => x.1.mem.wf := by
  unfold Ctx.redTarget
  simp only []
  split
  · simp
  · have h1 := State.locate_wf hm _ ‹_›
    split <;> simp [h1]
  · have h1 := State.locate_wf hm _ ‹_›
    simp
@[simp] theorem redBody_wf {s : State} (hm : s.mem.wf) (c) : (redBody c s).wf := by
  unfold redBody
  split
  · simp
  have h1 := Ctx.redTarget_wf hm _ ‹_›
  simp [h1]
@[simp] theorem State.applyRed_wf {s : State} (hm : s.mem.wf) (r) : (s.applyRed r).1.mem.wf := by simp [State.applyRed, hm]
@[simp] theorem State.applyReds_wf {s : State} (hm : s.mem.wf) (l) : (s.applyReds l).1.mem.wf :=
  foldl_fst_wf (fun r c hr => by simp [hr]) _ hm
@[simp] theorem State.closeAt_wf {s : State} (hm : s.mem.wf) (slice asid region) : (s.closeAt slice asid region).1.mem.wf := by
  simp [State.closeAt, hm]
@[simp] theorem rcloseBody_wf {s : State} (hm : s.mem.wf) (c) : (rcloseBody c s).wf := by
  unfold rcloseBody
  simp only []
  (repeat' split) <;> simp [hm]
@[simp] theorem State.homeClosed_mem (s : State) (t slice asid region pts) : (s.homeClosed t slice asid region pts).mem = s.mem := by
  unfold State.homeClosed
  split <;> simp
@[simp] theorem State.closeLaunch_wf {s : State} (hm : s.mem.wf) (launch) : (s.closeLaunch launch).1.mem.wf := by
  unfold State.closeLaunch
  split
  · exact hm
  · exact foldl_fst_wf (fun r region hr => foldl_fst_wf (fun r home hr => by simp [hr]) _ hr) _ hm

/-! ### Loads, stores, atomics and fences -/

@[simp] theorem State.fabricAnswer_mem (s : State) (n) : (s.fabricAnswer n).1.mem = s.mem := by rfl
@[simp] theorem State.fabricRead_mem (s : State) (l n) : (s.fabricRead l n).1.mem = s.mem := by
  unfold State.fabricRead
  split <;> simp
@[simp] theorem State.noteLink_mem (s : State) (l bay) : (s.noteLink l bay).mem = s.mem := by
  unfold State.noteLink
  split <;> simp
@[simp] theorem State.ask_mem (s : State) (l ea) : (s.ask l ea).mem = s.mem := by
  unfold State.ask
  split <;> simp
@[simp] theorem State.readFrom_mem (s : State) (core pts l n q) : (s.readFrom core pts l n q).1.mem = s.mem := by
  unfold State.readFrom
  simp only []
  (repeat' split) <;> simp
@[simp] theorem State.readAt_mem (s : State) (core pts l n q) : (s.readAt core pts l n q).1.mem = s.mem := by simp [State.readAt]
@[simp] theorem State.landPosted_wf {s : State} (hm : s.mem.wf) (p) : (s.landPosted p).mem.wf := by
  unfold State.landPosted
  split
  · exact hm
  split
  · exact hm
  · exact Memory.wf_writeBytes _ _ _ hm
@[simp] theorem State.postStore_wf {s : State} (hm : s.mem.wf) (pa n w) : (s.postStore pa n w).mem.wf := by simp [State.postStore, hm]
@[simp] theorem State.fabricSend_mem (s : State) (pa who) : (s.fabricSend pa who).mem = s.mem := by rfl
@[simp] theorem State.fabricLeave_mem (s : State) (pa who) : (s.fabricLeave pa who).1.mem = s.mem := by simp [State.fabricLeave]
@[simp] theorem State.fabricStore_mem (s : State) (pa n w who) : (s.fabricStore pa n w who).mem = s.mem := by simp [State.fabricStore]
@[simp] theorem State.writeAt_wf {s : State} (hm : s.mem.wf) (core pts l n w q) : (s.writeAt core pts l n w q).1.mem.wf := by
  unfold State.writeAt
  (repeat' split) <;> simp [hm]
@[simp] theorem State.atomHere_wf {s : State} (hm : s.mem.wf) (pa n fn ty rnd b c q) : (s.atomHere pa n fn ty rnd b c q).1.mem.wf := by
  simp [State.atomHere, hm]
@[simp] theorem State.fabricAtom_wf {s : State} (hm : s.mem.wf) (l en) : (s.fabricAtom l en).1.mem.wf := by
  unfold State.fabricAtom
  simp only []
  (repeat' split) <;> simp [hm]
@[simp] theorem State.atomAt_wf {s : State} (hm : s.mem.wf) (core pts l en q) : (s.atomAt core pts l en q).1.mem.wf := by simp [State.atomAt, hm]
@[simp] theorem State.atomOf_wf {s : State} (hm : s.mem.wf) (core pts l en q) : (s.atomOf core pts l en q).1.mem.wf := by
  unfold State.atomOf
  simp only []
  (repeat' split) <;> simp [hm]
@[simp] theorem State.performAt_wf {s : State} (hm : s.mem.wf) (t a l en) : (s.performAt t a l en).1.mem.wf := by
  unfold State.performAt
  simp only []
  split
  · split <;> simp [hm]
  split <;> rename_i u _ _ e
  · have h1 : u = _ := (congrArg Prod.fst e).symm
    subst h1
    split
    · simp [hm]
    · split <;> simp [hm]
  · have h1 : u = _ := (congrArg Prod.fst e).symm
    subst h1
    rw [State.setPts_mem]
    split
    · simp [hm]
    · split <;> simp [hm]
@[simp] theorem State.perform_wf {s : State} (hm : s.mem.wf) (t tm en) : (s.perform t tm en).1.mem.wf := by
  unfold State.perform
  simp only []
  split
  · simp [hm]
  have h1 := State.locate_wf hm _ ‹_›
  split <;> simp [h1, hm]
@[simp] theorem access_wf {s : State} (hm : s.mem.wf) (en c) : (access en c s).wf := by
  unfold access
  split <;> simp [hm]
@[simp] theorem State.awaitMarkers_mem (s : State) (ids) : (s.awaitMarkers ids).mem = s.mem := by
  unfold State.awaitMarkers
  refine foldl_mem (fun u a => ?_) _ _
  (repeat' split) <;> simp
@[simp] theorem State.sendMarkers_mem (s : State) (bay) : (s.sendMarkers bay).mem = s.mem := by simp [State.sendMarkers]
@[simp] theorem State.sendFlushes_mem (s : State) : (s.sendFlushes).1.mem = s.mem := by rfl
@[simp] theorem State.startFence_mem (s : State) (bay sys mine) : (s.startFence bay sys mine).1.mem = s.mem := by
  unfold State.startFence
  split <;> simp
@[simp] theorem fenceBody_wf {s : State} (hm : s.mem.wf) (c) : (fenceBody c s).wf := by
  unfold fenceBody
  simp only []
  (repeat' split) <;> simp [hm]
@[simp] theorem afterStores_wf {body : Ctx → State → Effect} {c : Ctx} {s : State} (hb : ∀ u : State, u.mem.wf → (body c u).wf)
    (hm : s.mem.wf) : (afterStores body c s).wf := by
  unfold afterStores
  simp only []
  split
  · exact hb _ (by simp [hm])
  · simp [hm]
@[simp] theorem State.fenceAnswered_mem (s : State) (t isFab k) : (s.fenceAnswered t isFab k).mem = s.mem := by
  unfold State.fenceAnswered
  split <;> simp
@[simp] theorem State.landPort_wf {s : State} (hm : s.mem.wf) (port) : (s.landPort port).mem.wf := by simp +contextual [State.landPort, hm]
@[simp] theorem State.expireMarkers_mem (s : State) (t fab) : (s.expireMarkers t fab).mem = s.mem := by rfl
@[simp] theorem State.faultWait_wf {s : State} (hm : s.mem.wf) (t info) : (s.faultWait t info).mem.wf := by simp [State.faultWait, hm]
@[simp] theorem State.linkFailed_mem (s : State) (t entry) : (s.linkFailed t entry).mem = s.mem := by rfl
@[simp] theorem State.answerReturns_mem (s : State) (t) : (s.answerReturns t).mem = s.mem := by
  unfold State.answerReturns
  split <;> simp
@[simp] theorem State.performPlaced_wf {s : State} (hm : s.mem.wf) (t entry) : (s.performPlaced t entry).mem.wf := by
  unfold State.performPlaced
  (repeat' split) <;> simp [hm]
@[simp] theorem State.releaseDue_mem (s : State) : (s.releaseDue).mem = s.mem := by rfl

/-! ### Rings -/

@[simp] theorem State.modRing_mem (s : State) (i k f) : (s.modRing i k f).mem = s.mem := by rfl
@[simp] theorem State.releaseSlots_mem (s : State) (t k) : (s.releaseSlots t k).mem = s.mem := by
  unfold State.releaseSlots
  simp only []
  (repeat' split) <;> simp
theorem State.ringTake_wf {s : State} {t k} (hm : s.mem.wf) : ∀ x ∈ (s.ringTake t k), x.1.mem.wf := by
  unfold State.ringTake
  (repeat' split) <;> simp [hm]
@[simp] theorem State.wakeReaders_wf {s : State} (hm : s.mem.wf) (i k n) : (s.wakeReaders i k n).mem.wf := by
  induction n generalizing s with
  | zero => exact hm
  | succ n ih =>
    unfold State.wakeReaders
    simp only []
    split
    · exact hm
    split
    · exact hm
    rename_i e
    have h1 := State.ringTake_wf (by simp [hm]) _ e
    simp [ih, h1]
@[simp] theorem State.ringChanged_wf {s : State} (hm : s.mem.wf) (i k) : (s.ringChanged i k).mem.wf := by simp [State.ringChanged, hm]
@[simp] theorem rgetBody_wf {s : State} (hm : s.mem.wf) (c) : (rgetBody c s).wf := by
  unfold rgetBody
  split
  · simp
  simp only []
  split
  · rename_i e
    have h1 := State.ringTake_wf (by simp [hm]) _ e
    simp [h1]
  · simp [hm]
@[simp] theorem rjoinBody_wf {s : State} (hm : s.mem.wf) (c) : (rjoinBody c s).wf := by
  unfold rjoinBody
  simp only []
  (repeat' split) <;> simp [hm]

/-! ### Requests that a receiver may refuse -/

@[simp] theorem State.queueEntry_mem (s : State) (coreid x) : (s.queueEntry coreid x).s.mem = s.mem := by rfl
@[simp] theorem State.modStanding_mem (s : State) (receiver port f) : (s.modStanding receiver port f).mem = s.mem := by simp [State.modStanding]
@[simp] theorem State.usePlace_mem (s : State) (o) : (s.usePlace o).mem = s.mem := by
  unfold State.usePlace
  split <;> simp
theorem State.refusedRequest_wf {s u : State} {who port granted} (hm : s.mem.wf) : ∀ x ∈ s.refusedRequest u who port granted, x.1.mem.wf := by
  unfold State.refusedRequest
  simp only [Option.mem_map, forall_exists_index, and_imp]
  rintro _ k - rfl
  split <;> exact hm
theorem State.postpone_wf {s u : State} {who asker port granted} (hm : s.mem.wf) : ∀ x ∈ s.postpone u who asker port granted, x.1.mem.wf := by
  unfold State.postpone
  simp only []
  split
  · have h1 := State.refusedRequest_wf hm _ ‹_›
    simp [h1]
  · simp [hm]
theorem State.postponeThread_wf {s u : State} {r port granted answered} (hm : s.mem.wf) :
    ∀ x ∈ s.postponeThread u r port granted answered, x.1.mem.wf := by
  unfold State.postponeThread
  split
  · have h1 := State.postpone_wf hm _ ‹_›
    simp [h1]
  · simp [hm]

/-! ### Tensor handles -/

@[simp] theorem State.setHandle_mem (s : State) (asid n r) : (s.setHandle asid n r).mem = s.mem := by rfl

/-! ### What every engine operation shares -/

@[simp] theorem State.checkAt_wf {s : State} (hm : s.mem.wf) (a space ea n align store type0 reason) :
    (s.checkAt a space ea n align store type0 reason).s.mem.wf := by
  unfold State.checkAt
  split
  · simp [hm]
  have h1 := State.locate_wf hm _ ‹_›
  split <;> simp [h1, hm]
@[simp] theorem Ctx.checkWord_wf {s : State} (hm : s.mem.wf) (c) : (Ctx.checkWord c s).s.mem.wf := by simp [Ctx.checkWord, hm]
@[simp] theorem Ctx.readDesc_wf {s : State} (hm : s.mem.wf) (c space ea n align reason) : (Ctx.readDesc c s space ea n align reason).s.mem.wf := by
  unfold Ctx.readDesc
  simp only []
  (repeat' split) <;> simp [hm]
@[simp] theorem State.touchHandle_mem (s : State) (t asid n) : (s.touchHandle t asid n).mem = s.mem := by
  unfold State.touchHandle
  split <;> simp
@[simp] theorem Ctx.capture_mem (s : State) (c n) : (Ctx.capture c s n).mem = s.mem := by simp [Ctx.capture]
@[simp] theorem State.addOp_mem (s : State) (o also) : (s.addOp o also).mem = s.mem := by rfl
@[simp] theorem Ctx.startOp_wf {s : State} (hm : s.mem.wf) (c kind todo revokes) : (Ctx.startOp c s kind todo revokes).wf := by simp [Ctx.startOp, hm]
@[simp] theorem engine_wf {body : Ctx → State → Effect} {c : Ctx} {s : State} (hb : (body c s).wf) (hm : s.mem.wf) : (engine body c s).wf := by
  unfold engine
  split
  · simpa using hm
  · exact hb
@[simp] theorem State.setOp_mem (s : State) (o) : (s.setOp o).mem = s.mem := by rfl
theorem engineRead_wf {x : Work} {space ea n align} (hm : x.1.mem.wf) : Ensures (engineRead x space ea n align) fun y => y.1.1.mem.wf := by
  unfold engineRead
  simp only []
  split
  · simp
  have h1 := State.locate_wf hm _ ‹_›
  (repeat' split) <;> simp [h1]
theorem engineReadClean_wf {x : Work} {space ea n align} (hm : x.1.mem.wf) : Ensures (engineReadClean x space ea n align) fun y => y.1.1.mem.wf := by
  unfold engineReadClean
  split
  · simp
  have h1 := engineRead_wf hm _ ‹_›
  split <;> simp [h1]
theorem engineWrite_wf {x : Work} {space ea n align w} (hm : x.1.mem.wf) : Ensures (engineWrite x space ea n align w) fun y => y.1.1.mem.wf := by
  unfold engineWrite
  split
  · simp
  have h1 := State.locate_wf hm _ ‹_›
  split <;> simp [h1]
theorem readPieces_wf {x : Work} {ss src n align} (hm : x.1.mem.wf) : Ensures (readPieces x ss src n align) fun y => y.1.1.mem.wf := by
  unfold readPieces
  simp only []
  split
  · simp
  have h1 := engineRead_wf hm _ ‹_›
  split
  · simpa using h1
  split
  · simp
  · simpa using engineRead_wf h1 _ ‹_›
theorem copyPiece_wf {x : Work} {ss src ds dst n align} (hm : x.1.mem.wf) : Ensures (copyPiece x ss src ds dst n align) fun y => y.1.mem.wf := by
  unfold copyPiece
  split
  · simp
  have h1 := readPieces_wf hm _ ‹_›
  split
  · simp
  split
  · simp
  split
  · simp
  have h2 := engineWrite_wf h1 _ ‹_›
  simpa using h2
@[simp] theorem State.engineRecord_wf {s : State} (hm : s.mem.wf) (o ea code) : (s.engineRecord o ea code).mem.wf := by simp [State.engineRecord, hm]
@[simp] theorem State.endedAt_mem (s : State) (i pts) : (s.endedAt i pts).mem = s.mem := by rfl
@[simp] theorem State.noteDone_mem (s : State) (id ts) : (s.noteDone id ts).mem = s.mem := by simp [State.noteDone]
@[simp] theorem State.addWord_wf {s : State} (hm : s.mem.wf) (o k) : (s.addWord o k).mem.wf := by
  unfold State.addWord
  simp only []
  (repeat' split) <;> simp [hm]
@[simp] theorem State.nextMatrix_mem (s : State) (i id) : (s.nextMatrix i id).mem = s.mem := by
  unfold State.nextMatrix
  split <;> simp
@[simp] theorem State.dropOp_mem (s : State) (o) : (s.dropOp o).mem = s.mem := by
  unfold State.dropOp
  simp only []
  (repeat' split) <;> simp
@[simp] theorem State.addUnderflow_mem (s : State) (o) : (s.addUnderflow o).1.mem = s.mem := by
  unfold State.addUnderflow
  split <;> simp
@[simp] theorem State.finishOp_wf {s : State} (hm : s.mem.wf) (o) : (s.finishOp o).mem.wf := by simp [State.finishOp, hm]
@[simp] theorem Ctx.startMove_wf {s : State} (hm : s.mem.wf) (c kind todo revokes) : (Ctx.startMove c s kind todo revokes).wf := by
  unfold Ctx.startMove
  split <;> simp [hm]
@[simp] theorem State.faultOp_wf {s : State} (hm : s.mem.wf) (o f) : (s.faultOp o f).mem.wf := by simp [State.faultOp, hm]

/-! ### The copy engine -/

@[simp] theorem cpyBody_wf {s : State} (hm : s.mem.wf) (c) : (cpyBody c s).wf := by
  unfold cpyBody
  simp only []
  (repeat' split) <;> simp [hm]
theorem cpyElement_wf {x : Work} {ds dst ss src count k} (hm : x.1.mem.wf) : Ensures (cpyElement x ds dst ss src count k) fun y => y.1.mem.wf :=
  copyPiece_wf hm
@[simp] theorem Ctx.readWords_wf {s : State} (hm : s.mem.wf) (c ea n) : (Ctx.readWords c s ea n).1.s.mem.wf := by
  induction n generalizing s ea with
  | zero => exact hm
  | succ n ih =>
    unfold Ctx.readWords
    simp only []
    split <;> simp [ih, hm]
@[simp] theorem gathScatBody_wf {s : State} (hm : s.mem.wf) (gather c) : (gathScatBody gather c s).wf := by
  unfold gathScatBody
  simp only []
  have h1 := Ctx.readDesc_wf (Ctx.checkWord_wf hm c) c 1 (BitVec.ofNat 64 (c.val c.e.b 32)) 4 4 0
  split
  · simp
  split
  · simp
  · exact Ctx.startMove_wf (Ctx.readWords_wf h1 ..) ..
theorem gathElement_wf {x : Work} {ds dst ss src z idx k} (hm : x.1.mem.wf) : Ensures (gathElement x ds dst ss src z idx k) fun y => y.1.mem.wf := by
  unfold gathElement
  exact copyPiece_wf hm
theorem scatElement_wf {x : Work} {ds dst ss src z idx k} (hm : x.1.mem.wf) : Ensures (scatElement x ds dst ss src z idx k) fun y => y.1.mem.wf := by
  unfold scatElement
  exact copyPiece_wf hm
@[simp] theorem tileBody_wf {s : State} (hm : s.mem.wf) (load c) : (tileBody load c s).wf := by
  unfold tileBody
  simp only []
  split
  · simp
  · exact Ctx.startOp_wf (by simp [hm]) ..
theorem ldtElement_wf {x : Work} {h space tile d k} (hm : x.1.mem.wf) : Ensures (ldtElement x h space tile d k) fun y => y.1.mem.wf := by
  unfold ldtElement
  simp only []
  split
  · exact copyPiece_wf hm
  · simpa using engineWrite_wf hm
theorem sttElement_wf {x : Work} {h space tile d k} (hm : x.1.mem.wf) : Ensures (sttElement x h space tile d k) fun y => y.1.mem.wf := by
  unfold sttElement
  simp only []
  split
  · exact copyPiece_wf hm
  · simp [hm]
@[simp] theorem collBody_wf {s : State} (hm : s.mem.wf) (c) : (collBody c s).wf := by
  unfold collBody
  simp only []
  split
  · simp
  · exact Ctx.startOp_wf (by simp [hm]) ..
@[simp] theorem State.memberValue_mem (s : State) (n) : (s.memberValue n).1.mem = s.mem := by rfl
@[simp] theorem collReduce_mem (s : State) (d n own) : (collReduce s d n own).1.mem = s.mem := by
  refine (foldl_fst_mem (fun r c => ?_) _ _).trans ?_
  · simp only []
    split <;> simp
  · simp only []
    split <;> simp
@[simp] theorem Work.noteFlits_mem (x : Work) (ea n) : (Work.noteFlits x ea n).1.mem = x.1.mem := by simp [Work.noteFlits]
theorem collElement_wf {x : Work} {kind d k} (hm : x.1.mem.wf) : Ensures (collElement x kind d k) fun y => y.1.mem.wf := by
  unfold collElement
  extract_lets z dst others flits own reduced r foreign listed j
  have hown (j) : Ensures (own j) fun y => y.1.mem.wf := by simpa [own, flits] using copyPiece_wf hm
  have hreduced (n j) : Ensures (reduced n j) fun y => y.1.mem.wf := by
    simp only [reduced]
    split
    · simp
    · have h1 := engineReadClean_wf hm _ ‹_›
      simpa [flits] using engineWrite_wf (by simpa using h1)
  have hforeign : Ensures foreign fun y => y.1.mem.wf := by simpa [foreign, r, flits] using engineWrite_wf (by simpa using hm)
  have hread (ea n) : Ensures (engineReadClean x 4 ea n n) fun y => y.1.1.mem.wf := engineReadClean_wf hm
  split
  · split
    · simpa using hm
    · simpa [flits] using hread _ _
  split
  · simpa using hread _ _
  split
  · split
    · exact hown _
    · exact hforeign
  · split
    · exact hown _
    · exact hforeign
  · exact hreduced _ _
  · exact hreduced _ _

/-! ### The handle table -/

@[simp] theorem State.readWide_mem (s : State) (t core l q n k) : (s.readWide t core l q n k).1.mem = s.mem := by
  induction n generalizing s k with
  | zero => rfl
  | succ n ih =>
    unfold State.readWide
    split
    · rename_i u _ _ e
      simpa using congrArg (·.1.mem) e.symm
    rename_i u pts v e
    have h1 : u.mem = s.mem := by simpa using congrArg (·.1.mem) e.symm
    split
    · rename_i e'
      simpa [ih, h1] using congrArg (·.1.mem) e'.symm
    · simp [ih, h1]
@[simp] theorem State.writeWide_wf {s : State} (hm : s.mem.wf) (t core l w q n k) : (s.writeWide t core l w q n k).mem.wf := by
  induction n generalizing s k with
  | zero => exact hm
  | succ n ih => simp [State.writeWide, ih, hm]
@[simp] theorem thsetBody_wf {s : State} (hm : s.mem.wf) (c) : (thsetBody c s).wf := by
  unfold thsetBody
  simp only []
  split
  · simp
  have h1 := State.locate_wf hm _ ‹_›
  split
  · simp
  rename_i u _ e
  have h2 : u.mem.wf := by simpa [h1] using congrArg (·.1.mem.wf) e.symm
  split <;> simp [h2]
@[simp] theorem thgetBody_wf {s : State} (hm : s.mem.wf) (c) : (thgetBody c s).wf := by
  unfold thgetBody
  simp only []
  split
  · simp
  have h1 := State.locate_wf hm _ ‹_›
  split <;> simp [h1]

/-! ### The matrix context -/

@[simp] theorem State.modMatrix_mem (s : State) (i f) : (s.modMatrix i f).mem = s.mem := by rfl
@[simp] theorem mjoinBody_wf {s : State} (hm : s.mem.wf) (c) : (mjoinBody c s).wf := by
  unfold mjoinBody
  simp only []
  (repeat' split) <;> simp [hm]
@[simp] theorem mtakeBody_wf {s : State} (hm : s.mem.wf) (c) : (mtakeBody c s).wf := by
  unfold mtakeBody
  (repeat' split) <;> simp [hm]
@[simp] theorem State.passTrowel_mem (s : State) (t) : (s.passTrowel t).mem = s.mem := by
  unfold State.passTrowel
  simp only []
  (repeat' split) <;> simp
@[simp] theorem mpassBody_wf {s : State} (hm : s.mem.wf) (c) : (mpassBody c s).wf := by
  unfold mpassBody
  split <;> simp [hm]
@[simp] theorem State.leaveTrowel_mem (s : State) (t) : (s.leaveTrowel t).mem = s.mem := by
  unfold State.leaveTrowel
  split <;> simp
@[simp] theorem Ctx.startMatrix_mem (s : State) (c kind word todo) : (Ctx.startMatrix c s kind word todo).mem = s.mem := by simp [Ctx.startMatrix]
@[simp] theorem mwldBody_wf {s : State} (hm : s.mem.wf) (c) : (mwldBody c s).wf := by
  unfold mwldBody
  simp only []
  (repeat' split) <;> simp [hm]
@[simp] theorem mwldHead_mem (x : Work) (h d bm) : (mwldHead x h d bm).1.mem = x.1.mem := by simp [mwldHead]
theorem mwldRead_wf {x : Work} {h d bm k} (hm : x.1.mem.wf) : Ensures (mwldRead x h d bm k) fun y => y.1.1.mem.wf := by
  unfold mwldRead
  simp only []
  split
  · split
    · simpa using engineReadClean_wf hm
    simp [hm]
  · simpa using engineReadClean_wf hm
@[simp] theorem mwldWrite_mem (x : Work) (h d bm k ws) : (mwldWrite x h d bm k ws).1.mem = x.1.mem := by
  unfold mwldWrite
  (repeat' split) <;> simp
@[simp] theorem mflipBody_wf {s : State} (hm : s.mem.wf) (c) : (mflipBody c s).wf := by
  unfold mflipBody
  (repeat' split) <;> simp [hm]
@[simp] theorem mopBody_wf {s : State} (hm : s.mem.wf) (c) : (mopBody c s).wf := by
  unfold mopBody
  simp only []
  (repeat' split) <;> simp [hm]
theorem readUnits_wf {x : Work} {h i1 i2 i3 n k} (hm : x.1.mem.wf) : Ensures (readUnits x h i1 i2 i3 n k) fun y => y.1.1.mem.wf := by
  induction k generalizing x n with
  | zero => simpa [readUnits] using hm
  | succ n ih =>
    unfold readUnits
    simp only []
    split
    · simp
    rename_i u w e
    have h1 : u.1.mem.wf := by
      split at e
      · exact engineReadClean_wf hm _ e
      · cases e; exact hm
    split
    · simp
    · simpa using ih h1 _ ‹_›
theorem readScales_wf {x : Work} {h i1 i2 i3 n k} (hm : x.1.mem.wf) : Ensures (readScales x h i1 i2 i3 n k) fun y => y.1.1.mem.wf := by
  induction k generalizing x n with
  | zero => simpa [readScales] using hm
  | succ n ih =>
    unfold readScales
    simp only []
    split
    · simp
    rename_i u w e
    have h1 : u.1.mem.wf := by
      split at e
      · exact engineReadClean_wf hm _ e
      · cases e; exact hm
    split
    · simp
    · simpa using ih h1 _ ‹_›
theorem readRow_wf {x : Work} {h i0 i1 i2 i3 n} (hm : x.1.mem.wf) : Ensures (readRow x h i0 i1 i2 i3 n) fun y => y.1.1.mem.wf := by
  unfold readRow
  split
  · simp
  have h1 := readUnits_wf hm _ ‹_›
  split
  · split
    · simp
    have h2 := readScales_wf h1 _ ‹_›
    simp [h2]
  · simp [h1]
theorem readBits_wf {x : Work} {n k} (hm : x.1.mem.wf) : Ensures (readBits x n k) fun y => y.1.1.mem.wf := by
  induction k generalizing x n with
  | zero => simpa [readBits] using hm
  | succ n ih =>
    unfold readBits
    split
    · simp
    split
    · simp
    · simpa using ih (engineReadClean_wf hm _ ‹_›) _ ‹_›
@[simp] theorem writeOutputs_mem (x : Work) (b groups l) : (writeOutputs x b groups l).1.mem = x.1.mem := by simp [writeOutputs]
theorem readComplexRows_wf {x : Work} {h b m n k j} (hm : x.1.mem.wf) : Ensures (readComplexRows x h b m n k j) fun y => y.1.1.mem.wf := by
  induction j generalizing x k with
  | zero => simpa [readComplexRows] using hm
  | succ n ih =>
    unfold readComplexRows
    split
    · simp
    split
    · simp
    · simpa using ih (readUnits_wf hm _ ‹_›) _ ‹_›
theorem mopRead_wf {x : Work} {b h k} (hm : x.1.mem.wf) : Ensures (mopRead x b h k) fun y => y.1.1.mem.wf := by
  unfold mopRead
  simp only []
  split
  · simp [hm]
  split
  · simpa using readComplexRows_wf hm
  split
  · simp
  have h1 := readRow_wf hm _ ‹_›
  split
  · simpa using readBits_wf h1
  · simp [h1]
@[simp] theorem mopWrite_mem (x : Work) (b h k ws) : (mopWrite x b h k ws).1.mem = x.1.mem := by
  unfold mopWrite
  (repeat' split) <;> simp
theorem readAhead_wf {x : Work} {k} (hm : x.1.mem.wf) : Ensures (readAhead x k) fun y => y.1.1.mem.wf := by
  unfold readAhead
  split
  · exact mwldRead_wf hm
  · exact mopRead_wf hm
  · simp [hm]
theorem inTurn_wf {x : Work} {k : Nat} {write : Work → List Nat → Work} (hf : ∀ (y : Work) l, (write y l).1.mem = y.1.mem) (hm : x.1.mem.wf) :
    Ensures (inTurn x k write) fun y => y.1.mem.wf := by
  unfold inTurn
  split
  · simpa [hf] using readAhead_wf hm
  · simp [hf, hm]
@[simp] theorem mrdBody_wf {s : State} (hm : s.mem.wf) (c) : (mrdBody c s).wf := by
  unfold mrdBody
  simp only []
  (repeat' split) <;> simp [hm]
theorem mrdElement_wf {x : Work} {tile h d rnd sat k} (hm : x.1.mem.wf) : Ensures (mrdElement x tile h d rnd sat k) fun y => y.1.mem.wf := by
  unfold mrdElement
  simp only []
  split
  · simpa using engineWrite_wf hm
  · simp [hm]

/-! ### Transforms and quantisation -/

@[simp] theorem twoHandleBody_wf {s : State} (hm : s.mem.wf) (faults kind len c) : (twoHandleBody faults kind len c s).wf := by
  unfold twoHandleBody
  simp only []
  (repeat' split) <;> simp [hm]
theorem writeRow_wf {x : Work} {h i1 i2 i3 n l} (hm : x.1.mem.wf) : Ensures (writeRow x h i1 i2 i3 n l) fun y => y.1.mem.wf := by
  induction l generalizing x n with
  | nil => simpa [writeRow] using hm
  | cons w ws ih =>
    unfold writeRow
    split
    · simp
    · exact ih (engineWrite_wf hm _ ‹_›)
theorem xfwdElement_wf {x : Work} {hd hs e} (hm : x.1.mem.wf) : Ensures (xfwdElement x hd hs e) fun y => y.1.mem.wf := by
  unfold xfwdElement
  simp only []
  split
  · simp
  have h1 := readRow_wf hm _ ‹_›
  exact writeRow_wf h1
theorem xinvElement_wf {x : Work} {hd hs e} (hm : x.1.mem.wf) : Ensures (xinvElement x hd hs e) fun y => y.1.mem.wf := by
  unfold xinvElement
  simp only []
  split
  · simp
  have h1 := readUnits_wf hm _ ‹_›
  exact writeRow_wf h1
theorem qbxElement_wf {x : Work} {hd hs md e} (hm : x.1.mem.wf) : Ensures (qbxElement x hd hs md e) fun y => y.1.mem.wf := by
  unfold qbxElement
  simp only []
  split
  · simp
  have h1 := readRow_wf hm _ ‹_›
  split
  · simp
  have h2 := writeRow_wf h1 _ ‹_›
  split
  · simp
  have h3 := engineWrite_wf h2 _ ‹_›
  simp [h3]
theorem dqbxElement_wf {x : Work} {hd hs md sat e} (hm : x.1.mem.wf) : Ensures (dqbxElement x hd hs md sat e) fun y => y.1.mem.wf := by
  unfold dqbxElement
  simp only []
  split
  · simp
  have h1 := readRow_wf hm _ ‹_›
  exact writeRow_wf h1
@[simp] theorem xfwdBody_wf {s : State} (hm : s.mem.wf) (c) : (xfwdBody c s).wf := by simp [xfwdBody, hm]
@[simp] theorem xinvBody_wf {s : State} (hm : s.mem.wf) (c) : (xinvBody c s).wf := by simp [xinvBody, hm]
@[simp] theorem qbxBody_wf {s : State} (hm : s.mem.wf) (c) : (qbxBody c s).wf := by simp [qbxBody, hm]
@[simp] theorem dqbxBody_wf {s : State} (hm : s.mem.wf) (c) : (dqbxBody c s).wf := by simp [dqbxBody, hm]

/-! ### Running engine operations -/

theorem ringElement_wf {x : Work} {k ss src slots e} (hm : x.1.mem.wf) : Ensures (ringElement x k ss src slots e) fun y => y.1.mem.wf := by
  unfold ringElement
  split
  · simp [hm]
  exact copyPiece_wf hm
theorem fetchElement_wf {x : Work} {src k} (hm : x.1.mem.wf) : Ensures (fetchElement x src k) fun y => y.1.mem.wf := by
  unfold fetchElement
  simp only []
  split
  · simp
  have h1 := State.translate_wf hm _ ‹_›
  (repeat' split) <;> simp [h1]
@[simp] theorem State.modOverlay_mem (s : State) (i slot f) : (s.modOverlay i slot f).mem = s.mem := by rfl
@[simp] theorem State.dropSlot_mem (s : State) (i slot) : (s.dropSlot i slot).mem = s.mem := by rfl
@[simp] theorem State.wakeSlot_mem (s : State) (i slot) : (s.wakeSlot i slot).mem = s.mem := by
  unfold State.wakeSlot
  split
  · simp
  refine foldl_mem (fun u a => ?_) _ _
  (repeat' split) <;> simp
@[simp] theorem State.landFetch_mem (s : State) (o slot len) : (s.landFetch o slot len).mem = s.mem := by simp [State.landFetch]
@[simp] theorem State.failFetch_mem (s : State) (o slot) : (s.failFetch o slot).mem = s.mem := by simp [State.failFetch]
theorem performElement_wf {x : Work} {k} (hm : x.1.mem.wf) : Ensures (performElement x k) fun y => y.1.mem.wf := by
  unfold performElement
  split
  · exact cpyElement_wf hm
  · exact ringElement_wf hm
  · exact gathElement_wf hm
  · exact scatElement_wf hm
  · exact ldtElement_wf hm
  · exact sttElement_wf hm
  · exact collElement_wf hm
  · exact inTurn_wf (fun _ _ => mwldWrite_mem ..) hm
  · simp [hm]
  · exact inTurn_wf (fun _ _ => mopWrite_mem ..) hm
  · exact mrdElement_wf hm
  · exact xfwdElement_wf hm
  · exact xinvElement_wf hm
  · exact qbxElement_wf hm
  · exact dqbxElement_wf hm
  · exact fetchElement_wf hm
@[simp] theorem State.slotWritten_wf {s : State} (hm : s.mem.wf) (o k) : (s.slotWritten o k).mem.wf := by
  unfold State.slotWritten
  split <;> simp [hm]
theorem State.doElement_wf {s : State} {o k} (hm : s.mem.wf) : Ensures (s.doElement o k) fun x => x.mem.wf := by
  unfold State.doElement
  split
  · simp
  rename_i e
  have h1 := performElement_wf (by exact hm) _ e
  simp only [] at h1
  simp [h1]
@[simp] theorem State.acceptToken_mem (s : State) (t k) : (s.acceptToken t k).mem = s.mem := by simp [State.acceptToken]
@[simp] theorem State.tokenDue_mem (s : State) (t k) : (s.tokenDue t k).mem = s.mem := by
  unfold State.tokenDue
  (repeat' split) <;> simp
@[simp] theorem State.zeroSlots_wf {s : State} (hm : s.mem.wf) (o) : (s.zeroSlots o).mem.wf := by
  unfold State.zeroSlots
  split
  · split
    · exact hm
    refine State.ringChanged_wf ?_ ..
    rw [State.modRing_mem]
    refine foldl_wf (fun u i hu => ?_) _ (foldl_wf (fun u e hu => by simp [hu]) _ hm)
    split <;> simp [hu]
  · exact hm
@[simp] theorem State.stopOp_wf {s : State} (hm : s.mem.wf) (id f) : (s.stopOp id f).mem.wf := by
  unfold State.stopOp
  (repeat' split) <;> simp [hm]
@[simp] theorem State.takeTiles_mem (s : State) (o) : (s.takeTiles o).mem = s.mem := by
  unfold State.takeTiles
  split <;> simp
@[simp] theorem State.stirAhead_wf {s : State} (hm : s.mem.wf) (o k) : (s.stirAhead o k).mem.wf := by
  unfold State.stirAhead
  split
  · exact hm
  split
  · simp [hm]
  rename_i e
  have h1 := readAhead_wf (by exact hm) _ e
  simpa using h1
@[simp] theorem State.stirNow_wf {s : State} (hm : s.mem.wf) (o k) : (s.stirNow o k).mem.wf := by
  unfold State.stirNow
  split
  · rename_i e
    split at e
    · cases e
    · exact State.doElement_wf hm _ e
  · simp [hm]
@[simp] theorem State.stirElement_wf {s : State} (hm : s.mem.wf) (id) : (s.stirElement id).mem.wf := by
  unfold State.stirElement
  simp only []
  (repeat' split) <;> simp [hm]
@[simp] theorem State.attempt_wf {s : State} (o : EngOp) {f : State → State} (hf : ∀ u : State, u.mem.wf → (f u).mem.wf) (hm : s.mem.wf) :
    (s.attempt o f).mem.wf := by
  unfold State.attempt
  have h0 : (if o.granted.isNone then s else (s.usePlace o.granted).setOp { o with granted := none }).mem.wf := by simp [hm]
  simp only []
  split
  · exact State.postpone_wf h0 _ ‹_›
  · exact hf _ h0
@[simp] theorem State.stirOp_wf {s : State} (hm : s.mem.wf) (id) : (s.stirOp id).mem.wf := by
  unfold State.stirOp
  split
  · exact hm
  split
  · exact hm
  · exact State.attempt_wf _ (fun u hu => by simp [hu]) hm
@[simp] theorem State.runOp_wf {s : State} (hm : s.mem.wf) (id n) : (s.runOp id n).mem.wf := by
  induction n generalizing s with
  | zero => exact hm
  | succ n ih => simp [State.runOp, ih, hm]
@[simp] theorem State.closeOp_wf {s : State} (hm : s.mem.wf) (o) : (s.closeOp o).mem.wf := by
  unfold State.closeOp
  split <;> simp [hm]
@[simp] theorem State.completeOp_wf {s : State} (hm : s.mem.wf) (id) : (s.completeOp id).mem.wf := by
  unfold State.completeOp
  split
  · exact hm
  split
  · exact hm
  have h1 (id n) : (s.runOp id n).mem.wf := by simp [hm]
  simp only []
  split
  · exact h1 ..
  split
  · simp [h1]
  have h2 (id n o) : ((s.runOp id n).attempt o fun s => s.closeOp o).mem.wf := State.attempt_wf _ (fun u hu => by simp [hu]) (h1 ..)
  split <;> simp [h2]
theorem State.readSlot_wf {s : State} {t a space ea n} (hm : s.mem.wf) : Ensures (s.readSlot t a space ea n) fun x => x.1.mem.wf := by
  induction n generalizing s ea with
  | zero => simpa [State.readSlot] using hm
  | succ n ih =>
    unfold State.readSlot
    split
    · simp
    have h1 := State.locate_wf hm _ ‹_›
    split
    · simp
    rename_i u pts v e
    have h2 : u.mem.wf := by simpa [h1] using congrArg (·.1.mem.wf) e.symm
    split
    · simp
    rename_i e'
    simpa using ih (by simp [h2]) _ e'
@[simp] theorem State.writeSlot_wf {s : State} (hm : s.mem.wf) (t core off l) : (s.writeSlot t core off l).mem.wf := by
  induction l generalizing s off with
  | nil => exact hm
  | cons w ws ih => simp [State.writeSlot, ih, hm]
theorem State.putSlot_wf {s : State} {t k space ea} (hm : s.mem.wf) : Ensures (s.putSlot t k space ea) fun x => x.mem.wf := by
  unfold State.putSlot
  simp only []
  split
  · split
    · simp
    have h1 := State.readSlot_wf hm _ ‹_›
    simp [h1]
  · simp [hm]
@[simp] theorem State.grantSlot_mem (s : State) (o k) : (s.grantSlot o k).mem = s.mem := by
  unfold State.grantSlot
  split <;> simp
@[simp] theorem State.takeTurn_mem (s : State) (t) : (s.takeTurn t).mem = s.mem := by
  unfold State.takeTurn
  split <;> simp
@[simp] theorem State.servePut_wf {s s' : State} (hm : s.mem.wf) (hm' : s'.mem.wf) (t k space ea) : (s.servePut s' t k space ea).mem.wf := by
  unfold State.servePut
  split
  · simp [hm']
  rename_i e
  have h1 := State.putSlot_wf (by simp [hm']) _ e
  split
  · split
    · rename_i e'
      exact State.postponeThread_wf (by simp [hm]) _ e'
    · simp [h1]
  · exact h1
theorem State.serveHead_wf {s : State} {i k} (hm : s.mem.wf) : ∀ x ∈ (s.serveHead i k), x.mem.wf := by
  unfold State.serveHead
  simp only []
  (repeat' split) <;> simp [hm]
@[simp] theorem State.serveRing_wf {s : State} (hm : s.mem.wf) (i k n) : (s.serveRing i k n).mem.wf := by
  induction n generalizing s with
  | zero => exact hm
  | succ n ih =>
    unfold State.serveRing
    split
    · exact hm
    · exact ih (State.serveHead_wf hm _ ‹_›)
@[simp] theorem State.serve_wf {s : State} (hm : s.mem.wf) (i k) : (s.serve i k).mem.wf := by
  unfold State.serve
  split <;> simp [hm]
@[simp] theorem reosBody_wf {s : State} (hm : s.mem.wf) (c) : (reosBody c s).wf := by
  unfold reosBody
  simp only []
  (repeat' split) <;> simp [hm]
theorem State.register_wf {s : State} {m} (hm : s.mem.wf) : Ensures (s.register m) fun x => x.mem.wf := by
  unfold State.register
  simp only []
  (repeat' split) <;> simp [hm]
theorem State.watchRead_wf {s : State} {l pts n q} (hm : s.mem.wf) : Ensures (s.watchRead l pts n q) fun x => x.1.mem.wf := by
  unfold State.watchRead
  split
  · rename_i u _ _ e
    simpa [hm] using congrArg (·.1.mem.wf) e.symm
  · simp
@[simp] theorem watch_wf {s : State} (hm : s.mem.wf) (refuse n fn signed value c) : (watch refuse n fn signed value c s).wf := by
  unfold watch
  simp only []
  split
  · simp
  have h1 := State.locate_wf hm _ ‹_›
  split
  · simp
  split
  · simp
  have h2 := State.watchRead_wf h1 _ ‹_›
  split
  · simp [h2]
  split
  · simp
  rename_i e3
  have h3 := State.register_wf (by simp [h2]) _ e3
  simp [h3]
@[simp] theorem waitoBody_wf {s : State} (hm : s.mem.wf) (c) : (waitoBody c s).wf := by simp [waitoBody, hm]

/-! ### Futures and tasks -/

@[simp] theorem State.stepAt_wf {s : State} (hm : s.mem.wf) (pts pa w q) : (s.stepAt pts pa w q).1.mem.wf := by simp [State.stepAt, hm]
@[simp] theorem State.discharge_wf {s : State} (hm : s.mem.wf) (pts asid r st q) : (s.discharge pts asid r st q).1.mem.wf := by
  simp [State.discharge, hm]
theorem Ctx.objectAt_wf {s : State} {c ea n} (hm : s.mem.wf) : Ensures (Ctx.objectAt c s ea n) fun x => x.1.mem.wf := by
  unfold Ctx.objectAt
  simp only []
  (repeat' split) <;> simp [hm]
@[simp] theorem fresBody_wf {s : State} (hm : s.mem.wf) (poison c) : (fresBody poison c s).wf := by
  unfold fresBody
  split
  · simp
  have h1 := Ctx.objectAt_wf hm _ ‹_›
  simp only []
  split
  · simp
  rw [Effect.wf_done, State.setPts_mem]
  exact foldl_fst_wf (fun r c hr => by simp [hr]) _ (by simp [h1])
theorem Ctx.futures_wf {s : State} {c r l} (hm : s.mem.wf) : Ensures (Ctx.futures c s r l) fun x => x.1.mem.wf := by
  induction l generalizing s with
  | nil => simpa [Ctx.futures] using hm
  | cons f fs ih =>
    unfold Ctx.futures
    split
    · simp
    split
    · simp
    · simpa using ih (Ctx.objectAt_wf hm _ ‹_›) _ ‹_›
@[simp] theorem State.registerTask_wf {s : State} (hm : s.mem.wf) (pts asid r q) : (s.registerTask pts asid r q).1.mem.wf := by
  unfold State.registerTask
  simp only []
  (repeat' split) <;> simp [hm]
@[simp] theorem tspawnBody_wf {s : State} (hm : s.mem.wf) (c) : (tspawnBody c s).wf := by
  unfold tspawnBody
  simp only []
  split
  · simp
  have h1 := Ctx.objectAt_wf hm _ ‹_›
  split <;> simp [h1]

/-! ### What travels between decoupled units -/

@[simp] theorem State.requestFill_mem (s : State) (f) : (s.requestFill f).mem = s.mem := by rfl
@[simp] theorem State.defaultAction_mem (s : State) (e) : (s.defaultAction e).mem = s.mem := by
  unfold State.defaultAction
  split <;> simp
@[simp] theorem State.grant_mem (s : State) (who place) : (s.grant who place).mem = s.mem := by
  unfold State.grant
  (repeat' split) <;> simp
@[simp] theorem State.revokeSender_mem (s : State) (e) : (s.revokeSender e).mem = s.mem := by
  unfold State.revokeSender
  split <;> simp
theorem State.accept_wf {s : State} {what} (hm : s.mem.wf) : ∀ x ∈ (s.accept what), x.s.mem.wf := by
  unfold State.accept
  (repeat' split) <;> simp [hm]
theorem State.send_wf {s : State} {coreid x} (hm : s.mem.wf) : ∀ y ∈ (s.send coreid x), y.s.mem.wf := by
  unfold State.send
  split
  · split
    · have h1 := State.accept_wf hm _ ‹_›
      simp [h1]
    · simp [hm]
  · simp [hm]
@[simp] theorem State.entryAccepted_wf {s : State} (hm : s.mem.wf) (t id fault) : (s.entryAccepted t id fault).mem.wf := by
  unfold State.entryAccepted
  simp only []
  (repeat' split) <;> simp [hm]

/-! ### Instructions whose requests a queue may refuse -/

@[simp] theorem rputBody_wf {s : State} (hm : s.mem.wf) (c) : (rputBody c s).wf := by
  unfold rputBody
  simp only []
  split
  · simp
  split
  · simp
  split
  · split
    · rename_i e1
      have h1 := State.putSlot_wf (by simp [hm]) _ e1
      simp [h1]
    · simp
  · split
    · simp [hm]
    have h1 := State.send_wf hm _ ‹_›
    simp [h1]
@[simp] theorem cpyRingBody_wf {s : State} (hm : s.mem.wf) (c) : (cpyRingBody c s).wf := by
  unfold cpyRingBody
  simp only []
  split
  · simp
  split
  · simp [hm]
  rename_i e1
  have h1 := State.send_wf (by simp [hm]) _ e1
  simp [h1]
@[simp] theorem State.register1_wf {s : State} (hm : s.mem.wf) (t core asid r acc) : (s.register1 t core asid r acc).1.mem.wf := by
  unfold State.register1
  simp only []
  split
  · have h1 := State.send_wf hm _ ‹_›
    simp [h1]
  · simp [hm]
@[simp] theorem tregBody_wf {s : State} (hm : s.mem.wf) (c) : (tregBody c s).wf := by
  unfold tregBody
  extract_lets ea
  split
  · simp
  have h1 := Ctx.objectAt_wf hm _ ‹_›
  extract_lets r n
  split
  · simp
  split
  · simp
  have h2 := Ctx.futures_wf h1 _ ‹_›
  extract_lets core asid x u v y
  split
  · simpa using h2
  have hx : x.1.mem.wf := State.stepAt_wf (by simpa using h2) ..
  have hv : v.mem.wf := by simp [v, u, hx]
  have hy : y.1.mem.wf := foldl_fst_wf (fun y f hy => State.register1_wf hy ..) _ hv
  split <;> simp [hy]

/-! ### Control -/

@[simp] theorem braBody_wf {s : State} (hm : s.mem.wf) (c) : (braBody c s).wf := by simp [braBody, hm]
@[simp] theorem pushFrame_wf {s : State} (hm : s.mem.wf) (target c) : (pushFrame target c s).wf := by simp [pushFrame, hm]
@[simp] theorem callBody_wf {s : State} (hm : s.mem.wf) (c) : (callBody c s).wf := by simp [callBody, hm]
@[simp] theorem retBody_wf {s : State} (hm : s.mem.wf) (c) : (retBody c s).wf := by
  unfold retBody
  simp only []
  (repeat' split) <;> simp [hm]
@[simp] theorem jmpiBody_wf {s : State} (hm : s.mem.wf) (c) : (jmpiBody c s).wf := by simp [jmpiBody, hm]
@[simp] theorem calliBody_wf {s : State} (hm : s.mem.wf) (c) : (calliBody c s).wf := by simp [calliBody, hm]
@[simp] theorem jmpfBody_wf {s : State} (hm : s.mem.wf) (c) : (jmpfBody c s).wf := by
  unfold jmpfBody
  simp only []
  (repeat' split) <;> simp [hm]
@[simp] theorem cfetchBody_wf {s : State} (hm : s.mem.wf) (c) : (cfetchBody c s).wf := by
  unfold cfetchBody
  simp only []
  (repeat' split) <;> simp [hm]
@[simp] theorem State.settleBar_mem (s : State) (i) : (s.settleBar i).mem = s.mem := by
  unfold State.settleBar
  split <;> simp
@[simp] theorem State.exitTokens_wf {s : State} (hm : s.mem.wf) (t) : (s.exitTokens t).mem.wf := by
  unfold State.exitTokens
  split
  · simp [hm]
  refine foldl_wf (fun u a hu => ?_) _ hm
  (repeat' split) <;> simp [hu]
@[simp] theorem State.exitThread_wf {s : State} (hm : s.mem.wf) (t) : (s.exitThread t).mem.wf := by
  unfold State.exitThread
  have h1 : ((numbers 0 16).foldl (fun (s : State) k => s.releaseSlots t k) (s.flushPoint t)).mem.wf :=
    foldl_wf (fun u k hu => by simp [hu]) _ (by simp [hm])
  have h2 (u : State) (hu : u.mem.wf) :
      ((((u.leaveTrowel t).forget t).modThread t fun th => { th with exited := true }).exitTokens t).mem.wf := by simp [hu]
  have h3 := h2 _ h1
  simp only []
  split
  · exact h3
  · split <;> simp [h3]
@[simp] theorem exitBody_wf {s : State} (hm : s.mem.wf) (c) : (exitBody c s).wf := by
  unfold exitBody
  simp only []
  (repeat' split) <;> simp [hm]
@[simp] theorem yieldBody_wf {s : State} (hm : s.mem.wf) (c) : (yieldBody c s).wf := by simp [yieldBody, hm]
@[simp] theorem barBody_wf {s : State} (hm : s.mem.wf) (c) : (barBody c s).wf := by simp [barBody, hm]
@[simp] theorem State.settleBarn_mem (s : State) (i id) : (s.settleBarn i id).mem = s.mem := by
  unfold State.settleBarn
  split <;> simp
@[simp] theorem barnBody_wf {s : State} (hm : s.mem.wf) (c) : (barnBody c s).wf := by simp [barnBody, hm]
@[simp] theorem sleepBody_wf {s : State} (hm : s.mem.wf) (c) : (sleepBody c s).wf := by
  unfold sleepBody
  simp only []
  (repeat' split) <;> simp [hm]
@[simp] theorem waitcBody_wf {s : State} (hm : s.mem.wf) (c) : (waitcBody c s).wf := by simp [waitcBody, hm]

/-! ### Moves and predicates -/

@[simp] theorem selBody_wf {s : State} (hm : s.mem.wf) (c) : (selBody c s).wf := by simp [selBody, hm]
@[simp] theorem cmpBody_wf {s : State} (hm : s.mem.wf) (c) : (cmpBody c s).wf := by simp [cmpBody, hm]
@[simp] theorem leaBody_wf {s : State} (hm : s.mem.wf) (c) : (leaBody c s).wf := by simp [leaBody, hm]
@[simp] theorem movBody_wf {s : State} (hm : s.mem.wf) (c) : (movBody c s).wf := by simp [movBody, hm]
@[simp] theorem moviBody_wf {s : State} (hm : s.mem.wf) (c) : (moviBody c s).wf := by simp [moviBody, hm]
@[simp] theorem movsBody_wf {s : State} (hm : s.mem.wf) (c) : (movsBody c s).wf := by simp [movsBody, hm]
@[simp] theorem State.offerSignals_mem (s : State) (i) : (s.offerSignals i).mem = s.mem := by
  unfold State.offerSignals
  split <;> simp
@[simp] theorem movtBody_wf {s : State} (hm : s.mem.wf) (c) : (movtBody c s).wf := by
  unfold movtBody
  split <;> simp [hm]
@[simp] theorem predBody_wf {s : State} (hm : s.mem.wf) (f c) : (predBody f c s).wf := by simp [predBody, hm]

/-! ### Traps -/

@[simp] theorem State.replay_wf {s : State} (hm : s.mem.wf) (t n) : (s.replay t n).1.mem.wf := by
  induction n generalizing s with
  | zero => exact hm
  | succ n ih =>
    unfold State.replay
    split
    · split
      · exact hm
      extract_lets r u v w x
      have hu : u.mem.wf := by simp [u, r, hm]
      have hw : w.mem.wf := by simp [w, v, hu]
      have hx : x.mem.wf := by simp [x, hw]
      split
      · exact hu
      · exact ih (by split <;> simp [hx])
    · exact hm
@[simp] theorem tretBody_wf {s : State} (hm : s.mem.wf) (c) : (tretBody c s).wf := by
  unfold tretBody
  simp only []
  (repeat' split) <;> simp [hm]
@[simp] theorem tlogBody_wf {s : State} (hm : s.mem.wf) (c) : (tlogBody c s).wf := by simp [tlogBody, hm]
@[simp] theorem State.clearEntry_mem (s : State) (t k en) : (s.clearEntry t k en).mem = s.mem := by
  unfold State.clearEntry
  split <;> simp
@[simp] theorem tskipBody_wf {s : State} (hm : s.mem.wf) (value c) : (tskipBody value c s).wf := by
  unfold tskipBody
  simp only []
  (repeat' split) <;> simp [hm]
@[simp] theorem csrrBody_wf {s : State} (hm : s.mem.wf) (c) : (csrrBody c s).wf := by simp [csrrBody, hm]
@[simp] theorem State.dropOwnTlb_mem (s : State) (core) : (s.dropOwnTlb core).mem = s.mem := by rfl
@[simp] theorem csrwBody_wf {s : State} (hm : s.mem.wf) (c) : (csrwBody c s).wf := by simp [csrwBody, hm]

/-! ### Events, time and signals -/

@[simp] theorem evsigBody_wf {s : State} (hm : s.mem.wf) (c) : (evsigBody c s).wf := by
  unfold evsigBody
  split
  · simp [hm]
  split
  · simpa using hm
  rw [Effect.wf_done]
  exact State.writeRecord_wf (by simp [hm]) _ _
@[simp] theorem timeBody_wf {s : State} (hm : s.mem.wf) (c) : (timeBody c s).wf := by simp [timeBody, hm]
@[simp] theorem sigBody_wf {s : State} (hm : s.mem.wf) (c) : (sigBody c s).wf := by
  unfold sigBody
  simp only []
  (repeat' split) <;> simp [hm]
@[simp] theorem sigretBody_wf {s : State} (hm : s.mem.wf) (c) : (sigretBody c s).wf := by
  unfold sigretBody
  simp only []
  (repeat' split) <;> simp [hm]
@[simp] theorem State.repeatWait_mem (s : State) (t) : (s.repeatWait t).mem = s.mem := by
  unfold State.repeatWait
  split <;> simp
@[simp] theorem State.dropTranslations_mem (s : State) (kind asid operand) : (s.dropTranslations kind asid operand).mem = s.mem := by
  simp [State.dropTranslations]
@[simp] theorem State.dropCode_mem (s : State) (asid) : (s.dropCode asid).mem = s.mem := by rfl
@[simp] theorem cinvalBody_wf {s : State} (hm : s.mem.wf) (c) : (cinvalBody c s).wf := by
  unfold cinvalBody
  simp only []
  (repeat' split) <;> simp [hm]

/-! ### Grout calls and their waves -/

@[simp] theorem callMissing_wf {s : State} (hm : s.mem.wf) (c object f) : (callMissing c s object f).wf := by
  unfold callMissing
  split <;> simp [hm]
@[simp] theorem gcallBody_wf {s : State} (hm : s.mem.wf) (c) : (gcallBody c s).wf := by
  unfold gcallBody
  simp only []
  split
  · simp
  · split
    · simp [hm]
    split
    · simp [hm]
    rename_i e1
    have h1 := State.send_wf (by simp [hm]) _ e1
    split <;> simp [h1]
  · simp
@[simp] theorem hmsgBody_wf {s : State} (hm : s.mem.wf) (c) : (hmsgBody c s).wf := by
  unfold hmsgBody
  simp only []
  split
  · simp
  have h1 := State.translate_wf hm _ ‹_›
  split
  · split <;> simp [h1]
  split
  · simp [h1]
  have h2 := State.send_wf h1 _ ‹_›
  split
  · simp [h2]
  split <;> simp [h2]
@[simp] theorem State.startWave_mem (s : State) (slice) : (s.startWave slice).mem = s.mem := by
  unfold State.startWave
  split <;> simp
@[simp] theorem State.settleWave_mem (s : State) (i) : (s.settleWave i).mem = s.mem := by
  unfold State.settleWave
  split
  · rfl
  split
  · rfl
  split
  · rfl
  refine (foldl_mem (fun u k => ?_) _ _).trans (by simp)
  split <;> simp
@[simp] theorem gretBody_wf {s : State} (hm : s.mem.wf) (c) : (gretBody c s).wf := by simp [gretBody, hm]
theorem State.methodStop_wf {s : State} {t} (hm : s.mem.wf) : ∀ x ∈ (s.methodStop t), x.mem.wf := by
  unfold State.methodStop
  split
  · simp
  split
  · simp
  split
  · simp
  intro u hu
  obtain ⟨r, -, h⟩ := List.mem_filterMap.mp (List.mem_of_mem_head? hu)
  split at h
  · obtain ⟨reason, -, rfl⟩ := Option.map_eq_some_iff.mp h
    simp [hm]
  · cases h

/-! ### Launches -/

@[simp] theorem State.setGranuleTs_mem (s : State) (g ts) : (s.setGranuleTs g ts).mem = s.mem := by rfl
@[simp] theorem State.returnGranules_mem (s : State) (tm) : (s.returnGranules tm).mem = s.mem := by simp [State.returnGranules]
theorem State.bodyPlace_wf {s : State} {die asid va n store} (hm : s.mem.wf) : Ensures (s.bodyPlace die asid va n store) fun x => x.1.mem.wf := by
  unfold State.bodyPlace
  split
  · simp
  have h1 := State.translate_wf hm _ ‹_›
  (repeat' split) <;> simp [h1]
theorem State.bodyRead_wf {s : State} {die asid va n} (hm : s.mem.wf) : Ensures (s.bodyRead die asid va n) fun x => x.1.mem.wf := by
  unfold State.bodyRead
  split
  · simp
  have h1 := State.bodyPlace_wf hm _ ‹_›
  split <;> simp [h1]
theorem State.ringTable_wf {s : State} {die asid va n} (hm : s.mem.wf) : Ensures (s.ringTable die asid va n) fun x => x.1.mem.wf := by
  induction n generalizing s va with
  | zero => simpa [State.ringTable] using hm
  | succ n ih =>
    unfold State.ringTable
    split
    · simp
    split
    · simp
    · simpa using ih (State.bodyRead_wf hm _ ‹_›) _ ‹_›
theorem State.listPlace_wf {s : State} {die asid va} (hm : s.mem.wf) : ∀ x ∈ (s.listPlace die asid va), x.1.mem.wf := by
  unfold State.listPlace
  split
  · simp
  have h1 := State.bodyPlace_wf hm _ ‹_›
  split
  · simp
  · simpa using State.bodyPlace_wf h1 _ ‹_›
theorem State.tablesOk_wf {s : State} {die asid b count} (hm : s.mem.wf) : ∀ x ∈ (s.tablesOk die asid b count), x.mem.wf := by
  unfold State.tablesOk
  split
  · simp
  have h1 := State.ringTable_wf hm _ ‹_›
  split
  · simp
  split
  · simp [h1]
  simpa using State.listPlace_wf h1
theorem State.bodyAddresses_wf {s : State} {die asid b} (hm : s.mem.wf) : ∀ x ∈ (s.bodyAddresses die asid b), x.mem.wf := by
  unfold State.bodyAddresses
  extract_lets at'
  have h (u : State) (hu : u.mem.wf) (va align) : ∀ x ∈ at' u va align, x.mem.wf := by
    simp only [at']
    split
    · simp
    split
    · simpa using State.bodyPlace_wf hu _ ‹_›
    · simp
  intro x hx
  obtain ⟨u, hu, hx⟩ := Option.bind_eq_some_iff.mp hx
  obtain ⟨v, hv, hx⟩ := Option.bind_eq_some_iff.mp hx
  have hu := h _ hm _ _ _ hu
  have hv : v.mem.wf := by
    split at hv
    · cases hv; exact hu
    · exact h _ hu _ _ _ hv
  split at hx
  · exact h _ hv _ _ _ hx
  · cases hx; exact hv
theorem State.checkLaunch_wf {s : State} {die asid bay ws count} (hm : s.mem.wf) : ∀ x ∈ (s.checkLaunch die asid bay ws count), x.mem.wf := by
  unfold State.checkLaunch
  simp only []
  split
  · exact State.tablesOk_wf hm
  simp
@[simp] theorem State.takeTag_mem (s : State) (asid) : (s.takeTag asid).1.mem = s.mem := by
  unfold State.takeTag
  split <;> simp
@[simp] theorem State.addLaunch_mem (s : State) (la count) : (s.addLaunch la count).mem = s.mem := by simp [State.addLaunch]

/-! ### Pages of page launches -/

@[simp] theorem State.settlePages_mem (s : State) (l) : (s.settlePages l).mem = s.mem := by
  unfold State.settlePages
  split
  · simp
  exact foldl_mem (fun u a => by simp) _ _
@[simp] theorem State.pageCame_mem (s : State) (i chan status retries) : (s.pageCame i chan status retries).mem = s.mem := by
  unfold State.pageCame
  simp only []
  rw [State.settlePages_mem]
  exact (foldl_mem (fun u j => State.modTeam_mem ..) _ _).trans (State.modTeam_mem ..)
theorem State.listFault_wf {s : State} {die asid header word entry} (hm : s.mem.wf) :
    ∀ x ∈ (s.listFault die asid header word entry), x.mem.wf := by
  unfold State.listFault
  split
  · simp
  have h1 := State.listPlace_wf hm _ ‹_›
  extract_lets q x u cap count y
  have hu : u.mem.wf := by simpa [u, x] using h1
  split
  · simp [y, hu]
  split
  · simp
  · have h2 := State.listPlace_wf hu _ ‹_›
    simp only [Option.mem_def, Option.some.injEq, forall_eq']
    exact State.fwStore_wf (by simp [h2]) ..
@[simp] theorem State.recordPage_wf {s : State} (hm : s.mem.wf) (la r status retries tmo) : (s.recordPage la r status retries tmo).mem.wf := by
  unfold State.recordPage
  simp only []
  apply State.record_wf
  cases hw : s.listFault _ _ _ _ _ with
  | none => exact hm
  | some t => exact State.listFault_wf hm _ hw
@[simp] theorem State.faultPage_wf {s : State} (hm : s.mem.wf) (chan r status retries tmo data) :
    (s.faultPage chan r status retries tmo data).mem.wf := by
  unfold State.faultPage
  split <;> simp [hm]
@[simp] theorem State.deliverPage_mem (s : State) (chan r retries data) : (s.deliverPage chan r retries data).mem = s.mem := by
  unfold State.deliverPage
  split <;> simp
@[simp] theorem State.notePage_mem (s : State) (chan r retry) : (s.notePage chan r retry).mem = s.mem := by simp [State.notePage]
@[simp] theorem State.senseFrom_wf {s : State} (hm : s.mem.wf) (chan n) : (s.senseFrom chan n).mem.wf := by
  induction n generalizing s with
  | zero => exact hm
  | succ n ih =>
    unfold State.senseFrom
    simp only []
    split
    · exact hm
    split
    · exact hm
    split <;> simp [ih, hm]
@[simp] theorem State.sense_wf {s : State} (hm : s.mem.wf) (chan) : (s.sense chan).mem.wf := by simp [State.sense, hm]
@[simp] theorem State.endRead_wf {s : State} (chan : Nat) {f : State → State} (hf : ∀ u : State, u.mem.wf → (f u).mem.wf) (hm : s.mem.wf) :
    (s.endRead chan f).mem.wf := by
  unfold State.endRead
  exact State.sense_wf (hf _ (by simpa using hm)) _
@[simp] theorem State.noteSoft_mem (s : State) (e) : (s.noteSoft e).mem = s.mem := by simp [State.noteSoft]
@[simp] theorem State.readDone_wf {s : State} (hm : s.mem.wf) (chan x) : (s.readDone chan x).mem.wf := by
  unfold State.readDone
  split
  · exact hm
  split
  · split
    · simp only []
      split <;> simp [hm]
    · exact State.endRead_wf _ (fun u hu => by simp [hu]) hm
  · exact State.endRead_wf _ (fun u hu => by simp [hu]) hm
  · exact State.endRead_wf _ (fun u hu => by simp [hu]) hm
  · refine State.endRead_wf _ (fun u hu => ?_) hm
    split
    · simp [hu]
    · split <;> simp [hu]
@[simp] theorem State.readLate_wf {s : State} (hm : s.mem.wf) (chan) : (s.readLate chan).mem.wf := by
  unfold State.readLate
  split
  · split
    · exact State.endRead_wf _ (fun u hu => by simp [hu]) hm
    · exact hm
  · exact hm
@[simp] theorem State.takeEntry_wf {s : State} (hm : s.mem.wf) (die k la i) : (s.takeEntry die k la i).mem.wf := by
  unfold State.takeEntry
  simp only []
  split
  · have h1 := State.bodyRead_wf hm _ ‹_›
    simp [h1]
  · simp [hm]
@[simp] theorem State.senseAll_wf {s : State} (hm : s.mem.wf) : (s.senseAll).mem.wf := by simp +contextual [State.senseAll, hm]
@[simp] theorem State.startPages_wf {s : State} (hm : s.mem.wf) (die k la count) : (s.startPages die k la count).mem.wf := by
  unfold State.startPages
  exact State.senseAll_wf (foldl_wf (fun u i hu => by simp [hu]) _ hm)

/-! ### The residence of teams -/

@[simp] theorem State.grantCores_mem (s : State) : (s.grantCores).mem = s.mem := by
  unfold State.grantCores
  refine foldl_mem (fun u a => ?_) _ _
  (repeat' split) <;> simp
@[simp] theorem State.newRings_wf {s : State} (hm : s.mem.wf) (die la) : (s.newRings die la).1.mem.wf := by
  unfold State.newRings
  split
  · have h1 := State.ringTable_wf hm _ ‹_›
    simp [h1]
  · simp [hm]
@[simp] theorem State.settleOn_wf {s : State} (hm : s.mem.wf) (i tm la c parts) : (s.settleOn i tm la c parts).mem.wf := by
  unfold State.settleOn
  split <;> simp [hm]
@[simp] theorem State.settleUnit_wf {s : State} (hm : s.mem.wf) (la l ys) : (s.settleUnit la l ys).mem.wf := by
  induction l generalizing s ys with
  | nil => exact hm
  | cons i is ih =>
    cases ys with
    | nil => exact hm
    | cons y ys =>
      unfold State.settleUnit
      split
      · exact ih (by simp [hm]) _
      · exact ih hm _
@[simp] theorem State.beginSave_mem (s : State) (i) : (s.beginSave i).mem = s.mem := by
  unfold State.beginSave
  exact foldl_mem (fun u a => by simp) _ _
@[simp] theorem State.leaveCore_mem (s : State) (i tm) : (s.leaveCore i tm).mem = s.mem := by simp [State.leaveCore]
@[simp] theorem State.endSpoilt_wf {s : State} (hm : s.mem.wf) (i tm k) : (s.endSpoilt i tm k).mem.wf := by simp [State.endSpoilt, hm]
@[simp] theorem State.saveTeam_mem (s : State) (i) : (s.saveTeam i).mem = s.mem := by
  unfold State.saveTeam
  split <;> simp
@[simp] theorem State.saveOne_wf {s : State} (hm : s.mem.wf) (i) : (s.saveOne i).mem.wf := by
  unfold State.saveOne
  (repeat' split) <;> simp [hm]
@[simp] theorem State.askPage_wf {s : State} (hm : s.mem.wf) (i tm) : (s.askPage i tm).mem.wf := by
  unfold State.askPage
  split <;> simp [hm]
@[simp] theorem State.dropSent_mem (s : State) (i) : (s.dropSent i).mem = s.mem := by rfl
@[simp] theorem State.restartOne_wf {s : State} (hm : s.mem.wf) (i) : (s.restartOne i).mem.wf := by
  unfold State.restartOne
  simp only []
  split
  · simp [hm]
  split
  · refine foldl_wf (fun u a hu => ?_) _ (by simp [hm])
    simp [hu]
  · simp [hm]
@[simp] theorem State.saveUnit_wf {s : State} (hm : s.mem.wf) (i) : (s.saveUnit i).mem.wf := by
  unfold State.saveUnit
  simp only []
  split
  · simp [hm]
  split
  · simp [hm]
  split
  · simp [hm]
  split
  · simp [hm]
  split
  · refine foldl_wf (fun u a hu => ?_) _ hm
    simp [hu]
  · refine foldl_wf (fun u a hu => ?_) _ hm
    simp [hu]
@[simp] theorem State.drainUnit_mem (s : State) (i tm) : (s.drainUnit i tm).mem = s.mem := by simp [State.drainUnit]
@[simp] theorem State.offerTeam_wf {s : State} (hm : s.mem.wf) (i) : (s.offerTeam i).mem.wf := by
  unfold State.offerTeam
  simp only []
  split
  · simp [hm]
  split
  · simp [hm]
  split
  · simp [hm]
  split
  · simp [hm]
  split
  · rename_i v _
    cases v <;> simp [hm]
  split
  · simp [hm]
  split <;> simp [hm]
@[simp] theorem State.retireTeam_mem (s : State) (i) : (s.retireTeam i).mem = s.mem := by
  unfold State.retireTeam
  split <;> simp
@[simp] theorem State.releaseScope_mem (s : State) (asid rel mine) : (s.releaseScope asid rel mine).1.mem = s.mem := by
  unfold State.releaseScope
  split <;> simp
@[simp] theorem State.freeLaunch_mem (s : State) (k) : (s.freeLaunch k).mem = s.mem := by rfl
@[simp] theorem State.joinQueue_mem (s : State) (la) : (s.joinQueue la).mem = s.mem := by
  unfold State.joinQueue
  split <;> simp
@[simp] theorem State.endLaunch_mem (s : State) (k la) : (s.endLaunch k la).mem = s.mem := by simp [State.endLaunch]
@[simp] theorem State.completeLaunch_wf {s : State} (hm : s.mem.wf) (k) : (s.completeLaunch k).mem.wf := by
  unfold State.completeLaunch
  (repeat' split) <;> simp [hm]
@[simp] theorem State.startTask_wf {s : State} (hm : s.mem.wf) (asid rec) : (s.startTask asid rec).mem.wf := by
  unfold State.startTask
  extract_lets refuse bay
  have hrefuse (u : State) (hu : u.mem.wf) : (refuse u).mem.wf := State.record_wf hu ..
  split
  · exact hrefuse _ hm
  have h1 := State.bodyPlace_wf hm _ ‹_›
  extract_lets die va r
  split
  · exact hrefuse _ h1
  have hr : Ensures r fun x => x.1.mem.wf := by
    refine List.foldlRecOn (motive := fun r : Except TrapInfo (State × List W64) => Ensures r fun x => x.1.mem.wf) _ _
      (by simpa using h1) fun r hr j _ => ?_
    split
    · simp
    · split
      · simp
      · simpa using State.bodyRead_wf (hr _ rfl) _ ‹_›
  clear_value r
  split
  · exact hrefuse _ h1
  have h2 := hr _ rfl
  extract_lets b count
  have hcount : Ensures count fun x => x.1.mem.wf := by
    simp only [count]
    split
    · simpa using h2
    · simpa using h2
    · exact State.bodyRead_wf h2
  clear_value count
  split
  · exact hrefuse _ h2
  have h3 := hcount _ rfl
  extract_lets la
  split
  · exact hrefuse _ h3
  split
  · exact hrefuse _ h3
  have h4 := State.checkLaunch_wf h3 _ ‹_›
  extract_lets k v
  have hv : v.mem.wf := by simp [v, h4]
  split
  · exact State.startPages_wf hv ..
  · exact hv

/-! ### L2 slices and their hod cores -/

@[simp] theorem State.raiseHod_wf {s : State} (hm : s.mem.wf) (slice e) : (s.raiseHod slice e).mem.wf := by
  unfold State.raiseHod
  split
  · simp [hm]
  split
  · have h1 := State.send_wf hm _ ‹_›
    simp [h1]
  · simp [hm]
@[simp] theorem State.evictionEvents_wf {s : State} (hm : s.mem.wf) (slice f lines pts who) : (s.evictionEvents slice f lines pts who).mem.wf := by
  unfold State.evictionEvents
  refine foldl_wf (fun u a hu => ?_) _ hm
  (repeat' split) <;> simp [hu]
@[simp] theorem State.noteMoved_mem (s : State) (pa bay lines) : (s.noteMoved pa bay lines).mem = s.mem := by simp [State.noteMoved]
@[simp] theorem State.noteBack_mem (s : State) (f lines) : (s.noteBack f lines).mem = s.mem := by simp [State.noteBack]
@[simp] theorem State.claimFrame_wf {s : State} (hm : s.mem.wf) (f bay) : (s.claimFrame f bay).mem.wf := by
  unfold State.claimFrame
  simp only []
  (repeat' split) <;> simp [hm]
@[simp] theorem State.fillLine_wf {s : State} (hm : s.mem.wf) (f) : (s.fillLine f).mem.wf := by simp [State.fillLine, hm]
@[simp] theorem State.dropLine_mem (s : State) (pa) : (s.dropLine pa).mem = s.mem := by rfl
@[simp] theorem State.missLine_wf {s : State} (hm : s.mem.wf) (f) : (s.missLine f).mem.wf := by
  unfold State.missLine
  simp only []
  split
  · simp [hm]
  split
  · simp [hm]
  split
  · split
    · have h1 := State.send_wf hm _ ‹_›
      simp [h1]
    · simp [hm]
  · simp [hm]
@[simp] theorem State.fillAfterMiss_wf {s : State} (hm : s.mem.wf) (f) : (s.fillAfterMiss f).mem.wf := by
  unfold State.fillAfterMiss
  split <;> simp [hm]
@[simp] theorem State.evictStream_wf {s : State} (hm : s.mem.wf) (pa) : (s.evictStream pa).mem.wf := by
  unfold State.evictStream
  split <;> simp [hm]
@[simp] theorem State.startInvocation_mem (s : State) (k) : (s.startInvocation k).mem = s.mem := by
  unfold State.startInvocation
  split <;> simp
@[simp] theorem State.dropEvents_mem (s : State) (k asid) : (s.dropEvents k asid).mem = s.mem := by simp [State.dropEvents]
@[simp] theorem State.closeInvocation_mem (s : State) (k) : (s.closeInvocation k).mem = s.mem := by simp [State.closeInvocation]
@[simp] theorem State.finishEvent_wf {s : State} (hm : s.mem.wf) (e reply pts) : (s.finishEvent e reply pts).mem.wf := by
  unfold State.finishEvent
  split <;> simp [hm]
theorem State.handlerPlace_wf {s : State} {slice asid va n store} (hm : s.mem.wf) :
    Ensures (s.handlerPlace slice asid va n store) fun x => x.1.mem.wf := by
  unfold State.handlerPlace
  split
  · simp
  have h1 := State.translate_wf hm _ ‹_›
  (repeat' split) <;> simp [h1]
@[simp] theorem State.hodRecord_wf {s : State} (hm : s.mem.wf) (k e reason pc) : (s.hodRecord k e reason pc).mem.wf := by simp [State.hodRecord, hm]
@[simp] theorem State.noteHodFault_wf {s : State} (hm : s.mem.wf) (k e reason) : (s.noteHodFault k e reason).mem.wf := by
  simp [State.noteHodFault, hm]
@[simp] theorem State.stopInvocation_wf {s : State} (hm : s.mem.wf) (k r reason pc) : (s.stopInvocation k r reason pc).mem.wf := by
  unfold State.stopInvocation
  have h1 : ((s.closeInvocation k).fwAfter r.pts).mem.wf := by simp [hm]
  have h2 := State.hodRecord_wf h1 k r.event reason pc
  refine State.finishEvent_wf ?_ ..
  simp [h2]
@[simp] theorem State.endInvocation_wf {s : State} (hm : s.mem.wf) (k asid kind) : (s.endInvocation k asid kind).mem.wf := by
  unfold State.endInvocation
  split <;> simp [hm]
@[simp] theorem State.portWrite_wf {s : State} (k off v) {f : State → State} (hf : (f s).mem.wf) (hm : s.mem.wf) :
    (s.portWrite k off v f).mem.wf := by
  unfold State.portWrite
  split
  · exact hm
  split
  · simpa using hf
  · exact hm
theorem State.portPlace_wf {s : State} {k v} (hm : s.mem.wf) : ∀ x ∈ (s.portPlace k v), x.1.mem.wf := by
  unfold State.portPlace
  split
  · simp
  split
  · simp
  have h1 := State.handlerPlace_wf hm _ ‹_›
  simp [h1]
@[simp] theorem State.portPrefetch_wf {s : State} (hm : s.mem.wf) (k v) : (s.portPrefetch k v).mem.wf := by
  unfold State.portPrefetch
  split
  · simp [hm]
  have h1 := State.portPlace_wf hm _ ‹_›
  split <;> simp [h1]
@[simp] theorem State.portKeep_wf {s : State} (hm : s.mem.wf) (k v) : (s.portKeep k v).mem.wf := by
  unfold State.portKeep
  split
  · simp [hm]
  have h1 := State.portPlace_wf hm _ ‹_›
  split <;> simp [h1]
@[simp] theorem State.portEvict_wf {s : State} (hm : s.mem.wf) (k v) : (s.portEvict k v).mem.wf := by
  unfold State.portEvict
  split
  · simp [hm]
  have h1 := State.portPlace_wf hm _ ‹_›
  split <;> simp [h1]
@[simp] theorem State.fwLines_mem (s : State) (pa q n) : (s.fwLines pa q n).1.mem = s.mem := by
  induction n generalizing s pa q with
  | zero => rfl
  | succ n ih => simp [State.fwLines, ih]
theorem State.methodCode_wf {s : State} {asid va n} (hm : s.mem.wf) : ∀ x ∈ (s.methodCode asid va n), x.1.mem.wf := by
  induction n generalizing s va with
  | zero => simpa [State.methodCode] using hm
  | succ n ih =>
    unfold State.methodCode
    split
    · simp
    have h1 := State.translate_wf hm _ ‹_›
    split
    · simp
    · intro y hy
      obtain ⟨z, hz, rfl⟩ := Option.map_eq_some_iff.mp hy
      exact ih (by simpa using h1) z hz
theorem State.readMethod_wf {s : State} {asid w0 w1} (hm : s.mem.wf) : ∀ x ∈ (s.readMethod asid w0 w1), x.1.mem.wf := by
  unfold State.readMethod
  split
  · simp
  split
  · simpa using hm
  simp only []
  split
  · simp
  · intro y hy
    obtain ⟨z, hz, rfl⟩ := Option.map_eq_some_iff.mp hy
    exact State.methodCode_wf hm z hz
theorem State.readMethods_wf {s : State} {asid table n} (hm : s.mem.wf) : ∀ x ∈ (s.readMethods asid table n), x.1.mem.wf := by
  induction n generalizing s table with
  | zero => simpa [State.readMethods] using hm
  | succ n ih =>
    unfold State.readMethods
    extract_lets r
    have hr : r.1.mem.wf := by simp [r, hm]
    split
    · simp
    · have h1 := State.readMethod_wf hr _ ‹_›
      intro y hy
      obtain ⟨z, hz, rfl⟩ := Option.map_eq_some_iff.mp hy
      exact ih h1 z hz
@[simp] theorem State.readProgram_wf {s : State} (hm : s.mem.wf) (asid pa) : (s.readProgram asid pa).2.1.mem.wf := by
  unfold State.readProgram
  simp only []
  split
  · simp [hm]
  split
  · simp [hm]
  split
  · simp [hm]
  split
  · simp [hm]
  split
  · simp [hm]
  rename_i e1
  have h1 := State.readMethods_wf (by simp [hm]) _ e1
  simp only []
  split <;> simp [h1]
@[simp] theorem State.installProgram_wf {s : State} (hm : s.mem.wf) : (s.installProgram).mem.wf := by simp [State.installProgram, hm]
@[simp] theorem State.copySlice_wf {s : State} (hm : s.mem.wf) (k) : (s.copySlice k).mem.wf := by
  unfold State.copySlice
  split <;> simp [hm]

/-! ### Command queues -/

@[simp] theorem State.endOperation_mem (s : State) (die status) : (s.endOperation die status).mem = s.mem := by simp [State.endOperation]
@[simp] theorem State.descRead_mem (s : State) (die pa) : (s.descRead die pa).mem = s.mem := by simp [State.descRead]
@[simp] theorem State.joinContext_mem (s : State) (q) : (s.joinContext q).mem = s.mem := by simp [State.joinContext]
@[simp] theorem State.effectsOver_mem (s : State) (asid) : (s.effectsOver asid).mem = s.mem := by rfl
@[simp] theorem State.leaveContext_mem (s : State) (asid) : (s.leaveContext asid).mem = s.mem := by
  unfold State.leaveContext
  split <;> simp
@[simp] theorem State.registerQueue_wf {s : State} (hm : s.mem.wf) (die) : (s.registerQueue die).mem.wf := by
  unfold State.registerQueue
  (repeat' split) <;> simp [hm]
@[simp] theorem State.unregisterQueue_mem (s : State) (die) : (s.unregisterQueue die).mem = s.mem := by
  unfold State.unregisterQueue
  simp only []
  (repeat' split) <;> simp
@[simp] theorem State.readBlocks_mem (s : State) (q pts n) : (s.readBlocks q pts n).1.mem = s.mem := by
  induction n generalizing s with
  | zero => rfl
  | succ n ih => simp [State.readBlocks, ih]
@[simp] theorem State.advanceQueue_wf {s : State} (hm : s.mem.wf) (k q blocks pts) : (s.advanceQueue k q blocks pts).mem.wf := by
  simp [State.advanceQueue, hm]
@[simp] theorem State.queueFault_wf {s : State} (hm : s.mem.wf) (k reason type seq) : (s.queueFault k reason type seq).mem.wf := by
  unfold State.queueFault
  split <;> simp [hm]
@[simp] theorem State.settleQueue_mem (s : State) (k) : (s.settleQueue k).mem = s.mem := by rfl
@[simp] theorem State.keepPacket_wf {s : State} (hm : s.mem.wf) (k q left iterations kept p) : (s.keepPacket k q left iterations kept p).mem.wf := by
  unfold State.keepPacket
  simp only []
  (repeat' split) <;> simp [hm]
@[simp] theorem State.rejectSlot_mem (s : State) (k reason) : (s.rejectSlot k reason).mem = s.mem := by rfl
@[simp] theorem State.queueAt_mem (s : State) (k pts) : (s.queueAt k pts).mem = s.mem := by rfl
@[simp] theorem State.readSlotAgain_mem (s : State) (k q reason) : (s.readSlotAgain k q reason).mem = s.mem := by simp [State.readSlotAgain]
@[simp] theorem State.fetchSlot_wf {s : State} (hm : s.mem.wf) (k) : (s.fetchSlot k).mem.wf := by
  unfold State.fetchSlot
  simp only []
  (repeat' split) <;> simp [hm]

/-! ### Kilns -/

@[simp] theorem State.writeWindow_wf {s : State} (hm : s.mem.wf) (i off pts l) : (s.writeWindow i off pts l).1.mem.wf := by
  induction l generalizing s off pts with
  | nil => exact hm
  | cons w ws ih => simp [State.writeWindow, ih, hm]
theorem State.Inv.sense {s : State} (hs : s.Inv) (chan) : (s.sense chan).Inv := State.sense_wf hs _
@[simp] theorem State.fillWindow_wf {s : State} (hm : s.mem.wf) (i) : (s.fillWindow i).mem.wf := by
  change State.Inv _
  unfold State.fillWindow
  split
  · split
    · exact hm
    generalize pageWords _ = ws
    refine State.Inv.sense (.of_mem (State.modKiln_mem ..) (.of_mem (State.modTeam_mem ..) ?_)) _
    exact State.writeWindow_wf hm ..
  · exact hm
@[simp] theorem State.dropPages_wf {s : State} (hm : s.mem.wf) (asid) : (s.dropPages asid).mem.wf := by
  unfold State.dropPages
  refine foldl_wf (fun u chan hu => ?_) _ hm
  refine State.sense_wf ?_ _
  refine foldl_wf (fun v h hv => ?_) _ (by simpa using hu)
  exact foldl_wf (fun w j hw => by simpa using hw) _ hv
@[simp] theorem State.forgetWhere_wf {s : State} (hm : s.mem.wf) (req team) : (s.forgetWhere req team).mem.wf := by
  simp +contextual [State.forgetWhere, hm]
@[simp] theorem State.forgetPages_wf {s : State} (hm : s.mem.wf) (asid) : (s.forgetPages asid).mem.wf := by simp [State.forgetPages, hm]
@[simp] theorem State.forgetTeams_wf {s : State} (hm : s.mem.wf) (l) : (s.forgetTeams l).mem.wf := by simp [State.forgetTeams, hm]

/-! ### Energy meters -/

@[simp] theorem State.toOperator_wf {s : State} (hm : s.mem.wf) (kind value) : (s.toOperator kind value).mem.wf := by
  unfold State.toOperator
  split <;> simp [hm]
@[simp] theorem State.splitEnergy_mem (s : State) (kind total moved) : (s.splitEnergy kind total moved).mem = s.mem := by simp [State.splitEnergy]
@[simp] theorem State.meterEnergy_mem (s : State) (sources) : (s.meterEnergy sources).mem = s.mem := by simp [State.meterEnergy]
@[simp] theorem State.endWindow_mem (s : State) : (s.endWindow).mem = s.mem := by simp [State.endWindow]
@[simp] theorem State.tellGone_wf {s : State} (hm : s.mem.wf) : (s.tellGone).mem.wf := by simp [State.tellGone, hm]
@[simp] theorem State.takeIndex_wf {s : State} (hm : s.mem.wf) : (s.takeIndex).1.mem.wf := by
  unfold State.takeIndex
  (repeat' split) <;> simp [hm]
@[simp] theorem State.endReading_mem (s : State) (status) : (s.endReading status).mem = s.mem := by simp [State.endReading]
@[simp] theorem State.startReading_wf {s : State} (hm : s.mem.wf) (src) : (s.startReading src).mem.wf := by
  unfold State.startReading
  extract_lets ctl bay values
  split
  · exact hm
  split
  · simp [hm]
  clear_value values
  split
  · simp [hm]
  have h1 := State.takeIndex_wf hm
  split
  · rename_i e
    rw [e] at h1
    simpa using h1
  · rename_i e
    rw [e] at h1
    exact h1
@[simp] theorem State.storeBytes_wf {s : State} (hm : s.mem.wf) (pa l) : (s.storeBytes pa l).mem.wf := by
  induction l generalizing s pa with
  | nil => exact hm
  | cons b bs ih => simp [State.storeBytes, ih, hm]
@[simp] theorem State.finishReading_wf {s : State} (hm : s.mem.wf) (signature) : (s.finishReading signature).mem.wf := by
  unfold State.finishReading
  (repeat' split) <;> simp [hm]
@[simp] theorem State.checkpointBay_wf {s : State} (hm : s.mem.wf) (b) : (s.checkpointBay b).mem.wf := by simp [State.checkpointBay, hm]
@[simp] theorem State.checkpointMeters_wf {s : State} (hm : s.mem.wf) : (s.checkpointMeters).mem.wf := by
  unfold State.checkpointMeters
  have h1 : ((0 :: enabledBays s).foldl State.checkpointBay s).mem.wf := foldl_wf (fun u b hu => by simp [hu]) _ hm
  simp only []
  split
  · refine State.toOperator_wf ?_ ..
    exact h1
  · exact h1
@[simp] theorem State.meterPoint_wf {s : State} (hm : s.mem.wf) (written) : (s.meterPoint written).mem.wf := by
  unfold State.meterPoint
  split
  · simp [hm]
  · exact State.toOperator_wf (foldl_wf (fun u b hu => by simp [hu]) _ hm) ..
@[simp] theorem State.checkpointNow_wf {s : State} (hm : s.mem.wf) : (s.checkpointNow).mem.wf := by simp [State.checkpointNow, hm]
@[simp] theorem State.retireWorn_mem (s : State) (w1) : (s.retireWorn w1).mem = s.mem := by simp [State.retireWorn]
@[simp] theorem State.updateWear_wf {s : State} (hm : s.mem.wf) (w0 w1 w3) : (s.updateWear w0 w1 w3).mem.wf := by
  simp +contextual [State.updateWear, hm]

/-! ### Relay packets -/

theorem State.landBytes_wf {s : State} {q va pts bytes n} (hm : s.mem.wf) : ∀ x ∈ (s.landBytes q va pts bytes n), x.1.mem.wf := by
  induction n generalizing s va pts bytes with
  | zero => simpa [State.landBytes] using hm
  | succ n ih =>
    unfold State.landBytes
    simp only []
    split
    · simpa using hm
    split
    · simp
    · have h1 := State.bodyPlace_wf hm _ ‹_›
      exact ih (by simp [h1])
@[simp] theorem State.sendChunk_wf {s : State} (hm : s.mem.wf) (k q r j) : (s.sendChunk k q r j).1.mem.wf := by
  unfold State.sendChunk
  refine foldl_fst_wf (fun y i hy => ?_) _ hm
  simp only []
  split
  · exact hy
  · have h1 := State.bodyRead_wf hy _ ‹_›
    simp [h1]
@[simp] theorem State.endRelay_wf {s : State} (hm : s.mem.wf) (k q r v) : (s.endRelay k q r v).mem.wf := by
  unfold State.endRelay
  split
  · simp [hm]
  have h1 := State.bodyPlace_wf hm _ ‹_›
  simp [h1]
@[simp] theorem State.offerChunk_wf {s : State} (hm : s.mem.wf) (k q r taken) : (s.offerChunk k q r taken).1.mem.wf := by
  unfold State.offerChunk
  simp only []
  (repeat' split) <;> simp [hm]
@[simp] theorem State.runRelay_wf {s : State} (hm : s.mem.wf) (k n) : (s.runRelay k n).mem.wf := by
  induction n generalizing s with
  | zero => exact hm
  | succ n ih =>
    unfold State.runRelay
    split
    · exact hm
    split
    · exact hm
    split
    · simp [hm]
    split
    · exact hm
    extract_lets x
    have hx : x.1.mem.wf := by simp [x, hm]
    split
    · exact ih hx
    · exact hx
@[simp] theorem State.goRelay_wf {s : State} (hm : s.mem.wf) (k) : (s.goRelay k).mem.wf := by simp [State.goRelay, hm]
theorem noteLinks_mem (s : State) (bay : Nat) (f : Nat → Nat) (l : List Nat) :
    (l.foldl (fun (s : State) k => s.noteLink (.phys (f (128 * k)) 3) bay) s).mem = s.mem :=
  foldl_mem (fun _ _ => State.noteLink_mem ..) _ _
@[simp] theorem State.noteChunk_mem (s : State) (bay va n) : (s.noteChunk bay va n).mem = s.mem := by
  unfold State.noteChunk
  exact noteLinks_mem _ _ (relayLine Config.moduleNumber) _
@[simp] theorem State.chunkArrives_wf {s : State} (hm : s.mem.wf) (pred buffer chunk bytes) : (s.chunkArrives pred buffer chunk bytes).mem.wf := by
  unfold State.chunkArrives
  simp only []
  split
  · simp [hm]
  split
  · simp [hm]
  split
  · simp [hm]
  split
  · simp [hm]
  have h1 := State.landBytes_wf hm _ ‹_›
  simp [h1]
@[simp] theorem State.reofferChunk_wf {s : State} (hm : s.mem.wf) (k chunk accepted) : (s.reofferChunk k chunk accepted).mem.wf := by
  unfold State.reofferChunk
  (repeat' split) <;> simp [hm]
@[simp] theorem State.giveUpChunk_wf {s : State} (hm : s.mem.wf) (k chunk) : (s.giveUpChunk k chunk).mem.wf := by
  unfold State.giveUpChunk
  (repeat' split) <;> simp [hm]

/-! ### Packets -/

@[simp] theorem State.startPacket_wf {s : State} (k type) {f : State → Queue → Packet → Except Nat State}
    (hf : ∀ (u : State) q p, u.mem.wf → Ensures (f u q p) fun x => x.mem.wf) (hm : s.mem.wf) :
    (s.startPacket k type f).mem.wf := by
  unfold State.startPacket
  split
  · exact hm
  split
  · exact hm
  split
  · exact hm
  extract_lets u r
  have hu : u.mem.wf := by simp [u, hm]
  have hr : Ensures r fun x => x.mem.wf := by
    simp only [r]
    split
    · simp
    · exact hf _ _ _ hu
  rw [State.settleQueue_mem]
  clear_value r u
  cases r with
  | ok v => simpa using hr
  | error reason => simp [hu]
theorem State.bodyWordAt_wf {s : State} {q va n store word} (hm : s.mem.wf) : Ensures (s.bodyWordAt q va n store word) fun x => x.1.mem.wf := by
  unfold State.bodyWordAt
  split
  · simp
  split
  · simp
  have h1 := State.bodyPlace_wf hm _ ‹_›
  split <;> simp [h1]
theorem State.launchCount_wf {s : State} {k q b} (hm : s.mem.wf) : Ensures (s.launchCount k q b) fun x => x.1.mem.wf := by
  unfold State.launchCount
  simp only []
  split
  · simp [hm]
  · simp [hm]
  split
  · simp
  have h1 := State.bodyWordAt_wf hm _ ‹_›
  simp [h1]
theorem launchEffect_wf {s : State} {k q p} (hm : s.mem.wf) : Ensures (launchEffect k s q p) fun x => x.mem.wf := by
  unfold launchEffect
  simp only []
  split
  · simp
  split
  · simp
  split
  · simp
  have h1 := State.launchCount_wf hm _ ‹_›
  split
  · simp
  have h2 := State.checkLaunch_wf h1 _ ‹_›
  split
  · simp
  have h3 := State.bodyAddresses_wf h2 _ ‹_›
  simp [h3]
theorem loopEffect_wf {s : State} {k q p} (hm : s.mem.wf) : Ensures (loopEffect k s q p) fun x => x.mem.wf := by
  unfold loopEffect
  simp only []
  (repeat' split) <;> simp [hm]
theorem State.testWord_wf {s : State} {k q p} (hm : s.mem.wf) : Ensures (s.testWord k q p) fun x => x.1.mem.wf := by
  unfold State.testWord
  simp only []
  split
  · simp
  split
  · simp
  have h1 := State.bodyWordAt_wf hm _ ‹_›
  split <;> simp [h1]
theorem conditionalEffect_wf {s : State} {k q p} (hm : s.mem.wf) : Ensures (conditionalEffect k s q p) fun x => x.mem.wf := by
  unfold conditionalEffect
  split
  · simp
  · have h1 := State.testWord_wf hm _ ‹_›
    simp [h1]
  · have h1 := State.testWord_wf hm _ ‹_›
    simp [h1]
theorem waitEffect_wf {s : State} {k q p} (hm : s.mem.wf) : Ensures (waitEffect k s q p) fun x => x.mem.wf := by
  unfold waitEffect
  split
  · simp
  · have h1 := State.testWord_wf hm _ ‹_›
    simp [h1]
  · have h1 := State.testWord_wf hm _ ‹_›
    simp [h1]
@[simp] theorem State.endWait_mem (s : State) (k) : (s.endWait k).mem = s.mem := by
  unfold State.endWait
  split <;> simp
@[simp] theorem State.queueStore_wf {s : State} (hm : s.mem.wf) (k q va pa n w) : (s.queueStore k q va pa n w).mem.wf := by
  simp [State.queueStore, hm]
theorem writeEffect_wf {s : State} {k q p} (hm : s.mem.wf) : Ensures (writeEffect k s q p) fun x => x.mem.wf := by
  unfold writeEffect
  simp only []
  split
  · simp
  have h1 := State.bodyWordAt_wf hm _ ‹_›
  split <;> simp [h1]
theorem signalEffect_wf {s : State} {q p} (hm : s.mem.wf) : Ensures (signalEffect s q p) fun x => x.mem.wf := by simp [signalEffect, hm]
theorem fenceEffect_wf {s : State} {k q p} (hm : s.mem.wf) : Ensures (fenceEffect k s q p) fun x => x.mem.wf := by simp [fenceEffect, hm]
@[simp] theorem State.openGate_mem (s : State) (k) : (s.openGate k).mem = s.mem := by
  unfold State.openGate
  (repeat' split) <;> simp
theorem gateEffect_wf {s : State} {k q p} (hm : s.mem.wf) : Ensures (gateEffect k s q p) fun x => x.mem.wf := by
  unfold gateEffect
  split
  · simp
  have h1 := State.bodyWordAt_wf hm _ ‹_›
  split
  · simp
  have h2 := State.bodyWordAt_wf h1 _ ‹_›
  simp [h2]
@[simp] theorem State.reopenGate_wf {s : State} (hm : s.mem.wf) (k) : (s.reopenGate k).mem.wf := by
  unfold State.reopenGate
  (repeat' split) <;> simp [hm]
theorem relayEffect_wf {s : State} {k q p} (hm : s.mem.wf) : Ensures (relayEffect k s q p) fun x => x.mem.wf := by
  unfold relayEffect
  split
  · simp
  split
  · simp
  split
  · simp
  have h1 := State.bodyWordAt_wf hm _ ‹_›
  split
  · simp
  have h2 := State.bodyWordAt_wf h1 _ ‹_›
  simp [h2]
@[simp] theorem State.startDrain_wf {s : State} (hm : s.mem.wf) (asid us) : (s.startDrain asid us).mem.wf := by
  unfold State.startDrain
  split <;> simp [hm]
@[simp] theorem State.freeCores_mem (s : State) (l) : (s.freeCores l).mem = s.mem := by simp [State.freeCores]
@[simp] theorem State.tellBudget_wf {s : State} (hm : s.mem.wf) (k j) : (s.tellBudget k j).mem.wf := by
  unfold State.tellBudget
  split <;> simp [hm]
@[simp] theorem State.endDrain_wf {s : State} (hm : s.mem.wf) (asid) : (s.endDrain asid).mem.wf := by
  unfold State.endDrain
  simp only []
  split
  · simp [hm]
  refine foldl_wf (fun u a hu => ?_) _ (by simp [hm])
  refine foldl_wf (fun u a hu => ?_) _ hu
  simp [hu]
@[simp] theorem State.resumeContext_wf {s : State} (hm : s.mem.wf) (asid) : (s.resumeContext asid).mem.wf := by
  unfold State.resumeContext
  simp only []
  split
  · simp [hm]
  split
  · simp [hm]
  · simp [hm]
  · simp [hm]
  refine foldl_wf (fun u a hu => ?_) _ hm
  simp [hu]
@[simp] theorem State.forceEnd_mem (s : State) (k) : (s.forceEnd k).mem = s.mem := by
  unfold State.forceEnd
  split <;> simp
@[simp] theorem State.forgetRequests_mem (s : State) (asid) : (s.forgetRequests asid).mem = s.mem := by simp [State.forgetRequests]
@[simp] theorem State.startReset_wf {s : State} (hm : s.mem.wf) (asid reason) : (s.startReset asid reason).mem.wf := by
  change State.Inv _
  unfold State.startReset
  split
  · exact hm
  · exact hm
  refine .of_mem (State.later_mem ..) <| .of_mem (State.withResetTables_mem ..) <| .of_mem (State.modContext_mem ..) <|
    .of_mem (State.freeCores_mem ..) <| .of_mem (foldl_mem State.forceEnd_mem ..) <| .of_mem (State.withOps_mem ..) <|
    .of_mem (State.forgetRequests_mem ..) ?_
  exact State.forgetPages_wf (State.checkpointNow_wf hm) _
@[simp] theorem State.endBayReset_wf {s : State} (hm : s.mem.wf) (b) : (s.endBayReset b).mem.wf := by simp [State.endBayReset, hm]
@[simp] theorem State.endReset_wf {s : State} (hm : s.mem.wf) (asid) : (s.endReset asid).mem.wf := by
  unfold State.endReset
  split
  · exact hm
  split
  · split
    · exact hm
    extract_lets v u w
    have hw : w.mem.wf := by simp [w, u, hm]
    exact State.endBayReset_wf (State.toOperator_wf (State.record_wf hw ..) ..) _
  · exact hm
@[simp] theorem State.exhaust_wf {s : State} (hm : s.mem.wf) (k j) : (s.exhaust k j).mem.wf := by
  unfold State.exhaust
  split
  · exact hm
  split
  · exact hm
  simp only []
  split
  · simpa using hm
  refine State.tellBudget_wf ?_ ..
  refine foldl_wf (fun u c hu => ?_) _ (foldl_wf (fun u i hu => ?_) _ (by simpa using hm))
  · split <;> simpa using hu
  · split
    · split <;> simpa using hu
    · exact hu
@[simp] theorem State.grantSlice_wf {s : State} (hm : s.mem.wf) (k j budget) : (s.grantSlice k j budget).mem.wf := by
  unfold State.grantSlice
  split <;> simp [hm]
theorem grantEffect_wf {s : State} {_q p} (hm : s.mem.wf) : Ensures (grantEffect s _q p) fun x => x.mem.wf := by
  unfold grantEffect
  simp only [ensures_ok]
  split
  · exact hm
  refine foldl_wf (fun u x hu => ?_) _ hm
  split <;> simp [hu]
@[simp] theorem State.atContext_mem (s : State) (k asid began) : (s.atContext k asid began).mem = s.mem := by simp [State.atContext]
theorem preEmptEffect_wf {s : State} {k _q p} (hm : s.mem.wf) : Ensures (preEmptEffect k s _q p) fun x => x.mem.wf := by simp [preEmptEffect, hm]
theorem resumeEffect_wf {s : State} {_q p} (hm : s.mem.wf) : Ensures (resumeEffect s _q p) fun x => x.mem.wf := by simp [resumeEffect, hm]
theorem resetEffect_wf {s : State} {k _q p} (hm : s.mem.wf) : Ensures (resetEffect k s _q p) fun x => x.mem.wf := by simp [resetEffect, hm]

/-! ### Host ports, the fabric and service cores -/

@[simp] theorem State.storeLines_wf {s : State} (hm : s.mem.wf) (pa bytes n) : (s.storeLines pa bytes n).1.mem.wf := by
  induction n generalizing s pa bytes with
  | zero => exact hm
  | succ n ih =>
    unfold State.storeLines
    simp only []
    split <;> simp [ih, hm]
@[simp] theorem State.storeOutside_wf {s : State} (hm : s.mem.wf) (pa bytes) : (s.storeOutside pa bytes).1.mem.wf := by
  unfold State.storeOutside
  simp only []
  (repeat' split) <;> simp [hm]
@[simp] theorem State.hostOwn_wf {s : State} (hm : s.mem.wf) (pa bytes) : (s.hostOwn pa bytes).mem.wf := by
  unfold State.hostOwn
  refine foldl_wf (fun u l hu => ?_) _ hm
  split
  · exact hu
  · exact Memory.wf_writeBytes _ _ _ hu
@[simp] theorem State.storeArrives_wf {s : State} (hm : s.mem.wf) (pa bytes) : (s.storeArrives pa bytes).mem.wf := by simp [State.storeArrives, hm]
@[simp] theorem State.hostStore_wf {s : State} (hm : s.mem.wf) (pa bytes) : (s.hostStore pa bytes).mem.wf := by simp [State.hostStore, hm]
@[simp] theorem State.homeRead_mem (s : State) (pa n) : (s.homeRead pa n).mem = s.mem := by simp [State.homeRead]
@[simp] theorem State.hostRead_mem (s : State) (pa n) : (s.hostRead pa n).mem = s.mem := by
  unfold State.hostRead
  split <;> simp
@[simp] theorem State.modHart_mem (s : State) (h f) : (s.modHart h f).mem = s.mem := by rfl
@[simp] theorem State.setHart_mem (s : State) (h pts) : (s.setHart h pts).mem = s.mem := by rfl
@[simp] theorem State.hartLoad_mem (s : State) (h pa n) : (s.hartLoad h pa n).1.mem = s.mem := by
  unfold State.hartLoad
  simp only []
  (repeat' split) <;> simp
@[simp] theorem State.hartStore_wf {s : State} (hm : s.mem.wf) (h pa n w) : (s.hartStore h pa n w).mem.wf := by simp [State.hartStore, hm]
@[simp] theorem State.serviceDone_wf {s : State} (hm : s.mem.wf) (h pa n store) : (s.serviceDone h pa n store).mem.wf := by
  unfold State.serviceDone
  generalize s.region pa = r
  cases store with
  | none =>
    cases r with
    | hbm => rw [State.hartLoad_mem]; exact hm
    | host =>
      cases s.lost.contains (hostPort pa, 0)
      · exact hm
      · exact (congrArg Memory.wf (State.tick_mem s)).trans hm
    | _ => exact hm
  | some v =>
    cases r with
    | hbm => exact State.hartStore_wf hm ..
    | device => rw [State.devWriteN_mem]; exact hm
    | host =>
      cases s.lost.contains (hostPort pa, 0)
      · show ((s.poke (.phys pa 2) n v.toNat).evaluate (.phys pa 2) n 0).mem.wf
        rw [State.evaluate_mem]
        exact State.poke_wf hm ..
      · exact hm
    | _ => exact hm
@[simp] theorem State.serveHart_wf {s : State} (hm : s.mem.wf) (h) : (s.serveHart h).mem.wf := by
  unfold State.serveHart
  simp only []
  split
  · simp [hm]
  split
  · simp [hm]
  split
  · rename_i e1
    have h1 := State.postpone_wf (by simp [hm]) _ e1
    simp [h1]
  · simp [hm]
@[simp] theorem State.serviceAccess_wf {s : State} (hm : s.mem.wf) (h pa n store) : (s.serviceAccess h pa n store).mem.wf := by
  unfold State.serviceAccess
  split <;> simp [hm]
@[simp] theorem State.snoop_wf {s : State} (hm : s.mem.wf) (pa takes line) : (s.snoop pa takes line).mem.wf := by
  unfold State.snoop
  extract_lets a n gone u v w
  have hu : u.mem.wf := by simp [u, hm]
  split
  · exact hu
  have hw : w.mem.wf := Memory.wf_writeBytes _ _ _ hu
  split
  · simp [hw]
  · exact hw
@[simp] theorem State.monitorFails_wf {s : State} (hm : s.mem.wf) (m info) : (s.monitorFails m info).mem.wf := by simp [State.monitorFails, hm]
@[simp] theorem State.pollWord_wf {s : State} (hm : s.mem.wf) (t word) : (s.pollWord t word).mem.wf := by
  unfold State.pollWord
  (repeat' split) <;> simp [hm]
@[simp] theorem State.fabricWake_mem (s : State) (t word) : (s.fabricWake t word).mem = s.mem := by
  unfold State.fabricWake
  split <;> simp
@[simp] theorem State.faultEntry_mem (s : State) (t k f) : (s.faultEntry t k f).mem = s.mem := by rfl
@[simp] theorem State.undoAtom_wf {s : State} (hm : s.mem.wf) (t en) : (s.undoAtom t en).mem.wf := by
  unfold State.undoAtom
  simp only []
  (repeat' split) <;> simp [hm]
@[simp] theorem State.answerFails_wf {s : State} (hm : s.mem.wf) (t reason ea) : (s.answerFails t reason ea).mem.wf := by simp [State.answerFails, hm]
@[simp] theorem State.hostLate_wf {s : State} (hm : s.mem.wf) (t flush) : (s.hostLate t flush).mem.wf := by
  unfold State.hostLate
  simp only []
  (repeat' split) <;> simp [hm]
@[simp] theorem State.fabricLate_wf {s : State} (hm : s.mem.wf) (t marker) : (s.fabricLate t marker).mem.wf := by
  unfold State.fabricLate
  simp only []
  (repeat' split) <;> simp [hm]
@[simp] theorem State.answerMarkers_mem (s : State) : (s.answerMarkers).mem = s.mem := by rfl
@[simp] theorem State.ownArrived_mem (s : State) (pa bytes) : (s.ownArrived pa bytes).mem = s.mem := by
  unfold State.ownArrived
  split <;> simp
@[simp] theorem State.fabricArrival_wf {s : State} (hm : s.mem.wf) (source pa bytes) : (s.fabricArrival source pa bytes).mem.wf := by
  simp [State.fabricArrival, hm]
@[simp] theorem State.markerArrives_mem (s : State) (source count) : (s.markerArrives source count).mem = s.mem := by simp [State.markerArrives]
@[simp] theorem State.fabricRequest_wf {s : State} (hm : s.mem.wf) (r) : (s.fabricRequest r).mem.wf := by
  unfold State.fabricRequest
  (repeat' split) <;> simp [hm]
@[simp] theorem State.loseLink_wf {s : State} (hm : s.mem.wf) (feature port) : (s.loseLink feature port).mem.wf := by simp [State.loseLink, hm]
@[simp] theorem State.tellRefusals_wf {s : State} (hm : s.mem.wf) (i) : (s.tellRefusals i).mem.wf := by
  unfold State.tellRefusals
  (repeat' split) <;> simp [hm]
@[simp] theorem State.holdSender_mem (s : State) (i) : (s.holdSender i).mem = s.mem := by rfl
@[simp] theorem State.endHoldoff_mem (s : State) (ring) : (s.endHoldoff ring).mem = s.mem := by simp [State.endHoldoff]
@[simp] theorem State.serveEvsig_wf {s : State} (hm : s.mem.wf) (asid) : (s.serveEvsig asid).mem.wf := by
  unfold State.serveEvsig
  refine foldl_wf (fun u a hu => ?_) _ hm
  (repeat' split) <;> simp [hu]
@[simp] theorem State.flushRecords_wf {s : State} (hm : s.mem.wf) (asid) : (s.flushRecords asid).mem.wf := by
  unfold State.flushRecords
  split
  · exact hm
  extract_lets room u v w
  have hu : u.mem.wf := by
    simp only [u]
    split
    · split
      · simp [hm]
      · exact hm
    · exact hm
  have hw : w.mem.wf := by simp [w, v, hu]
  simp [hw]
@[simp] theorem State.tellCycle_wf {s : State} (hm : s.mem.wf) (l) : (s.tellCycle l).mem.wf := by
  unfold State.tellCycle
  refine foldl_wf (fun u a hu => ?_) _ hm
  (repeat' split) <;> simp [hu]
@[simp] theorem State.scanWaits_wf {s : State} (hm : s.mem.wf) : (s.scanWaits).mem.wf := by simp +contextual [State.scanWaits, hm]

/-! ### Bays -/

@[simp] theorem State.dropVectors_mem (s : State) (b) : (s.dropVectors b).mem = s.mem := by rfl
@[simp] theorem State.resetBay_wf {s : State} (hm : s.mem.wf) (b) : (s.resetBay b).mem.wf := by
  unfold State.resetBay
  split
  · exact hm
  refine State.endBayReset_wf ?_ _
  rw [State.dropVectors_mem]
  exact foldl_wf (fun u a hu => State.startReset_wf hu a 1) _ (State.checkpointNow_wf hm)
@[simp] theorem State.newWindow_mem (s : State) : (s.newWindow).mem = s.mem := by simp [State.newWindow]

/-! ### What the next instruction would meet -/

@[simp] theorem State.takeDue_wf {s : State} (hm : s.mem.wf) (t) : (s.takeDue t).mem.wf := by
  unfold State.takeDue
  (repeat' split) <;> simp [hm]
@[simp] theorem State.deliverSignal_wf {s : State} (hm : s.mem.wf) (t tm th n) : (s.deliverSignal t tm th n).mem.wf := by
  simp [State.deliverSignal, hm]
@[simp] theorem State.deliverSignals_wf {s : State} (hm : s.mem.wf) (i) : (s.deliverSignals i).mem.wf := by
  unfold State.deliverSignals
  (repeat' split) <;> simp [hm]

/-! ### Power, resets and soft errors -/

@[simp] theorem State.keptBays_mem (s t : State) : (s.keptBays t).mem = t.mem := by simp [State.keptBays]
@[simp] theorem State.keptIn_mem (s t : State) : (s.keptIn t).mem = s.mem := by simp [State.keptIn]
@[simp] theorem State.recordFailure_mem (s : State) (kind index) : (s.recordFailure kind index).mem = s.mem := by simp [State.recordFailure]
@[simp] theorem State.resetModule_mem (s : State) : (s.resetModule).mem = s.mem := by
  unfold State.resetModule
  split <;> simp
@[simp] theorem State.losePower_mem (s : State) : (s.losePower).mem = s.mem := by simp [State.losePower]
@[simp] theorem State.completeTraining_wf {s : State} (hm : s.mem.wf) : (s.completeTraining).mem.wf := by
  unfold State.completeTraining
  simp only []
  split
  · simp [hm]
  split
  · simp only []
    refine foldl_wf (fun u a hu => ?_) _ hm
    simp [hu]
  · refine foldl_wf (fun u a hu => ?_) _ hm
    simp [hu]
@[simp] theorem State.loseSlice_mem (s : State) (index) : (s.loseSlice index).mem = s.mem := by
  unfold State.loseSlice
  simp only []
  (repeat' split) <;> simp
@[simp] theorem State.failTraining_mem (s : State) (kind index) : (s.failTraining kind index).mem = s.mem := by simp [State.failTraining]
@[simp] theorem State.emptyCore_mem (s : State) (c) : (s.emptyCore c).mem = s.mem := by
  unfold State.emptyCore
  refine foldl_mem (fun u a => ?_) _ _
  (repeat' split) <;> simp
@[simp] theorem State.retireCore_wf {s : State} (hm : s.mem.wf) (c reason) : (s.retireCore c reason).mem.wf := by
  unfold State.retireCore
  split <;> simp [hm]
@[simp] theorem State.coreError_mem (s : State) (c) : (s.coreError c).mem = s.mem := by rfl
@[simp] theorem State.failFirmware_wf {s : State} (hm : s.mem.wf) (d) : (s.failFirmware d).mem.wf := by
  unfold State.failFirmware
  split
  · exact hm
  refine foldl_wf (fun u q hu => ?_) _ (foldl_wf (fun u c hu => by simp [hu]) _ hm)
  split <;> simp [hu]
@[simp] theorem State.countSoft_mem (s : State) (off fatal) : (s.countSoft off fatal).mem = s.mem := by simp [State.countSoft]
@[simp] theorem State.firmwareError_wf {s : State} (hm : s.mem.wf) (c) : (s.firmwareError c).mem.wf := by simp [State.firmwareError, hm]
@[simp] theorem State.losesRegister_wf {s : State} (hm : s.mem.wf) (t) : (s.losesRegister t).mem.wf := by
  unfold State.losesRegister
  split
  · split
    · exact hm
    extract_lets info c u
    have hu : u.mem.wf := by simp [u, hm]
    split <;> simp [hu]
  · exact hm
@[simp] theorem State.soften_wf {s : State} (hm : s.mem.wf) (e) : (s.soften e).mem.wf := by
  unfold State.soften
  simp only []
  (repeat' split) <;> simp [hm]
theorem State.refillBytes_wf {s : State} {core owner slot block} (hm : s.mem.wf) : ∀ x ∈ (s.refillBytes core owner slot block), x.1.mem.wf := by
  unfold State.refillBytes
  simp only []
  split
  · simp
  have h1 := State.translate_wf hm _ ‹_›
  split <;> simp [h1]
@[simp] theorem State.refill_wf {s : State} (hm : s.mem.wf) (core owner slot block good) : (s.refill core owner slot block good).mem.wf := by
  unfold State.refill
  simp only []
  split
  · simp [hm]
  split
  · simp [hm]
  have h1 := State.refillBytes_wf hm _ ‹_›
  split <;> simp [h1]

/-! ### Handlers of hod cores -/

theorem State.hodGlobal_wf {s : State} {k e va n store load} (hm : s.mem.wf) : Ensures (s.hodGlobal k e va n store load) fun x => x.1.mem.wf := by
  unfold State.hodGlobal
  split
  · simp
  have h1 := State.handlerPlace_wf hm _ ‹_›
  split <;> simp [h1]
theorem State.hodLoad_wf {s : State} {k r a n} (hm : s.mem.wf) : Ensures (s.hodLoad k r a n) fun x => x.1.mem.wf := by
  unfold State.hodLoad
  simp only []
  split
  · simp
  · simp [hm]
  · simp [hm]
  split
  · simp
  have h1 := State.hodGlobal_wf hm _ ‹_›
  simp [h1]
@[simp] theorem State.hodPoke_wf {s : State} (hm : s.mem.wf) (k i n w) : (s.hodPoke k i n w).mem.wf := by simp [State.hodPoke, hm]
theorem State.hodStore_wf {s : State} {k r a n w} (hm : s.mem.wf) : Ensures (s.hodStore k r a n w) fun x => x.1.mem.wf := by
  unfold State.hodStore
  simp only []
  split
  · simp
  · simp [hm]
  · split <;> simp [hm]
  split
  · simp
  have h1 := State.hodGlobal_wf hm _ ‹_›
  simp [h1]
theorem State.hodExchange_wf {s : State} {k r a n f} (hm : s.mem.wf) : Ensures (s.hodExchange k r a n f) fun x => x.1.mem.wf := by
  unfold State.hodExchange
  simp only []
  split
  · simp
  · simp
  · simp [hm]
  split
  · simp
  have h1 := State.hodGlobal_wf hm _ ‹_›
  simp [h1]
theorem State.hodReservation_wf {s : State} {k r a n} (hm : s.mem.wf) : Ensures (s.hodReservation k r a n) fun x => x.1.mem.wf := by
  unfold State.hodReservation
  split
  · simp
  · simp
  · simp [hm]
  split
  · simp
  have h1 := State.hodGlobal_wf hm _ ‹_›
  simp [h1]
@[simp] theorem State.setHod_mem (s : State) (k r) : (s.setHod k r).mem = s.mem := by rfl
@[simp] theorem State.hodFault_mem (s : State) (k r reason) : (s.hodFault k r reason).mem = s.mem := by simp [State.hodFault]
@[simp] theorem State.hodNext_wf {s : State} (k r) {x : Except Nat (State × HodRun)} (hx : Ensures x fun y => y.1.mem.wf) (hm : s.mem.wf) :
    (s.hodNext k r x).mem.wf := by
  unfold State.hodNext
  split
  · simpa using hx _ rfl
  · simp [hm]
@[simp] theorem State.hodEcall_mem (s : State) (k r) : (s.hodEcall k r).mem = s.mem := by simp [State.hodEcall]
theorem State.hodStoreConditional_wf {s : State} {k r a n rd w} (hm : s.mem.wf) :
    Ensures (s.hodStoreConditional k r a n rd w) fun x => x.1.mem.wf := by
  unfold State.hodStoreConditional
  split
  · simp
  have h1 := State.hodReservation_wf hm _ ‹_›
  split
  · simpa using State.hodStore_wf h1
  · simp [h1]
@[simp] theorem State.hodExec_wf {s : State} (hm : s.mem.wf) (k r len i) : (s.hodExec k r len i).mem.wf := by
  unfold State.hodExec
  extract_lets next on
  split
  · simp [hm]
  · simp [hm]
  · simp [hm]
  · simp [hm]
  · simp [hm]
  · exact State.hodNext_wf _ _ (by simpa using State.hodLoad_wf hm) hm
  · exact State.hodNext_wf _ _ (by simpa using State.hodStore_wf hm) hm
  · simp [hm]
  · simp [hm]
  · simp [hm]
  · simp [hm]
  · simp [hm]
  · refine State.hodNext_wf _ _ ?_ hm
    split
    · simp
    · simpa using State.hodLoad_wf hm
  · exact State.hodNext_wf _ _ (by simpa using State.hodStoreConditional_wf hm) hm
  · exact State.hodNext_wf _ _ (by simpa using State.hodExchange_wf hm) hm
  · simp [hm]
@[simp] theorem State.hodInstr_wf {s : State} (hm : s.mem.wf) (k) : (s.hodInstr k).mem.wf := by
  unfold State.hodInstr
  (repeat' split) <;> simp [hm]
@[simp] theorem State.hodStep_wf {s : State} (hm : s.mem.wf) (k) : (s.hodStep k).mem.wf := by
  unfold State.hodStep
  simp only []
  split
  · simp [hm]
  split
  · simp [hm]
  split
  · rename_i e1
    have h1 := State.refusedRequest_wf (by simp [hm]) _ e1
    simp [h1]
  · simp [hm]
@[simp] theorem State.stirHods_wf {s : State} (hm : s.mem.wf) : (s.stirHods).mem.wf := by
  unfold State.stirHods
  refine foldl_wf (fun u a hu => ?_) _ hm
  (repeat' split) <;> simp [hu]
@[simp] theorem State.stirCopy_wf {s : State} (hm : s.mem.wf) : (s.stirCopy).mem.wf := by
  unfold State.stirCopy
  (repeat' split) <;> simp [hm]

/-! ### One cycle of the module -/

@[simp] theorem State.formPart_mem (s : State) (c p) : (s.formPart c p).mem = s.mem := by simp [State.formPart]
@[simp] theorem State.formWave_mem (s : State) (i) : (s.formWave i).mem = s.mem := by
  unfold State.formWave
  split <;> simp
@[simp] theorem State.tendPart_mem (s : State) (c p) : (s.tendPart c p).mem = s.mem := by rfl
@[simp] theorem State.passCycle_mem (s : State) : (s.passCycle).mem = s.mem := by rfl
@[simp] theorem State.noteResult_mem (s : State) (t) : (s.noteResult t).mem = s.mem := by
  unfold State.noteResult
  split <;> simp
@[simp] theorem State.chargeSlice_mem (s : State) (k j) : (s.chargeSlice k j).mem = s.mem := by rfl
@[simp] theorem State.noteHeld_mem (s : State) : (s.noteHeld).mem = s.mem := by simp [State.noteHeld]
@[simp] theorem State.chargeCycle_mem (s : State) : (s.chargeCycle).mem = s.mem := by
  unfold State.chargeCycle
  refine (foldl_mem (fun u x => ?_) _ _).trans <| (foldl_mem (fun u tm => ?_) _ _).trans <| (State.noteHeld_mem _).trans <|
    (foldl_mem (fun u x => State.noteUse_mem ..) _ _).trans (foldl_mem (fun u x => State.chargeSlice_mem ..) _ _)
  · split <;> simp
  · split
    · split <;> simp
    · rfl
@[simp] theorem State.watchWaits_mem (s : State) : (s.watchWaits).mem = s.mem := by
  unfold State.watchWaits
  refine foldl_mem (fun u a => ?_) _ _
  (repeat' split) <;> simp
@[simp] theorem State.stirOne_wf {s : State} (hm : s.mem.wf) : (s.stirOne).mem.wf := by
  unfold State.stirOne
  (repeat' split) <;> simp [hm]
@[simp] theorem State.landOne_wf {s : State} (hm : s.mem.wf) : (s.landOne).mem.wf := by
  unfold State.landOne
  simp only []
  (repeat' split) <;> simp [hm]
@[simp] theorem State.raiseDue_mem (s : State) : (s.raiseDue).mem = s.mem := by
  unfold State.raiseDue
  simp
@[simp] theorem State.stirMeters_wf {s : State} (hm : s.mem.wf) : (s.stirMeters).mem.wf := by
  unfold State.stirMeters
  simp only []
  (repeat' split) <;> simp [hm]
@[simp] theorem State.stirRetire_wf {s : State} (hm : s.mem.wf) : (s.stirRetire).mem.wf := by
  unfold State.stirRetire
  split
  · simp [hm]
  refine foldl_wf (fun u a hu => ?_) _ hm
  (repeat' split) <;> simp [hu]
@[simp] theorem State.dropTlb_mem (s : State) : (s.dropTlb).mem = s.mem := by
  unfold State.dropTlb
  split <;> simp
@[simp] theorem State.serveQueues_mem (s : State) : (s.serveQueues).mem = s.mem := by simp [State.serveQueues]
@[simp] theorem State.tryAgain_mem (s : State) (t) : (s.tryAgain t).mem = s.mem := by
  unfold State.tryAgain
  split <;> simp
@[simp] theorem State.serveHarts_wf {s : State} (hm : s.mem.wf) : (s.serveHarts).mem.wf := by
  unfold State.serveHarts
  refine foldl_wf (fun u a hu => ?_) _ hm
  (repeat' split) <;> simp [hu]
@[simp] theorem State.signalTeam_wf {s : State} (hm : s.mem.wf) (i) : (s.signalTeam i).mem.wf := by
  unfold State.signalTeam
  split
  · split
    · simp [hm]
    refine foldl_wf (fun u a hu => ?_) _ hm
    simp [hu]
  · simp [hm]
@[simp] theorem State.goOn_wf {s : State} (hm : s.mem.wf) (who) : (s.goOn who).mem.wf := by
  unfold State.goOn
  (repeat' split) <;> simp [hm]
@[simp] theorem State.dropEntry_mem (s : State) (id) : (s.dropEntry id).mem = s.mem := by rfl
@[simp] theorem State.resendAll_wf {s : State} (hm : s.mem.wf) (l) : (s.resendAll l).1.mem.wf := by
  induction l generalizing s with
  | nil => exact hm
  | cons x xs ih =>
    unfold State.resendAll
    split
    · split
      · have h1 := State.accept_wf hm _ ‹_›
        extract_lets u
        have hu : u.mem.wf := by simp [u, h1]
        split
        · simp [hu]
        · simp [hu]
        · exact ih (by simp [hu])
        · exact ih hu
      · exact hm
    · exact ih hm
@[simp] theorem State.replayWindow_wf {s : State} (hm : s.mem.wf) (i accepted) : (s.replayWindow i accepted).mem.wf := by
  unfold State.replayWindow
  (repeat' split) <;> simp [hm]
@[simp] theorem State.toPick_wf {s : State} (hm : s.mem.wf) : (s.toPick).mem.wf := by
  unfold State.toPick
  extract_lets places u v
  have hu : u.mem.wf := State.Inv.of_mem (State.passCycle_mem s) hm
  clear_value u
  have hv : v.mem.wf := by
    refine State.stirMeters_wf ?_
    rw [State.raiseDue_mem]
    refine State.stirRetire_wf ?_
    rw [State.dropTlb_mem]
    refine State.stirCopy_wf <| State.stirHods_wf <| State.landOne_wf <| State.stirOne_wf <| State.serveHarts_wf ?_
    rw [State.serveQueues_mem, State.watchWaits_mem, State.chargeCycle_mem, foldl_mem State.noteResult_mem]
    exact foldl_wf (fun u k => State.Inv.of_mem (State.tendPart_mem ..)) _ hu
  clear_value v
  exact foldl_wf (fun u i hu => State.signalTeam_wf hu i) _ (foldl_wf (fun u t => State.Inv.of_mem (State.tryAgain_mem ..)) _ hv)
@[simp] theorem State.cycle_wf {s : State} (hm : s.mem.wf) : (s.cycle).mem.wf := by simp [State.cycle, hm]
@[simp] theorem State.park_mem (s : State) (t) : (s.park t).mem = s.mem := by
  unfold State.park
  split <;> simp
@[simp] theorem State.idleTick_mem (s : State) (a) : (s.idleTick a).mem = s.mem := by
  unfold State.idleTick
  (repeat' split) <;> simp

/-! ### What the next turn meets -/

theorem State.postponed_wf {s u : State} {r i} (hm : s.mem.wf) : ∀ x ∈ s.postponed r i u, x.1.mem.wf := by
  unfold State.postponed
  split
  · split
    · simp
    split
    · exact State.refusedRequest_wf (by simp [hm])
    exact State.postponeThread_wf (by simp [hm])
  · simp
@[simp] theorem State.usePlaces_mem (s : State) (i) : (s.usePlaces i).mem = s.mem := by simp [State.usePlaces]
theorem State.eventWaits_wf {s : State} {k i} (hm : s.mem.wf) : ∀ x ∈ s.eventWaits k i, x.mem.wf := by
  unfold State.eventWaits
  split
  · simp
  split
  · simpa using hm
  extract_lets s0
  have h0 : s0.mem.wf := by simp [s0, hm]
  clear_value s0
  split
  · split
    · rename_i x e
      obtain ⟨p, -, hp⟩ := List.exists_of_findSome?_eq_some e
      have h1 := State.refusedRequest_wf h0 _ hp
      simpa using h1
    · split
      · simp
      · simp [hm]
  · simp

/-! ### Executing one instruction -/

/-- Where memory is in its canonical form, it is so in every state that the effect of `body` leads to. -/
def Keeps (body : Ctx → State → Effect) : Prop := ∀ ⦃s : State⦄, s.mem.wf → ∀ c, (body c s).wf
theorem keeps_done : Keeps fun _ s => .done s := fun _ hm _ => (Effect.wf_done _).mpr hm
theorem keeps_trap (f : Ctx → TrapInfo) : Keeps fun c _ => .trap (f c) := fun _ _ _ => (Effect.wf_trap _).mpr trivial
theorem keeps_flushPoint : Keeps fun c s => .done (s.flushPoint c.t) :=
  fun _ hm _ => (Effect.wf_done _).mpr (State.Inv.of_mem (State.flushPoint_mem ..) hm)
theorem keeps_engine {body} (hb : Keeps body) : Keeps (engine body) := fun _ hm c => engine_wf (hb hm c) hm
theorem keeps_flushes {body} (hb : Keeps body) : Keeps (flushes body) := fun _ hm c => flushes_wf (hb hm c) hm
theorem keeps_afterStores {body} (hb : Keeps body) : Keeps (afterStores body) := fun _ hm c => afterStores_wf (fun _ hu => hb hu c) hm
/-- In the state that a step leads to, memory is in its canonical form. -/
@[irreducible] def LeadsWf (r : Host.Outcome State Fault Refusal) : Prop := ∀ t, r = .next t → t.mem.wf
theorem next_wf {s : State} (h : s.mem.wf) : LeadsWf (.next s) := by
  unfold LeadsWf
  rintro t ⟨⟩
  exact h
theorem LeadsWf.of_next {r : Host.Outcome State Fault Refusal} (h : LeadsWf r) {t : State} (ht : r = .next t) : t.mem.wf := by
  unfold LeadsWf at h
  exact h t ht
theorem issueWords_wf {op w body} {onFalse : Ctx → State → Effect} (hb : Keeps body) (hf : Keeps onFalse) {s : State} (hm : s.mem.wf) :
    LeadsWf (issueWords op w body s onFalse) := by
  unfold LeadsWf
  exact fun t => issue_wf (fun c u hu => hb hu c) (fun c u hu => hf hu c) hm
theorem issueBase_wf {op b body} (hb : Keeps body) {s : State} (hm : s.mem.wf) : LeadsWf (issueBase op b body s) := by
  unfold LeadsWf
  exact fun t => issue_wf (fun c u hu => hb hu c) (fun c u hu => keeps_done hu c) hm

/-! ### Executing one event -/

theorem execBinAgeRipe_wf {s : State} (hm : s.mem.wf) (core part bin) : LeadsWf (execBinAgeRipe core part bin s) := by
  unfold execBinAgeRipe
  refine next_wf ?_
  simp [hm]
theorem execTranslationWalk_wf {s : State} (hm : s.mem.wf) (core asid va store) : LeadsWf (execTranslationWalk core asid va store s) := by
  unfold execTranslationWalk
  refine next_wf ?_
  split
  · have h1 := State.walkFor_wf hm _ ‹_›
    simp [h1]
  · simp [hm]
theorem execSlicePortPref_wf {s : State} (hm : s.mem.wf) (slice v) : LeadsWf (execSlicePortPref slice v s) := by
  unfold execSlicePortPref
  refine next_wf ?_
  split <;> simp [hm]
theorem execSlicePortKeep_wf {s : State} (hm : s.mem.wf) (slice v) : LeadsWf (execSlicePortKeep slice v s) := by
  unfold execSlicePortKeep
  refine next_wf ?_
  simp [hm]
theorem execSlicePortEvict_wf {s : State} (hm : s.mem.wf) (slice v) : LeadsWf (execSlicePortEvict slice v s) := by
  unfold execSlicePortEvict
  refine next_wf ?_
  simp [hm]
theorem execSlotReread_wf {s : State} (hm : s.mem.wf) (queue) : LeadsWf (execSlotReread queue s) := by
  unfold execSlotReread
  refine next_wf ?_
  split <;> simp [hm]
theorem execRelayChunkArrival_wf {s : State} (hm : s.mem.wf) (pred buffer chunk bytes) :
    LeadsWf (execRelayChunkArrival pred buffer chunk bytes s) := by
  unfold execRelayChunkArrival
  refine next_wf ?_
  simp [hm]
theorem execBaySettingsWrite_wf {s : State} (hm : s.mem.wf) (bay offset v) : LeadsWf (execBaySettingsWrite bay offset v s) := by
  unfold execBaySettingsWrite
  refine next_wf ?_
  simp [hm]
theorem execWearUpdate_wf {s : State} (hm : s.mem.wf) (life pemax pemean age) : LeadsWf (execWearUpdate life pemax pemean age s) := by
  unfold execWearUpdate
  refine next_wf ?_
  simp [hm]
theorem execPowerOn_wf {s : State} (hm : s.mem.wf) : LeadsWf (execPowerOn s) := by
  unfold execPowerOn
  refine next_wf ?_
  simp [hm]
theorem execModuleReset_wf {s : State} (hm : s.mem.wf) : LeadsWf (execModuleReset s) := by
  unfold execModuleReset
  refine next_wf ?_
  simp [hm]
theorem execCoreRetire_wf {s : State} (hm : s.mem.wf) (core reason) : LeadsWf (execCoreRetire core reason s) := by
  unfold execCoreRetire
  refine next_wf ?_
  simp [hm]
theorem execDeviceRegisterWrite_wf {s : State} (hm : s.mem.wf) (pa n v) : LeadsWf (execDeviceRegisterWrite pa n v s) := by
  unfold execDeviceRegisterWrite
  refine next_wf ?_
  simp [hm]
theorem execCfetchLanded_wf {s : State} (hm : s.mem.wf) (team slot) : LeadsWf (execCfetchLanded team slot s) := by
  unfold execCfetchLanded
  refine next_wf ?_
  split <;> simp [hm]
theorem execCfetchFailed_wf {s : State} (hm : s.mem.wf) (team slot) : LeadsWf (execCfetchFailed team slot s) := by
  unfold execCfetchFailed
  refine next_wf ?_
  split
  · split <;> simp [hm]
  · simp [hm]
theorem execSleepDeadline_wf {s : State} (hm : s.mem.wf) (t) : LeadsWf (execSleepDeadline t s) := by
  unfold execSleepDeadline
  refine next_wf ?_
  split <;> simp [hm]
theorem execRegionCloseAtHome_wf {s : State} (hm : s.mem.wf) (slice asid close) : LeadsWf (execRegionCloseAtHome slice asid close s) := by
  unfold execRegionCloseAtHome
  refine next_wf ?_
  simp [hm]
theorem execFenceMarkerAnswer_wf {s : State} (hm : s.mem.wf) (marker lost) : LeadsWf (execFenceMarkerAnswer marker lost s) := by
  unfold execFenceMarkerAnswer
  refine next_wf ?_
  simp only []
  split
  · simp [hm]
  split
  · simp [hm]
  refine foldl_wf (fun u a hu => ?_) _ hm
  split
  · split <;> simp [hu]
  · simp [hu]
theorem execFenceSysFlushComplete_wf {s : State} (hm : s.mem.wf) (port) : LeadsWf (execFenceSysFlushComplete port s) := by
  unfold execFenceSysFlushComplete
  refine next_wf ?_
  simp only []
  exact foldl_wf (fun u a hu => by simp [hu]) _ (by simp [hm])
theorem execCollMatchTimeout_wf {s : State} (hm : s.mem.wf) (op) : LeadsWf (execCollMatchTimeout op s) := by
  unfold execCollMatchTimeout
  refine next_wf ?_
  split <;> simp [hm]
theorem execEngineElementFault_wf {s : State} (hm : s.mem.wf) (op) : LeadsWf (execEngineElementFault op s) := by
  unfold execEngineElementFault
  refine next_wf ?_
  (repeat' split) <;> simp [hm]
theorem execVarResultReturn_wf {s : State} (hm : s.mem.wf) (t entry) : LeadsWf (execVarResultReturn t entry s) := by
  unfold execVarResultReturn
  split
  · exact next_wf (by simpa using hm)
  split
  · exact next_wf (by simp [hm])
  extract_lets u v due
  have hu : u.mem.wf := by simp [u, hm]
  split
  · exact next_wf (by simpa using hu)
  · exact next_wf (by simp [v, hu])
theorem execAllWaitingQuantum_wf {s : State} (hm : s.mem.wf) (team) : LeadsWf (execAllWaitingQuantum team s) := by
  unfold execAllWaitingQuantum
  refine next_wf ?_
  split
  · split <;> simp [hm]
  · simp [hm]
theorem execQuantumExpiry_wf {s : State} (hm : s.mem.wf) (team) : LeadsWf (execQuantumExpiry team s) := by
  unfold execQuantumExpiry
  refine next_wf ?_
  simp only []
  split <;> simp [hm]
theorem execTeamRestart_wf {s : State} (hm : s.mem.wf) (team) : LeadsWf (execTeamRestart team s) := by
  unfold execTeamRestart
  refine next_wf ?_
  split
  · split
    · exact foldl_wf (fun u a hu => by simp [hu]) _ hm
    · simp [hm]
  · simp [hm]
theorem execL2MissFill_wf {s : State} (hm : s.mem.wf) (pa va store hint asid coreid asker) :
    LeadsWf (execL2MissFill pa va store hint asid coreid asker s) := by
  unfold execL2MissFill
  refine next_wf ?_
  simp [hm]
theorem execHodCycleLimit_wf {s : State} (hm : s.mem.wf) (slice) : LeadsWf (execHodCycleLimit slice s) := by
  unfold execHodCycleLimit
  refine next_wf ?_
  split <;> simp [hm]
theorem execHodHandlerFault_wf {s : State} (hm : s.mem.wf) (slice reason pc) : LeadsWf (execHodHandlerFault slice reason pc s) := by
  unfold execHodHandlerFault
  refine next_wf ?_
  split <;> simp [hm]
theorem execSliceProgramCopied_wf {s : State} (hm : s.mem.wf) : LeadsWf (execSliceProgramCopied s) := by
  unfold execSliceProgramCopied
  refine next_wf ?_
  simp only []
  split <;> simp [hm]
theorem execMethodCycleLimit_wf {s : State} (hm : s.mem.wf) (team) : LeadsWf (execMethodCycleLimit team s) := by
  unfold execMethodCycleLimit
  refine next_wf ?_
  split
  · split <;> simp [hm]
  · simp [hm]
theorem execSlotRejectTimeout_wf {s : State} (hm : s.mem.wf) (queue) : LeadsWf (execSlotRejectTimeout queue s) := by
  unfold execSlotRejectTimeout
  refine next_wf ?_
  simp only []
  split
  · split <;> simp [hm]
  · simp [hm]
theorem execDrainDeadline_wf {s : State} (hm : s.mem.wf) (asid) : LeadsWf (execDrainDeadline asid s) := by
  unfold execDrainDeadline
  refine next_wf ?_
  split <;> simp [hm]

/-! ### Executing anything -/

/-- The execution of every instruction keeps memory in its canonical form. -/
theorem exec_instruction_wf {i : Instr} (hi : i.view ≠ .event) {s : State} (hm : s.mem.wf) : LeadsWf (exec i s) := by
  cases i with
  | addBase b => exact issueBase_wf @addBody_wf hm
  | subBase b => exact issueBase_wf @subBody_wf hm
  | mulBase b => exact issueBase_wf @mulBody_wf hm
  | andBase b => exact issueBase_wf (fun _ hu => bitwise_wf hu andBits) hm
  | orBase b => exact issueBase_wf (fun _ hu => bitwise_wf hu orBits) hm
  | xorBase b => exact issueBase_wf (fun _ hu => bitwise_wf hu xorBits) hm
  | andnBase b => exact issueBase_wf (fun _ hu => bitwise_wf hu andnBits) hm
  | shlBase b => exact issueBase_wf (fun _ hu => bitwise_wf hu shlBits) hm
  | shrBase b => exact issueBase_wf (fun _ hu => bitwise_wf hu shrBits) hm
  | sarBase b => exact issueBase_wf (fun _ hu => bitwise_wf hu sarBits) hm
  | minBase b => exact issueBase_wf @minBody_wf hm
  | maxBase b => exact issueBase_wf @maxBody_wf hm
  | movBase b => exact issueBase_wf @movBody_wf hm
  | moviBase b => exact issueBase_wf @moviBody_wf hm
  | faddBase b => exact issueBase_wf @faddBody_wf hm
  | fsubBase b => exact issueBase_wf @fsubBody_wf hm
  | fmulBase b => exact issueBase_wf @fmulBody_wf hm
  | fminBase b => exact issueBase_wf (fun _ hu => fminmaxBody_wf hu false) hm
  | fmaxBase b => exact issueBase_wf (fun _ hu => fminmaxBody_wf hu true) hm
  | braBase b => exact issueBase_wf @braBody_wf hm
  | callBase b => exact issueBase_wf @callBody_wf hm
  | retBase b => exact issueBase_wf @retBody_wf hm
  | exitBase b => exact issueBase_wf (keeps_flushes @exitBody_wf) hm
  | nopBase b => exact issueBase_wf keeps_done hm
  | yieldBase b => exact issueBase_wf @yieldBody_wf hm
  | barBase b => exact issueBase_wf (keeps_flushes @barBody_wf) hm
  | ldBase b => exact issueBase_wf (fun _ hu => access_wf hu ldEntry) hm
  | stBase b => exact issueBase_wf (fun _ hu => access_wf hu stEntry) hm
  | add w => exact issueWords_wf @addBody_wf keeps_done hm
  | sub w => exact issueWords_wf @subBody_wf keeps_done hm
  | mul w => exact issueWords_wf @mulBody_wf keeps_done hm
  | mulh w => exact issueWords_wf @mulhBody_wf keeps_done hm
  | mad w => exact issueWords_wf (fun _ hu => arith_wf hu (fun a b k => a * b + k) true) keeps_done hm
  | div w => exact issueWords_wf @divBody_wf keeps_done hm
  | rem w => exact issueWords_wf @remBody_wf keeps_done hm
  | and w => exact issueWords_wf (fun _ hu => bitwise_wf hu andBits) keeps_done hm
  | or w => exact issueWords_wf (fun _ hu => bitwise_wf hu orBits) keeps_done hm
  | xor w => exact issueWords_wf (fun _ hu => bitwise_wf hu xorBits) keeps_done hm
  | andn w => exact issueWords_wf (fun _ hu => bitwise_wf hu andnBits) keeps_done hm
  | shl w => exact issueWords_wf (fun _ hu => bitwise_wf hu shlBits) keeps_done hm
  | shr w => exact issueWords_wf (fun _ hu => bitwise_wf hu shrBits) keeps_done hm
  | sar w => exact issueWords_wf (fun _ hu => bitwise_wf hu sarBits) keeps_done hm
  | rot w => exact issueWords_wf (fun _ hu => bitwise_wf hu rotBits) keeps_done hm
  | popc w => exact issueWords_wf (fun _ hu => unaryBits_wf hu popcBits) keeps_done hm
  | clz w => exact issueWords_wf (fun _ hu => unaryBits_wf hu clzBits) keeps_done hm
  | brev w => exact issueWords_wf (fun _ hu => unaryBits_wf hu brevBits) keeps_done hm
  | bfx w => exact issueWords_wf @bfxBody_wf keeps_done hm
  | bfi w => exact issueWords_wf @bfiBody_wf keeps_done hm
  | min w => exact issueWords_wf @minBody_wf keeps_done hm
  | max w => exact issueWords_wf @maxBody_wf keeps_done hm
  | abs w => exact issueWords_wf @absBody_wf keeps_done hm
  | sel w => exact issueWords_wf @selBody_wf keeps_done hm
  | cmp w => exact issueWords_wf @cmpBody_wf keeps_done hm
  | lea w => exact issueWords_wf @leaBody_wf keeps_done hm
  | mov w => exact issueWords_wf @movBody_wf keeps_done hm
  | movi w => exact issueWords_wf @moviBody_wf keeps_done hm
  | movs w => exact issueWords_wf @movsBody_wf keeps_done hm
  | movt w => exact issueWords_wf @movtBody_wf keeps_done hm
  | pand w => exact issueWords_wf (fun _ hu => predBody_wf hu (· && ·)) keeps_done hm
  | por w => exact issueWords_wf (fun _ hu => predBody_wf hu (· || ·)) keeps_done hm
  | pxor w => exact issueWords_wf (fun _ hu => predBody_wf hu (· != ·)) keeps_done hm
  | pnot w => exact issueWords_wf (fun _ hu => predBody_wf hu (fun a _ => !a)) keeps_done hm
  | fpk w => exact issueWords_wf @fpkBody_wf keeps_done hm
  | fadd w => exact issueWords_wf @faddBody_wf keeps_done hm
  | fsub w => exact issueWords_wf @fsubBody_wf keeps_done hm
  | fmul w => exact issueWords_wf @fmulBody_wf keeps_done hm
  | ffma w => exact issueWords_wf @ffmaBody_wf keeps_done hm
  | ffma2 w => exact issueWords_wf @ffma2Body_wf keeps_done hm
  | fmin w => exact issueWords_wf (fun _ hu => fminmaxBody_wf hu false) keeps_done hm
  | fmax w => exact issueWords_wf (fun _ hu => fminmaxBody_wf hu true) keeps_done hm
  | fcmp w => exact issueWords_wf @fcmpBody_wf keeps_done hm
  | frcp w => exact issueWords_wf (fun _ hu => funary_wf hu rcpBits) keeps_done hm
  | frsq w => exact issueWords_wf (fun _ hu => funary_wf hu (fun F => viaF32 F rsqBits)) keeps_done hm
  | fsqrt w => exact issueWords_wf (fun _ hu => funary_wf hu sqrtBits) keeps_done hm
  | fex2 w => exact issueWords_wf (fun _ hu => funary_wf hu (fun F => viaF32 F exp2Bits)) keeps_done hm
  | flg2 w => exact issueWords_wf (fun _ hu => funary_wf hu (fun F => viaF32 F log2Bits)) keeps_done hm
  | ftanh w => exact issueWords_wf (fun _ hu => funary_wf hu (fun F => viaF32 F tanhBits)) keeps_done hm
  | fcvt w => exact issueWords_wf @fcvtBody_wf keeps_done hm
  | fcla w => exact issueWords_wf @fclaBody_wf keeps_done hm
  | bra w => exact issueWords_wf @braBody_wf keeps_done hm
  | call w => exact issueWords_wf @callBody_wf keeps_done hm
  | ret w => exact issueWords_wf @retBody_wf keeps_done hm
  | jmpi w => exact issueWords_wf @jmpiBody_wf keeps_done hm
  | calli w => exact issueWords_wf @calliBody_wf keeps_done hm
  | jmpf w => exact issueWords_wf @jmpfBody_wf keeps_done hm
  | cfetch w => exact issueWords_wf @cfetchBody_wf keeps_done hm
  | exit w => exact issueWords_wf (keeps_flushes @exitBody_wf) keeps_done hm
  | nop w => exact issueWords_wf keeps_done keeps_done hm
  | yield w => exact issueWords_wf @yieldBody_wf keeps_done hm
  | bar w => exact issueWords_wf (keeps_flushes @barBody_wf) keeps_done hm
  | barn w => exact issueWords_wf @barnBody_wf keeps_done hm
  | sleep w => exact issueWords_wf @sleepBody_wf keeps_done hm
  | waitc w => exact issueWords_wf @waitcBody_wf keeps_done hm
  | ld w => exact issueWords_wf (fun _ hu => access_wf hu ldEntry) keeps_done hm
  | st w => exact issueWords_wf (fun _ hu => access_wf hu stEntry) keeps_done hm
  | ldt w => exact issueWords_wf (keeps_engine (fun _ hu => tileBody_wf hu true)) keeps_done hm
  | stt w => exact issueWords_wf (keeps_engine (fun _ hu => tileBody_wf hu false)) keeps_done hm
  | atom w => exact issueWords_wf (fun _ hu => access_wf hu atomEntry) keeps_done hm
  | red w => exact issueWords_wf @redBody_wf keeps_done hm
  | rflush w => exact issueWords_wf (keeps_flushes keeps_flushPoint) keeps_done hm
  | rclose w => exact issueWords_wf (keeps_flushes @rcloseBody_wf) keeps_done hm
  | fence w => exact issueWords_wf (keeps_flushes @fenceBody_wf) keeps_done hm
  | gcall w => exact issueWords_wf @gcallBody_wf keeps_done hm
  | gret w => exact issueWords_wf @gretBody_wf keeps_done hm
  | hmsg w => exact issueWords_wf @hmsgBody_wf keeps_done hm
  | rget w => exact issueWords_wf @rgetBody_wf keeps_done hm
  | rput w => exact issueWords_wf @rputBody_wf keeps_done hm
  | reos w => exact issueWords_wf @reosBody_wf keeps_done hm
  | rjoin w => exact issueWords_wf @rjoinBody_wf keeps_done hm
  | fres w => exact issueWords_wf (fun _ hu => fresBody_wf hu false) keeps_done hm
  | fresPoison w => exact issueWords_wf (fun _ hu => fresBody_wf hu true) keeps_done hm
  | treg w => exact issueWords_wf @tregBody_wf keeps_done hm
  | tspawn w => exact issueWords_wf @tspawnBody_wf keeps_done hm
  | cpy w => exact issueWords_wf (keeps_engine @cpyBody_wf) keeps_done hm
  | cpyRing w => exact issueWords_wf (keeps_engine @cpyRingBody_wf) keeps_done hm
  | gath w => exact issueWords_wf (keeps_engine (fun _ hu => gathScatBody_wf hu true)) keeps_done hm
  | scat w => exact issueWords_wf (keeps_engine (fun _ hu => gathScatBody_wf hu false)) keeps_done hm
  | coll w => exact issueWords_wf (keeps_engine @collBody_wf) keeps_done hm
  | waito w => exact issueWords_wf @waitoBody_wf keeps_done hm
  | mwld w => exact issueWords_wf (keeps_engine @mwldBody_wf) keeps_done hm
  | mflip w => exact issueWords_wf @mflipBody_wf keeps_done hm
  | mop w => exact issueWords_wf (keeps_engine @mopBody_wf) keeps_done hm
  | mjoin w => exact issueWords_wf @mjoinBody_wf keeps_done hm
  | mtake w => exact issueWords_wf @mtakeBody_wf keeps_done hm
  | mpass w => exact issueWords_wf @mpassBody_wf keeps_done hm
  | mrd w => exact issueWords_wf (keeps_engine @mrdBody_wf) keeps_done hm
  | xfwd w => exact issueWords_wf (keeps_engine @xfwdBody_wf) keeps_done hm
  | xinv w => exact issueWords_wf (keeps_engine @xinvBody_wf) keeps_done hm
  | qbx w => exact issueWords_wf (keeps_engine @qbxBody_wf) keeps_done hm
  | dqbx w => exact issueWords_wf (keeps_engine @dqbxBody_wf) keeps_done hm
  | thset w => exact issueWords_wf @thsetBody_wf keeps_done hm
  | thget w => exact issueWords_wf @thgetBody_wf keeps_done hm
  | trap w => exact issueWords_wf (keeps_trap Ctx.softwareTrap) keeps_done hm
  | tret w => exact issueWords_wf @tretBody_wf keeps_done hm
  | tlog w => exact issueWords_wf @tlogBody_wf keeps_done hm
  | tskip w => exact issueWords_wf (fun _ hu => tskipBody_wf hu false) keeps_done hm
  | tskipValue w => exact issueWords_wf (fun _ hu => tskipBody_wf hu true) keeps_done hm
  | csrr w => exact issueWords_wf @csrrBody_wf keeps_done hm
  | csrw w => exact issueWords_wf @csrwBody_wf keeps_done hm
  | evsig w => exact issueWords_wf (keeps_afterStores @evsigBody_wf) keeps_done hm
  | time w => exact issueWords_wf (keeps_afterStores @timeBody_wf) keeps_done hm
  | sig w => exact issueWords_wf @sigBody_wf keeps_done hm
  | sigret w => exact issueWords_wf @sigretBody_wf keeps_done hm
  | cinval w => exact issueWords_wf (keeps_afterStores @cinvalBody_wf) keeps_done hm
  | ballot w | cbar w =>
    exact issueWords_wf (fun _ hu => collect_wf hu presentPred) (fun _ hu => collect_wf hu fun _ => none) hm
  | shfl w | cred w | cscan w =>
    exact issueWords_wf (fun _ hu => collect_wf hu presentValue) (fun _ hu => collect_wf hu fun _ => none) hm
  | _ => exact absurd rfl hi
/-- The execution of every event keeps memory in its canonical form. -/
theorem exec_event_wf {i : Instr} (hi : i.view = .event) {s : State} (hm : s.mem.wf) : LeadsWf (exec i s) := by
  cases i with
  | ringReservation team ring => exact next_wf (State.serve_wf hm _ _)
  | taskLaunch asid rec => exact next_wf (State.startTask_wf hm _ _)
  | engineOpComplete op => exact next_wf (State.completeOp_wf hm _)
  | signalDelivery team => exact next_wf (State.deliverSignals_wf hm _)
  | trapEntry t => exact next_wf (State.takeDue_wf hm _)
  | pickerCycle => exact next_wf (State.cycle_wf hm)
  | binAgeRipe core part bin => exact execBinAgeRipe_wf hm ..
  | parkThread t => exact next_wf (State.Inv.of_mem (State.park_mem ..) hm)
  | ptsIdleTick t => exact next_wf (State.Inv.of_mem (State.idleTick_mem ..) hm)
  | teamPlacement team | teamRestore team => exact next_wf (State.offerTeam_wf hm _)
  | teamSave team => exact next_wf (State.saveUnit_wf hm _)
  | teamRetire team => exact next_wf (State.Inv.of_mem (State.retireTeam_mem ..) hm)
  | launchComplete launch => exact next_wf (State.completeLaunch_wf hm _)
  | translationWalk core asid va store => exact execTranslationWalk_wf hm ..
  | streamLineEvict pa => exact next_wf (State.evictStream_wf hm _)
  | hodInvocationStart slice => exact next_wf (State.Inv.of_mem (State.startInvocation_mem ..) hm)
  | hodInvocationEnd slice asid kind => exact next_wf (State.endInvocation_wf hm _ _ _)
  | slicePortPref slice v => exact execSlicePortPref_wf hm ..
  | slicePortKeep slice v => exact execSlicePortKeep_wf hm ..
  | slicePortEvict slice v => exact execSlicePortEvict_wf hm ..
  | sliceProgramInstall => exact next_wf (State.installProgram_wf hm)
  | groutWaveStart slice => exact next_wf (State.Inv.of_mem (State.startWave_mem ..) hm)
  | queueRegister die => exact next_wf (State.registerQueue_wf hm _)
  | queueUnregister die => exact next_wf (State.Inv.of_mem (State.unregisterQueue_mem ..) hm)
  | packetFetch queue => exact next_wf (State.fetchSlot_wf hm _)
  | slotReread queue => exact execSlotReread_wf hm ..
  | waitValueSatisfied queue => exact next_wf (State.Inv.of_mem (State.endWait_mem ..) hm)
  | relayChunkArrival pred buffer chunk bytes => exact execRelayChunkArrival_wf hm ..
  | relayResend queue chunk accepted => exact next_wf (State.reofferChunk_wf hm _ _ _)
  | relayChunkGiveUp queue chunk => exact next_wf (State.giveUpChunk_wf hm _ _)
  | gateUsersZero queue => exact next_wf (State.Inv.of_mem (State.openGate_mem ..) hm)
  | gateReopen queue => exact next_wf (State.reopenGate_wf hm _)
  | drainComplete asid => exact next_wf (State.endDrain_wf hm _)
  | forcedResetComplete asid => exact next_wf (State.endReset_wf hm _)
  | qosWindow => exact next_wf (State.Inv.of_mem (State.newWindow_mem ..) hm)
  | budgetExhausted launch slice => exact next_wf (State.exhaust_wf hm _ _)
  | kilnReadComplete chan read => exact next_wf (State.readDone_wf hm _ _)
  | pageMissingTimeout chan => exact next_wf (State.readLate_wf hm _)
  | windowFillComplete team => exact next_wf (State.fillWindow_wf hm _)
  | replayBackoffExpiry sender accepted => exact next_wf (State.replayWindow_wf hm _ _)
  | refusalHoldTimeout sender => exact next_wf (State.Inv.of_mem (State.holdSender_mem ..) hm)
  | vectorHoldoffExpiry ring => exact next_wf (State.Inv.of_mem (State.endHoldoff_mem ..) hm)
  | heldRecordsFlush asid => exact next_wf (State.flushRecords_wf hm _)
  | plumbScan => exact next_wf (State.scanWaits_wf hm)
  | hostWrite pa bytes => exact next_wf (State.hostStore_wf hm _ _)
  | hostLoad pa n => exact next_wf (State.Inv.of_mem (State.hostRead_mem ..) hm)
  | hostSnoop pa takes line => exact next_wf (State.snoop_wf hm _ _ _)
  | hostMonitorPoll t word => exact next_wf (State.pollWord_wf hm _ _)
  | hostCompletionTimeout t flush => exact next_wf (State.hostLate_wf hm _ _)
  | fabricStoreArrival source pa bytes => exact next_wf (State.fabricArrival_wf hm _ _ _)
  | fabricTimeout t marker => exact next_wf (State.fabricLate_wf hm _ _)
  | linkLoss port => exact next_wf (State.loseLink_wf hm _ _)
  | bayEnable bay => exact next_wf (State.Inv.of_mem (State.enableBay_mem ..) hm)
  | bayDisable bay => exact next_wf (State.Inv.of_mem (State.disableBay_mem ..) hm)
  | bayReset bay => exact next_wf (State.resetBay_wf hm _)
  | baySettingsWrite bay offset v => exact execBaySettingsWrite_wf hm ..
  | meterWindow sources => exact next_wf (State.Inv.of_mem (State.meterEnergy_mem ..) hm)
  | meterReadLive | meterReadCheckpoint => exact next_wf (State.startReading_wf hm _)
  | meterReadingSigned signature => exact next_wf (State.finishReading_wf hm _)
  | meterCheckpoint written => exact next_wf (State.meterPoint_wf hm _)
  | wearUpdate life pemax pemean age => exact execWearUpdate_wf hm ..
  | featureAcceptWrite v => exact next_wf (State.Inv.of_mem (State.acceptFeatures_mem ..) hm)
  | powerOn => exact execPowerOn_wf hm ..
  | trainingComplete => exact next_wf (State.completeTraining_wf hm)
  | trainingFailed kind index => exact next_wf (State.Inv.of_mem (State.failTraining_mem ..) hm)
  | moduleReset => exact execModuleReset_wf hm ..
  | coreRetire core reason => exact execCoreRetire_wf hm ..
  | firmwareCoreFailed die => exact next_wf (State.failFirmware_wf hm _)
  | deviceRegisterWrite pa n v => exact execDeviceRegisterWrite_wf hm ..
  | softError e => exact next_wf (State.soften_wf hm _)
  | powerLoss => exact next_wf (State.Inv.of_mem (State.losePower_mem ..) hm)
  | serviceCoreAccess hart pa n store => exact next_wf (State.serviceAccess_wf hm _ _ _ _)
  | fabricRequestArrival r => exact next_wf (State.fabricRequest_wf hm _)
  | fenceMarkerArrival source count => exact next_wf (State.Inv.of_mem (State.markerArrives_mem ..) hm)
  | fabricMonitorWake t word => exact next_wf (State.Inv.of_mem (State.fabricWake_mem ..) hm)
  | codeStoreRefill core owner slot block good => exact next_wf (State.refill_wf hm _ _ _ _ _)
  | launchPacket queue | pageLaunchPacket queue | indirectLaunchPacket queue =>
    exact next_wf (State.startPacket_wf _ _ (fun _ _ _ => launchEffect_wf) hm)
  | loopPacket queue => exact next_wf (State.startPacket_wf _ _ (fun _ _ _ => loopEffect_wf) hm)
  | conditionalPacket queue => exact next_wf (State.startPacket_wf _ _ (fun _ _ _ => conditionalEffect_wf) hm)
  | waitValuePacket queue => exact next_wf (State.startPacket_wf _ _ (fun _ _ _ => waitEffect_wf) hm)
  | writeValuePacket queue => exact next_wf (State.startPacket_wf _ _ (fun _ _ _ => writeEffect_wf) hm)
  | signalPacket queue => exact next_wf (State.startPacket_wf _ _ (fun _ _ _ => signalEffect_wf) hm)
  | fencePacket queue => exact next_wf (State.startPacket_wf _ _ (fun _ _ _ => fenceEffect_wf) hm)
  | relayPacket queue => exact next_wf (State.startPacket_wf _ _ (fun _ _ _ => relayEffect_wf) hm)
  | gatePacket queue => exact next_wf (State.startPacket_wf _ _ (fun _ _ _ => gateEffect_wf) hm)
  | preEmptPacket queue => exact next_wf (State.startPacket_wf _ _ (fun _ _ _ => preEmptEffect_wf) hm)
  | resumePacket queue => exact next_wf (State.startPacket_wf _ _ (fun _ _ _ => resumeEffect_wf) hm)
  | grantPacket queue => exact next_wf (State.startPacket_wf _ _ (fun _ _ _ => grantEffect_wf) hm)
  | resetPacket queue => exact next_wf (State.startPacket_wf _ _ (fun _ _ _ => resetEffect_wf) hm)
  | cfetchLanded team slot => exact execCfetchLanded_wf hm ..
  | cfetchFailed team slot => exact execCfetchFailed_wf hm ..
  | sleepDeadline t => exact execSleepDeadline_wf hm ..
  | regionCloseAtHome slice asid close => exact execRegionCloseAtHome_wf hm ..
  | fenceMarkerAnswer marker lost => exact execFenceMarkerAnswer_wf hm ..
  | fenceSysFlushComplete port => exact execFenceSysFlushComplete_wf hm ..
  | collMatchTimeout op => exact execCollMatchTimeout_wf hm ..
  | engineElementFault op => exact execEngineElementFault_wf hm ..
  | varResultReturn t entry => exact execVarResultReturn_wf hm ..
  | allWaitingQuantum team => exact execAllWaitingQuantum_wf hm ..
  | quantumExpiry team => exact execQuantumExpiry_wf hm ..
  | teamRestart team => exact execTeamRestart_wf hm ..
  | l2MissFill pa va store hint asid coreid asker => exact execL2MissFill_wf hm ..
  | hodCycleLimit slice => exact execHodCycleLimit_wf hm ..
  | hodHandlerFault slice reason pc => exact execHodHandlerFault_wf hm ..
  | sliceProgramCopied => exact execSliceProgramCopied_wf hm ..
  | methodCycleLimit team => exact execMethodCycleLimit_wf hm ..
  | slotRejectTimeout queue => exact execSlotRejectTimeout_wf hm ..
  | drainDeadline asid => exact execDrainDeadline_wf hm ..
  | _ => nomatch hi
theorem exec_wf (i : Instr) {s : State} (hm : s.mem.wf) : LeadsWf (exec i s) := by
  by_cases hi : i.view = .event
  · exact exec_event_wf hi hm
  · exact exec_instruction_wf hi hm

/-! ### The turn and the step -/

/-- Memory is in its canonical form where the turn ends, and where its instruction is executed. -/
@[irreducible] def Turn.wf : Turn → Prop
  | .settled s | .run _ s => s.mem.wf
@[simp] theorem Turn.wf_settled (s : State) : (Turn.settled s).wf ↔ s.mem.wf := by simp [Turn.wf]
@[simp] theorem Turn.wf_run (i : Instr) (s : State) : (Turn.run i s).wf ↔ s.mem.wf := by simp [Turn.wf]
@[simp] theorem State.awaitCode_wf {s : State} (hm : s.mem.wf) (t l pc) : (s.awaitCode t l pc).wf := by
  simp [State.awaitCode, hm]
theorem State.fetchTurn_wf {s : State} (hm : s.mem.wf) (t) : (s.fetchTurn t).wf := by
  unfold State.fetchTurn
  extract_lets pc
  split
  · have h1 := State.methodStop_wf hm _ ‹_›
    simpa using h1
  have h0 : (s.takeTurn t).mem.wf := by simp [hm]
  split
  · split
    · simp [hm]
    · exact State.awaitCode_wf h0 ..
  have h1 := State.fetch_wf h0 _ ‹_›
  split
  · exact State.awaitCode_wf h0 ..
  split
  · simp [h1]
  split
  · have h2 := State.postponed_wf hm _ ‹_›
    simpa using h2
  · simpa using h1
theorem State.eventTurn_wf {s : State} (hm : s.mem.wf) (k i) : (s.eventTurn k i).wf := by
  unfold State.eventTurn
  split
  · have h1 := State.eventWaits_wf hm _ ‹_›
    simpa using h1
  · simp [hm]
theorem State.agendaTurn_wf {s : State} (hm : s.mem.wf) : s.agendaTurn.wf := by
  unfold State.agendaTurn
  split
  · exact State.eventTurn_wf hm ..
  extract_lets k
  split
  · exact State.eventTurn_wf (by simpa using hm) ..
  · simp [hm]
theorem State.turn_wf {s : State} (hm : s.mem.wf) : s.turn.wf := by
  unfold State.turn
  split
  · split
    · exact State.fetchTurn_wf hm _
    · simp [hm]
  · split
    · exact State.agendaTurn_wf hm
    · simp [hm]
/-- Every step keeps memory in its canonical form: the turn does, and so does what it executes. -/
theorem step_wf {s : State} (hm : s.mem.wf) : LeadsWf (step s) := by
  have h := State.turn_wf hm
  unfold step
  split <;> rename_i e <;> rw [e] at h
  · exact next_wf (by simpa using h)
  · exact exec_wf _ (by simpa using h)
/-- Settles O57: memory is written only through `Memory.set` and the operations built of it, each of which keeps the canonical form. -/
theorem stepKeepsMemoryCanonical : Obligations.StepKeepsMemoryCanonical := by
  unfold Obligations.StepKeepsMemoryCanonical
  intro s t hs ht
  exact LeadsWf.of_next (step_wf hs) ht

end Sys2Proof.Machine
end

section
/-!
SUPPORT. What a completed instruction leaves as it was (O59): the registers apart from those that its result is written to, and everything of
the state that `State.rest` keeps. A register instruction is one whose effect is a single result, of `State.wr` or `State.wrPred`.
-/
namespace Sys2Proof.Machine

/-! ### `State.rest` and `State.sameBut` -/

/-- What `State.rest` keeps of the issuing thread. -/
def Thread.rest (th : Thread) : Thread := { th with v := [], p := 0, pc := 0, stall := 0, idle := 0, late := [], occ := [] }

/-- What `State.rest` keeps of the issuing thread's team. -/
def Team.rest (tm : Team) (tid : Nat) : Team :=
  { tm with s := [], uni := [], sPending := [], threads := (tm.threads.map Thread.untargeted).modify tid Thread.rest }

theorem State.rest_eq (s : State) (r : TRef) :
    s.rest r = { s with
      teams := (s.teams.map fun tm => { tm with threads := tm.threads.map Thread.untargeted }).modify r.team fun tm =>
        { tm with s := [], uni := [], sPending := [], threads := tm.threads.modify r.tid Thread.rest }
      groups := [], pos := 0, free := 0 } := rfl

@[simp] theorem State.rest_advance (s : State) (r : TRef) : s.advance.rest r = s.rest r := by
  obtain ⟨g, p, h⟩ := s.advance_eq
  rw [h]
  rfl

/-- A change of the team that its rest does not show. -/
theorem State.rest_modTeam (s : State) (r : TRef) {f : Team → Team} (hf : ∀ tm, (f tm).rest r.tid = tm.rest r.tid) :
    (s.modTeam r.team f).rest r = s.rest r := by
  simp only [State.rest_eq, State.modTeam]
  congr 1
  refine List.ext_getElem? fun i => ?_
  simp only [List.getElem?_modify, List.getElem?_map]
  by_cases h : r.team = i
  · cases s.teams[i]? with
    | none => rfl
    | some tm =>
      simp only [h, if_true]
      exact congrArg some (hf tm)
  · simp [h]

/-- A change of the thread that its rest does not show. -/
theorem State.rest_modThread (s : State) (r : TRef) {f : Thread → Thread} (hf : ∀ th, (f th).untargeted.rest = th.untargeted.rest) :
    (s.modThread r f).rest r = s.rest r := by
  refine State.rest_modTeam s r fun tm => ?_
  unfold Team.rest Team.modThread
  congr 1
  refine List.ext_getElem? fun i => ?_
  simp only [List.getElem?_modify, List.getElem?_map]
  by_cases h : r.tid = i
  · cases tm.threads[i]? with
    | none => rfl
    | some th =>
      simp only [h, if_true]
      exact congrArg some (hf th)
  · simp [h]

/-- `State.rest` keeps which threads there are. -/
theorem State.rest_thread_isSome (s : State) (r u : TRef) : ((s.rest r).thread u).isSome = (s.thread u).isSome := by
  simp only [State.rest_eq, State.thread, State.team, List.getElem?_modify, List.getElem?_map]
  cases s.teams[u.team]? with
  | none => rfl
  | some tm => by_cases h : r.team = u.team <;> by_cases k : r.tid = u.tid <;> simp [h, k]

theorem State.sameBut.thread_isSome {s t : State} {r : TRef} {codes : List Nat} (h : s.sameBut t r codes) (u : TRef) :
    (t.thread u).isSome = (s.thread u).isSome := by
  rw [← State.rest_thread_isSome t r u, h.1, State.rest_thread_isSome]

theorem State.sameBut.mono {s t : State} {r : TRef} {codes more : List Nat} (h : s.sameBut t r codes) (hc : codes ⊆ more) :
    s.sameBut t r more := by
  obtain ⟨hr, hv, hs, hp⟩ := h
  exact ⟨hr, fun k hk => hv k fun hm => hk (hc hm), fun k hk => hs k fun hm => hk (hc hm), fun k hk hn => hp k hk fun hm => hn (hc hm)⟩

theorem State.sameBut.trans {s t u : State} {r : TRef} {codes : List Nat} (h : s.sameBut t r codes) (k : t.sameBut u r codes) :
    s.sameBut u r codes := by
  obtain ⟨hr, hv, hs, hp⟩ := h
  obtain ⟨kr, kv, ks, kp⟩ := k
  exact ⟨kr.trans hr, fun i hi => (kv i hi).trans (hv i hi), fun i hi => (ks i hi).trans (hs i hi),
    fun i hi hn => (kp i hi hn).trans (hp i hi hn)⟩

theorem State.sameBut.refl (s : State) (r : TRef) (codes : List Nat) : s.sameBut s r codes :=
  ⟨rfl, fun _ _ => rfl, fun _ _ => rfl, fun _ _ _ => rfl⟩

/-- A change of the thread that shows in nothing but the listed registers. -/
theorem State.sameBut_modThread (s : State) (r : TRef) {codes : List Nat} {f : Thread → Thread}
    (hf : ∀ th, (f th).untargeted.rest = th.untargeted.rest) (hv : ∀ th k, k ∉ codes → SMap.get 0 (f th).v k = SMap.get 0 th.v k)
    (hp : ∀ th k, k < 16 → 1600 + k ∉ codes → (f th).p.getLsbD k = th.p.getLsbD k) : s.sameBut (s.modThread r f) r codes := by
  refine ⟨State.rest_modThread s r hf, fun k hk => ?_, fun k _ => ?_, fun k hk hn => ?_⟩
  · simp only [State.vreg, State.modThread_thread_same, Option.map_map]
    exact congrArg (fun g => ((s.thread r).map g).getD 0) (funext fun th => hv th k hk)
  · simp only [State.sreg, State.modThread_team_same, Option.map_map]
    rfl
  · simp only [State.preg, State.modThread_thread_same, Option.map_map]
    exact congrArg (fun g => ((s.thread r).map g).getD false) (funext fun th => hp th k hk hn)

/-- A change of the team's own figures that shows in nothing but the listed registers. -/
theorem State.sameBut_modTeam (s : State) (r : TRef) {codes : List Nat} {f : Team → Team} (hf : ∀ tm, (f tm).rest r.tid = tm.rest r.tid)
    (ht : ∀ tm, (f tm).threads = tm.threads) (hs : ∀ tm k, 1536 + k ∉ codes → SMap.get 0 (f tm).s k = SMap.get 0 tm.s k) :
    s.sameBut (s.modTeam r.team f) r codes := by
  have hth := State.modTeam_thread s r.team f ht r
  refine ⟨State.rest_modTeam s r hf, fun k _ => State.vreg_of_thread hth k, fun k hk => ?_, fun k _ _ => by simp only [State.preg, hth]⟩
  simp only [State.sreg, State.modTeam_team_same, Option.map_map]
  exact congrArg (fun g => ((s.team r.team).map g).getD 0) (funext fun tm => hs tm k hk)

/-! ### Results -/

theorem mem_numbers {a n k : Nat} : k ∈ numbers a n ↔ a ≤ k ∧ k < a + n := by
  induction n generalizing a with
  | zero => simp only [numbers, List.not_mem_nil, false_iff]; omega
  | succ n ih => simp only [numbers, List.mem_cons, ih]; omega

/-- Setting registers from `k` on leaves every other one. -/
theorem get_setMany_other (m : SMap W32) {k n j : Nat} (f : Nat → W32) (h : j ∉ numbers k n) :
    SMap.get 0 ((numbers 0 n).foldl (fun v i => SMap.set 0 v (k + i) (f i)) m) j = SMap.get 0 m j := by
  have hj : ∀ i ∈ numbers 0 n, j ≠ k + i := by
    intro i hi e
    simp only [mem_numbers] at h hi
    omega
  generalize numbers 0 n = l at hj
  induction l generalizing m with
  | nil => rfl
  | cons i l ih =>
    rw [List.foldl_cons, ih _ fun x hx => hj x (List.mem_cons_of_mem _ hx), SMap.get_set_other _ _ _ (hj i List.mem_cons_self)]

/-- R148: a value written to a destination changes the registers that the destination spans, and no other. -/
theorem State.sameBut_writeDest (s : State) (r : TRef) (d : BitVec 11) (n w : Nat) : s.sameBut (s.writeDest r d n w) r (spanCodes d n) := by
  unfold State.writeDest spanCodes
  cases regOf d with
  | v k =>
    refine State.sameBut_modThread s r (fun _ => rfl) (fun th j hj => get_setMany_other _ _ fun hm => hj ?_) fun _ _ _ _ => rfl
    simp only [mem_numbers] at hm ⊢
    omega
  | s k =>
    refine State.sameBut.trans (t := s.modThread r fun th => th.overwrite (numbers (1536 + k) (if n ≤ 64 then 1 else 2)))
      (State.sameBut_modThread s r (fun _ => rfl) (fun _ _ _ => rfl) fun _ _ _ _ => rfl)
      (State.sameBut_modTeam _ r (fun _ => rfl) (fun _ => rfl) fun tm j hj => ?_)
    simp only [mem_numbers] at hj
    by_cases hn : n ≤ 64
    · rw [if_neg (by omega)] at hj
      simp only [hn, if_true]
      exact SMap.get_set_other _ _ _ (by omega)
    · rw [if_pos (by omega)] at hj
      simp only [hn, if_false]
      rw [SMap.get_set_other _ _ _ (by omega), SMap.get_set_other _ _ _ (by omega)]
  | p k | const k | zero | reserved => exact .refl ..

/-- R148: a result changes the registers that its destination spans, and no other. -/
theorem State.sameBut_wr (s : State) (r : TRef) (d : BitVec 11) (n : Nat) (signed : Bool) (x : Nat) :
    s.sameBut (s.wr r d n signed x) r (spanCodes d n) := by
  have wider (m w : Nat) (hm : spanCodes d m ⊆ spanCodes d n) : s.sameBut (s.writeDest r d m w) r (spanCodes d n) :=
    (State.sameBut_writeDest ..).mono hm
  unfold State.wr
  cases hd : regOf d with
  | s k =>
    simp only
    split
    · rename_i hn
      simp only [Bool.and_eq_true, decide_eq_true_eq] at hn
      exact wider _ _ (by simp [spanCodes, hd, show ¬ 64 < n by omega])
    · exact wider _ _ (List.Subset.refl _)
  | v k =>
    refine wider _ _ fun j hj => ?_
    simp only [spanCodes, hd, mem_numbers] at hj ⊢
    omega
  | p k | const k | zero | reserved => exact wider _ _ (by simp [spanCodes, hd])

/-- R134: a predicate result changes its predicate, and no other register. -/
theorem State.sameBut_wrPred (s : State) (r : TRef) (d : BitVec 11) (b : Bool) : s.sameBut (s.wrPred r d b) r (spanCodes d 1) := by
  unfold State.wrPred spanCodes
  cases regOf d with
  | p k =>
    refine State.sameBut_modThread s r (fun _ => rfl) (fun _ _ _ => rfl) fun th j hj hn => ?_
    have hjk : j ≠ k := by simpa using hn
    have hbit : (1#16 <<< k).getLsbD j = false := by
      simp only [BitVec.getLsbD_shiftLeft, BitVec.getLsbD_one]
      simp
      omega
    cases b <;> simp only [Bool.false_eq_true, if_true, if_false, BitVec.getLsbD_and, BitVec.getLsbD_or, BitVec.getLsbD_not, hbit]
    · simp [hj]
    · simp
  | v k | s k | const k | zero | reserved => exact .refl ..

/-! ### The end of an instruction -/

@[simp] theorem State.rest_goTo (s : State) (r : TRef) (pc : W32) : (s.goTo r pc).rest r = s.rest r :=
  State.rest_modThread s r fun _ => rfl
@[simp] theorem State.rest_passStall (s : State) (r : TRef) (n : Nat) (l : List LateResult) : (s.passStall r n l).rest r = s.rest r :=
  State.rest_modThread s r fun _ => rfl
@[simp] theorem State.rest_countOccurrence (s : State) (r : TRef) (pc : W32) (performs : Bool) :
    (s.countOccurrence r pc performs).rest r = s.rest r := by
  have hocc : (s.modThread r fun th => { th with occ := SMap.modify 0 th.occ pc.toNat (· + 1) }).rest r = s.rest r :=
    State.rest_modThread s r fun _ => rfl
  rw [State.countOccurrence]
  split
  · exact (State.rest_modTeam _ r (by intro; rfl)).trans hocc
  · exact hocc
@[simp] theorem Ctx.rest_keptLate (c : Ctx) (fresh : List LateResult) (s1 : State) : (c.keptLate fresh s1).rest c.t = s1.rest c.t := by
  unfold Ctx.keptLate
  split
  · rfl
  · exact State.rest_modThread s1 c.t fun _ => rfl

/-- What follows a completed effect changes no register, and nothing else but what issuing always changes. -/
theorem Ctx.sameBut_settle_done (c : Ctx) (s0 : State) (fresh : List LateResult) (s1 : State) (codes : List Nat) :
    s1.sameBut (c.settle s0 fresh (.done s1)).advance c.t codes := by
  refine ⟨?_, fun k _ => settle_done_vreg .., fun k _ => settle_done_sreg .., fun k _ _ => settle_done_preg ..⟩
  rw [State.rest_advance, Ctx.settle_done, State.rest_goTo, State.rest_passStall]
  split
  · rw [State.rest_countOccurrence, Ctx.rest_keptLate]
  · rw [Ctx.rest_keptLate]

/-- An instruction that completes has changed what its own effect has. -/
theorem completes_sameBut {s s1 : State} {c : Ctx} {codes : List Nat} (s0 : State) (fresh : List LateResult)
    (h : s.sameBut s1 c.t codes) (ht : (s.thread c.t).isSome) :
    s.sameBut (c.settle s0 fresh (.done s1)).advance c.t codes ∧ (c.settle s0 fresh (.done s1)).advance.goesOn c :=
  ⟨h.trans (c.sameBut_settle_done s0 fresh s1 codes), settle_done_goesOn c s0 fresh (by rw [h.thread_isSome, ht])⟩

/-- The effect of an instruction starts in the state in which it is issued. -/
theorem State.ctx_start {s : State} {op : Nat} {e : Ext} {ws : List W32} {c : Ctx} {s0 : State} (h : s.ctx op e ws = some (c, s0)) : s0 = s := by
  unfold State.ctx at h
  split at h
  · simp at h
  · split at h
    · simp only [Option.some.injEq, Prod.mk.injEq] at h
      exact h.2.symm
    · simp at h

/-- What a due instruction finds: its effect starts in the state of its issue, which names its team and its thread. -/
theorem State.performs_start {s : State} {i : Instr} {c : Ctx} {s0 : State} {op : Nat} {e : Ext} {ws : List W32}
    (h : s.performs i = some (c, s0)) (hp : i.parts = some (op, e, ws)) :
    s0 = s ∧ c.op = op ∧ c.e = e ∧ s.team c.t.team = some c.tm ∧ s.thread c.t = some c.th ∧ c.tm.threads[c.t.tid]? = some c.th := by
  obtain ⟨_, _, _, hp', hc, -⟩ := State.performs_spec h
  obtain ⟨rfl, rfl, rfl⟩ : _ ∧ _ ∧ _ := by simpa [hp] using hp'
  obtain ⟨-, htm, hth, hop, he, -⟩ := State.ctx_spec hc
  exact ⟨State.ctx_start hc, hop, he, htm, hth, by simpa [State.thread, htm] using hth⟩

/-- A due instruction that is no indirect transfer comes to its own effect. -/
theorem issue_direct {s : State} {i : Instr} {c : Ctx} {s0 : State} {op : Nat} {e : Ext} {ws : List W32}
    (h : s.performs i = some (c, s0)) (hp : i.parts = some (op, e, ws)) (hop : op ≠ 0x43 ∧ op ≠ 0x44) (body onFalse : Ctx → State → Effect) :
    issue op e ws body s onFalse = .next (State.advance (c.settle s (c.freshLate s) (body c s))) := by
  obtain ⟨rfl, rfl, -⟩ := State.performs_start h hp
  rw [issue_performs h hp, c.noteTargets_direct _ hop]

/-- An issue with a false guard, and no cause at issue, comes to what a false guard does. -/
theorem issue_falseGuard {s : State} {c : Ctx} {s0 : State} {op : Nat} {e : Ext} {ws : List W32} (hc : s.ctx op e ws = some (c, s0))
    (hg : guardTrue e c.r.p = false) (hcause : c.causes s0 false = []) (body onFalse : Ctx → State → Effect) :
    issue op e ws body s onFalse = .next (State.advance (c.settle (c.noteTargets s0) [] (onFalse c (c.noteTargets s0)))) := by
  unfold issue
  simp only [hc, hg, hcause]
  rfl

/-! ### Register instructions -/

/-- The instruction's own effect is to write its destination. -/
def WritesResult (op : Nat) (body : Ctx → State → Effect) : Prop :=
  ∀ (c : Ctx) (s : State), c.op = op → ∃ t, body c s = .done t ∧ s.sameBut t c.t (resultCodes op c.e 32)

theorem spanCodes_mono (d : BitVec 11) {m n : Nat} (h : m ≤ n) : spanCodes d m ⊆ spanCodes d n := by
  intro k hk
  unfold spanCodes at hk ⊢
  split at hk
  · simp only [mem_numbers] at hk ⊢
    omega
  · simp only [mem_numbers] at hk ⊢
    split at hk <;> split <;> omega
  · exact hk
  · exact hk

/-- A result of the width that the type field names, in a destination of that width (R154). -/
theorem writesResult_int {op : Nat} {body : Ctx → State → Effect} {signed : Ctx → Bool} {x : Ctx → State → Nat}
    (hb : ∀ c s, body c s = .done (c.wr s (intBits c.e) (signed c) (x c s)))
    (hd : ∀ e, resultCodes op e 32 = spanCodes e.d (intBits e)) : WritesResult op body := fun c s _ =>
  ⟨_, hb c s, hd c.e ▸ State.sameBut_wr ..⟩

/-- A result of 32 bits, in a destination of the width that the type field names (R166). -/
theorem writesResult_word {op : Nat} {body : Ctx → State → Effect} {x : Ctx → State → Nat}
    (hb : ∀ c s, body c s = .done (c.wr s 32 false (x c s)))
    (hd : ∀ e, resultCodes op e 32 = spanCodes e.d (intBits e)) : WritesResult op body := fun c s _ =>
  ⟨_, hb c s, (State.sameBut_wr ..).mono (hd c.e ▸ spanCodes_mono _ (by unfold intBits; split <;> omega))⟩

/-- R165: a predicate result. -/
theorem writesResult_pred {op : Nat} {body : Ctx → State → Effect} {x : Ctx → State → Bool}
    (hb : ∀ c s, body c s = .done (s.wrPred c.t c.e.d (x c s)))
    (hd : ∀ e, resultCodes op e 32 = spanCodes e.d 1) : WritesResult op body := fun c s _ =>
  ⟨_, hb c s, hd c.e ▸ State.sameBut_wrPred ..⟩

/-- R161: lea writes 64 bits for .g and 32 for the other spaces. -/
theorem writesResult_lea : WritesResult 0x1A leaBody := fun c s _ =>
  ⟨_, rfl, (State.sameBut_wr ..).mono (by
    by_cases h : c.e.space = 4#3 <;> simp [resultCodes, Shape.of, Shape.ofOpcode, roleWrites, Wd.bits, h])⟩

/-- R153: each register instruction is issued with an effect that writes its destination. -/
theorem exec_registerOnly {i : Instr} {op : Nat} {e : Ext} {ws : List W32} (hp : i.parts = some (op, e, ws))
    (hr : Claims.registerOnly op = true) : ∃ body, (∀ s, exec i s = issue op e ws body s) ∧ WritesResult op body := by
  cases i with
  | addBase _ | add _ => cases hp; exact ⟨addBody, fun _ => rfl, writesResult_int (fun _ _ => rfl) fun _ => rfl⟩
  | subBase _ | sub _ => cases hp; exact ⟨subBody, fun _ => rfl, writesResult_int (fun _ _ => rfl) fun _ => rfl⟩
  | mulBase _ | mul _ => cases hp; exact ⟨mulBody, fun _ => rfl, writesResult_int (fun _ _ => rfl) fun _ => rfl⟩
  | mulh _ => cases hp; exact ⟨mulhBody, fun _ => rfl, writesResult_int (fun _ _ => rfl) fun _ => rfl⟩
  | mad _ => cases hp; exact ⟨arith (fun a b k => a * b + k) true, fun _ => rfl, writesResult_int (fun _ _ => rfl) fun _ => rfl⟩
  | div _ => cases hp; exact ⟨divBody, fun _ => rfl, writesResult_int (fun _ _ => rfl) fun _ => rfl⟩
  | rem _ => cases hp; exact ⟨remBody, fun _ => rfl, writesResult_int (fun _ _ => rfl) fun _ => rfl⟩
  | andBase _ | and _ => cases hp; exact ⟨bitwise andBits, fun _ => rfl, writesResult_int (fun _ _ => rfl) fun _ => rfl⟩
  | orBase _ | or _ => cases hp; exact ⟨bitwise orBits, fun _ => rfl, writesResult_int (fun _ _ => rfl) fun _ => rfl⟩
  | xorBase _ | xor _ => cases hp; exact ⟨bitwise xorBits, fun _ => rfl, writesResult_int (fun _ _ => rfl) fun _ => rfl⟩
  | andnBase _ | andn _ => cases hp; exact ⟨bitwise andnBits, fun _ => rfl, writesResult_int (fun _ _ => rfl) fun _ => rfl⟩
  | shlBase _ | shl _ => cases hp; exact ⟨bitwise shlBits, fun _ => rfl, writesResult_int (fun _ _ => rfl) fun _ => rfl⟩
  | shrBase _ | shr _ => cases hp; exact ⟨bitwise shrBits, fun _ => rfl, writesResult_int (fun _ _ => rfl) fun _ => rfl⟩
  | sarBase _ | sar _ => cases hp; exact ⟨bitwise sarBits, fun _ => rfl, writesResult_int (fun _ _ => rfl) fun _ => rfl⟩
  | rot _ => cases hp; exact ⟨bitwise rotBits, fun _ => rfl, writesResult_int (fun _ _ => rfl) fun _ => rfl⟩
  | popc _ => cases hp; exact ⟨unaryBits popcBits, fun _ => rfl, writesResult_int (fun _ _ => rfl) fun _ => rfl⟩
  | clz _ => cases hp; exact ⟨unaryBits clzBits, fun _ => rfl, writesResult_int (fun _ _ => rfl) fun _ => rfl⟩
  | brev _ => cases hp; exact ⟨unaryBits brevBits, fun _ => rfl, writesResult_int (fun _ _ => rfl) fun _ => rfl⟩
  | bfx _ => cases hp; exact ⟨bfxBody, fun _ => rfl, writesResult_int (fun _ _ => rfl) fun _ => rfl⟩
  | bfi _ => cases hp; exact ⟨bfiBody, fun _ => rfl, writesResult_int (fun _ _ => rfl) fun _ => rfl⟩
  | minBase _ | min _ => cases hp; exact ⟨minBody, fun _ => rfl, writesResult_int (fun _ _ => rfl) fun _ => rfl⟩
  | maxBase _ | max _ => cases hp; exact ⟨maxBody, fun _ => rfl, writesResult_int (fun _ _ => rfl) fun _ => rfl⟩
  | abs _ => cases hp; exact ⟨absBody, fun _ => rfl, writesResult_int (fun _ _ => rfl) fun _ => rfl⟩
  | sel _ => cases hp; exact ⟨selBody, fun _ => rfl, writesResult_int (fun _ _ => rfl) fun _ => rfl⟩
  | cmp _ => cases hp; exact ⟨cmpBody, fun _ => rfl, writesResult_pred (fun _ _ => rfl) fun _ => rfl⟩
  | lea _ => cases hp; exact ⟨leaBody, fun _ => rfl, writesResult_lea⟩
  | movBase _ | mov _ => cases hp; exact ⟨movBody, fun _ => rfl, writesResult_int (fun _ _ => rfl) fun _ => rfl⟩
  | moviBase _ | movi _ => cases hp; exact ⟨moviBody, fun _ => rfl, writesResult_int (fun _ _ => rfl) fun _ => rfl⟩
  | movs _ => cases hp; exact ⟨movsBody, fun _ => rfl, writesResult_int (fun _ _ => rfl) fun _ => rfl⟩
  | pand _ => cases hp; exact ⟨predBody (· && ·), fun _ => rfl, writesResult_pred (fun _ _ => rfl) fun _ => rfl⟩
  | por _ => cases hp; exact ⟨predBody (· || ·), fun _ => rfl, writesResult_pred (fun _ _ => rfl) fun _ => rfl⟩
  | pxor _ => cases hp; exact ⟨predBody (· != ·), fun _ => rfl, writesResult_pred (fun _ _ => rfl) fun _ => rfl⟩
  | pnot _ => cases hp; exact ⟨predBody fun a _ => !a, fun _ => rfl, writesResult_pred (fun _ _ => rfl) fun _ => rfl⟩
  | fpk _ => cases hp; exact ⟨fpkBody, fun _ => rfl, writesResult_word (fun _ _ => rfl) fun _ => rfl⟩
  | faddBase _ | fadd _ => cases hp; exact ⟨faddBody, fun _ => rfl, writesResult_word (fun _ _ => rfl) fun _ => rfl⟩
  | fsubBase _ | fsub _ => cases hp; exact ⟨fsubBody, fun _ => rfl, writesResult_word (fun _ _ => rfl) fun _ => rfl⟩
  | fmulBase _ | fmul _ => cases hp; exact ⟨fmulBody, fun _ => rfl, writesResult_word (fun _ _ => rfl) fun _ => rfl⟩
  | ffma _ => cases hp; exact ⟨ffmaBody, fun _ => rfl, writesResult_word (fun _ _ => rfl) fun _ => rfl⟩
  | ffma2 _ => cases hp; exact ⟨ffma2Body, fun _ => rfl, writesResult_word (fun _ _ => rfl) fun _ => rfl⟩
  | fminBase _ | fmin _ => cases hp; exact ⟨fminmaxBody false, fun _ => rfl, writesResult_word (fun _ _ => rfl) fun _ => rfl⟩
  | fmaxBase _ | fmax _ => cases hp; exact ⟨fminmaxBody true, fun _ => rfl, writesResult_word (fun _ _ => rfl) fun _ => rfl⟩
  | fcmp _ => cases hp; exact ⟨fcmpBody, fun _ => rfl, writesResult_pred (fun _ _ => rfl) fun _ => rfl⟩
  | frcp _ => cases hp; exact ⟨funary rcpBits, fun _ => rfl, writesResult_word (fun _ _ => rfl) fun _ => rfl⟩
  | fsqrt _ => cases hp; exact ⟨funary sqrtBits, fun _ => rfl, writesResult_word (fun _ _ => rfl) fun _ => rfl⟩
  | frsq _ => cases hp; exact ⟨funary fun F => viaF32 F rsqBits, fun _ => rfl, writesResult_word (fun _ _ => rfl) fun _ => rfl⟩
  | fex2 _ => cases hp; exact ⟨funary fun F => viaF32 F exp2Bits, fun _ => rfl, writesResult_word (fun _ _ => rfl) fun _ => rfl⟩
  | flg2 _ => cases hp; exact ⟨funary fun F => viaF32 F log2Bits, fun _ => rfl, writesResult_word (fun _ _ => rfl) fun _ => rfl⟩
  | ftanh _ => cases hp; exact ⟨funary fun F => viaF32 F tanhBits, fun _ => rfl, writesResult_word (fun _ _ => rfl) fun _ => rfl⟩
  | fcvt _ => cases hp; exact ⟨fcvtBody, fun _ => rfl, writesResult_int (fun _ _ => rfl) fun _ => rfl⟩
  | fcla _ => cases hp; exact ⟨fclaBody, fun _ => rfl, writesResult_word (fun _ _ => rfl) fun _ => rfl⟩
  | _ => cases hp <;> cases hr

/-- Settles O59: a register instruction is one whose effect writes its destination, and what follows a completed effect changes no register. -/
theorem registerFrame : Obligations.RegisterFrame := by
  unfold Obligations.RegisterFrame
  intro i s op e ws c s0 _ hp hr
  obtain ⟨body, hexec, hbody⟩ := exec_registerOnly hp hr
  have hdirect : op ≠ 0x43 ∧ op ≠ 0x44 := by constructor <;> rintro rfl <;> cases hr
  refine ⟨fun h => ?_, fun h hg hcause => ?_⟩
  · obtain ⟨rfl, hop, rfl, -, hth, -⟩ := State.performs_start h hp
    obtain ⟨t, hdone, hsame⟩ := hbody c s0 hop
    rw [hexec, issue_direct h hp hdirect, hdone]
    exact ⟨_, rfl, completes_sameBut _ _ hsame (by simp [hth])⟩
  · obtain ⟨-, -, hth, hop, -⟩ := State.ctx_spec h
    rw [hexec, issue_falseGuard h hg hcause, State.ctx_start h, c.noteTargets_direct s (hop ▸ hdirect)]
    exact ⟨_, rfl, completes_sameBut _ _ (.refl ..) (by simp [hth])⟩

end Sys2Proof.Machine
end

section
/-!
SUPPORT. The barriers (O15): an arrival is a wait, a barrier whose threads have all arrived lets each of them go on, and what a barrier reads of
its team, the threads that have not exited and those that wait at it, is changed by an arrival in the arriving thread alone.
-/
namespace Sys2Proof.Machine

/-! ### The end of a wait, thread by thread -/

/-- A thread whose wait has ended; one that does not wait is as it was. -/
def Thread.resumed (th : Thread) : Thread := { th with wait := none, pc := (th.wait.map (·.next)).getD th.pc }

/-- A thread whose wait has ended, after `pts` (R178). -/
def Thread.released (pts : Nat) (th : Thread) : Thread := { th.resumed with pts := max th.pts pts }

theorem Thread.resumed_of_not_waiting {th : Thread} (h : th.wait = none) : th.resumed = th := by
  cases th
  cases h
  rfl

theorem Thread.released_released (pts : Nat) (th : Thread) : (th.released pts).released pts = th.released pts := by
  simp [Thread.released, Thread.resumed]

@[simp] theorem State.enterPool_thread (s : State) (t u : TRef) : (s.enterPool t).thread u = s.thread u := by
  unfold State.enterPool
  split
  · rfl
  split
  · rfl
  simp only
  split
  · rfl
  split
  · rfl
  split <;> rfl

@[simp] theorem State.wakeTeam_thread (s : State) (i : Nat) (u : TRef) : (s.wakeTeam i).thread u = s.thread u := by
  unfold State.wakeTeam
  split
  · rfl
  split
  · exact State.modTeam_thread s i _ (by intro; rfl) u
  · rfl

theorem State.resumeAt_thread (s : State) (t u : TRef) (pc : W32) :
    (s.resumeAt t pc).thread u = if u = t then (s.thread u).map fun th => { th with wait := none, pc } else s.thread u := by
  unfold State.resumeAt
  simp only [State.wakeTeam_thread, State.enterPool_thread]
  rw [State.modTeam_thread _ _ _ (by intro; rfl)]
  split
  · subst_vars
    exact State.modThread_thread_same ..
  · exact State.modThread_thread_other _ _ ‹_›

/-- The end of a wait: the thread goes on after the waiting instruction, and no other thread is changed. -/
theorem State.resume_thread (s : State) (t u : TRef) :
    (s.resume t).thread u = if u = t then (s.thread u).map Thread.resumed else s.thread u := by
  unfold State.resume
  cases hw : (s.thread t).bind (·.wait) with
  | none =>
    simp only
    split
    · subst_vars
      cases hth : s.thread u with
      | none => rfl
      | some th => rw [Option.map_some, Thread.resumed_of_not_waiting (by simpa [hth] using hw)]
    · rfl
  | some w =>
    simp only [State.resumeAt_thread]
    split
    · subst_vars
      cases hth : s.thread u with
      | none => rfl
      | some th =>
        have hwait : th.wait = some w := by simpa [hth] using hw
        simp [Thread.resumed, hwait]
    · rfl

/-- R178: threads of a team go on together, all after `pts`. -/
def State.releaseAll (s : State) (i : Nat) (l : List Nat) (pts : Nat) : State :=
  l.foldl (fun s k => (s.raisePts { team := i, tid := k } pts).resume { team := i, tid := k }) s

theorem State.releaseAll_thread (s : State) (i : Nat) (l : List Nat) (pts : Nat) (u : TRef) :
    (s.releaseAll i l pts).thread u = if u.team = i ∧ u.tid ∈ l then (s.thread u).map (Thread.released pts) else s.thread u := by
  unfold State.releaseAll
  induction l generalizing s with
  | nil => simp
  | cons k l ih =>
    have hone : ((s.raisePts { team := i, tid := k } pts).resume { team := i, tid := k }).thread u
        = if u = { team := i, tid := k } then (s.thread u).map (Thread.released pts) else s.thread u := by
      rw [State.resume_thread]
      split
      · subst_vars
        rw [State.raisePts, State.modThread_thread_same, Option.map_map]
        rfl
      · exact State.modThread_thread_other _ _ ‹_›
    have href : u = { team := i, tid := k } ↔ u.team = i ∧ u.tid = k := by cases u; simp
    rw [List.foldl_cons, ih, hone]
    simp only [href, List.mem_cons]
    by_cases ht : u.team = i <;> by_cases hk : u.tid = k <;> by_cases hl : u.tid ∈ l <;>
      simp [ht, hk, hl, Thread.released_released, Function.comp_def]

/-- Ends of waits leave the counts of a team's named barriers. -/
theorem Woken.team_barns {s t : State} (h : Woken s t) {i : Nat} {tm : Team} (htm : s.team i = some tm) :
    ∃ tm', t.team i = some tm' ∧ tm'.barns = tm.barns := by
  obtain ⟨_, teams, _, _, _, _, _, _, rfl, -, hlen, hteams, -⟩ := h
  have hi : i < teams.length := hlen ▸ (List.getElem?_eq_some_iff.1 htm).1
  obtain ⟨_, _, _, _, _, heq, -⟩ := hteams i tm _ htm (List.getElem?_eq_getElem hi)
  exact ⟨teams[i], List.getElem?_eq_getElem hi, by rw [heq]⟩

theorem Woken.releaseAll (s : State) (i : Nat) (l : List Nat) (pts : Nat) : Woken s (s.releaseAll i l pts) :=
  Woken.foldl _ (fun _ _ => (Woken.raisePts _ _ _).trans (Woken.resume _ _)) l s

/-! ### The threads that a barrier reads -/

/-- What a thread of the team waits for. -/
def Team.whyOf (tm : Team) (k : Nat) : Option Wait := (tm.threads[k]?).bind Thread.why

/-- R178: the largest pts of the listed threads. -/
def Team.latest (tm : Team) (l : List Nat) : Nat := l.foldl (fun m k => max m (((tm.threads[k]?).map (·.pts)).getD 0)) 0

theorem Team.le_latest (tm : Team) {l : List Nat} {k : Nat} (h : k ∈ l) : ((tm.threads[k]?).map (·.pts)).getD 0 ≤ tm.latest l := by
  have key (f : Nat → Nat) (m : Nat) : m ≤ l.foldl (fun m k => max m (f k)) m ∧ ∀ k ∈ l, f k ≤ l.foldl (fun m k => max m (f k)) m := by
    clear h
    induction l generalizing m with
    | nil => simp
    | cons a l ih =>
      obtain ⟨hm, hl⟩ := ih (max m (f a))
      refine ⟨by simp only [List.foldl_cons]; omega, fun k hk => ?_⟩
      rcases List.mem_cons.1 hk with rfl | hk
      · simp only [List.foldl_cons]
        omega
      · exact hl k hk
  exact (key (fun k => ((tm.threads[k]?).map (·.pts)).getD 0) 0).2 k h

theorem numbers_nodup (a n : Nat) : (numbers a n).Nodup := by
  induction n generalizing a with
  | zero => exact List.nodup_nil
  | succ n ih => exact List.nodup_cons.2 ⟨fun h => by simp only [mem_numbers] at h; omega, ih (a + 1)⟩

theorem Team.mem_alive {tm : Team} {k : Nat} : k ∈ tm.alive ↔ ∃ th, tm.threads[k]? = some th ∧ th.exited = false := by
  unfold Team.alive Team.tids
  simp only [List.mem_filter, mem_numbers]
  cases h : tm.threads[k]? with
  | none => simp
  | some th =>
    have hk := (List.getElem?_eq_some_iff.1 h).1
    simp
    omega

theorem Team.mem_barnWaiters {tm : Team} {id k : Nat} : k ∈ tm.barnWaiters id ↔ tm.whyOf k = some (.barn id) := by
  unfold Team.barnWaiters Team.tids Team.whyOf
  rw [List.mem_filter, mem_numbers]
  constructor
  · rintro ⟨-, h⟩
    split at h
    · rename_i heq
      rw [heq]
      simpa [Thread.why] using h
    · cases h
  · intro h
    obtain ⟨th, hth, hwhy⟩ := Option.bind_eq_some_iff.1 h
    obtain ⟨w, hw, hbarn⟩ := Option.map_eq_some_iff.1 hwhy
    have hk := (List.getElem?_eq_some_iff.1 hth).1
    refine ⟨by omega, ?_⟩
    cases th
    cases w
    cases hw
    cases hbarn
    simp [hth]

theorem Team.barnWaiters_nodup (tm : Team) (id : Nat) : (tm.barnWaiters id).Nodup := (numbers_nodup _ _).filter _

/-! ### Arrivals -/

/-- What an arrival makes of the arriving thread. -/
def Thread.arrived (th : Thread) (stall : Nat) (w : Waiting) : Thread :=
  { th with stall := stall + 1, idle := 0, late := passLate th.late (stall + 1), wait := some w }

/-- What the arrival of a thread makes of its team. -/
def Team.arrives (tm : Team) (tid stall : Nat) (w : Waiting) : Team := tm.modThread tid (·.arrived stall w)

/-- R141, R194, R195: the issuing thread has arrived at a barrier: its stall count passes, and it waits. -/
def State.arrives (s : State) (c : Ctx) (why : Wait) : State := (s.passStall c.t c.e.s.toNat []).block c.t why c.next

/-- How the issuing thread waits at a barrier. -/
def State.waiting (s : State) (c : Ctx) (why : Wait) : Waiting := { why, next := c.next, group := (s.clk, s.groups.length) }

theorem State.arrives_thread (s : State) (c : Ctx) (why : Wait) (u : TRef) :
    (s.arrives c why).thread u = if u = c.t then (s.thread u).map (·.arrived c.e.s.toNat (s.waiting c why)) else s.thread u := by
  unfold State.arrives
  split
  · subst_vars
    rw [State.block_thread_same, State.passStall_thread_same, Option.map_map]
    rfl
  · rw [State.block_thread_other _ _ _ ‹_›, State.passStall_thread_other _ _ _ ‹_›]

theorem State.arrives_team {s : State} {c : Ctx} {tm : Team} (why : Wait) (htm : s.team c.t.team = some tm) :
    (s.arrives c why).team c.t.team = some (tm.arrives c.t.tid c.e.s.toNat (s.waiting c why)) := by
  rw [State.arrives, State.block, State.passStall, State.modThread_team_same, State.modThread_team_same, htm]
  simp only [Option.map_some, Team.modThread, List.modify_modify_eq, Team.arrives]
  rfl

@[simp] theorem State.advance_waitsFor (s : State) (r : TRef) (w : Wait) (next : W32) : s.advance.waitsFor r w next ↔ s.waitsFor r w next := by
  simp [State.waitsFor]

/-- The arriving thread waits. -/
theorem State.arrives_waitsFor {s : State} {c : Ctx} (why : Wait) (h : (s.thread c.t).isSome) : (s.arrives c why).waitsFor c.t why c.next := by
  obtain ⟨th, hth⟩ := Option.isSome_iff_exists.1 h
  rw [State.waitsFor, State.arrives_thread, if_pos rfl, hth]
  rfl

section
variable {tm : Team} {tid stall : Nat} {w : Waiting}

theorem Team.arrives_threads (k : Nat) :
    (tm.arrives tid stall w).threads[k]? = if k = tid then (tm.threads[k]?).map (·.arrived stall w) else tm.threads[k]? := by
  unfold Team.arrives Team.modThread
  rw [List.getElem?_modify]
  by_cases h : k = tid
  · simp [h]
  · simp [h, Ne.symm h]

theorem Team.arrives_whyOf {th : Thread} (hth : tm.threads[tid]? = some th) (k : Nat) :
    (tm.arrives tid stall w).whyOf k = if k = tid then some w.why else tm.whyOf k := by
  rw [Team.whyOf, Team.arrives_threads]
  split
  · subst_vars
    rw [hth]
    rfl
  · rfl

theorem Team.arrives_pts (k : Nat) : ((tm.arrives tid stall w).threads[k]?).map (·.pts) = (tm.threads[k]?).map (·.pts) := by
  rw [Team.arrives_threads]
  split
  · rw [Option.map_map]
    rfl
  · rfl

theorem Team.arrives_exited (k : Nat) : ((tm.arrives tid stall w).threads[k]?).map (·.exited) = (tm.threads[k]?).map (·.exited) := by
  rw [Team.arrives_threads]
  split
  · rw [Option.map_map]
    rfl
  · rfl

/-- An arrival is no exit. -/
theorem Team.arrives_mem_alive {k : Nat} : k ∈ (tm.arrives tid stall w).alive ↔ k ∈ tm.alive := by
  have hex (a : Team) : k ∈ a.alive ↔ (a.threads[k]?).map (·.exited) = some false := by simp [Team.mem_alive, Option.map_eq_some_iff]
  rw [hex, hex, Team.arrives_exited]

/-- A thread that did not wait is one more that waits at the barrier. -/
theorem Team.arrives_barnWaiters_perm {th : Thread} {id : Nat} (hth : tm.threads[tid]? = some th) (hwait : th.wait = none) (hw : w.why = .barn id) :
    (tm.arrives tid stall w).barnWaiters id |>.Perm (tid :: tm.barnWaiters id) := by
  have hnot : tid ∉ tm.barnWaiters id := by simp [Team.mem_barnWaiters, Team.whyOf, hth, Thread.why, hwait]
  refine (List.perm_ext_iff_of_nodup (Team.barnWaiters_nodup _ _) (List.nodup_cons.2 ⟨hnot, Team.barnWaiters_nodup _ _⟩)).2 fun k => ?_
  rw [Team.mem_barnWaiters, Team.arrives_whyOf hth, List.mem_cons, Team.mem_barnWaiters]
  by_cases hk : k = tid <;> simp [hk, hw]
end

/-- R178, R194, R195: after an arrival that completes a barrier each of its threads goes on, the arriving one after the barrier instruction. -/
theorem arrives_released {s u : State} {c : Ctx} {why : Wait} {l : List Nat} {k pts : Nat} {th : Thread}
    (hu : ∀ r, u.thread r = (s.arrives c why).thread r) (hk : k ∈ l) (hth : s.thread { team := c.t.team, tid := k } = some th) :
    ∃ th', (u.releaseAll c.t.team l pts).thread { team := c.t.team, tid := k } = some th' ∧ th'.wait = none
      ∧ th'.pc = (if k = c.t.tid then c.next else (th.wait.map (·.next)).getD th.pc) ∧ pts ≤ th'.pts := by
  have href : ({ team := c.t.team, tid := k } : TRef) = c.t ↔ k = c.t.tid := by cases c.t; simp
  rw [State.releaseAll_thread, if_pos ⟨rfl, hk⟩, hu, State.arrives_thread, hth]
  by_cases h : k = c.t.tid
  · rw [if_pos (href.2 h), if_pos h]
    exact ⟨_, rfl, rfl, rfl, Nat.le_max_right ..⟩
  · rw [if_neg (h ∘ href.1), if_neg h]
    exact ⟨_, rfl, rfl, rfl, Nat.le_max_right ..⟩

/-! ### The team barrier (R194) -/

theorem State.settleBar_waits {s : State} {i : Nat} {tm : Team} (htm : s.team i = some tm) {k : Nat} (hk : k ∈ tm.alive)
    (hw : tm.whyOf k ≠ some .bar) : s.settleBar i = s := by
  unfold State.settleBar
  simp only [htm]
  refine if_neg fun h => hw ?_
  simpa [Team.whyOf] using List.all_eq_true.1 h.2 k hk

theorem State.settleBar_completes {s : State} {i : Nat} {tm : Team} (htm : s.team i = some tm) (hne : tm.alive ≠ [])
    (hw : ∀ k ∈ tm.alive, tm.whyOf k = some .bar) : s.settleBar i = s.releaseAll i tm.alive (tm.latest tm.alive) := by
  unfold State.settleBar
  simp only [htm]
  exact if_pos ⟨hne, List.all_eq_true.2 fun k hk => decide_eq_true (hw k hk)⟩

/-- R213: a flush point changes no team. -/
@[simp] theorem State.drainPart_teams (s : State) (core part : Nat) : (s.drainPart core part).teams = s.teams := by
  have hfold : ∀ (l : List Contribution) (s : State),
      (l.foldl (fun s r => s.modContext r.asid fun c => { c with pending := c.pending ++ [r] }) s).teams = s.teams := by
    intro l
    induction l with
    | nil => intro s; rfl
    | cons r l ih => intro s; exact ih _
  unfold State.drainPart
  simp only [hfold]
  split <;> rfl
@[simp] theorem State.flushPoint_teams (s : State) (t : TRef) : (s.flushPoint t).teams = s.teams := by
  unfold State.flushPoint
  split
  · rfl
  split
  · rfl
  · exact State.drainPart_teams ..

/-- An instruction that is a flush point, where no contribution of the thread was lost. -/
theorem flushes_of_none {body : Ctx → State → Effect} {c : Ctx} {s : State} (h : s.lostRed c.t = none) : flushes body c s = body c s := by
  rw [flushes, h]

/-- R194: bar, where no contribution of the thread was lost, is a flush point and an arrival at the team barrier. -/
theorem issue_bar {s : State} {i : Instr} {c : Ctx} {s0 : State} {e : Ext} {ws : List W32} (h : s.performs i = some (c, s0))
    (hp : i.parts = some (0x4A, e, ws)) (hl : s.lostRed c.t = none) (onFalse : Ctx → State → Effect) :
    issue 0x4A e ws (flushes barBody) s onFalse
      = .next (State.advance (((s.flushPoint c.t).arrives c .bar).settleBar c.t.team)) := by
  rw [issue_direct h hp (by decide), flushes_of_none hl]
  rfl

theorem State.thread_of_team {s : State} {i k : Nat} {tm : Team} {th : Thread} (htm : s.team i = some tm) (h : tm.threads[k]? = some th) :
    s.thread { team := i, tid := k } = some th := by
  simp [State.thread, htm, h]

section
variable {s : State} {c : Ctx} (htm : s.team c.t.team = some c.tm) (hth : c.tm.threads[c.t.tid]? = some c.th)
include htm hth

/-- R194: an arrival at the team barrier waits for a thread that has neither exited nor arrived. -/
theorem bar_waits {k : Nat} (hk : k ∈ c.tm.alive) (hne : k ≠ c.t.tid) (hw : c.tm.whyOf k ≠ some .bar) :
    (State.advance ((s.arrives c .bar).settleBar c.t.team)).waitsFor c.t .bar c.next := by
  have hown : s.thread c.t = some c.th := State.thread_of_team htm hth
  rw [State.settleBar_waits (State.arrives_team .bar htm) (Team.arrives_mem_alive.2 hk) (by rwa [Team.arrives_whyOf hth, if_neg hne])]
  exact (State.advance_waitsFor ..).2 (State.arrives_waitsFor .bar (by simp [hown]))

/-- R178, R194: the last arrival at the team barrier lets every thread that has not exited go on, after the latest of them. -/
theorem bar_completes (hex : c.th.exited = false) (hw : ∀ k ∈ c.tm.alive, k ≠ c.t.tid → c.tm.whyOf k = some .bar) {k : Nat} (hk : k ∈ c.tm.alive) :
    ∃ th0 th, c.tm.threads[k]? = some th0
      ∧ (State.advance ((s.arrives c .bar).settleBar c.t.team)).thread { team := c.t.team, tid := k } = some th ∧ th.wait = none
      ∧ th.pc = (if k = c.t.tid then c.next else (th0.wait.map (·.next)).getD th0.pc)
      ∧ ∀ j ∈ c.tm.alive, ((c.tm.threads[j]?).map (·.pts)).getD 0 ≤ th.pts := by
  obtain ⟨th0, hth0, -⟩ := Team.mem_alive.1 hk
  have hown : c.t.tid ∈ c.tm.alive := Team.mem_alive.2 ⟨_, hth, hex⟩
  rw [State.settleBar_completes (State.arrives_team .bar htm) (List.ne_nil_of_mem (Team.arrives_mem_alive.2 hown))]
  · obtain ⟨th, hthread, hwait, hpc, hpts⟩ := arrives_released (fun _ => rfl) (Team.arrives_mem_alive.2 hk) (State.thread_of_team htm hth0)
    refine ⟨th0, th, hth0, by rw [State.advance_thread, hthread], hwait, hpc, fun j hj => ?_⟩
    rw [← Team.arrives_pts]
    exact (Team.le_latest _ (Team.arrives_mem_alive.2 hj)).trans hpts
  · intro j hj
    rw [Team.arrives_whyOf hth]
    split
    · rfl
    · exact hw j (Team.arrives_mem_alive.1 hj) ‹_›
end

/-! ### The named barriers (R195) -/

/-- R195: a named barrier of a team has a count. -/
def State.setBarn (s : State) (i id n : Nat) : State := s.modTeam i fun tm => { tm with barns := SMap.set 0 tm.barns id n }

theorem State.setBarn_thread (s : State) (i id n : Nat) (r : TRef) : (s.setBarn i id n).thread r = s.thread r :=
  State.modTeam_thread s i _ (by intro; rfl) r

theorem State.setBarn_team {s : State} {i : Nat} {tm : Team} (id n : Nat) (htm : s.team i = some tm) :
    (s.setBarn i id n).team i = some { tm with barns := SMap.set 0 tm.barns id n } := by
  rw [State.setBarn, State.modTeam_team_same, htm]
  rfl

theorem State.settleBarn_waits {s : State} {i id : Nat} {tm : Team} (htm : s.team i = some tm)
    (h : (tm.barnWaiters id).length < SMap.get 0 tm.barns id) : s.settleBarn i id = s := by
  unfold State.settleBarn
  simp only [htm]
  exact if_pos h

theorem State.settleBarn_completes {s : State} {i id : Nat} {tm : Team} (htm : s.team i = some tm)
    (h : SMap.get 0 tm.barns id ≤ (tm.barnWaiters id).length) :
    s.settleBarn i id = (s.setBarn i id 0).releaseAll i (tm.barnWaiters id) (tm.latest (tm.barnWaiters id)) := by
  unfold State.settleBarn
  simp only [htm]
  exact if_neg (by omega)

/-- R195: the issuing thread brings its count to a named barrier and waits there. -/
def State.arrivesBarn (s : State) (c : Ctx) (id : Nat) : State := (s.setBarn c.t.team id c.barnCount).arrives c (.barn id)

/-- R195: barn is an arrival at its named barrier. -/
theorem exec_barn {s : State} {w : Words} {c : Ctx} {s0 : State} (h : s.performs (.barn w) = some (c, s0)) :
    exec (.barn w) s = .next (State.advance ((s.arrivesBarn c c.e.a.toNat).settleBarn c.t.team c.e.a.toNat)) :=
  issue_direct h rfl (by decide) barnBody _

section
variable {s : State} {c : Ctx} {id : Nat} (htm : s.team c.t.team = some c.tm) (hth : c.tm.threads[c.t.tid]? = some c.th) (hwait : c.th.wait = none)
include htm hth hwait

/-- The team after an arrival at a named barrier: its count stands, and one thread more waits there. -/
theorem arrivesBarn_team : ∃ tm, (s.arrivesBarn c id).team c.t.team = some tm ∧ SMap.get 0 tm.barns id = c.barnCount
    ∧ (tm.barnWaiters id).Perm (c.t.tid :: c.tm.barnWaiters id) :=
  ⟨_, State.arrives_team _ (State.setBarn_team id _ htm), SMap.get_set_same ..,
    Team.arrives_barnWaiters_perm (tm := { c.tm with barns := SMap.set 0 c.tm.barns id c.barnCount }) hth hwait rfl⟩

/-- An arrival that leaves its generation incomplete waits. -/
theorem barn_waits (h : (c.tm.barnWaiters id).length + 1 < c.barnCount) :
    let t := State.advance ((s.arrivesBarn c id).settleBarn c.t.team id)
    t.waitsFor c.t (.barn id) c.next ∧ ∃ tm, t.team c.t.team = some tm ∧ SMap.get 0 tm.barns id = c.barnCount := by
  obtain ⟨tm, hteam, hcount, hperm⟩ := arrivesBarn_team (id := id) htm hth hwait
  have hown : ((s.setBarn c.t.team id c.barnCount).thread c.t).isSome := by
    rw [State.setBarn_thread, State.thread_of_team htm hth]
    rfl
  rw [State.settleBarn_waits hteam (by rw [hperm.length_eq, hcount]; exact h)]
  exact ⟨(State.advance_waitsFor ..).2 (State.arrives_waitsFor (.barn id) hown), tm, by rw [State.advance_team, hteam], hcount⟩

/-- R178, R195: the arrival that completes a generation lets its threads go on, and no generation is open. -/
theorem barn_completes (h : (c.tm.barnWaiters id).length + 1 = c.barnCount) :
    let t := State.advance ((s.arrivesBarn c id).settleBarn c.t.team id)
    (∃ tm, t.team c.t.team = some tm ∧ SMap.get 0 tm.barns id = 0)
      ∧ ∀ k, k ∈ c.tm.barnWaiters id ∨ k = c.t.tid → ∃ th0 th, c.tm.threads[k]? = some th0 ∧ t.thread { team := c.t.team, tid := k } = some th
        ∧ th.wait = none ∧ th.pc = if k = c.t.tid then c.next else (th0.wait.map (·.next)).getD th0.pc := by
  obtain ⟨tm, hteam, hcount, hperm⟩ := arrivesBarn_team (id := id) htm hth hwait
  rw [State.settleBarn_completes hteam (by rw [hperm.length_eq, hcount]; exact h.ge)]
  obtain ⟨tm', hteam', hbarns⟩ := (Woken.releaseAll _ _ (tm.barnWaiters id) (tm.latest (tm.barnWaiters id))).team_barns
    (State.setBarn_team id 0 hteam)
  refine ⟨⟨tm', by rw [State.advance_team, hteam'], by rw [hbarns, SMap.get_set_same]⟩, fun k hk => ?_⟩
  have hmem : k ∈ tm.barnWaiters id := hperm.mem_iff.2 (by rw [List.mem_cons]; exact hk.symm)
  obtain ⟨th0, hth0⟩ : ∃ th0, c.tm.threads[k]? = some th0 := by
    rcases hk with hk | rfl
    · obtain ⟨th0, hth0, -⟩ := Option.bind_eq_some_iff.1 (Team.mem_barnWaiters.1 hk)
      exact ⟨th0, hth0⟩
    · exact ⟨_, hth⟩
  obtain ⟨th, hthread, hnone, hpc, -⟩ := arrives_released (State.setBarn_thread (s.arrivesBarn c id) c.t.team id 0) hmem
    ((State.setBarn_thread ..).trans (State.thread_of_team htm hth0))
  exact ⟨th0, th, hth0, by rw [State.advance_thread, hthread], hnone, hpc⟩
end

/-! ### The obligation -/

/-- R194: what `Claims.Barriers` says of bar holds of whatever comes to an arrival at the team barrier after a flush point. -/
theorem bar_claim {s : State} {c : Ctx} {r : Host.Outcome State Fault Refusal} (htm : s.team c.t.team = some c.tm)
    (hth : c.tm.threads[c.t.tid]? = some c.th) (hex : c.th.exited = false)
    (hr : r = .next (State.advance (((s.flushPoint c.t).arrives c .bar).settleBar c.t.team))) :
    ((∃ k ∈ c.tm.alive, k ≠ c.t.tid ∧ ¬(c.tm.threads[k]?).bind Thread.why = some .bar) → ∃ t, r = .next t ∧ t.waitsFor c.t .bar c.next)
      ∧ ((∀ k ∈ c.tm.alive, k ≠ c.t.tid → (c.tm.threads[k]?).bind Thread.why = some .bar) → ∃ t, r = .next t
        ∧ ∀ k ∈ c.tm.alive, ∃ th0 th, c.tm.threads[k]? = some th0 ∧ t.thread { team := c.t.team, tid := k } = some th ∧ th.wait = none
          ∧ th.pc = (if k = c.t.tid then c.next else (th0.wait.map (·.next)).getD th0.pc)
          ∧ ∀ j ∈ c.tm.alive, ((c.tm.threads[j]?).map (·.pts)).getD 0 ≤ th.pts) := by
  have hflush : (s.flushPoint c.t).team c.t.team = some c.tm := by rw [State.team, State.flushPoint_teams]; exact htm
  exact ⟨fun ⟨_, hk, hne, hw⟩ => ⟨_, hr, bar_waits hflush hth hk hne hw⟩, fun hw => ⟨_, hr, fun _ hk => bar_completes hflush hth hex hw hk⟩⟩

theorem barriers : Claims.Barriers := by
  unfold Claims.Barriers
  intro i s c s0 _ h hex hwait hl
  cases i with
  | barBase b =>
    obtain ⟨-, -, -, htm, -, hth⟩ := State.performs_start h rfl
    exact bar_claim htm hth hex (issue_bar h rfl hl _)
  | bar w =>
    obtain ⟨-, -, -, htm, -, hth⟩ := State.performs_start h rfl
    exact bar_claim htm hth hex (issue_bar h rfl hl _)
  | barn w =>
    obtain ⟨-, -, -, htm, -, hth⟩ := State.performs_start h rfl
    intro id count hcount
    obtain ⟨hwaits, tm, hteam, hbarns⟩ := barn_waits htm hth hwait hcount
    exact ⟨_, tm, exec_barn h, hwaits, hteam, hbarns⟩
  | _ => exact trivial

theorem namedBarrierCompletes : Claims.NamedBarrierCompletes := by
  unfold Claims.NamedBarrierCompletes
  intro w s c s0 _ h hwait id l hcount
  obtain ⟨-, -, -, htm, -, hth⟩ := State.performs_start h rfl
  obtain ⟨⟨tm, hteam, hbarns⟩, hreleased⟩ := barn_completes htm hth hwait hcount
  exact ⟨_, tm, exec_barn h, hteam, hbarns, hreleased⟩

/-- Settles O15: an arrival is a wait, and the arrival that completes a generation releases every thread that waits for it. -/
theorem barrierGenerations : Obligations.BarrierGenerations := ⟨barriers, namedBarrierCompletes⟩

end Sys2Proof.Machine
end

section
/-!
SUPPORT. waitc and waito (O17): the place of their word is found, the word is read as an ordinary load reads it, and a monitor is registered
where it does not satisfy the condition. Finding the place keeps which threads there are (`Standing`); reading, which changes timestamps, frames
and counts, also keeps what the limit of a context's monitors depends on (`Reads`).
-/
namespace Sys2Proof.Machine

/-! ### Finding the place -/

/-- The same threads exist. -/
def Standing (s t : State) : Prop := ∀ r, (t.thread r).isSome = (s.thread r).isSome

theorem Standing.trans {s t u : State} (h : Standing s t) (k : Standing t u) : Standing s u := fun r => (k r).trans (h r)

theorem Standing.of_teams {s t : State} (h : t.teams = s.teams) : Standing s t := fun r => by simp [State.thread, State.team, h]

theorem Standing.of_woken {s t : State} (h : Woken s t) : Standing s t := by
  obtain ⟨_, teams, _, _, _, _, _, _, rfl, -, hlen, hteams, -⟩ := h
  intro r
  simp only [State.thread, State.team]
  by_cases hr : r.team < s.teams.length
  · obtain ⟨_, _, _, _, ths, heq, hths, -⟩ := hteams r.team _ _ (List.getElem?_eq_getElem hr) (List.getElem?_eq_getElem (hlen ▸ hr))
    rw [List.getElem?_eq_getElem hr, List.getElem?_eq_getElem (hlen ▸ hr), heq]
    rw [Option.bind_some, Option.bind_some, Bool.eq_iff_iff, isSome_getElem?, isSome_getElem?, hths]
  · rw [List.getElem?_eq_none (by omega), List.getElem?_eq_none (by omega)]

theorem AtHome.teams {s t : State} (h : AtHome s t) : t.teams = s.teams := by
  obtain ⟨_, _, _, _, _, _, rfl, -⟩ := h
  rfl

/-- R322: counting work is no more than an access at a home changes. -/
theorem AtHome.noteUse (s : State) (src bay n : Nat) : AtHome s (s.noteUse src bay n) :=
  ⟨_, _, _, _, _, _, rfl, ⟨[], by simp⟩, fun _ => rfl⟩

/-- R75, R116: a load at the home of a line, for an agent that keeps no copy. -/
theorem AtHome.loadHome (s : State) (pts pa n : Nat) (q : Req) : AtHome s (s.loadHome none pts pa n q).1 :=
  ((AtHome.noteUse s _ _ 1).trans (.setLine _ _ _)).trans (.reachL2 _ (.phys pa 0) false _ q)

@[simp] theorem State.walkRead_teams (s : State) (bay pts ea : Nat) : (s.walkRead bay pts ea).1.teams = s.teams :=
  (AtHome.loadHome s pts ea 8 _).teams

theorem State.walkLevels_teams {s : State} {bay va n pts table : Nat} :
    Ensures (s.walkLevels bay va n pts table) fun x => x.1.teams = s.teams := by
  induction n generalizing s pts table with
  | zero => exact ensures_error _ _
  | succ n ih =>
    unfold State.walkLevels
    simp only []
    have hread := State.walkRead_teams s bay pts (table + 8 * (va / 2 ^ (12 + 9 * n) % 512))
    split
    · exact ensures_error _ _
    split
    · exact ensures_error _ _
    split
    · exact ensures_error _ _
    split
    · exact ensures_error _ _
    split
    · split
      · exact ensures_error _ _
      · simp
    split
    · exact ensures_error _ _
    · exact fun x hx => (ih x hx).trans hread

theorem State.rootOf_teams {s : State} {die asid bay : Nat} : Ensures (s.rootOf die asid bay) fun x => x.1.teams = s.teams := by
  unfold State.rootOf
  simp only []
  split
  · exact ensures_error _ _
  split
  · exact ensures_error _ _
  split
  · exact ensures_error _ _
  · exact (ensures_ok _ _).2 (by simp)

theorem State.walk_teams {s : State} {die asid va bay : Nat} : Ensures (s.walk die asid va bay) fun x => x.1.teams = s.teams := by
  unfold State.walk
  split
  · exact ensures_error _ _
  have hroot := State.rootOf_teams _ ‹_›
  split
  · exact ensures_error _ _
  have hlevels := State.walkLevels_teams _ ‹_›
  split
  · exact ensures_error _ _
  · exact (ensures_ok _ _).2 (hlevels.trans hroot)

/-- R90: setting the bits of a leaf may end waits, and no thread. -/
theorem State.markLeaf_standing (s : State) (bay pts ea : Nat) (store : Bool) : Standing s (s.markLeaf bay pts ea store) := by
  unfold State.markLeaf
  refine Standing.trans ?_ (.of_woken (Woken.evaluate _ _ _ _))
  exact .of_teams (AtHome.storeStamp s pts ea { charge := some bay }).teams

theorem State.cacheTlb_standing (s : State) (t : Tlb) : Standing s (s.cacheTlb t) := .of_teams rfl

theorem State.translate_standing {s : State} {core asid va : Nat} {store user : Bool} :
    Ensures (s.translate core asid va store user) fun x => Standing s x.1 := by
  unfold State.translate
  simp only []
  split
  · exact ensures_error _ _
  split
  · split
    · exact ensures_error _ _
    · refine (ensures_ok _ _).2 ?_
      simp only []
      split
      · exact fun _ => rfl
      · exact State.cacheTlb_standing _ _
  · unfold State.walkFor
    simp only []
    split
    · exact ensures_error _ _
    have hwalk := State.walk_teams _ ‹_›
    split
    · exact ensures_error _ _
    · refine (ensures_ok _ _).2 (.trans (.trans (.trans ?_ (State.markLeaf_standing _ _ _ _ _)) (State.cacheTlb_standing _ _)) (State.cacheTlb_standing _ _))
      exact .of_teams hwalk

/-- R70, R87: finding the place of an access ends no thread. -/
theorem State.locate_standing {s : State} {a : Agent} {space : BitVec 3} {ea : W64} {n align : Nat} {store : Bool} {alignReason : Nat} {atom : Bool} :
    Ensures (s.locate a space ea n align store alignReason atom) fun x => Standing s x.1 := by
  unfold State.locate
  split
  · split
    · exact ensures_error _ _
    have htranslate := State.translate_standing _ ‹_›
    split
    · exact ensures_error _ _
    split
    · exact ensures_error _ _
    split
    · exact ensures_error _ _
    split
    · exact ensures_error _ _
    · exact (ensures_ok _ _).2 htranslate
  · split
    · exact ensures_error _ _
    split
    · exact ensures_error _ _
    · exact (ensures_map _ _ _).2 fun _ _ => .of_teams rfl

/-! ### Reading the word -/

/-- What reading leaves of a thread. -/
def Thread.unread (th : Thread) : Thread := { th with pts := 0, quiet := 0 }
/-- What reading leaves of a team. -/
def Team.unread (tm : Team) : Team := { tm with gts := [], threads := tm.threads.map Thread.unread }
/-- What reading leaves of a launch. -/
def Launch.unread (la : Launch) : Launch := { la with dcopies := [] }

/-- What reading a word can change of the state. -/
def Reads (s t : State) : Prop :=
  ∃ lines act sl ag hh sn asks free teams launches,
    t = { s with lines := lines, activity := act, slices := sl, agenda := ag, hostHeld := hh, snooped := sn, asks := asks, free := free, teams := teams, launches := launches }
    ∧ teams.map Team.unread = s.teams.map Team.unread ∧ launches.map Launch.unread = s.launches.map Launch.unread

theorem Reads.refl (s : State) : Reads s s := ⟨_, _, _, _, _, _, _, _, _, _, rfl, rfl, rfl⟩

theorem Reads.trans {s t u : State} (h : Reads s t) (k : Reads t u) : Reads s u := by
  obtain ⟨_, _, _, _, _, _, _, _, _, _, rfl, ht, hl⟩ := h
  obtain ⟨_, _, _, _, _, _, _, _, _, _, rfl, kt, kl⟩ := k
  exact ⟨_, _, _, _, _, _, _, _, _, _, rfl, kt.trans ht, kl.trans hl⟩

theorem Reads.of_atHome {s t : State} (h : AtHome s t) : Reads s t := by
  obtain ⟨_, _, _, _, _, _, rfl, -⟩ := h
  exact ⟨_, _, _, _, _, _, _, _, s.teams, s.launches, rfl, rfl, rfl⟩

theorem map_modify_of_map_eq {α β : Type} (g : α → β) {f : α → α} (hf : ∀ a, g (f a) = g a) (l : List α) (i : Nat) :
    (l.modify i f).map g = l.map g := by
  refine List.ext_getElem? fun j => ?_
  simp only [List.getElem?_map, List.getElem?_modify]
  by_cases h : i = j
  · cases hj : l[j]? <;> simp [h, hf]
  · simp [h]

theorem Reads.modTeam (s : State) (i : Nat) {f : Team → Team} (hf : ∀ tm, (f tm).unread = tm.unread) : Reads s (s.modTeam i f) :=
  ⟨_, _, _, _, _, _, _, _, _, s.launches, rfl, map_modify_of_map_eq _ hf _ _, rfl⟩

theorem Reads.modLaunch (s : State) (i : Nat) {f : Launch → Launch} (hf : ∀ la, (f la).unread = la.unread) : Reads s (s.modLaunch i f) :=
  ⟨_, _, _, _, _, _, _, _, s.teams, _, rfl, rfl, map_modify_of_map_eq _ hf _ _⟩

theorem Reads.touch (s : State) (l : Loc) (pts : Nat) : Reads s (s.touch l pts).1 := by
  unfold State.touch
  split
  · split
    · exact .refl s
    · exact .modTeam s _ fun _ => rfl
  · exact .modLaunch s _ fun _ => rfl
  · exact .refl s

theorem Reads.load (s : State) (pts : Nat) (l : Loc) (n : Nat) (q : Req) : Reads s (s.load none pts l n q).1 := by
  unfold State.load
  split
  · exact .of_atHome (.loadHome ..)
  · exact (Reads.of_atHome (.reachL2 ..)).trans (.touch ..)

theorem Reads.ask (s : State) (l : Loc) (ea : Nat) : Reads s (s.ask l ea) := by
  unfold State.ask
  split
  · exact ⟨_, _, _, _, _, _, _, _, s.teams, s.launches, rfl, rfl, rfl⟩
  · exact .refl s

theorem Reads.tick (s : State) : Reads s s.tick := ⟨_, _, _, _, _, _, _, _, s.teams, s.launches, rfl, rfl, rfl⟩

theorem Reads.noteLink (s : State) (l : Loc) (bay : Nat) : Reads s (s.noteLink l bay) := by
  unfold State.noteLink
  split
  · split <;> exact .of_atHome (.noteUse ..)
  · exact .refl s

/-- R115: the pts of the reading thread. -/
theorem Reads.setPts (s : State) (t : TRef) (pts : Nat) : Reads s (s.setPts t pts) := by
  refine .modTeam s _ fun tm => ?_
  split
  · simp [Team.unread, Function.comp_def, Thread.unread]
  · unfold Team.unread Team.modThread
    simp only [map_modify_of_map_eq Thread.unread (f := fun th => { th with pts := pts, quiet := 0 }) fun _ => rfl]

theorem Reads.team {s t : State} (h : Reads s t) (i : Nat) : (t.team i).map Team.unread = (s.team i).map Team.unread := by
  obtain ⟨_, _, _, _, _, _, _, _, _, _, rfl, ht, -⟩ := h
  simp only [State.team, ← List.getElem?_map, ht]

theorem Reads.standing {s t : State} (h : Reads s t) : Standing s t := by
  intro r
  have hteam := congrArg (fun o : Option Team => (o.bind fun tm => tm.threads[r.tid]?).isSome) (h.team r.team)
  simpa [State.thread, Team.unread, Option.bind_map, Function.comp_def, Option.isSome_bind] using hteam

theorem Reads.launchOf {s t : State} (h : Reads s t) (tm : Team) : (t.launchOf tm).unread = (s.launchOf tm).unread := by
  obtain ⟨_, _, _, _, _, _, _, _, _, launches, rfl, -, hl⟩ := h
  have key (l : List Launch) : ((l[tm.launch]?).getD {}).unread = (((l.map Launch.unread)[tm.launch]?).getD {}) := by
    rw [List.getElem?_map]
    cases l[tm.launch]? <;> rfl
  exact (key launches).trans (hl ▸ (key s.launches).symm)

/-- R268: reading leaves the ASID of every thread. -/
theorem Reads.asidOf {s t : State} (h : Reads s t) (tm : Team) : t.asidOf tm = s.asidOf tm := by
  have hpriv : t.privileged tm = s.privileged tm := by
    have hp : (t.launchOf tm).priv = (s.launchOf tm).priv := (congrArg Launch.priv (h.launchOf tm) :)
    rw [State.privileged, State.privileged, hp]
  have hasid : tm.asid t = tm.asid s := by
    unfold Team.asid
    split
    · rfl
    · exact (congrArg Launch.asid (h.launchOf tm) :)
  have hcsr : t.csr = s.csr := by
    obtain ⟨_, _, _, _, _, _, _, _, _, _, rfl, -⟩ := h
    rfl
  rw [State.asidOf, State.asidOf, hpriv, hasid, hcsr]

/-- R84, R311: reading leaves the home of every word. -/
theorem Reads.monitorHome {s t : State} (h : Reads s t) : t.monitorHome = s.monitorHome := by
  obtain ⟨_, _, _, _, _, _, _, _, _, _, rfl, -⟩ := h
  rfl

theorem Reads.isFabric {s t : State} (h : Reads s t) (l : Loc) : t.isFabric l = s.isFabric l := by
  obtain ⟨_, _, _, _, _, _, _, _, _, _, rfl, -⟩ := h
  rfl

theorem Reads.monitors {s t : State} (h : Reads s t) : t.monitors = s.monitors := by
  obtain ⟨_, _, _, _, _, _, _, _, _, _, rfl, -⟩ := h
  rfl

/-- R85, R374: reading leaves the count of a context's registered monitors. -/
theorem Reads.monitorCount {s t : State} (h : Reads s t) (asid : Nat) : t.monitorCount asid = s.monitorCount asid := by
  have htable : t.tableEntries = s.tableEntries := by
    funext l
    simp only [State.tableEntries, h.monitorHome]
  unfold State.monitorCount
  simp only [htable, h.monitorHome, h.monitors]
  refine congrArg (fun l => (s.tableEntries l).length + l.countP fun m => m.overflow && (s.monitorHome m.loc).isSome)
    (List.filter_congr fun m _ => congrArg _ ?_)
  have hteam := h.team m.t.team
  cases ht : t.team m.t.team with
  | none =>
    rw [ht, Option.map_none, eq_comm, Option.map_eq_none_iff] at hteam
    rw [hteam]
  | some a =>
    rw [ht, Option.map_some, eq_comm, Option.map_eq_some_iff] at hteam
    obtain ⟨b, hb, hab⟩ := hteam
    have hstatus : b.status = a.status := (congrArg Team.status hab :)
    simp only [hb, hstatus]

/-- What a place holds depends on memory, teams and launches, but for the device registers. -/
theorem peek_congr {s t : State} {l : Loc} (hl : ∀ pa, l ≠ .phys pa 1) (hm : t.mem = s.mem) (ht : t.teams = s.teams) (hla : t.launches = s.launches)
    (n : Nat) : t.peek l n = s.peek l n := by
  cases l with
  | lane r off => simp only [State.peek, State.thread, State.team, ht]
  | scr i off => simp only [State.peek, State.team, ht]
  | dscr k d off => simp only [State.peek, State.dcopy, hla]
  | phys pa type =>
    have htype : type ≠ 1 := fun h => hl pa (h ▸ rfl)
    simp only [State.peek, if_neg htype, hm]

theorem AtHome.peek {s t : State} (h : AtHome s t) {l : Loc} (hl : ∀ pa, l ≠ .phys pa 1) (n : Nat) : t.peek l n = s.peek l n := by
  obtain ⟨_, _, _, _, _, _, rfl, -⟩ := h
  exact peek_congr hl rfl rfl rfl n

/-- R116: the timestamp of a granule or unit is beside what it holds. -/
theorem State.touch_peek (s : State) (l : Loc) (pts n : Nat) : (s.touch l pts).1.peek l n = s.peek l n := by
  cases l with
  | lane r off => rfl
  | phys pa type => rfl
  | scr i off =>
    simp only [State.touch]
    cases h : s.team i with
    | none => rfl
    | some tm => simp [State.peek, State.modTeam_team_same, h]
  | dscr k d off =>
    simp only [State.touch, State.peek, State.dcopy, State.modLaunch, List.getElem?_modify]
    cases h : s.launches[k]? with
    | none => simp
    | some la => simp

/-- R204: an ordinary load gives what the place holds. -/
theorem State.load_word (s : State) (pts : Nat) {l : Loc} (hl : ∀ pa, l ≠ .phys pa 1) (n : Nat) (q : Req) :
    (s.load none pts l n q).2.1 = s.peek l n := by
  unfold State.load
  split
  · rename_i pa
    exact congrArg (fun m : Memory => m.read pa n) (AtHome.loadHome s pts pa n q).mem.1
  · exact (State.touch_peek ..).trans ((AtHome.reachL2 ..).peek hl n)

theorem State.ask_eq (s : State) (l : Loc) (ea : Nat) : ∃ a, s.ask l ea = { s with asks := a } := by
  unfold State.ask
  split
  · exact ⟨_, rfl⟩
  · exact ⟨s.asks, rfl⟩

/-- R322: counting the flits of a port leaves what the places hold. -/
theorem State.noteLink_peek (s : State) {l : Loc} (bay n : Nat) (hl : ∀ pa, l ≠ .phys pa 1) : (s.noteLink l bay).peek l n = s.peek l n := by
  unfold State.noteLink
  split
  · split <;> exact (AtHome.noteUse ..).peek hl n
  · rfl

/-- R204, R206: a load of an agent without an L1 that is neither across the fabric nor refused, lost or poisoned gives what the place holds. -/
theorem State.readFrom_ok {s : State} {l : Loc} {n : Nat} (pts : Nat) (q : Req) (hl : ∀ pa, l ≠ .phys pa 1) (hfab : s.isFabric l = false)
    (hpoison : s.poisoned l n = false) (hgone : s.linkGone l = false)
    (hposted : s.isPosted l = true → Config.loadRefused s.free = false ∧ Config.answerMarked s.free = false) :
    ∃ u pts', s.readFrom none pts l n q = (u, pts', .ok (s.peek l n)) ∧ Reads s u := by
  have loaded {v : State} (bay : Nat) (hpeek : v.peek l n = s.peek l n) (hv : Reads s v) : ∃ u pts',
      (((v.noteLink l bay).load none pts l n q).1, ((v.noteLink l bay).load none pts l n q).2.2,
        (Except.ok ((v.noteLink l bay).load none pts l n q).2.1 : Except TrapInfo Nat)) = (u, pts', .ok (s.peek l n)) ∧ Reads s u :=
    ⟨_, _, by rw [State.load_word _ _ hl, State.noteLink_peek _ _ _ hl, hpeek], hv.trans ((Reads.noteLink ..).trans (.load ..))⟩
  have hreads : Reads s (s.ask l q.va) := .ask ..
  obtain ⟨hgone', hfab', hposted', hmarked', hfree, hpeek⟩ : (s.ask l q.va).linkGone l = false ∧ (s.ask l q.va).isFabric l = false
      ∧ (s.ask l q.va).isPosted l = s.isPosted l ∧ (s.ask l q.va).loadMarked none pts l n = false ∧ (s.ask l q.va).free = s.free
      ∧ (s.ask l q.va).peek l n = s.peek l n := by
    obtain ⟨a, hask⟩ := s.ask_eq l q.va
    rw [hask]
    exact ⟨hgone, hfab, rfl, hpoison, rfl, peek_congr hl rfl rfl rfl n⟩
  unfold State.readFrom
  simp only [hgone', hfab', hposted', hmarked', hfree]
  cases hp : s.isPosted l with
  | false => exact loaded _ hpeek hreads
  | true =>
    obtain ⟨hrefused, hanswer⟩ := hposted hp
    simp only [hrefused, hanswer]
    exact loaded _ ((peek_congr hl rfl rfl rfl n).trans hpeek) (hreads.trans (.tick _))

/-- R84, R85, R374: below the limit of its context a thread's monitor is registered. -/
theorem State.register_ok {s : State} {m : Monitor} (h : s.monitorCount m.asid < 65536) :
    ∃ m' : Monitor, (m'.t = m.t ∧ m'.loc = m.loc ∧ m'.n = m.n ∧ m'.fn = m.fn ∧ m'.value = m.value ∧ m'.dest = m.dest)
      ∧ s.register m = .ok { s with monitors := s.monitors ++ [m'] } := by
  suffices hregister : ∃ o, s.register m = .ok { s with monitors := s.monitors ++ [{ m with overflow := o }] } by
    obtain ⟨o, ho⟩ := hregister
    exact ⟨{ m with overflow := o }, ⟨rfl, rfl, rfl, rfl, rfl, rfl⟩, ho⟩
  unfold State.register
  split
  · exact ⟨_, rfl⟩
  · refine ⟨_, if_neg fun hlimit => ?_⟩
    simp only [Bool.and_eq_true, decide_eq_true_eq] at hlimit
    omega

/-- R84, R197, R236: where its place can be read and its context is below its limit, a thread that watches a word goes on with the word if it
satisfies the condition, and waits with a monitor of it if not. -/
theorem watch_ok {s s1 : State} {c : Ctx} {l : Loc} {n : Nat} {refuse : Loc → Option TrapInfo} (fn : BitVec 5) (signed : Bool) (value : Nat)
    (hloc : s.locate (c.agent s) c.e.space (c.r.ea c.e c.e.a false) n n false (if c.op = 0x67 then 2 else 0) = .ok (s1, l))
    (hrefuse : refuse l = none) (hl : ∀ pa, l ≠ .phys pa 1) (hfab : s1.isFabric l = false) (hpoison : s1.poisoned l n = false)
    (hgone : s1.linkGone l = false)
    (hposted : s1.isPosted l = true → Config.loadRefused s1.free = false ∧ Config.answerMarked s1.free = false)
    (hcount : s1.monitorCount (s1.asidOf c.tm) < 65536) :
    ∃ u m, Reads s1 u ∧ (m.t = c.t ∧ m.loc = l ∧ m.n = n ∧ m.fn = fn ∧ m.value = BitVec.ofNat 64 value ∧ m.dest = c.e.d)
      ∧ watch refuse n fn signed value c s
        = if condHolds fn.toNat signed (8 * n) (s1.peek l n) value then .done (u.writeDest c.t c.e.d (8 * n) (s1.peek l n))
          else .wait { u with monitors := u.monitors ++ [m] } .monitor true := by
  obtain ⟨u, pts, hread, hreads⟩ := State.readFrom_ok (s1.ptsOf c.t)
    ((c.agent s).req (c.r.ea c.e c.e.a false).toNat 0 (some (.thread c.t))) hl hfab hpoison hgone hposted
  have hset : Reads s1 (u.setPts c.t pts) := hreads.trans (.setPts ..)
  have hhome : (u.setPts c.t pts).homePlace l = l := by
    rw [State.homePlace, hset.isFabric, hfab]
    rfl
  obtain ⟨m, hm, hregister⟩ := State.register_ok (s := u.setPts c.t pts)
    (m := { t := c.t, asid := (u.setPts c.t pts).asidOf c.tm, va := (c.r.ea c.e c.e.a false).toNat, loc := l, n, fn, signed,
            value := BitVec.ofNat 64 value, dest := c.e.d, overflow := false })
    (by rw [hset.monitorCount, hset.asidOf]; exact hcount)
  refine ⟨u.setPts c.t pts, m, hset, hm, ?_⟩
  unfold watch
  simp only [hloc, hrefuse, State.watchRead, hread, hhome, hregister]

/-! ### What the thread receives, or waits for -/

/-- R148: a value of 32 or 64 bits goes to its destination as an unsigned result does. -/
theorem State.writeDest_eq_wr (s : State) (r : TRef) (d : BitVec 11) {n : Nat} (hn : n = 32 ∨ n = 64) (x : Nat) :
    s.writeDest r d n x = s.wr r d n false x := by
  have hword (j : Nat) (hj : 32 * j + 32 ≤ n) : BitVec.ofNat 32 (x % 2 ^ n / 2 ^ (32 * j)) = BitVec.ofNat 32 (x / 2 ^ (32 * j)) := by
    refine BitVec.eq_of_getLsbD_eq fun i hi => ?_
    simp only [BitVec.getLsbD_ofNat, Nat.testBit_div_two_pow, Nat.testBit_mod_two_pow, hi, decide_true, Bool.true_and]
    simp only [show i + 32 * j < n by omega, decide_true, Bool.true_and]
  have hmax : max n 32 = n := by omega
  unfold State.wr State.writeDest
  cases hd : regOf d with
  | v k =>
    simp only [hmax]
    rcases hn with rfl | rfl
    · simp only [show numbers 0 (32 / 32) = [0] from rfl, List.foldl_cons, List.foldl_nil, hword 0 (by omega)]
    · simp only [show numbers 0 (64 / 32) = [0, 1] from rfl, List.foldl_cons, List.foldl_nil, hword 0 (by omega), hword 1 (by omega)]
  | s k =>
    simp [show n ≤ 64 by omega]
  | p k | const k | zero | reserved => rfl

theorem State.holds_congr {s t : State} {r : TRef} {d : BitVec 11} {n : Nat} {signed : Bool} {x : Nat} (hv : ∀ k, t.vreg r k = s.vreg r k)
    (hs : ∀ k, t.sreg r.team k = s.sreg r.team k) : t.holds r d n signed x ↔ s.holds r d n signed x := by
  unfold State.holds
  simp only [hv, hs]

/-- A completed effect: the destination still holds what the effect wrote. -/
theorem settle_done_holds (c : Ctx) (s0 : State) (fresh : List LateResult) {s1 : State} {d : BitVec 11} {n : Nat} {signed : Bool} {x : Nat}
    (h : s1.holds c.t d n signed x) : (c.settle s0 fresh (.done s1)).advance.holds c.t d n signed x :=
  (State.holds_congr (settle_done_vreg c s0 fresh s1) (settle_done_sreg c s0 fresh s1)).2 h

theorem Standing.modThread (s : State) (r : TRef) (f : Thread → Thread) : Standing s (s.modThread r f) := by
  intro u
  by_cases h : u = r
  · subst h
    rw [State.modThread_thread_same, Option.isSome_map]
  · rw [State.modThread_thread_other _ _ h]

/-- What the issuing thread's own wait leaves of the state before it: the monitors, and which threads there are. -/
theorem settle_wait (c : Ctx) (s0 : State) (fresh : List LateResult) {s1 : State} (w : Wait) (counts : Bool) (h : (s1.thread c.t).isSome) :
    (c.settle s0 fresh (.wait s1 w counts)).advance.waitsFor c.t w c.next
      ∧ (c.settle s0 fresh (.wait s1 w counts)).advance.monitors = s1.monitors := by
  have blocked {u : State} (hu : Standing s1 u) (hm : u.monitors = s1.monitors) :
      (State.advance ((u.passStall c.t c.e.s.toNat []).block c.t w c.next)).waitsFor c.t w c.next
        ∧ (State.advance ((u.passStall c.t c.e.s.toNat []).block c.t w c.next)).monitors = s1.monitors :=
    ⟨(State.advance_waitsFor ..).2 (State.arrives_waitsFor w (by rw [hu, h])), by simp [hm]⟩
  unfold Ctx.settle
  simp only []
  split
  · refine blocked ?_ rfl
    intro r
    rw [State.holdDest, State.modTeam_thread _ _ _ (by intro; rfl), State.countOccurrence, if_pos rfl, State.modTeam_thread _ _ _ (by intro; rfl)]
    exact Standing.modThread s1 c.t _ r
  · exact blocked (fun _ => rfl) rfl

theorem State.team_isSome_of_thread {s : State} {r : TRef} (h : (s.thread r).isSome) : (s.team r.team).isSome := by
  unfold State.thread at h
  cases ht : s.team r.team with
  | none => simp [ht] at h
  | some tm => rfl

/-- R84, R197, R236: what the issue of a watching instruction comes to, in terms of the word that an ordinary load of its place gives. -/
theorem watch_settles {s s1 : State} {c : Ctx} {l : Loc} {n : Nat} {refuse : Loc → Option TrapInfo} {fn : BitVec 5} {signed : Bool} {value : Nat}
    {r : Host.Outcome State Fault Refusal} {fresh : List LateResult}
    (hr : r = .next (State.advance (c.settle s fresh (watch refuse n fn signed value c s)))) (hth : (s.thread c.t).isSome)
    (hn : 8 * n = 32 ∨ 8 * n = 64) (hvalue : value < 2 ^ 64)
    (hloc : s.locate (c.agent s) c.e.space (c.r.ea c.e c.e.a false) n n false (if c.op = 0x67 then 2 else 0) = .ok (s1, l))
    (hrefuse : refuse l = none) (hl : ∀ pa, l ≠ .phys pa 1) (hfab : s1.isFabric l = false) (hpoison : s1.poisoned l n = false)
    (hgone : s1.linkGone l = false)
    (hposted : s1.isPosted l = true → Config.loadRefused s1.free = false ∧ Config.answerMarked s1.free = false)
    (hcount : s1.monitorCount (s1.asidOf c.tm) < 65536) :
    let word := (s1.load none (s1.ptsOf c.t) l n).2.1
    (condHolds fn.toNat signed (8 * n) word value = true → ∃ t, r = .next t ∧ t.goesOn c ∧ t.holds c.t c.e.d (8 * n) false word)
      ∧ (¬ condHolds fn.toNat signed (8 * n) word value = true → ∃ t, r = .next t ∧ t.waitsFor c.t .monitor c.next
        ∧ ∃ m ∈ t.monitors, m.t = c.t ∧ m.loc = l ∧ m.n = n ∧ m.fn = fn ∧ m.value.toNat = value ∧ m.dest = c.e.d) := by
  obtain ⟨u, m, hreads, ⟨hmt, hml, hmn, hmfn, hmv, hmd⟩, hwatch⟩ := watch_ok fn signed value hloc hrefuse hl hfab hpoison hgone hposted hcount
  have hu : (u.thread c.t).isSome := by
    rw [hreads.standing, show (s1.thread c.t).isSome = (s.thread c.t).isSome from State.locate_standing _ hloc c.t, hth]
  intro word
  rw [show word = s1.peek l n from State.load_word _ _ hl _ _]
  refine ⟨fun h => ⟨_, hr, ?_⟩, fun h => ⟨_, hr, ?_⟩⟩
  · rw [hwatch, if_pos h, State.writeDest_eq_wr _ _ _ hn]
    have hwritten := State.wr_holds u c.t c.e.d (8 * n) false (s1.peek l n) hn (State.team_isSome_of_thread hu) hu
    exact ⟨settle_done_goesOn _ _ _ (by rw [(State.sameBut_wr u c.t c.e.d (8 * n) false _).thread_isSome, hu]), settle_done_holds _ _ _ hwritten⟩
  · rw [hwatch, if_neg h]
    obtain ⟨hwaits, hmonitors⟩ := settle_wait c s fresh (s1 := { u with monitors := u.monitors ++ [m] }) .monitor true hu
    have hm : m ∈ u.monitors ++ [m] := List.mem_append_right _ (List.mem_singleton.2 rfl)
    refine ⟨hwaits, m, hmonitors ▸ hm, hmt, hml, hmn, hmfn, ?_, hmd⟩
    rw [hmv, BitVec.toNat_ofNat, Nat.mod_eq_of_lt hvalue]

/-! ### Conditions and operands -/

theorem signedOf_eq_toInt {n : Nat} (hn : n = 32 ∨ n = 64) (w : Nat) : signedOf n w = (BitVec.ofNat n w).toInt := by
  rcases hn with rfl | rfl <;> simp only [signedOf, BitVec.toInt, BitVec.toNat_ofNat] <;> split <;> split <;> omega

/-- R145: a condition compares the operands as the integers that they are. -/
theorem condHolds_iff (fn : Nat) (signed : Bool) {n : Nat} (hn : n = 32 ∨ n = 64) (a b : Nat) :
    let rd (x : Nat) : Int := if signed then (BitVec.ofNat n x).toInt else (x : Int)
    condHolds fn signed n a b = true ↔ match fn with
      | 0 => rd a = rd b | 1 => rd a ≠ rd b | 2 => rd a < rd b | 3 => rd a ≤ rd b
      | 4 => rd a > rd b | _ => rd a ≥ rd b := by
  intro rd
  have hrd (x : Nat) : (if signed then signedOf n x else (x : Int)) = rd x := by rw [signedOf_eq_toInt hn]
  unfold condHolds
  simp only [hrd]
  split <;> simp

theorem RegView.val_lt (r : RegView) (code : BitVec 11) {n : Nat} (hn : n ≤ 64) : r.val code n < 2 ^ n := by
  unfold RegView.val
  cases regOf code with
  | v k => exact Nat.mod_lt _ (Nat.two_pow_pos n)
  | s k => simpa only [if_pos hn] using Nat.mod_lt _ (Nat.two_pow_pos n)
  | const k =>
    simp only []
    split <;> exact Nat.mod_lt _ (Nat.two_pow_pos n)
  | p k | zero | reserved => exact Nat.two_pow_pos n

/-- Settles O17: the word of a watching instruction is read as an ordinary load reads it, and a monitor is registered where it does not satisfy the
condition. -/
theorem watchedWord : Obligations.WatchedWord := by
  unfold Obligations.WatchedWord
  intro w isCount s c s0 s1 l i _ h n ea fn target rd hloc htype hfab hpoison hgone hposted hcount word true'
  cases isCount with
  | false =>
    obtain ⟨rfl, hop, -, -, hth, -⟩ := State.performs_start h rfl
    have hbits : 8 * (intBits c.e / 8) = intBits c.e := by unfold intBits; split <;> rfl
    have hn : 8 * n = 32 ∨ 8 * n = 64 := by
      change 8 * (intBits c.e / 8) = 32 ∨ 8 * (intBits c.e / 8) = 64
      rw [hbits]
      unfold intBits
      split <;> simp
    have hl : ∀ pa, l ≠ .phys pa 1 := by
      rintro pa rfl
      exact htype rfl
    have hrefuse : waitcRefuses (c.r.ea c.e c.e.a false).toNat l = none := by
      unfold waitcRefuses
      split
      · exact if_neg htype
      · rfl
    have hexec : exec i s0 = .next (State.advance (c.settle s0 (c.freshLate s0)
        (watch (waitcRefuses (c.r.ea c.e c.e.a false).toNat) n c.e.fn (intSigned c.e) target c s0))) := by
      refine (issue_direct h rfl (by decide) waitcBody _).trans ?_
      rw [waitcBody, show target = c.val c.e.b (intBits c.e) from congrArg (c.r.val c.e.b) hbits]
      rfl
    obtain ⟨hgoes, hwaits⟩ := watch_settles hexec (by simp [hth]) hn ((c.r.val_lt c.e.b (by omega)).trans_le (Nat.pow_le_pow_right (by omega) (by omega)))
      (by rw [hop]; exact hloc) hrefuse hl hfab hpoison hgone hposted hcount
    have hcond := condHolds_iff fn (intSigned c.e) hn word target
    refine ⟨fun ht => hgoes (hcond.2 ht), fun ht => ?_⟩
    obtain ⟨t, hnext, hwait, m, hm, hmt, hml, hmn, hmfn, hmv, hmd⟩ := hwaits (mt hcond.1 ht)
    exact ⟨t, hnext, hwait, m, hm, hmt, hml, hmn, congrArg BitVec.toNat hmfn, hmv, hmd⟩
  | true =>
    obtain ⟨rfl, hop, -, -, hth, -⟩ := State.performs_start h rfl
    have hl : ∀ pa, l ≠ .phys pa 1 := by
      rintro pa rfl
      cases htype
    have hrefuse : (if l.outsideType0 then some (memFault 0x44 5 (c.r.ea c.e c.e.a false).toNat) else none) = none := by
      refine if_neg ?_
      unfold Loc.outsideType0
      split
      · simpa using htype
      · simp
    obtain ⟨hgoes, hwaits⟩ := watch_settles (n := 8) (issue_direct h rfl (by decide) waitoBody _) (by simp [hth]) (.inr rfl)
      (c.r.val_lt c.e.b (Nat.le_refl 64)) (by rw [hop]; exact hloc) hrefuse hl hfab hpoison hgone hposted hcount
    have hcond := condHolds_iff fn false (.inr rfl) word target
    refine ⟨fun ht => hgoes (hcond.2 ht), fun ht => ?_⟩
    obtain ⟨t, hnext, hwait, m, hm, hmt, hml, hmn, hmfn, hmv, hmd⟩ := hwaits (mt hcond.1 ht)
    exact ⟨t, hnext, hwait, m, hm, hmt, hml, hmn, congrArg BitVec.toNat hmfn, hmv, hmd⟩

end Sys2Proof.Machine
end

section
/-!
SUPPORT. What a step is (O53): the equation of the turn for each way it can go, from the step down to the fetch of an instruction (R39, R361, R362) and
to the choice of an event (log entry 1).
-/
namespace Sys2Proof.Machine

/-! ### The step and its turn -/

theorem step_of_settled {s t : State} (h : s.turn = .settled t) : step s = .next t := by simp [step, h]

theorem step_of_run {s t : State} {i : Instr} (h : s.turn = .run i t) : step s = exec i t := by simp [step, h]

theorem State.turn_of_current {s : State} {r : TRef} (hr : s.current = some r) (hm : s.mayIssue r = true) : s.turn = s.fetchTurn r := by
  simp [State.turn, hr, hm]

theorem State.turn_of_idle {s : State} (hr : s.current = none) (hg : s.groups = []) : s.turn = s.agendaTurn := by
  simp [State.turn, hr, hg]

/-! ### The instruction of a thread -/

section
variable {s s1 : State} {r : TRef} {bytes : List Byte}
variable (hstop : s.methodStop r = none) (hfetch : (s.takeTurn r).fetch r = .ok (s1, bytes))
include hstop hfetch

theorem State.fetchTurn_run {i : Instr} {len : Nat} (hmiss : (s.takeTurn r).freshMisses s1 (.thread r) = []) (hdec : decode bytes = .ok (i, len))
    (hp : s.postponed r i s1 = none) : s.fetchTurn r = .run i s1 := by
  simp [State.fetchTurn, hstop, hfetch, hmiss, hdec, hp]

theorem State.fetchTurn_postponed {i : Instr} {len : Nat} {x : State} {w : Wait} (hmiss : (s.takeTurn r).freshMisses s1 (.thread r) = [])
    (hdec : decode bytes = .ok (i, len)) (hp : s.postponed r i s1 = some (x, w)) :
    s.fetchTurn r = .settled (x.block r w (((s.thread r).map (·.pc)).getD 0)).advance := by
  simp [State.fetchTurn, hstop, hfetch, hmiss, hdec, hp]

theorem State.fetchTurn_illegal {err : DecodeError} (hmiss : (s.takeTurn r).freshMisses s1 (.thread r) = []) (hdec : decode bytes = .error err) :
    s.fetchTurn r = .settled ((s1.issued r).raise r (illegalInfo bytes) (((s.thread r).map (·.pc)).getD 0)).advance := by
  simp [State.fetchTurn, hstop, hfetch, hmiss, hdec]

theorem State.fetchTurn_misses (hmiss : (s.takeTurn r).freshMisses s1 (.thread r) ≠ []) :
    s.fetchTurn r = (s.takeTurn r).awaitCode r ((s.takeTurn r).freshMisses s1 (.thread r)) (((s.thread r).map (·.pc)).getD 0) := by
  obtain ⟨x, l, h⟩ := List.exists_cons_of_ne_nil hmiss
  simp [State.fetchTurn, hstop, hfetch, h]

end

/-! ### An event -/

/-- Event `k` of the agenda, `i`, is what a step does that finds the module in `x`: it is performed, or waits. -/
def TakesEvent (o : Host.Outcome State Fault Refusal) (x : State) (k : Nat) (i : Instr) : Prop :=
  match x.eventWaits k i with
  | none => o = exec i ({ x with agenda := x.agenda.eraseIdx k }.usePlaces i)
  | some t => o = .next t

theorem takesEvent_of_turn {s x : State} {k : Nat} {i : Instr} (h : s.turn = x.eventTurn k i) : TakesEvent (step s) x k i := by
  unfold TakesEvent
  unfold State.eventTurn at h
  cases hw : x.eventWaits k i with
  | none => exact step_of_run (by rw [h, hw])
  | some t => exact step_of_settled (by rw [h, hw])

/-- Log entry 1: some event of the agenda comes first, and the turn is its. -/
theorem State.agendaTurn_first {s : State} {k : Nat} (h : s.agenda.findIdx? s.comesFirst = some k) :
    ∃ i, s.agenda[k]? = some i ∧ s.comesFirst i = true ∧ s.agendaTurn = s.eventTurn k i := by
  obtain ⟨hk, hfirst, -⟩ := List.findIdx?_eq_some_iff_getElem.1 h
  exact ⟨s.agenda[k], List.getElem?_eq_getElem hk, hfirst, by simp [State.agendaTurn, h, List.getElem?_eq_getElem hk]⟩

/-- Log entry 1: no event of the agenda comes first, and a free value chooses among them and a cycle of the pickers. -/
theorem State.agendaTurn_free {s : State} (h : s.agenda.findIdx? s.comesFirst = none) :
    s.agendaTurn = .run .pickerCycle s.tick ∨ ∃ (k : Nat) (i : Instr), s.agenda[k]? = some i ∧ s.agendaTurn = s.tick.eventTurn k i := by
  simp only [State.agendaTurn, h]
  split
  next i hi => exact .inr ⟨_, i, hi, rfl⟩
  next => exact .inl rfl

/-! ### The obligation -/

/-- Settles O53: by the equations of the turn. -/
theorem stepRunsTheInstruction : Obligations.StepRunsTheInstruction := by
  unfold Obligations.StepRunsTheInstruction
  refine fun s => ⟨fun r s1 bytes hr hm hstop hfetch => ?_, fun hr hg => ?_⟩
  · have hturn := State.turn_of_current hr hm
    exact ⟨fun i len hmiss hdec =>
        ⟨fun hp => step_of_run (hturn.trans (State.fetchTurn_run hstop hfetch hmiss hdec hp)),
          fun x w hp => step_of_settled (hturn.trans (State.fetchTurn_postponed hstop hfetch hmiss hdec hp))⟩,
      fun err hmiss hdec => step_of_settled (hturn.trans (State.fetchTurn_illegal hstop hfetch hmiss hdec)),
      fun hmiss => step_of_settled (hturn.trans (State.fetchTurn_misses hstop hfetch hmiss))⟩
  · have hturn := State.turn_of_idle hr hg
    cases hfirst : s.agenda.findIdx? s.comesFirst with
    | some k =>
      obtain ⟨i, hi, hcf, hev⟩ := State.agendaTurn_first hfirst
      exact ⟨s.free, .inr ⟨k, i, hi, fun hno => absurd hcf (by simp [hno]), takesEvent_of_turn (hturn.trans hev)⟩⟩
    | none =>
      have hnone : ∀ j ∈ s.agenda, s.comesFirst j = false := by simpa [List.findIdx?_eq_none_iff] using hfirst
      refine ⟨s.free + 1, ?_⟩
      rcases State.agendaTurn_free hfirst with hcycle | ⟨k, i, hi, hev⟩
      · exact .inl ⟨step_of_run (hturn.trans hcycle), hnone⟩
      · exact .inr ⟨k, i, hi, fun _ => hnone, takesEvent_of_turn (hturn.trans hev)⟩

end Sys2Proof.Machine
end

section
/-!
SUPPORT. The events of the module as a whole (O52): what a reset keeps and clears, how training ends and fails, what retires a core, and the
writes of device registers, soft errors and refills of code. A reset and the record of a failure write device registers besides the fields that
they name (`OnlyDev`); retirement is said by `emptyCore_spec` and `Recorded`.
-/
namespace Sys2Proof.Machine

/-! ### Writes of device registers alone -/

/-- Only device registers differ. -/
def OnlyDev (s t : State) : Prop := ∃ d, t = { s with dev := d }

theorem OnlyDev.refl (s : State) : OnlyDev s s := ⟨_, rfl⟩

theorem OnlyDev.trans {s t u : State} (h : OnlyDev s t) (k : OnlyDev t u) : OnlyDev s u := by
  obtain ⟨_, rfl⟩ := h
  obtain ⟨d, rfl⟩ := k
  exact ⟨d, rfl⟩

theorem OnlyDev.phase {s t : State} (h : OnlyDev s t) : t.phase = s.phase := by
  obtain ⟨_, rfl⟩ := h
  rfl

theorem OnlyDev.store (s : State) (pa : Nat) (v : W64) : OnlyDev s (Dev.store s pa v) := ⟨_, rfl⟩

theorem OnlyDev.foldl {α : Type} {f : State → α → State} (hf : ∀ s a, OnlyDev s (f s a)) (l : List α) (s : State) : OnlyDev s (l.foldl f s) :=
  List.foldlRecOn (motive := OnlyDev s) _ _ (.refl s) fun _ h a _ => h.trans (hf _ a)

theorem OnlyDev.keptBays (s t : State) : OnlyDev t (s.keptBays t) := .foldl (fun _ _ => .foldl (fun _ _ => .store ..) _ _) _ _

theorem OnlyDev.recordFailure (s : State) (kind index : Nat) : OnlyDev s (s.recordFailure kind index) := .store ..

/-! ### Resets and power (R327, R414, R415) -/

/-- Nothing is placed, registered or in flight, and memory, clock and checkpoints are those of `s`. -/
def Fresh (s t : State) : Prop :=
  t.teams = [] ∧ t.contexts = [] ∧ t.queues = [] ∧ t.ops = [] ∧ t.launches = [] ∧ t.mem = s.mem ∧ t.clk = s.clk ∧ t.checkpoints = s.checkpoints

theorem Fresh.of_onlyDev {s t u : State} (h : Fresh s t) (k : OnlyDev t u) : Fresh s u := by
  obtain ⟨_, rfl⟩ := k
  exact h

theorem State.keptIn_fresh (s : State) : Fresh s (s.keptIn State.reset) := by
  refine Fresh.of_onlyDev ?_ (.keptBays ..)
  exact ⟨rfl, rfl, rfl, rfl, rfl, rfl, rfl, rfl⟩

theorem State.keptIn_phase (s t : State) : (s.keptIn t).phase = t.phase := (OnlyDev.keptBays ..).phase

theorem State.losePower_fresh (s : State) : Fresh s s.losePower := s.keptIn_fresh

theorem State.resetModule_fresh (s : State) : Fresh s s.resetModule := by
  unfold State.resetModule
  split
  · refine Fresh.of_onlyDev ?_ (.recordFailure ..)
    exact s.keptIn_fresh
  · exact s.keptIn_fresh

theorem State.resetModule_resets (s : State) : s.resetModule.resets = s.resets + 1 := by
  unfold State.resetModule
  split <;> rfl

theorem State.resetModule_training {s : State} (h : s.sliceGone = none) : s.resetModule.phase = .training := by
  simp only [State.resetModule, h]
  exact s.keptIn_phase State.reset

theorem State.resetModule_reduced {s : State} (h : s.sliceGone ≠ none) : s.resetModule.phase = .reducedKept := by
  obtain ⟨k, hk⟩ := Option.ne_none_iff_exists'.1 h
  simp only [State.resetModule, hk]
  rfl

theorem exec_powerOn {s : State} (h : s.phase = .off) : exec .powerOn s = .next s.resetModule := by
  change execPowerOn s = _
  simp [execPowerOn, h]

theorem exec_moduleReset {s : State} (h : s.phase ≠ .off) : exec .moduleReset s = .next s.resetModule := by
  change execModuleReset s = _
  simp [execModuleReset, h]

/-! ### Bring-up (R327, R417) -/

theorem State.completeTraining_full {s : State} (h : s.phase = .training) (hc : ∀ c ∈ s.contexts, c.state = .preempted) :
    ∃ l, s.completeTraining = { s with phase := .full, slices := l } := by
  have hsame : s.contexts.foldl (fun (s : State) c => if c.state = .active then s.startDrain c.asid 0 else s) s = s :=
    List.foldlRecOn (motive := (· = s)) _ _ rfl fun t ht c hmem => by simp [hc c hmem, ht]
  have hall : s.contexts.all (fun c => c.state = .preempted) = true := by simpa using hc
  simp only [State.completeTraining, h, hsame, hall]
  exact ⟨_, rfl⟩

/-- R417: a stack's bit of the bring-up register. -/
theorem State.recordFailure_stack (s : State) {k : Nat} (h : k < 8) : (Dev.stored (s.recordFailure 0 k) Dev.bringUp).getLsbD (8 + k) = true := by
  have hbit : 8 + k < 64 := by omega
  simp [State.recordFailure, store_stored, Nat.mod_eq_of_lt h, hbit]

/-- R417: the third failure of a stack keeps service reduced. -/
theorem State.failTraining_third {s : State} {k : Nat} (h : s.phase = .training) (ht : SMap.get 0 s.tries k = 2) :
    s.failTraining 0 k = { ({ s with tries := SMap.set 0 s.tries k 3 } : State).recordFailure 0 k with phase := .reducedKept } := by
  simp [State.failTraining, h, ht, State.blocksService]

/-- R417: before its third failure a part is tried again. -/
theorem State.failTraining_again {s : State} {kind k : Nat} (hk : kind ≠ 2) (h : s.phase = .training) (ht : SMap.get 0 s.tries (kind * 256 + k) < 2) :
    s.failTraining kind k = { s with tries := SMap.set 0 s.tries (kind * 256 + k) (SMap.get 0 s.tries (kind * 256 + k) + 1) } := by
  have hn : SMap.get 0 s.tries (kind * 256 + k) ≠ 2 := by omega
  simp [State.failTraining, hk, h, hn]

/-! ### Retirement (R419) -/

/-- What the retirement of a core changes before its record: the core is noted and holds no slice; queues and firmware cores stay. -/
theorem State.emptyCore_retired (s : State) (c : Nat) :
    let t := ({ s with retired := s.retired ||| (1#256 <<< c) } : State).emptyCore c
    t.retired = s.retired ||| (1#256 <<< c) ∧ (t.core c).holder = none ∧ t.queues = s.queues ∧ t.fwfail = s.fwfail := by
  obtain ⟨_, _, h⟩ := emptyCore_spec { s with retired := s.retired ||| (1#256 <<< c) } c
  rw [h]
  refine ⟨rfl, ?_, rfl, rfl⟩
  exact congrArg Core.holder ((core_modCore s c c fun k => { k with holder := none }).trans (if_pos rfl))

theorem State.retireCore_retires {s : State} {c : Nat} (r : Nat) (hu : isUserCore c = true) (h : s.retired.getLsbD c = false) :
    (s.retireCore c r).retired = s.retired ||| (1#256 <<< c) ∧ ((s.retireCore c r).core c).holder = none := by
  obtain ⟨hret, hhold, -, -⟩ := s.emptyCore_retired c
  simp only [State.retireCore, hu, h]
  split
  · contradiction
  split
  · exact ⟨hret, hhold⟩
  · obtain ⟨-, hr, -, -, -, hcore⟩ := (Recorded.toOperator (({ s with retired := s.retired ||| (1#256 <<< c) } : State).emptyCore c) 20 (c + r % 4 * 2 ^ 8)).phase
    exact ⟨hr.trans hret, (hcore c).1.trans hhold⟩

/-- Cores have been retired without a record: queues and firmware cores are as before, and no core is taken back. -/
structure Retiring (s t : State) : Prop where
  queues : t.queues = s.queues
  fwfail : t.fwfail = s.fwfail
  kept : ∀ c, s.retired.getLsbD c = true → t.retired.getLsbD c = true

theorem Retiring.refl (s : State) : Retiring s s := ⟨rfl, rfl, fun _ => id⟩

theorem Retiring.trans {s t u : State} (h : Retiring s t) (k : Retiring t u) : Retiring s u :=
  ⟨k.queues.trans h.queues, k.fwfail.trans h.fwfail, fun c hc => k.kept c (h.kept c hc)⟩

/-- R419: a core of a die whose firmware core has failed retires without a record. -/
theorem State.retireCore_silent (s : State) (c : Nat) :
    Retiring s (s.retireCore c 3) ∧ (isUserCore c = true → (s.retireCore c 3).retired.getLsbD c = true) := by
  unfold State.retireCore
  split
  case isTrue h => exact ⟨.refl s, fun hu => by simpa [hu] using h⟩
  case isFalse h =>
    obtain ⟨hret, -, hq, hf⟩ := s.emptyCore_retired c
    refine ⟨⟨hq, hf, fun k hk => ?_⟩, fun hu => ?_⟩
    · simp [hret, hk]
    · have hc : c < 256 := by simp [isUserCore] at hu; omega
      simp [hret, hc]

theorem State.retireCores_silent (l : List Nat) (s : State) :
    Retiring s (l.foldl (fun (s : State) c => s.retireCore c 3) s)
      ∧ ∀ c ∈ l, isUserCore c = true → (l.foldl (fun (s : State) c => s.retireCore c 3) s).retired.getLsbD c = true := by
  induction l generalizing s with
  | nil => exact ⟨.refl s, by simp⟩
  | cons a l ih =>
    obtain ⟨hfirst, ha⟩ := s.retireCore_silent a
    obtain ⟨hrest, hl⟩ := ih (s.retireCore a 3)
    refine ⟨hfirst.trans hrest, fun c hc hu => ?_⟩
    rcases List.mem_cons.1 hc with rfl | hc
    · exact hrest.kept c (ha hu)
    · exact hl c hc hu

/-- R419: the queue of a die whose firmware core fails is closed. -/
def Queue.closedWith (d : Nat) (q : Queue) : Queue := if q.die = d then { q with halted := true, registered := false } else q

theorem Queue.closedWith_closed {d : Nat} {q : Queue} (h : (q.closedWith d).die = d) :
    (q.closedWith d).registered = false ∧ (q.closedWith d).halted = true := by
  unfold Queue.closedWith at *
  split at h
  case isTrue hd => simp [hd]
  case isFalse hd => exact absurd h hd

/-- A record leaves each queue, but for what its monitor has seen. -/
theorem Recorded.queue {s t : State} (h : Recorded s t) {q : Queue} (hq : q ∈ t.queues) : ∃ p ∈ s.queues, unwatched p = unwatched q := by
  obtain ⟨-, -, -, hqs, -, -⟩ := h.phase
  exact List.mem_map.1 (hqs ▸ List.mem_map_of_mem hq)

theorem unwatched_flags {p q : Queue} (h : unwatched p = unwatched q) : p.die = q.die ∧ p.registered = q.registered ∧ p.halted = q.halted := by
  simp only [unwatched, Queue.mk.injEq] at h
  simp only [h, and_self]

/-- R419: what a failed firmware core of a die does. -/
theorem State.failFirmware_spec {s : State} {d : Nat} (hd : d < 4) (h : s.fwfail.getLsbD d = false) :
    ∃ u, Recorded u (s.failFirmware d) ∧ u.fwfail = s.fwfail ||| (1#4 <<< d) ∧ u.queues = s.queues.map (Queue.closedWith d)
      ∧ ∀ c, c / 64 = d → isUserCore c = true → u.retired.getLsbD c = true := by
  obtain ⟨⟨hq, hf, -⟩, hret⟩ :=
    State.retireCores_silent (numbers (64 * d) 64) { s with fwfail := s.fwfail ||| (1#4 <<< d), queues := s.queues.map (Queue.closedWith d) }
  refine ⟨_, ?_, hf, hq, fun c hc hu => hret c (mem_numbers.2 (by omega)) hu⟩
  simp only [State.failFirmware, h, Nat.not_le.2 hd, decide_false, Bool.or_false, Bool.false_eq_true, if_false]
  refine Recorded.foldl _ (fun t q => ?_) _ _
  split
  · exact .recordTo ..
  · exact .refl _

theorem State.failFirmware_closes {s : State} {d : Nat} (hd : d < 4) (h : s.fwfail.getLsbD d = false) :
    (s.failFirmware d).fwfail = s.fwfail ||| (1#4 <<< d)
      ∧ (∀ q ∈ (s.failFirmware d).queues, q.die = d → q.registered = false ∧ q.halted = true)
      ∧ ∀ c, c / 64 = d → isUserCore c = true → (s.failFirmware d).retired.getLsbD c = true := by
  obtain ⟨u, hrec, hfail, hqs, hcores⟩ := State.failFirmware_spec hd h
  obtain ⟨-, hr, hf, -⟩ := hrec.phase
  refine ⟨hf.trans hfail, fun q hq hdie => ?_, fun c hc hu => hr ▸ hcores c hc hu⟩
  obtain ⟨p, hp, hpq⟩ := hrec.queue hq
  obtain ⟨p0, -, rfl⟩ := List.mem_map.1 (hqs ▸ hp)
  obtain ⟨hpd, hpr, hph⟩ := unwatched_flags hpq
  rw [← hpr, ← hph]
  exact Queue.closedWith_closed (hpd.trans hdie)

/-! ### Device registers (R27, R324, R328) -/

/-- A write of a whole aligned word. -/
theorem pick_word (v w : W64) : pick (BitVec.ofNat 64 ((2 ^ (8 * 8) - 1) * 2 ^ (8 * 0))) (BitVec.ofNat 64 (v.toNat * 2 ^ (8 * 0))) w = v := by
  have hones : BitVec.ofNat 64 ((2 ^ (8 * 8) - 1) * 2 ^ (8 * 0)) = BitVec.allOnes 64 := by decide
  rw [hones, pick, Nat.mul_zero, Nat.pow_zero, Nat.mul_one, BitVec.ofNat_toNat, BitVec.setWidth_eq, BitVec.and_allOnes, BitVec.not_allOnes,
    BitVec.and_zero, BitVec.or_zero]

theorem State.region_meter (s : State) : s.region (Dev.meterBase + 8) = .device := by
  unfold State.region State.hbmTop
  split <;> simp [Dev.meterBase]

theorem State.devWriteN_nonce {s : State} (hf : s.feature 12 = true) (hidle : (Dev.stored s (Dev.meterBase + 0x10)).getLsbD 7 = false) (v : W64) :
    s.devWriteN (Dev.meterBase + 8) 8 v.toNat = Dev.store s (Dev.meterBase + 8) v := by
  have hblock : Dev.block (Dev.meterBase + 8) = .meter 8 := by decide
  have hword : (Dev.meterBase + 8) / 8 * 8 = Dev.meterBase + 8 := by decide
  have hoff : (Dev.meterBase + 8) % 8 = 0 := by decide
  simp only [State.devWriteN, hword, hoff, pick_word]
  simp only [State.devWord, hblock, hf, hidle]
  rfl

theorem exec_deviceRegisterWrite_absent (s : State) {pa : Nat} (n : Nat) (v : W64) (h : Dev.block (pa / 8 * 8) = .absent) :
    exec (.deviceRegisterWrite pa n v) s = .next s := by
  change execDeviceRegisterWrite pa n v s = _
  simp [execDeviceRegisterWrite, State.devWriteN, State.devWord, h]

/-! ### Soft errors (R371, R372) -/

theorem mem_addNat (l : List Nat) (k : Nat) : k ∈ addNat l k := by
  induction l with
  | nil => simp [addNat]
  | cons j l ih =>
    unfold addNat
    split
    · simp [*]
    split <;> simp [ih]

/-- An aligned chunk of 16 bytes is one unit of poison. -/
theorem chunksOf_aligned (pa : Nat) : chunksOf 16 (pa / 16 * 16) 16 = [pa / 16] := by
  simp [chunksOf, numbers]

theorem State.soften_hbm_fatal (s : State) (pa : Nat) : (s.soften (.hbm pa true)).physPoisoned (pa / 16 * 16) 16 = true := by
  simp [State.soften, State.mark, State.physPoisoned, chunksOf_aligned, mem_addNat]

theorem State.soften_hbm_mem (s : State) (pa : Nat) (fatal : Bool) : (s.soften (.hbm pa fatal)).mem = s.mem := by
  cases fatal <;> rfl

/-! ### Refills of the code store (R360) -/

/-- R360: the block of an owner, a slot and a number is filled with bytes that may be executed. -/
def CodeBlock.filled (owner slot block : Nat) (bytes : List Byte) (ahead : Bool) (b : CodeBlock) : CodeBlock :=
  if b.owner = owner && b.slot = slot && b.block = block then { b with bytes := bytes, bad := false, ahead := ahead } else b

theorem State.refill_good {s s1 : State} {core owner slot block : Nat} {bytes : List Byte} {b : CodeBlock} (hb : b ∈ (s.core core).code)
    (ho : b.owner = owner) (hs : b.slot = slot) (hn : b.block = block) (h : s.refillBytes core owner slot block = some (s1, bytes, true)) :
    s.refill core owner slot block true = (s1.modCore core fun k =>
      { k with code := k.code.map (CodeBlock.filled owner slot block bytes (!s.atBlock core owner slot block)) }).countError 0x28 false 1 := by
  have hany : (s.core core).code.any (fun b => b.owner = owner && b.slot = slot && b.block = block) = true :=
    List.any_eq_true.2 ⟨b, hb, by simp [ho, hs, hn]⟩
  simp only [State.refill, hany, h]
  rfl

theorem CodeBlock.filled_place (owner slot block : Nat) (bytes : List Byte) (ahead : Bool) (b : CodeBlock) :
    (b.filled owner slot block bytes ahead).owner = b.owner ∧ (b.filled owner slot block bytes ahead).slot = b.slot
      ∧ (b.filled owner slot block bytes ahead).block = b.block := by
  unfold CodeBlock.filled
  split <;> exact ⟨rfl, rfl, rfl⟩

theorem CodeBlock.filled_here {owner slot block : Nat} {b : CodeBlock} (bytes : List Byte) (ahead : Bool) (ho : b.owner = owner) (hs : b.slot = slot)
    (hn : b.block = block) : (b.filled owner slot block bytes ahead).bytes = bytes ∧ (b.filled owner slot block bytes ahead).bad = false := by
  simp [CodeBlock.filled, ho, hs, hn]

theorem exec_codeStoreRefill_good {s s1 : State} {core owner slot block : Nat} {bytes : List Byte} {b : CodeBlock} (hb : b ∈ (s.core core).code)
    (ho : b.owner = owner) (hs : b.slot = slot) (hn : b.block = block) (h : s.refillBytes core owner slot block = some (s1, bytes, true)) :
    ∃ t, exec (.codeStoreRefill core owner slot block true) s = .next t ∧ t.mem = s1.mem
      ∧ ∀ x ∈ (t.core core).code, x.owner = owner → x.slot = slot → x.block = block → x.bytes = bytes ∧ x.bad = false := by
  refine ⟨_, congrArg Host.Outcome.next (State.refill_good hb ho hs hn h), by simp, fun x hx hxo hxs hxn => ?_⟩
  have hcode := (core_modCore s1 core core fun k =>
    { k with code := k.code.map (CodeBlock.filled owner slot block bytes (!s.atBlock core owner slot block)) }).trans (if_pos rfl)
  obtain ⟨y, -, rfl⟩ := List.mem_map.1 ((congrArg Core.code hcode) ▸ hx)
  obtain ⟨hyo, hys, hyn⟩ := CodeBlock.filled_place owner slot block bytes (!s.atBlock core owner slot block) y
  exact CodeBlock.filled_here _ _ (hyo ▸ hxo) (hys ▸ hxs) (hyn ▸ hxn)

/-! ### The obligation -/

/-- Settles O52, event by event: what a reset keeps, how training ends, what retires, and what registers, soft errors and refills write. -/
theorem moduleEvents : Obligations.ModuleEvents := by
  unfold Obligations.ModuleEvents
  intro s fresh
  refine ⟨fun h => ?powerOn, fun h => ?moduleReset, ?powerLoss, fun h hc => ?trainingComplete, fun k hk h ht => ?third, fun kind k hkind h ht => ?again,
    fun c r hu h hr => ?retire, fun d hd h => ?firmware, fun v hc => ?feature, fun v hf hidle => ?register, fun pa n v h => ?absent,
    fun pa => ?soft, fun core owner slot block b s1 bytes hb ho hs hn h => ?refill⟩
  case powerOn => exact ⟨_, exec_powerOn h, State.resetModule_training, s.resetModule_resets, s.resetModule_fresh⟩
  case moduleReset =>
    exact ⟨_, exec_moduleReset h, State.resetModule_training, State.resetModule_reduced, s.resetModule_resets, s.resetModule_fresh⟩
  case powerLoss => exact ⟨s.losePower, rfl, rfl, s.losePower_fresh⟩
  case trainingComplete =>
    obtain ⟨_, hfull⟩ := State.completeTraining_full h hc
    exact ⟨_, congrArg Host.Outcome.next hfull, rfl, rfl, rfl⟩
  case third => exact ⟨_, congrArg Host.Outcome.next (State.failTraining_third h ht), rfl, State.recordFailure_stack _ hk⟩
  case again => exact ⟨_, congrArg Host.Outcome.next (State.failTraining_again hkind h ht), h, by simp⟩
  case retire => exact ⟨s.retireCore c r, congrArg Host.Outcome.next (if_pos hr), State.retireCore_retires r hu h⟩
  case firmware => exact ⟨_, rfl, State.failFirmware_closes hd h⟩
  case feature => exact ⟨{ s with accepted := v &&& s.offered }, congrArg Host.Outcome.next (if_pos (by simp [hc])), rfl, rfl⟩
  case register =>
    exact ⟨_, congrArg Host.Outcome.next ((if_pos s.region_meter).trans (State.devWriteN_nonce hf hidle v)), store_stored .., rfl⟩
  case absent => exact exec_deviceRegisterWrite_absent s n v h
  case soft =>
    exact ⟨⟨_, rfl, s.soften_hbm_fatal pa, s.soften_hbm_mem pa true⟩, _, rfl, rfl, s.soften_hbm_mem pa false⟩
  case refill => exact exec_codeStoreRefill_good hb ho hs hn h

end Sys2Proof.Machine
end

section
/-!
SUPPORT. Special registers (O6): movs writes the value of its register to its destination, and movt changes one field of the issuing thread.
-/
namespace Sys2Proof.Machine

/-! ### The end of an instruction, for other threads -/

theorem State.countOccurrence_thread_other (s : State) {r u : TRef} (pc : W32) (performs : Bool) (h : u ≠ r) :
    (s.countOccurrence r pc performs).thread u = s.thread u := by
  have hocc := State.modThread_thread_other s (fun th => { th with occ := SMap.modify 0 th.occ pc.toNat (· + 1) }) h
  unfold State.countOccurrence
  split
  · exact (State.modTeam_thread _ _ _ (by intro; rfl) _).trans hocc
  · exact hocc

theorem Ctx.keptLate_thread_other (c : Ctx) (fresh : List LateResult) (s1 : State) {u : TRef} (h : u ≠ c.t) :
    (c.keptLate fresh s1).thread u = s1.thread u := by
  unfold Ctx.keptLate
  split
  · rfl
  · exact State.modThread_thread_other _ _ h

/-- What follows a completed effect is the issuing thread's alone. -/
theorem settle_done_thread_other (c : Ctx) (s0 : State) (fresh : List LateResult) (s1 : State) {u : TRef} (h : u ≠ c.t) :
    ((c.settle s0 fresh (.done s1)).advance).thread u = s1.thread u := by
  rw [Ctx.settle_done, State.advance_thread, State.goTo_thread_other _ _ h, State.passStall_thread_other _ _ _ h]
  split
  · rw [State.countOccurrence_thread_other _ _ _ h, Ctx.keptLate_thread_other _ _ _ h]
  · exact Ctx.keptLate_thread_other _ _ _ h

theorem Ctx.keptLate_mem (c : Ctx) (fresh : List LateResult) (s1 : State) : (c.keptLate fresh s1).mem = s1.mem := by
  unfold Ctx.keptLate
  split <;> rfl

/-- What follows a completed effect leaves memory. -/
theorem settle_done_mem (c : Ctx) (s0 : State) (fresh : List LateResult) (s1 : State) : ((c.settle s0 fresh (.done s1)).advance).mem = s1.mem := by
  rw [Ctx.settle_done, State.advance_mem, State.goTo_mem, State.passStall_mem]
  split
  · rw [State.countOccurrence_mem, Ctx.keptLate_mem]
  · exact Ctx.keptLate_mem ..

/-- An instruction whose effect is a result completes: its destination holds the result, and the thread goes on. -/
theorem exec_result {s s0 : State} {i : Instr} {c : Ctx} {op : Nat} {e : Ext} {ws : List W32} {body : Ctx → State → Effect} {n x : Nat} {signed : Bool}
    (h : s.performs i = some (c, s0)) (hp : i.parts = some (op, e, ws)) (hop : op ≠ 0x43 ∧ op ≠ 0x44) (hexec : exec i s = issue op e ws body s)
    (hbody : body c s = .done (c.wr s n signed x)) (hn : n = 32 ∨ n = 64) :
    ∃ t, exec i s = .next t ∧ t.holds c.t c.e.d n signed x ∧ t.goesOn c := by
  obtain ⟨rfl, -, -, htm, hth, -⟩ := State.performs_start h hp
  have hwritten := State.wr_holds s0 c.t c.e.d n signed x hn (by simp [htm]) (by simp [hth])
  refine ⟨_, hexec.trans (issue_direct h hp hop body _), ?_, ?_⟩
  · rw [hbody]
    exact settle_done_holds _ _ _ hwritten
  · rw [hbody]
    exact settle_done_goesOn _ _ _ (by rw [Ctx.wr, (State.sameBut_wr ..).thread_isSome, hth]; rfl)

/-! ### movs (R163) -/

theorem intBits_eq (e : Ext) : intBits e = 32 ∨ intBits e = 64 := by unfold intBits; split <;> simp

/-- R163: movs completes with the value of its special register. -/
theorem exec_movs {w : Words} {s s0 : State} {c : Ctx} (h : s.performs (.movs w) = some (c, s0)) :
    ∃ t, exec (.movs w) s = .next t
      ∧ t.holds c.t c.e.d (Claims.width c.e) false (s.special c.t c.tm c.th (uniformOp c.op c.e) c.e.a.toNat).toNat ∧ t.goesOn c :=
  exec_result h rfl (by decide) rfl rfl (intBits_eq c.e)

/-- R15: movs is team-uniform where its destination is an s register. -/
theorem uniformOp_movs (e : Ext) : uniformOp 0x1D e = match regOf e.d with | .s _ => true | _ => false := by
  simp only [uniformOp, Shape.of, Shape.ofOpcode, Option.map_some, Legal.sDest]
  cases regOf e.d <;> rfl

theorem specialRegisterRead : Claims.SpecialRegisterRead := by
  unfold Claims.SpecialRegisterRead
  intro w s c s0 _ h gives la k
  obtain ⟨-, hop, -⟩ := State.performs_start h rfl
  have hgives : gives (s.special c.t c.tm c.th (uniformOp c.op c.e) k) := exec_movs h
  have value {x : W64} {n : Nat} (hk : k = n) (hx : s.special c.t c.tm c.th (uniformOp c.op c.e) n = x) : gives x := hx ▸ hk ▸ hgives
  refine ⟨fun hk => value hk rfl, fun hk => value hk rfl, fun hk => value hk rfl, fun hk => value hk ?page, fun hk => value hk rfl,
    fun hk hw hc => value hk ?width, fun hk => value hk ?core, fun hk => value hk rfl, fun hk => value hk rfl, fun hk => value hk rfl,
    fun hk => value hk rfl, fun hk => value hk rfl, fun hk => value hk rfl, fun hk => value hk rfl⟩
  case page => simp [State.special, LaunchBody.pageGrid, la]
  case width =>
    have hwidth : s.width c.tm = 16 * 2 ^ la.body.wcode := by
      simp only [State.width, hw, Option.isSome_none, Bool.false_eq_true, if_false]
      change (if la.body.wcode = 0 then 16 else if la.body.wcode = 1 then 32 else 64) = _
      interval_cases la.body.wcode <;> rfl
    exact congrArg (BitVec.ofNat 64) hwidth
  case core =>
    rw [hop, uniformOp_movs]
    simp only [State.special]
    cases regOf c.e.d <;> rfl

/-! ### movt (R164, R348) -/

/-- R164: what movt makes of its thread: of the special registers that it writes, the one that it names. -/
def Thread.movt (th : Thread) (d : Nat) (x : W32) : Thread :=
  match d with
  | 10 => { th with tcause := x &&& 0xFF }
  | 11 => { th with tepc := x }
  | 12 => { th with taux := x.zeroExtend 64 }
  | _ => { th with sigmask := x &&& 0xFFFF }

theorem Thread.movt_eq (th : Thread) {d : BitVec 11} (x : W32) (h : 10 ≤ d.toNat ∧ d.toNat ≤ 13) : th.movt d.toNat x
    = { th with
        tcause := if d = 10 then x &&& 0xFF else th.tcause, tepc := if d = 11 then x else th.tepc
        taux := if d = 12 then x.zeroExtend 64 else th.taux, sigmask := if d = 13 then x &&& 0xFFFF else th.sigmask } := by
  obtain rfl | rfl | rfl | rfl : d = 10 ∨ d = 11 ∨ d = 12 ∨ d = 13 := by bv_omega
  all_goals rfl

@[simp] theorem State.offerSignals_thread (s : State) (i : Nat) (u : TRef) : (s.offerSignals i).thread u = s.thread u := by
  unfold State.offerSignals
  split
  · split <;> rfl
  · rfl

@[simp] theorem State.offerSignals_team (s : State) (i j : Nat) : (s.offerSignals i).team j = s.team j := by
  unfold State.offerSignals
  split
  · split <;> rfl
  · rfl

/-- R64, R164: movt changes its thread; where it writes the mask, pending signals may now be delivered. -/
theorem movtBody_eq (c : Ctx) (s : State) : ∃ s1, movtBody c s = .done s1
    ∧ (s1 = s.modThread c.t (·.movt c.e.d.toNat (BitVec.ofNat 32 (c.val c.e.a 32)))
      ∨ s1 = (s.modThread c.t (·.movt c.e.d.toNat (BitVec.ofNat 32 (c.val c.e.a 32)))).offerSignals c.t.team) := by
  refine ⟨_, rfl, ?_⟩
  unfold Thread.movt
  generalize c.e.d.toNat = d
  split
  · exact .inl rfl
  · exact .inl rfl
  · exact .inl rfl
  · exact .inr (by simp only [])

/-- What movt leaves: its thread changed, and the rest of what is read of threads, registers and memory. -/
theorem movtBody_spec {c : Ctx} {s : State} (hth : s.thread c.t = some c.th) : ∃ s1, movtBody c s = .done s1
    ∧ s1.thread c.t = some (c.th.movt c.e.d.toNat (BitVec.ofNat 32 (c.val c.e.a 32))) ∧ s1.mem = s.mem
    ∧ (∀ u, u ≠ c.t → s1.thread u = s.thread u) ∧ ∀ k, s1.sreg c.t.team k = s.sreg c.t.team k := by
  have hsreg (k : Nat) (f : Thread → Thread) : (s.modThread c.t f).sreg c.t.team k = s.sreg c.t.team k := by
    simp only [State.sreg, State.modThread_team_same, Option.map_map]
    rfl
  obtain ⟨s1, hbody, rfl | rfl⟩ := movtBody_eq c s
  · exact ⟨_, hbody, by simp [hth], rfl, fun u hu => State.modThread_thread_other _ _ hu, fun k => hsreg k _⟩
  · refine ⟨_, hbody, by simp [hth], by simp, fun u hu => ?_, fun k => ?_⟩
    · rw [State.offerSignals_thread, State.modThread_thread_other _ _ hu]
    · rw [← hsreg k, State.sreg, State.offerSignals_team]
      rfl

/-- R164, R198: a well-formed movt names a special register from 10 to 13. -/
theorem movt_dest {w : Words} (h : (Instr.movt w).wf = true) : 10 ≤ (w.toExt 0x1E).d.toNat ∧ (w.toExt 0x1E).d.toNat ≤ 13 := by
  cases w with
  | baseLit b l => simp [Instr.wf, Instr.view, Legal.base, Shape.ofOpcode] at h
  | ext e =>
    simp only [Instr.wf, Instr.view, Legal.ext, Shape.of, Shape.ofOpcode, Option.map_some, Legal.role, Legal.extra, Bool.and_eq_true, decide_eq_true_eq] at h
    exact ⟨by simpa [Words.toExt] using h.1.2, by simpa [Words.toExt] using h.1.1.1.1.1.1.1.1.1.1.1.1.1.1.1.1⟩

theorem specialRegisterWrite : Claims.SpecialRegisterWrite := by
  unfold Claims.SpecialRegisterWrite
  intro w s c s0 hwf h x
  obtain ⟨rfl, -, he, -, hth, -⟩ := State.performs_start h rfl
  obtain ⟨s1, hbody, hown, hmem, hothers, hsreg⟩ := movtBody_spec hth
  have hdest := he ▸ movt_dest hwf
  have hexec : exec (.movt w) s0 = .next (c.settle s0 (c.freshLate s0) (.done s1)).advance := hbody ▸ issue_direct h rfl (by decide) movtBody _
  have hthread := (settle_done_thread c s0 (c.freshLate s0) s1).trans (congrArg _ (hown.trans (congrArg some (c.th.movt_eq _ hdest))))
  exact ⟨_, _, hexec, hthread, rfl, rfl, rfl, rfl, rfl, (settle_done_mem ..).trans hmem, rfl, rfl, rfl, rfl, fun u hu => (settle_done_thread_other _ _ _ _ hu).trans (hothers u hu),
    fun k => (settle_done_sreg ..).trans (hsreg k)⟩

/-- Settles O6: movs completes with the value of its special register, and movt changes one field of its thread. -/
theorem specialRegisters : Obligations.SpecialRegisters := ⟨specialRegisterRead, specialRegisterWrite⟩

end Sys2Proof.Machine
end

section
/-!
SUPPORT. Signals (O38): a thread one of whose stores still waits for its line is at no instruction boundary (R308), so a signal pending for it is not delivered
yet, although the thread meets every condition that O38 lists.
-/
namespace Sys2Proof.Machine

/-- A thread that enables signal 0, with a store of type 2 under way whose home does not hold the line yet; its code has ended, so that no instruction comes next. -/
def placingThread : Thread := { sigmask := 1, log := [{ busy := true, opcode := 0x51, outside := true, place := some (.phys 0 2) }, {}, {}, {}] }

/-- Its team, with signal 0 pending. -/
def placingTeam : Team := { launch := 0, tix := 0, status := .placed, signals := 1, threads := [placingThread] }

/-- The team is resident, and its launch has a signal entry. -/
def placingState : State := { State.reset with teams := [placingTeam], launches := [{ body := { sentry := 0x80 } }] }

/-- The clauses of O38 about sig and sigret speak of an issuing thread; any will do. -/
def someCtx : Ctx :=
  { t := { team := 0, tid := 0 }, op := 0, e := Base.toExt 0 { s := 0, g := 0, d := 0, a := 0, b := 0 } none, ws := [], tm := placingTeam, th := placingThread
    r := RegView.ofThread placingTeam placingThread, next := 0 }

/-- The model delivers nothing. -/
theorem exec_signalDelivery_placing : exec (.signalDelivery 0) placingState = .next placingState :=
  congrArg Host.Outcome.next (show placingState.deliverSignals 0 = placingState by rfl)

/-- Refutes O38: the delivery clause leaves out that no access of the thread waits for its line; such a thread is at no instruction boundary (R308), and the signal
stays pending. -/
theorem not_signals : ¬ Obligations.Signals := by
  unfold Obligations.Signals
  intro h
  obtain ⟨-, -, hdelivery⟩ := h (.ext someCtx.e) placingState someCtx placingState
  obtain ⟨t, th', hexec, hth', -, hsignal, -⟩ := hdelivery 0 0 0 placingTeam placingThread rfl rfl rfl (by decide) rfl (by decide) (by decide)
    (fun j hj => absurd hj (Nat.not_lt_zero j)) rfl rfl (by decide) rfl rfl (by decide) (by decide) (fun j _ hj => absurd hj (Nat.not_lt_zero j)) (by decide)
  rw [exec_signalDelivery_placing] at hexec
  obtain rfl : placingState = t := by simpa using hexec
  obtain rfl : placingThread = th' := by simpa using (show placingState.thread { team := 0, tid := 0 } = some placingThread from rfl).symm.trans hth'
  exact absurd hsignal (by decide)

end Sys2Proof.Machine
end

section
/-!
SUPPORT. Operations that change nothing but the cores (O41, O42): what leaves the continuation pool, and what is granted, given back or freed of a core.
-/
namespace Sys2Proof.Machine

/-- Nothing but the cores differs. -/
def OnlyCores (s t : State) : Prop := ∃ cores, t = { s with cores := cores }

theorem OnlyCores.refl (s : State) : OnlyCores s s := ⟨_, rfl⟩

theorem OnlyCores.trans {s t u : State} (h : OnlyCores s t) (k : OnlyCores t u) : OnlyCores s u := by
  obtain ⟨_, rfl⟩ := h
  obtain ⟨_, rfl⟩ := k
  exact ⟨_, rfl⟩

theorem OnlyCores.modCore (s : State) (c : Nat) (f : Core → Core) : OnlyCores s (s.modCore c f) := ⟨_, rfl⟩

theorem OnlyCores.foldl {α : Type} {f : State → α → State} (hf : ∀ s a, OnlyCores s (f s a)) (l : List α) (s : State) : OnlyCores s (l.foldl f s) :=
  List.foldlRecOn (motive := OnlyCores s) _ _ (.refl s) fun _ ht a _ => ht.trans (hf _ a)

section
variable {s t : State} (h : OnlyCores s t)
include h

theorem OnlyCores.teams : t.teams = s.teams := by
  obtain ⟨_, rfl⟩ := h
  rfl
theorem OnlyCores.team (i : Nat) : t.team i = s.team i := congrArg (·[i]?) h.teams
theorem OnlyCores.launches : t.launches = s.launches := by
  obtain ⟨_, rfl⟩ := h
  rfl
theorem OnlyCores.clk : t.clk = s.clk := by
  obtain ⟨_, rfl⟩ := h
  rfl
end

theorem OnlyCores.scanOverflow (s : State) (c p : Nat) : OnlyCores s (s.scanOverflow c p) := by
  unfold State.scanOverflow
  simp only []
  split
  · exact .refl s
  · exact .modCore s c _

/-- R40: a thread leaves the pool of its partition. -/
theorem OnlyCores.leavePool (s : State) (t : TRef) : OnlyCores s (s.leavePool t) := by
  unfold State.leavePool
  split
  · exact .refl s
  · exact (OnlyCores.modCore s _ _).trans (.scanOverflow ..)

/-- R40: a thread enters the pool of its partition. -/
theorem OnlyCores.enterPool (s : State) (t : TRef) : OnlyCores s (s.enterPool t) := by
  unfold State.enterPool
  split
  · exact .refl s
  split
  · exact .refl s
  simp only []
  split
  · exact .refl s
  split
  · exact .modCore ..
  split
  · exact .modCore ..
  · exact .modCore ..

/-- R115: granules take back their timestamps. -/
theorem OnlyCores.returnGranules (s : State) (tm : Team) : OnlyCores s (s.returnGranules tm) :=
  .foldl (fun _ _ => .modCore ..) _ s

/-- R284: cores are granted. -/
theorem OnlyCores.grantCores (s : State) : OnlyCores s s.grantCores := by
  refine .foldl (fun s c => ?_) _ s
  split
  · exact .refl s
  · split
    · exact .refl s
    · exact .modCore ..

/-- R353: contributions of a team are discarded. -/
theorem OnlyCores.discardReds (s : State) (i : Nat) : OnlyCores s (s.discardReds i) := by
  unfold State.discardReds
  split
  · exact .refl s
  · exact ⟨_, rfl⟩

end Sys2Proof.Machine
end

section
/-!
SUPPORT. What reading a table of memory through a translation can change of the teams (O42): it sets bits of page tables, which may end waits, and the clock stands.
-/
namespace Sys2Proof.Machine

/-- The clock stands, and of each team no more has changed than the ends of waits change. -/
def Surveyed (s t : State) : Prop :=
  t.clk = s.clk ∧ t.teams.length = s.teams.length ∧ ∀ (i : Nat) (x y : Team), s.teams[i]? = some x → t.teams[i]? = some y → TeamWoken x y

theorem Surveyed.of_teams {s t : State} (hc : t.clk = s.clk) (ht : t.teams = s.teams) : Surveyed s t :=
  ⟨hc, congrArg _ ht, fun i x y hx hy => by
    rw [ht, hx] at hy
    cases hy
    exact .refl x⟩

theorem Surveyed.refl (s : State) : Surveyed s s := .of_teams rfl rfl

theorem Surveyed.trans {s t u : State} (h : Surveyed s t) (k : Surveyed t u) : Surveyed s u := by
  obtain ⟨hc, hlen, hteam⟩ := h
  obtain ⟨kc, klen, kteam⟩ := k
  refine ⟨kc.trans hc, klen.trans hlen, fun i x y hx hy => ?_⟩
  have hi : i < t.teams.length := hlen ▸ (List.getElem?_eq_some_iff.1 hx).1
  exact (hteam i x _ hx (List.getElem?_eq_getElem hi)).trans (kteam i _ y (List.getElem?_eq_getElem hi) hy)

theorem Surveyed.of_woken {s t : State} (h : Woken s t) : Surveyed s t := by
  obtain ⟨_, _, _, _, _, _, _, _, rfl, -, hlen, hteam, -⟩ := h
  exact ⟨rfl, hlen, hteam⟩

theorem Surveyed.of_atHome {s t : State} (h : AtHome s t) : Surveyed s t := by
  obtain ⟨_, _, _, _, _, _, rfl, -⟩ := h
  exact .of_teams rfl rfl

theorem Surveyed.of_recorded {s t : State} (h : Recorded s t) : Surveyed s t := by
  obtain ⟨_, _, _, _, _, _, _, _, _, _, _, _, _, hwoken, -⟩ := h
  obtain ⟨hc, hlen, hteam⟩ := Surveyed.of_woken hwoken
  exact ⟨hc, hlen, hteam⟩

/-- A team is still there, with no more changed than the ends of waits change. -/
theorem Surveyed.team {s t : State} (h : Surveyed s t) {i : Nat} {tm : Team} (htm : s.team i = some tm) : ∃ tn, t.team i = some tn ∧ TeamWoken tm tn := by
  obtain ⟨-, hlen, hteam⟩ := h
  have hi : i < t.teams.length := hlen ▸ (List.getElem?_eq_some_iff.1 htm).1
  exact ⟨_, List.getElem?_eq_getElem hi, hteam i tm _ htm (List.getElem?_eq_getElem hi)⟩

/-! ### Walks (R88-R90) -/

theorem walkRead_atHome (s : State) (bay pts ea : Nat) : AtHome s (s.walkRead bay pts ea).1 := .loadHome ..

theorem walkLevels_atHome {s : State} {bay va n pts table : Nat} : Ensures (s.walkLevels bay va n pts table) fun x => AtHome s x.1 := by
  induction n generalizing s pts table with
  | zero => exact ensures_error _ _
  | succ n ih =>
    unfold State.walkLevels
    simp only []
    have hread := walkRead_atHome s bay pts (table + 8 * (va / 2 ^ (12 + 9 * n) % 512))
    (iterate 4 split; · exact ensures_error _ _)
    split
    · split
      · exact ensures_error _ _
      · exact (ensures_ok _ _).2 hread
    split
    · exact ensures_error _ _
    · exact fun x hx => hread.trans (ih x hx)

theorem rootOf_atHome {s : State} {die asid bay : Nat} : Ensures (s.rootOf die asid bay) fun x => AtHome s x.1 := by
  unfold State.rootOf
  extract_lets table x y w0
  have hread : AtHome s y.1 := AtHome.trans (b := x.1) (walkRead_atHome ..) (walkRead_atHome ..)
  clear_value y
  split
  · exact ensures_error _ _
  split
  · exact ensures_error _ _
  split
  · exact ensures_error _ _
  · exact (ensures_ok _ _).2 hread

theorem walk_atHome {s : State} {die asid va bay : Nat} : Ensures (s.walk die asid va bay) fun x => AtHome s x.1 := by
  unfold State.walk
  split
  · exact ensures_error _ _
  have hroot := rootOf_atHome _ ‹_›
  split
  · exact ensures_error _ _
  have hlevels := walkLevels_atHome _ ‹_›
  split
  · exact ensures_error _ _
  · exact (ensures_ok _ _).2 (hroot.trans hlevels)

/-! ### Translation (R87-R91) -/

/-- R90: setting the bits of a leaf may end waits. -/
theorem Surveyed.markLeaf (s : State) (bay pts ea : Nat) (store : Bool) : Surveyed s (s.markLeaf bay pts ea store) := by
  unfold State.markLeaf
  refine Surveyed.trans ?_ (.of_woken (Woken.evaluate _ _ _ _))
  exact .trans (.of_atHome (AtHome.storeStamp s pts ea { charge := some bay })) (.of_teams rfl rfl)

theorem Surveyed.cacheTlb (s : State) (e : Tlb) : Surveyed s (s.cacheTlb e) := .of_teams rfl rfl

theorem translate_surveyed {s : State} {core asid va : Nat} {store user : Bool} :
    Ensures (s.translate core asid va store user) fun x => Surveyed s x.1 := by
  unfold State.translate
  simp only []
  split
  · exact ensures_error _ _
  split
  · split
    · exact ensures_error _ _
    · refine (ensures_ok _ _).2 ?_
      simp only []
      split
      · exact .refl s
      · exact .cacheTlb ..
  · unfold State.walkFor
    simp only []
    split
    · exact ensures_error _ _
    have hwalk := walk_atHome _ ‹_›
    split
    · exact ensures_error _ _
    · refine (ensures_ok _ _).2 (.trans (.trans (.trans ?_ (.markLeaf _ _ _ _ _)) (.cacheTlb _ _)) (.cacheTlb _ _))
      exact (Surveyed.of_atHome hwalk).trans (.of_teams rfl rfl)

/-! ### The tables of a launch (R79) -/

theorem bodyPlace_surveyed {s : State} {die asid va n : Nat} {store : Bool} : Ensures (s.bodyPlace die asid va n store) fun x => Surveyed s x.1 := by
  unfold State.bodyPlace
  split
  · exact ensures_error _ _
  have htranslate := translate_surveyed _ ‹_›
  (iterate 2 split; · exact ensures_error _ _)
  exact (ensures_ok _ _).2 htranslate

theorem bodyRead_surveyed {s : State} {die asid va n : Nat} : Ensures (s.bodyRead die asid va n) fun x => Surveyed s x.1 := by
  unfold State.bodyRead
  split
  · exact ensures_error _ _
  have hplace := bodyPlace_surveyed _ ‹_›
  split
  · exact ensures_error _ _
  · exact (ensures_ok _ _).2 (hplace.trans ((Surveyed.of_atHome (.loadHome ..)).trans (.of_teams rfl rfl)))

theorem ringTable_surveyed {s : State} {die asid va n : Nat} : Ensures (s.ringTable die asid va n) fun x => Surveyed s x.1 := by
  induction n generalizing s va with
  | zero => exact (ensures_ok _ _).2 (.refl s)
  | succ n ih =>
    unfold State.ringTable
    split
    · exact ensures_error _ _
    have hread := bodyRead_surveyed _ ‹_›
    split
    · exact ensures_error _ _
    have htable := ih _ ‹_›
    exact (ensures_ok _ _).2 (hread.trans htable)

/-- R79: the ring table of a new team is read. -/
theorem Surveyed.newRings (s : State) (die : Nat) (la : Launch) : Surveyed s (s.newRings die la).1 := by
  unfold State.newRings
  split
  · exact ringTable_surveyed _ ‹_›
  · exact .refl s

end Sys2Proof.Machine
end

section
/-!
SUPPORT. A team that is offered a core (O42): it takes its place there, from its first instruction where it is new (R33, R46, R49).
-/
namespace Sys2Proof.Machine

/-- R48: a team of a launch without cluster sets is a unit of its own. -/
theorem State.unit_alone {s : State} {i : Nat} {tm : Team} (htm : s.team i = some tm) (hsize : s.setSize tm = 1) : s.unit i = [i] := by
  unfold State.unit
  simp [htm, hsize]

/-- The launch of a team reads as the launches stand. -/
theorem State.launchOf_congr {s t : State} (h : t.launches = s.launches) (tm : Team) : t.launchOf tm = s.launchOf tm := by
  unfold State.launchOf
  rw [h]

theorem State.setSize_congr {s t : State} (h : t.launches = s.launches) (tm : Team) : t.setSize tm = s.setSize tm := by
  unfold State.setSize
  rw [State.launchOf_congr h]

/-- R281: the launch of a team whose launch is numbered is that launch. -/
theorem State.launches_launchOf {s : State} {tm : Team} (h : tm.launch < s.launches.length) : s.launches[tm.launch]? = some (s.launchOf tm) := by
  simp [State.launchOf, h]

/-- R33: the first s registers of a new team are the arguments of its launch. -/
theorem freshTeam_args (la : Launch) (rings : List Ring) (tm : Team) {k : Nat} (hk : k < 8) : SMap.get 0 (freshTeam la rings tm).s k = (la.body.args[k]?).getD 0 := by
  unfold freshTeam
  change SMap.get 0 ([0, 1, 2, 3, 4, 5, 6, 7].foldl (fun m k => SMap.set 0 m k (wordAt la.body.args k)) []) k = _
  simp only [List.foldl_cons, List.foldl_nil, SMap.get_set]
  interval_cases k <;> rfl

/-- What a place that a team takes is, with what the team had or the state of a new team. -/
def TookPlace (ns : Nat) (la : Launch) (tm tn : Team) (c : Nat) (ps : List Nat) : Prop :=
  tn.status = .placed ∧ tn.core = c ∧ tn.parts = ps ∧ tn.since = ns ∧ tn.expired = none
    ∧ (tm.threads ≠ [] → tn.threads = tm.threads)
    ∧ (tm.threads = [] → tn.threads = List.replicate (la.body.tsize + 1) { pts := la.start } ∧ ∀ k, k < 8 → SMap.get 0 tn.s k = (la.body.args[k]?).getD 0)

/-- R33, R46: what taking a place makes of a team. -/
def State.seated (s : State) (la : Launch) (rings : List Ring) (c : Nat) (parts : List Nat) (tm : Team) : Team :=
  let grans := s.takeGranules la.body c
  let tm := if tm.threads.isEmpty then freshTeam la rings tm else tm
  { tm with status := .placed, core := c, parts, grans, gts := s.granuleStamps tm.gts grans, since := s.ns, expired := none, yielded := false, saving := false,
            waitSince := none, runnable := none, age := some (tm.age.getD s.clk) }

theorem State.settleOn_seated (s : State) (i : Nat) (tm : Team) (la : Launch) (c : Nat) (parts : List Nat) {r : State × List Ring}
    (hr : (if tm.threads.isEmpty then s.newRings (dieOf c) la else (s, [])) = r) :
    (s.settleOn i tm la c parts).team i = (r.1.team i).map (r.1.seated la r.2 c parts) := by
  rw [← State.modTeam_team_same]
  unfold State.settleOn
  rw [hr]
  simp only []
  split <;> rfl

/-- A team that keeps its threads, or had none, takes its place. -/
theorem State.seated_tookPlace (s : State) (la : Launch) (rings : List Ring) (c : Nat) (parts : List Nat) {tm tr : Team} (h : tr.threads = tm.threads) :
    TookPlace s.ns la tm (s.seated la rings c parts tr) c parts := by
  refine ⟨rfl, rfl, rfl, rfl, rfl, fun hold => ?_, fun hnew => ?_⟩
  · simp [State.seated, h, hold]
  · have hempty : tr.threads.isEmpty = true := by simp [h, hnew]
    simp only [State.seated, hempty, if_true]
    exact ⟨rfl, fun k => freshTeam_args la rings tr⟩

/-- R33, R46: the team on its core. -/
theorem State.settleOn_team {s : State} {i : Nat} {tm : Team} (htm : s.team i = some tm) (la : Launch) (c : Nat) (parts : List Nat) :
    ∃ tn, (s.settleOn i tm la c parts).team i = some tn ∧ TookPlace s.ns la tm tn c parts := by
  by_cases hempty : tm.threads = []
  · have hsurveyed := Surveyed.newRings s (dieOf c) la
    obtain ⟨hclk, -, -⟩ := hsurveyed
    obtain ⟨tr, htr, _, _, _, _, ths, rfl, hlen, -⟩ := (Surveyed.newRings s (dieOf c) la).team htm
    have hns : (s.newRings (dieOf c) la).1.ns = s.ns := congrArg (· * 5 / 12) hclk
    rw [State.settleOn_seated s i tm la c parts (if_pos (by simp [hempty])), htr, ← hns]
    refine ⟨_, rfl, State.seated_tookPlace _ la _ c parts ?_⟩
    simpa [hempty] using hlen
  · rw [State.settleOn_seated s i tm la c parts (r := (s, [])) (if_neg (by simpa using hempty)), htm]
    exact ⟨_, rfl, State.seated_tookPlace s la _ c parts rfl⟩

/-- R49, R57: the next team of its slice, offered a core that has room for it, is settled there. -/
theorem State.offerTeam_settles {s : State} {i : Nat} {tm : Team} (htm : s.team i = some tm) {c : Nat} {ps : List Nat}
    (hsize : s.setSize tm = 1) (hnext : s.grantCores.nextOf tm.launch tm.slice = some i) (hlaunch : tm.launch < s.launches.length)
    (hroom : s.grantCores.chooseCores (s.launchOf tm) (tm.launch, tm.slice) 1
      (freedFirst (s.launchOf tm) tm (s.grantCores.offerOrder tm.launch (s.launchOf tm) tm)) = some [(c, ps)]) :
    ∃ tn, (s.offerTeam i).team i = some tn ∧ TookPlace s.ns (s.launchOf tm) tm tn c ps := by
  have hcores := OnlyCores.grantCores s
  have hclk := hcores.clk
  have hteam : s.grantCores.team i = some tm := by rw [hcores.team, htm]
  have hla : s.grantCores.launches[tm.launch]? = some (s.launchOf tm) := by rw [hcores.launches, State.launches_launchOf hlaunch]
  have hunit : s.grantCores.unit i = [i] := State.unit_alone hteam (by rw [State.setSize_congr hcores.launches, hsize])
  unfold State.offerTeam
  simp only [hteam, hla, hnext, ne_eq, not_true_eq_false, if_false, hunit, List.length_singleton, hroom, State.settleUnit, State.modLaunch_team]
  generalize s.grantCores = g at *
  have hbody : ∀ f : Launch → Launch, ((g.modLaunch tm.launch f).launches[tm.launch]?).getD (s.launchOf tm) = f (s.launchOf tm) := fun f => by
    simp [State.modLaunch, hla]
  rw [hbody]
  obtain ⟨tn, htn, hplace⟩ := State.settleOn_team (s := g.modLaunch tm.launch _) (i := i) (tm := tm) hteam _ c ps
  refine ⟨tn, htn, ?_⟩
  have hns (f : Launch → Launch) : (g.modLaunch tm.launch f).ns = s.ns := congrArg (· * 5 / 12) hclk
  rw [hns] at hplace
  exact hplace

end Sys2Proof.Machine
end

section
/-!
SUPPORT. The quantum, the save, the restart and the retirement of a team that is a unit of its own (O42): R54-R56, R60, R62, R67, R286, R353, R419.
-/
namespace Sys2Proof.Machine

/-- R55: a placed unit of one team is chosen to be saved. -/
theorem State.beginSave_alone {s : State} {i : Nat} {tm : Team} (htm : s.team i = some tm) (hunit : s.unit i = [i]) (hplaced : tm.status = .placed) :
    (s.beginSave i).team i = some { tm with saving := true } ∧ Instr.teamSave i ∈ (s.beginSave i).agenda := by
  unfold State.beginSave
  simp only [hunit, List.foldl_cons, List.foldl_nil, State.later_team, State.modTeam_team_same, htm, Option.map_some, hplaced, if_true, true_and]
  exact List.mem_append_right _ (List.mem_singleton_self _)

/-- R50, R67: leaving its place leaves a team all but its granules. -/
theorem State.leaveCore_team {s : State} {i : Nat} {tx : Team} (htx : s.team i = some tx) (tm : Team) : (s.leaveCore i tm).team i = some { tx with grans := [] } := by
  unfold State.leaveCore
  have hcores : OnlyCores s ((tm.tids.foldl (fun (s : State) k => s.leavePool { team := i, tid := k }) s).returnGranules tm) :=
    .trans (.foldl (fun s k => .leavePool s _) _ _) (.returnGranules _ _)
  simp only [State.modLaunch_team, State.modTeam_team_same, hcores.team, htx, Option.map_some]

/-- A save keeps the launches' bodies: it leaves the launches but for the cores they have freed. -/
theorem State.leaveCore_body (s : State) (i : Nat) (tm tx : Team) : ((s.leaveCore i tm).launchOf tx).body = (s.launchOf tx).body := by
  unfold State.leaveCore State.launchOf
  have hcores : OnlyCores s ((tm.tids.foldl (fun (s : State) k => s.leavePool { team := i, tid := k }) s).returnGranules tm) :=
    .trans (.foldl (fun s k => .leavePool s _) _ _) (.returnGranules _ _)
  simp only [State.modLaunch, State.modTeam_launches, hcores.launches, List.getElem?_modify]
  cases s.launches[tx.launch]? <;> simp
  split <;> rfl

/-- R55, R60: what the save of a team makes of it. -/
theorem State.saveTeam_team {s : State} {i : Nat} {tm : Team} (htm : s.team i = some tm) :
    ∃ tn, (s.saveTeam i).team i = some tn ∧ tn.status = .saved ∧ tn.rser = tm.rser + 1 ∧ tn.parts = [] ∧ tn.saving = false
      ∧ tn.threads = tm.threads ∧ tn.s = tm.s ∧ tn.scratch = tm.scratch := by
  have hflush : (tm.alive.foldl (fun (s : State) k => s.flushPoint { team := i, tid := k }) s).team i = some tm :=
    List.foldlRecOn (motive := fun (u : State) => u.team i = some tm) _ _ htm fun u hu k _ => by rw [State.team, State.flushPoint_teams]; exact hu
  unfold State.saveTeam
  simp only [htm, State.modTeam_team_same, State.leaveCore_team hflush, Option.map_some]
  exact ⟨_, rfl, rfl, rfl, rfl, rfl, rfl, rfl, rfl⟩

/-- R55, R419: the team is saved where no word that the save reads is spoilt, or its core has not been retired. -/
theorem State.saveOne_saves {s : State} {i : Nat} {tm : Team} (htm : s.team i = some tm)
    (hsound : tm.spoilt = none ∨ (s.retired.getLsbD tm.core = false ∧ ((s.launchOf tm).body.pair = true → s.retired.getLsbD (tm.core + 1) = false))) :
    s.saveOne i = s.saveTeam i := by
  unfold State.saveOne
  have hnone : (if s.retired.getLsbD tm.core || ((s.launchOf tm).body.pair && s.retired.getLsbD (tm.core + 1)) then tm.spoilt else none) = none := by
    rcases hsound with hspoilt | ⟨hcore, hpair⟩
    · simp [hspoilt]
    · cases hp : (s.launchOf tm).body.pair <;> simp_all
  simp only [htm, hnone]

/-! ### The end of a team (R353) -/

/-- What a thread no longer takes part in leaves the teams in place. -/
theorem State.forget_team {s : State} {i : Nat} {tx : Team} (htx : s.team i = some tx) (k : Nat) :
    ∃ l, (s.forget { team := i, tid := k }).team i = some { tx with threads := l } := by
  unfold State.forget
  refine ⟨tx.threads.modify k fun th => { th with wait := none }, ?_⟩
  rw [State.modThread_team_same]
  exact congrArg _ (((OnlyCores.leavePool s _).team i).trans htx)

theorem State.forgets_team {s : State} {i : Nat} {tx : Team} (htx : s.team i = some tx) (l : List Nat) :
    ∃ ths, (l.foldl (fun (s : State) k => s.forget { team := i, tid := k }) s).team i = some { tx with threads := ths } :=
  List.foldlRecOn (motive := fun (u : State) => ∃ ths, u.team i = some { tx with threads := ths }) _ _ ⟨_, htx⟩ fun _ ⟨_, hu⟩ k _ =>
    State.forget_team hu k

theorem State.forgets_launches (s : State) (i : Nat) (l : List Nat) :
    (l.foldl (fun (s : State) k => s.forget { team := i, tid := k }) s).launches = s.launches :=
  List.foldlRecOn (motive := fun (u : State) => u.launches = s.launches) _ _ rfl fun u hu k _ => by
    simp only [State.forget, State.modThread_launches, (OnlyCores.leavePool u _).launches, hu]

/-- Of threads that have all exited none is alive. -/
theorem Team.alive_exited {tm : Team} (h : ∀ th ∈ tm.threads, th.exited = true) : tm.alive = [] := by
  unfold Team.alive
  refine List.filter_eq_nil_iff.2 fun k _ => ?_
  cases hk : tm.threads[k]? with
  | none => simp
  | some th => simp [h th (List.mem_of_getElem? hk)]

/-- R353: a team that ends has no thread left. -/
theorem State.endTeam_alive {s : State} {i : Nat} {tm : Team} (htm : s.team i = some tm) (hstatus : tm.status ≠ .retired) :
    ∃ tn, (s.endTeam i).team i = some tn ∧ tn.alive = [] := by
  have hreds : (s.discardReds i).team i = some tm := ((OnlyCores.discardReds s i).team i).trans htm
  obtain ⟨ths, hty⟩ := State.forgets_team hreds tm.tids
  unfold State.endTeam
  simp only [htm, hstatus, if_false]
  split
  · simp only [State.later_team, State.modTeam_team_same, hty, Option.map_some]
    exact ⟨_, rfl, Team.alive_exited (by simp)⟩
  · simp only [State.later_team, State.modTeam_team_same, hty, Option.map_some]
    exact ⟨_, rfl, Team.alive_exited (by simp)⟩

/-- R419: a team whose save reads an uncorrectable error has no thread left. -/
theorem State.endSpoilt_alive {s : State} {i : Nat} {tm : Team} (htm : s.team i = some tm) (hstatus : tm.status = .placed) (k : Nat) :
    ∃ tn, (s.endSpoilt i tm k).team i = some tn ∧ tn.alive = [] := by
  unfold State.endSpoilt
  obtain ⟨tx, htx, _, _, _, _, _, rfl, -⟩ := (Surveyed.of_recorded (Recorded.record s (tm.asid s) (s.threadEvent { team := i, tid := k } 4
    (unhandledValue { code := 0x46, aux := 0 } (match tm.threads[k]? with | some th => th.inTrap | none => false)
      (((s.thread { team := i, tid := k }).map (·.pc)).getD 0))))).team htm
  exact State.endTeam_alive htx (by simp [hstatus])

/-! ### The units -/

section
variable {s : State} {i : Nat} {tm : Team} (htm : s.team i = some tm) (hunit : s.unit i = [i])
include htm hunit

theorem State.idemUnit_alone : s.idemUnit i = tm.idem := by
  unfold State.idemUnit
  simp [hunit, htm]

/-- R55: a unit of one team, with threads and no result due, that may not be restarted is saved. -/
theorem State.saveUnit_alone (hplaced : tm.status = .placed) (hsaving : tm.saving = true) (halive : tm.alive ≠ []) (hidem : tm.idem = false)
    (hdue : s.resultsDue i = false) : s.saveUnit i = s.tick.saveOne i := by
  have hended : s.ended i = false := by simp [State.ended, htm, halive]
  unfold State.saveUnit
  simp [htm, hplaced, hsaving, hunit, hended, hdue, State.idemUnit_alone htm hunit, hidem]

end

/-- R62: what the restart of a team that has no page makes of it. -/
theorem State.restartOne_team {s : State} {i : Nat} {tm : Team} (htm : s.team i = some tm) (hpage : (s.launchOf tm).body.pageGrid = false) :
    ∃ tn, (s.restartOne i).team i = some tn ∧ tn.status = .unplaced ∧ tn.threads = [] ∧ tn.rser = tm.rser + 1 ∧ (s.restartOne i).mem = s.mem := by
  have hreds : (s.discardReds i).team i = some tm := ((OnlyCores.discardReds s i).team i).trans htm
  have hlaunches := (State.forgets_launches (s.discardReds i) i tm.tids).trans (OnlyCores.discardReds s i).launches
  obtain ⟨ths, hty⟩ := State.forgets_team hreds tm.tids
  have hmem : (tm.tids.foldl (fun (s : State) k => s.forget { team := i, tid := k }) (s.discardReds i)).mem = s.mem := by simp
  unfold State.restartOne
  simp only [htm]
  generalize tm.tids.foldl (fun (s : State) k => s.forget { team := i, tid := k }) (s.discardReds i) = u at *
  have hleft : ((u.leaveCore i tm).dropSent i).team i = some { tm with threads := ths, grans := [] } := State.leaveCore_team hty tm
  have hgrid : (((u.leaveCore i tm).dropSent i).launchOf tm).body.pageGrid = false := by
    change ((u.leaveCore i tm).launchOf tm).body.pageGrid = false
    rw [State.leaveCore_body, State.launchOf_congr hlaunches, hpage]
  simp only [hgrid, Bool.false_eq_true, if_false, State.modTeam_team_same, hleft, Option.map_some, State.modTeam_mem, State.dropSent_mem, State.leaveCore_mem, hmem]
  exact ⟨_, rfl, rfl, rfl, rfl, trivial⟩

/-- R67: a placed team whose threads have exited, with no operation of its own, retires. -/
theorem State.retireTeam_retires {s : State} {i : Nat} {tm : Team} (htm : s.team i = some tm) (hplaced : tm.status = .placed) (hwave : tm.wave = none)
    (hthreads : tm.threads ≠ []) (halive : tm.alive = []) (hops : ∀ o ∈ s.ops, o.t.team ≠ i) :
    ∃ tn, (s.retireTeam i).team i = some tn ∧ tn.status = .retired ∧ Instr.launchComplete tm.launch ∈ (s.retireTeam i).agenda ∧ (s.retireTeam i).mem = s.mem := by
  unfold State.retireTeam
  simp only [htm, hplaced, hwave, halive]
  rw [if_neg (by simpa [hthreads] using hops)]
  simp only [State.later_team, State.modTeam_team_same, State.leaveCore_team htm, Option.map_some, State.later_mem, State.modTeam_mem, State.leaveCore_mem]
  exact ⟨_, rfl, rfl, by simp [State.later], trivial⟩

end Sys2Proof.Machine
end

section
/-!
SUPPORT. The release scope of a launch and its completion (O42): what the close of its regions leaves, and which markers and flushes it waits for (R67, R123, R127, R218, R315).
-/
namespace Sys2Proof.Machine

theorem mem_addNat_iff (l : List Nat) (j k : Nat) : j ∈ addNat l k ↔ j ∈ l ∨ j = k := by
  induction l with
  | nil => simp [addNat]
  | cons a l ih =>
    unfold addNat
    split
    · grind
    split <;> grind

theorem mem_foldl_addNat {α : Type} (f : α → Nat) (l : List α) (acc : List Nat) (j : Nat) :
    j ∈ l.foldl (fun m a => addNat m (f a)) acc ↔ j ∈ acc ∨ ∃ a ∈ l, f a = j := by
  induction l generalizing acc with
  | nil => simp
  | cons a l ih =>
    rw [List.foldl_cons, ih, mem_addNat_iff]
    grind

/-! ### The close of regions (R215, R218) -/

/-- The launches, and the stores that a release waits for, stand. -/
def Unreleased (s t : State) : Prop := t.launches = s.launches ∧ t.fabSince = s.fabSince ∧ t.relaxed = s.relaxed

theorem Unreleased.refl (s : State) : Unreleased s s := ⟨rfl, rfl, rfl⟩

theorem Unreleased.trans {s t u : State} (h : Unreleased s t) (k : Unreleased t u) : Unreleased s u := by
  obtain ⟨hl, hf, hr⟩ := h
  obtain ⟨kl, kf, kr⟩ := k
  exact ⟨kl.trans hl, kf.trans hf, kr.trans hr⟩

theorem Unreleased.of_woken {s t : State} (h : Woken s t) : Unreleased s t := by
  obtain ⟨_, _, _, _, _, _, _, _, rfl, -⟩ := h
  exact ⟨rfl, rfl, rfl⟩

theorem Unreleased.of_atHome {s t : State} (h : AtHome s t) : Unreleased s t := by
  obtain ⟨_, _, _, _, _, _, rfl, -⟩ := h
  exact ⟨rfl, rfl, rfl⟩

theorem Unreleased.applyRed (s : State) (r : Contribution) : Unreleased s (s.applyRed r).1 := by
  unfold State.applyRed
  simp only []
  refine Unreleased.trans ?_ (.of_woken (Woken.evaluate ..))
  exact (Unreleased.of_atHome (.storeStamp ..)).trans ⟨rfl, rfl, rfl⟩

theorem Unreleased.foldl {α β : Type} {f : State × β → α → State × β} (hf : ∀ x a, Unreleased x.1 (f x a).1) (l : List α) (s : State) (b : β) :
    Unreleased s (l.foldl f (s, b)).1 :=
  List.foldlRecOn (motive := fun (x : State × β) => Unreleased s x.1) _ _ (.refl s) fun x hx a _ => hx.trans (hf x a)

theorem Unreleased.closeAt (s : State) (slice asid region : Nat) : Unreleased s (s.closeAt slice asid region).1 := by
  unfold State.closeAt State.applyReds
  simp only []
  refine Unreleased.trans ?_ (.foldl (fun x c => ?_) _ _ _)
  · exact ⟨rfl, rfl, rfl⟩
  · exact .applyRed ..

/-- R218: closing the regions of a launch leaves what its release waits for. -/
theorem Unreleased.closeLaunch (s : State) (k : Nat) : Unreleased s (s.closeLaunch k).1 := by
  unfold State.closeLaunch
  split
  · exact .refl s
  · refine .foldl (fun x region => ?_) _ _ _
    refine .foldl (fun y home => ?_) _ _ _
    exact .closeAt ..

/-! ### Markers and flushes (R123, R125, R315) -/

/-- R315: those that wait for markers already sent wait for these too. -/
theorem State.awaitMarkers_eq (s : State) (ids : List Nat) :
    ∃ teams, s.awaitMarkers ids = { s with launches := s.launches.map fun (la : Launch) => { la with closing := la.closing.map (closeWith ids) },
                                           queues := s.queues.map fun (q : Queue) => { q with closing := q.closing.map (closeWith ids) }, teams := teams } := by
  unfold State.awaitMarkers
  refine List.foldlRecOn (motive := fun (u : State) => ∃ teams, u = { s with launches := _, queues := _, teams := teams }) _ _ ⟨s.teams, rfl⟩ fun u hu t _ => ?_
  obtain ⟨teams, rfl⟩ := hu
  split
  · exact ⟨_, rfl⟩
  · exact ⟨_, rfl⟩

theorem State.noteUses_eq (f : Nat → Nat) (bay n : Nat) (l : List Nat) (s : State) :
    ∃ act, l.foldl (fun (s : State) p => s.noteUse (f p) bay n) s = { s with activity := act } := by
  refine List.foldlRecOn (motive := fun (u : State) => ∃ act, u = { s with activity := act }) _ _ ⟨s.activity, rfl⟩ fun u hu p _ => ?_
  obtain ⟨act, rfl⟩ := hu
  exact ⟨_, rfl⟩

/-- What the release scope of a launch has made the state: the launch stands, and the markers and flushes of what it had to release are on their way. -/
def Released (s t : State) (k : Nat) (l : Launch) (fab sys : List Nat) (flush : Bool) : Prop :=
  t.launches[k]? = some l ∧ (∀ p ∈ s.fabSince, ∃ m ∈ t.markers, m.port = p.1 ∧ m.id ∈ fab) ∧ (flush = true → ∀ p ∈ s.relaxed, p.port ∈ sys)

/-- R315: a marker leaves on every port that has carried a store since its last one. -/
theorem State.sendMarkers_fresh (s : State) (bay : Nat) {k : Nat} {l : Launch} (hl : s.launches[k]? = some l) (hclosing : l.closing = none) :
    ∃ fresh : List Marker, (s.sendMarkers bay).markers = s.markers ++ fresh ∧ (∀ p ∈ s.fabSince, ∃ m ∈ fresh, m.port = p.1)
      ∧ (s.sendMarkers bay).relaxed = s.relaxed ∧ (s.sendMarkers bay).launches[k]? = some l := by
  unfold State.sendMarkers
  extract_lets ports fresh s1
  have hports : ∀ p ∈ s.fabSince, p.1 ∈ ports := fun p hp => (mem_foldl_addNat (·.1) s.fabSince [] p.1).2 (.inr ⟨p, hp, rfl⟩)
  have hfresh : ∀ j ∈ ports, ∃ m ∈ fresh, m.port = j := fun j hj => by
    obtain ⟨n, hn, hget⟩ := List.mem_iff_getElem.1 hj
    refine ⟨_, List.mem_map.2 ⟨n, ?_, rfl⟩, ?_⟩
    · exact mem_numbers.2 (by omega)
    · simp [hn, hget]
  obtain ⟨act, hs1⟩ : ∃ act, s1 = { s with activity := act } := State.noteUses_eq ..
  split
  · next hnone =>
    refine ⟨[], by simp [hs1], fun p hp => ?_, by rw [hs1], by rw [hs1]; exact hl⟩
    have := hports p hp
    simp [List.isEmpty_iff.1 hnone] at this
  · simp only [State.later_markers, State.later_relaxed, State.later_launches]
    obtain ⟨teams, hawait⟩ := State.awaitMarkers_eq
      { s1 with fabSince := [], fabLost := [], markers := s1.markers ++ fresh, nextFab := s1.nextFab + ports.length } (fresh.map (·.id))
    rw [hawait, hs1]
    refine ⟨fresh, rfl, fun p hp => hfresh _ (hports p hp), rfl, ?_⟩
    simp only [List.getElem?_map, hl, Option.map_some, hclosing, Option.map_none]
    rw [← hclosing]

/-- R125: a flush is awaited on every port with relaxed stores. -/
theorem State.sendFlushes_ports (s : State) : ∀ p ∈ s.relaxed, p.port ∈ s.sendFlushes.2 := by
  intro p hp
  unfold State.sendFlushes
  refine (mem_foldl_addNat id _ [] p.port).2 (.inr ⟨p.port, List.mem_append_left _ ?_, rfl⟩)
  exact (mem_foldl_addNat _ s.relaxed [] p.port).2 (.inr ⟨p, hp, rfl⟩)

/-- R123, R315: a release of the fabric or of the system has its markers, and its flushes, on their way. -/
theorem State.startFence_released (s : State) (bay : Nat) (sys : Bool) (mine : Marker → Bool) {k : Nat} {l : Launch} (hl : s.launches[k]? = some l)
    (hclosing : l.closing = none) : Released s (s.startFence bay sys mine).1 k l (s.startFence bay sys mine).2.1 (s.startFence bay sys mine).2.2 sys := by
  obtain ⟨fresh, hmarkers, hports, hrelaxed, hlaunch⟩ := State.sendMarkers_fresh s bay hl hclosing
  have hids : ∀ p ∈ s.fabSince, ∃ m ∈ (s.sendMarkers bay).markers,
      m.port = p.1 ∧ m.id ∈ (s.markers.filter mine).map (·.id) ++ ((s.sendMarkers bay).markers.drop s.markers.length).map (·.id) := fun p hp => by
    obtain ⟨m, hm, hport⟩ := hports p hp
    refine ⟨m, by simp [hmarkers, hm], hport, List.mem_append_right _ ?_⟩
    simp only [hmarkers, List.drop_left]
    exact List.mem_map_of_mem hm
  unfold State.startFence
  simp only []
  split
  · next hsys => exact ⟨hlaunch, hids, fun _ p hp => State.sendFlushes_ports _ p (by rw [hrelaxed]; exact hp)⟩
  · next hsys => exact ⟨hlaunch, hids, fun h => absurd h hsys⟩

/-! ### Completion (R67, R74, R127) -/

/-- R74, R127: a launch that ends is complete and holds no die. -/
theorem State.endLaunch_complete {s : State} {k : Nat} {l : Launch} (hl : s.launches[k]? = some l) (la : Launch) :
    ∃ l', (s.endLaunch k la).launches[k]? = some l' ∧ l'.complete = true ∧ l'.dies = [] := by
  have hqueue : (s.joinQueue la).launches = s.launches := by
    unfold State.joinQueue
    split <;> rfl
  unfold State.endLaunch State.freeLaunch
  simp only [State.modLaunch, List.getElem?_modify, hqueue, hl, if_true, Option.map_some, Functor.map]
  exact ⟨_, rfl, rfl, rfl⟩

/-- What the completion of a launch whose teams have retired makes of it, as the obligation says it. -/
def Completes (s t : State) (k : Nat) (l : Launch) : Prop :=
  ∃ l', t.launches[k]? = some l'
    ∧ (l.closing = some ([], []) ∨ (l.closing = none ∧ l.rel < 2) → l'.complete = true ∧ l'.dies = [])
    ∧ (l.closing = none → 2 ≤ l.rel → l'.complete = true ∨ ∃ fab sys, l'.closing = some (fab, sys) ∧ (fab ≠ [] ∨ sys ≠ []))
    ∧ (l.closing = none → 2 ≤ l.rel → ∀ p ∈ s.fabSince, ∃ fab sys, l'.closing = some (fab, sys) ∧ ∃ m ∈ t.markers, m.port = p.1 ∧ m.id ∈ fab)
    ∧ (l.closing = none → l.rel = 3 → ∀ p ∈ s.relaxed, ∃ fab sys, l'.closing = some (fab, sys) ∧ p.port ∈ sys)

/-- R127: a launch with its regions closed completes once its release scope has no marker and no flush to wait for. -/
theorem State.release_completes {s u : State} {k : Nat} {l la : Launch} (hla : u.launches[k]? = some la) (hclosing : la.closing = none)
    (hsame : l.closing = none ∧ la.rel = l.rel) (hsince : u.fabSince = s.fabSince) (hrelaxed : u.relaxed = s.relaxed) (asid : Nat) (mine : Marker → Bool) :
    let y := u.releaseScope asid l.rel mine
    Completes s (if y.2.1.isEmpty && y.2.2.isEmpty then y.1.endLaunch k la else y.1.modLaunch k fun l => { l with closing := some y.2 }) k l := by
  obtain ⟨hnone, hrel⟩ := hsame
  unfold State.releaseScope
  by_cases hscope : 2 ≤ l.rel
  · obtain ⟨hlaunch, hfab, hsys⟩ := State.startFence_released u (u.bayOfAsid asid) (l.rel = 3) mine hla hclosing
    simp only [hscope, if_true]
    generalize u.startFence (u.bayOfAsid asid) (l.rel = 3) mine = y at *
    obtain ⟨t, fab, sys⟩ := y
    rw [hsince] at hfab
    rw [hrelaxed] at hsys
    split
    · next hempty =>
      obtain ⟨rfl, rfl⟩ : fab = [] ∧ sys = [] := by simpa using hempty
      obtain ⟨l', hl', hc, hd⟩ := State.endLaunch_complete hlaunch la
      refine ⟨l', hl', fun _ => ⟨hc, hd⟩, fun _ _ => .inl hc, fun _ _ p hp => ?_, fun _ h3 p hp => ?_⟩
      · obtain ⟨m, -, -, hm⟩ := hfab p hp
        simp at hm
      · simpa using hsys (by simpa using h3) p hp
    · next hwaits =>
      refine ⟨{ la with closing := some (fab, sys) }, by simp [State.modLaunch, hlaunch], ?_, fun _ _ => .inr ⟨fab, sys, rfl, ?_⟩, fun _ _ p hp => ⟨fab, sys, rfl, hfab p hp⟩,
        fun _ h3 p hp => ⟨fab, sys, rfl, hsys (by simpa using h3) p hp⟩⟩
      · rintro (h | ⟨-, h⟩)
        · simp [hnone] at h
        · omega
      · by_contra hboth
        simp_all
  · simp only [hscope, if_false]
    obtain ⟨l', hl', hc, hd⟩ := State.endLaunch_complete hla la
    exact ⟨l', hl', fun _ => ⟨hc, hd⟩, fun _ h => absurd h hscope, fun _ h => absurd h hscope, fun _ h => absurd (h ▸ by omega) hscope⟩

/-- R67, R127, R218. -/
theorem State.completeLaunch_completes {s : State} {k : Nat} {l : Launch} (hl : s.launches[k]? = some l) (hcomplete : l.complete = false)
    (hretired : ∀ j ∈ l.teams, ∀ x, s.team j = some x → x.status = .retired) : Completes s (s.completeLaunch k) k l := by
  have hteams : (l.teams.any fun i => match s.team i with | some tm => tm.status ≠ .retired | none => false) = false := by
    refine List.any_eq_false.2 fun j hj => ?_
    split
    · next x hx => simp [hretired j hj x hx]
    · simp
  unfold State.completeLaunch
  simp only [hl]
  rw [if_neg (by rw [hcomplete, Bool.false_or, Bool.not_eq_true]; exact hteams)]
  split
  · next hdone =>
    obtain ⟨l', hl', hc, hd⟩ := State.endLaunch_complete hl l
    exact ⟨l', hl', fun _ => ⟨hc, hd⟩, by simp [hdone], by simp [hdone], by simp [hdone]⟩
  · next x hne hsome =>
    have hwaits : ¬(l.closing = some ([], []) ∨ (l.closing = none ∧ l.rel < 2)) := by
      rintro (h | ⟨h, -⟩)
      · exact hne (Option.some.inj (hsome.symm.trans h))
      · simp [hsome] at h
    exact ⟨l, hl, fun h => absurd h hwaits, by simp [hsome], by simp [hsome], by simp [hsome]⟩
  · next hnone =>
    obtain ⟨hlaunches, hsince, hrelaxed⟩ := Unreleased.closeLaunch s k
    have hclosed : ((s.closeLaunch k).1.modLaunch k fun l => { l with closePts := (s.closeLaunch k).2 }).launches[k]? = some { l with closePts := (s.closeLaunch k).2 } := by
      simp [State.modLaunch, hlaunches, hl]
    exact State.release_completes hclosed hnone ⟨hnone, rfl⟩ hsince hrelaxed l.asid _


end Sys2Proof.Machine
end

section
/-!
SUPPORT. The exhaustion of a slice (R285, R286, R399), and O42: the events of placement, quantum, save, retirement and completion.
-/
namespace Sys2Proof.Machine

/-- A change of a team that is placed is a change of the teams and of the agenda alone. -/
theorem State.beginSaves_eq (l : List Nat) (s : State) :
    ∃ tms ag, l.foldl (fun (s : State) i => match s.team i with | some tm => if tm.saving then s else s.beginSave i | none => s) s
      = { s with teams := tms, agenda := s.agenda ++ ag } :=
  saves_spec _ (fun s i => by
    split
    · split
      · exact ⟨s.teams, [], by simp⟩
      · exact beginSave_spec s i
    · exact ⟨s.teams, [], by simp⟩) l s

/-- R286: a core that a slice has given up. -/
def State.dropHolder (x : Nat × Nat) (s : State) (c : Nat) : State := if (s.core c).holder = some x then s.modCore c fun k => { k with holder := none } else s

theorem OnlyCores.dropHolder (x : Nat × Nat) (s : State) (c : Nat) : OnlyCores s (s.dropHolder x c) := by
  unfold State.dropHolder
  split
  · exact .modCore ..
  · exact .refl s

/-- A core that the slice does not hold, it does not hold once it has given up another; and the one given up it does not hold. -/
theorem State.dropHolder_holder (x : Nat × Nat) (s : State) (c d : Nat) (h : (s.core d).holder ≠ some x ∨ d = c) : ((s.dropHolder x c).core d).holder ≠ some x := by
  unfold State.dropHolder
  split
  · rw [core_modCore]
    split
    · simp
    · exact h.resolve_right ‹_›
  · next hc =>
    rcases h with h | rfl
    · exact h
    · exact hc

/-- R286: of the cores that a slice gives up one after another it holds none. -/
theorem State.dropHolders_holder (x : Nat × Nat) (l : List Nat) (s : State) (d : Nat) (h : (s.core d).holder ≠ some x ∨ d ∈ l) :
    ((l.foldl (State.dropHolder x) s).core d).holder ≠ some x := by
  induction l generalizing s with
  | nil => simpa using h
  | cons c l ih =>
    refine ih _ ?_
    by_cases hd : d ∈ l
    · exact .inr hd
    · refine .inl (State.dropHolder_holder x s c d ?_)
      simpa [hd] using h

/-- R399: the slice is told to be exhausted. -/
theorem State.tellBudget_told {s : State} {k : Nat} {l : Launch} (hl : s.launches[k]? = some l) (j : Nat) :
    ∃ l', (s.tellBudget k j).launches[k]? = some l' ∧ l'.budget j = { l.budget j with told := true }
      ∧ ∀ c, ((s.tellBudget k j).core c).holder = (s.core c).holder := by
  unfold State.tellBudget
  simp only [hl]
  set u := s.modLaunch k fun la => { la with budgets := SMap.modify { left := la.body.budget } la.budgets j fun b => { b with told := true } } with hu
  have hrecord := Recorded.record u l.asid (firmwareEvent 11 l.asid (BitVec.ofNat 64 (l.tag + j * 2 ^ 32)))
  obtain ⟨-, -, -, -, -, hcores⟩ := hrecord.phase
  have hlaunches : (u.record l.asid (firmwareEvent 11 l.asid (BitVec.ofNat 64 (l.tag + j * 2 ^ 32)))).launches = u.launches := by
    obtain ⟨_, _, _, _, _, _, _, _, _, _, _, _, _, ⟨_, _, _, _, _, _, _, _, h, -⟩, -⟩ := hrecord
    rw [h]
  refine ⟨{ l with budgets := SMap.modify { left := l.body.budget } l.budgets j fun b => { b with told := true } }, ?_, ?_, fun c => ?_⟩
  · rw [hlaunches, hu]
    simp [State.modLaunch, hl]
  · simp [Launch.budget]
  · exact (hcores c).1

/-- R285, R286, R399: a slice whose budget is gone is exhausted. -/
theorem State.exhaust_exhausted {s : State} {k j : Nat} {l : Launch} (hl : s.launches[k]? = some l) (hcomplete : l.complete = false) (hbudget : l.body.budget ≠ 0)
    (hleft : (l.budget j).left = 0) (hfresh : (l.budget j).exhausted = false) (hdrain : s.draining l.asid = false) :
    ∃ l', (s.exhaust k j).launches[k]? = some l' ∧ (l'.budget j).exhausted = true ∧ (l'.budget j).told = true
      ∧ ∀ c, ((s.exhaust k j).core c).holder ≠ some (k, j) ∨ 256 ≤ c := by
  unfold State.exhaust
  simp only [hl]
  rw [if_neg (by simp [hcomplete, hbudget, hleft, hfresh])]
  set u := s.modLaunch k fun la => { la with budgets := SMap.modify { left := la.body.budget } la.budgets j fun b => { b with exhausted := true } } with hu
  have hlu : u.launches[k]? = some { l with budgets := SMap.modify { left := l.body.budget } l.budgets j fun b => { b with exhausted := true } } := by
    simp [hu, State.modLaunch, hl]
  have hdu : u.draining l.asid = false := hdrain
  rw [if_neg (by simp [hdu])]
  generalize List.filter _ l.teams = mine
  generalize hv : List.foldl _ u mine = v
  obtain ⟨tms, ag, rfl⟩ : ∃ tms ag, v = { u with teams := tms, agenda := u.agenda ++ ag } := hv ▸ State.beginSaves_eq mine u
  have hcores := OnlyCores.foldl (OnlyCores.dropHolder (k, j)) (numbers 0 256) { u with teams := tms, agenda := u.agenda ++ ag }
  obtain ⟨l', hl', htold, hholders⟩ := State.tellBudget_told (s := (numbers 0 256).foldl (State.dropHolder (k, j)) { u with teams := tms, agenda := u.agenda ++ ag })
    (k := k) (by rw [hcores.launches]; exact hlu) j
  refine ⟨l', hl', by rw [htold]; simp [Launch.budget], by rw [htold], fun c => ?_⟩
  by_cases hc : 256 ≤ c
  · exact .inr hc
  · refine .inl ?_
    have := State.dropHolders_holder (k, j) (numbers 0 256) { u with teams := tms, agenda := u.agenda ++ ag } c (.inr (mem_numbers.2 ⟨by omega, by omega⟩))
    rw [← hholders c] at this
    exact this

/-! ## Obligations.ResidenceEvents -/

/-- Settles O42, event by event: what a place makes of a team that takes it, what a save, a restart, an end or a retirement makes of a unit of one team, and what a
completion or an exhaustion makes of a launch. -/
theorem residenceEvents : Obligations.ResidenceEvents := by
  unfold Obligations.ResidenceEvents
  intro s i tm htm la quantum offered
  have hoffered : ∀ event, exec event s = .next (s.offerTeam i) → offered event := by
    intro event hexec c ps hsize hnext hlaunch hroom
    obtain ⟨tn, htn, hplace⟩ := State.offerTeam_settles htm hsize hnext hlaunch hroom
    exact ⟨_, tn, hexec, htn, hplace⟩
  refine ⟨hoffered _ rfl, hoffered _ rfl, ?waiting, ?quantum, ?save, ?spoilt, ?restart, ?retire, ?complete, ?exhausted⟩
  case waiting =>
    intro w hsize hw hplaced hwave hsaving hidle hquantum
    obtain ⟨hteam, hsave⟩ := State.beginSave_alone htm (State.unit_alone htm hsize) hplaced
    refine ⟨s.beginSave i, _, ?_, hteam, rfl, hsave, State.beginSave_mem s i⟩
    change execAllWaitingQuantum i s = _
    have hns : w + (s.launchOf tm).body.quantumNs ≤ s.ns := hquantum
    simp [execAllWaitingQuantum, htm, hw, hplaced, hwave, hsaving, hidle, hns]
  case quantum =>
    intro hplaced hwave hquantum hdrain
    refine ⟨s.modTeam i fun tm => { tm with expired := some (tm.expired.getD (tm.since + (s.launchOf tm).body.quantumNs)) }, ?_, ?_, rfl⟩
    · change execQuantumExpiry i s = _
      have hns : tm.since + (s.launchOf tm).body.quantumNs ≤ s.ns := hquantum
      unfold execQuantumExpiry
      simp only [htm]
      rw [if_pos (by simp [hplaced, hwave, hns])]
      refine congrArg Host.Outcome.next (if_neg ?_)
      change ¬(s.draining (tm.asid s) && !tm.saving) = true
      simp [hdrain]
    · rw [State.modTeam_team_same, htm]
      rfl
  case save =>
    intro hsize hplaced hsaving halive hidem hdue hsound
    obtain ⟨tn, htn, h⟩ := State.saveTeam_team (s := s.tick) htm
    have hsaved : exec (.teamSave i) s = .next (s.tick.saveTeam i) := by
      change Host.Outcome.next (s.saveUnit i) = _
      rw [State.saveUnit_alone htm (State.unit_alone htm hsize) hplaced hsaving halive hidem hdue, State.saveOne_saves (s := s.tick) htm hsound]
    obtain ⟨h1, h2, h3, h4, h5, h6, h7⟩ := h
    exact ⟨_, tn, hsaved, htn, h1, h2, h3, h4, h5, h6, h7, State.saveTeam_mem s.tick i⟩
  case spoilt =>
    intro k hsize hplaced hsaving halive hidem hdue hspoilt hretired
    obtain ⟨tn, htn, h⟩ := State.endSpoilt_alive (s := s.tick) htm hplaced k
    refine ⟨s.tick.endSpoilt i tm k, tn, ?_, htn, h⟩
    change Host.Outcome.next (s.saveUnit i) = _
    have hone : s.tick.saveOne i = s.tick.endSpoilt i tm k := by
      unfold State.saveOne
      simp [htm, hretired, hspoilt]
    rw [State.saveUnit_alone htm (State.unit_alone htm hsize) hplaced hsaving halive hidem hdue, hone]
  case restart =>
    intro hsize hplaced hsaving hidem hdue hkind
    have hkind' : (s.launchOf tm).body.kind = 0 := hkind
    obtain ⟨tn, htn, h1, h2, h3, h4⟩ := State.restartOne_team htm (by simp [LaunchBody.pageGrid, hkind'])
    refine ⟨s.restartOne i, tn, ?_, htn, h1, h2, h3, h4⟩
    change execTeamRestart i s = _
    have hunit := State.unit_alone htm hsize
    simp [execTeamRestart, htm, hplaced, hsaving, State.idemUnit_alone htm hunit, hidem, hunit, hdue]
  case retire =>
    intro hplaced hwave hthreads halive hops
    obtain ⟨tn, htn, h⟩ := State.retireTeam_retires htm hplaced hwave hthreads halive hops
    exact ⟨_, tn, rfl, htn, h⟩
  case complete =>
    intro k l hl hcomplete hretired
    obtain ⟨l', h⟩ := State.completeLaunch_completes hl hcomplete hretired
    exact ⟨_, l', rfl, h⟩
  case exhausted =>
    intro k j l hl hcomplete hbudget hleft hfresh hdrain
    obtain ⟨l', h⟩ := State.exhaust_exhausted hl hcomplete hbudget hleft hfresh hdrain
    exact ⟨_, l', rfl, h⟩

end Sys2Proof.Machine
end

section
/-!
SUPPORT. The choice of the pickers (R38-R42; O41): the ready threads of a partition as candidates, the launch selected, and what the groups hold.
-/
namespace Sys2Proof.Machine

/-! ### Lists -/

theorem insertBy_perm {α : Type} (le : α → α → Bool) (x : α) (l : List α) : (insertBy le x l).Perm (x :: l) := by
  induction l with
  | nil => exact .refl _
  | cons y l ih =>
    unfold insertBy
    split
    · exact .refl _
    · exact (ih.cons y).trans (.swap x y l)

theorem sortBy_perm {α : Type} (le : α → α → Bool) (l : List α) : (sortBy le l).Perm l := by
  induction l with
  | nil => exact .refl _
  | cons x l ih => exact (insertBy_perm le x _).trans (ih.cons x)

/-- The fold that keeps the least number of a list. -/
theorem foldl_least {α : Type} (f : α → Nat) (l : List α) :
    l.foldl (fun (m : Option Nat) a => match m with | none => some (f a) | some p => some (min p (f a))) none = (l.map f).min? := by
  have hstep : ∀ (l : List α) (p : Nat), l.foldl (fun (m : Option Nat) a => match m with | none => some (f a) | some p => some (min p (f a))) (some p)
      = some ((l.map f).foldl min p) := by
    intro l
    induction l with
    | nil => intro p; rfl
    | cons a l ih => intro p; exact ih (min p (f a))
  cases l with
  | nil => rfl
  | cons a l => rw [List.map_cons, List.min?_cons']; exact hstep l (f a)

theorem lowestPc_eq (l : List Candidate) : lowestPc l = (l.map (·.pc)).min? := foldl_least (fun c : Candidate => c.pc) l

/-- Of candidates of one launch, that launch is selected. -/
theorem nextLaunch_only {l : List Nat} {k : Nat} (hne : l ≠ []) (hall : ∀ j ∈ l, j = k) (last : Option Nat) : nextLaunch last l = some k := by
  have hleast : ∀ m : List Nat, m ≠ [] → (∀ j ∈ m, j = k) → m.foldl (fun (m : Option Nat) k => match m with | none => some k | some j => some (min j k)) none = some k := by
    intro m hm h
    rw [← List.map_id m]
    refine (foldl_least id (m.map id)).trans ?_
    obtain ⟨j, hj⟩ := List.exists_mem_of_ne_nil m hm
    refine List.min?_eq_some_iff.2 ⟨?_, fun b hb => ?_⟩
    · simpa [h j hj] using hj
    · have := h b (by simpa using hb)
      omega
  unfold nextLaunch
  cases last with
  | none => exact hleast l hne hall
  | some j =>
    by_cases hafter : l.filter (j < ·) = []
    · simp only [hafter, List.foldl_nil]
      exact hleast l hne hall
    · simp only []
      generalize hm : List.foldl _ none (l.filter (j < ·)) = m
      obtain rfl : m = some k := hm ▸ hleast _ hafter fun i hi => hall i (List.mem_of_mem_filter hi)
      rfl

/-! ### Groups (R39, R42) -/

theorem mem_of_mem_lowGroup {w : Nat} {l : List Candidate} {c : Candidate} (h : c ∈ lowGroup w l) : c ∈ l := by
  unfold lowGroup at h
  split at h
  · simp at h
  · exact List.mem_of_mem_filter (List.mem_of_mem_take h)

/-- R39: a group at the lowest PC is of no more than the launch's width, at one PC. -/
theorem lowGroup_group (w : Nat) (l : List Candidate) : (lowGroup w l).length ≤ w ∧ ∃ pc, ∀ c ∈ lowGroup w l, c.pc = pc := by
  unfold lowGroup
  split
  · exact ⟨Nat.zero_le _, 0, by simp⟩
  · next p _ => exact ⟨List.length_take_le _ _, p, fun c hc => by simpa using (List.mem_filter.1 (List.mem_of_mem_take hc)).2⟩

/-- What holds of a group formed of candidates `l`: they are its threads, no more than the width. -/
def GroupOf (w : Nat) (l g : List Candidate) : Prop := g.length ≤ w ∧ ∀ c ∈ g, c ∈ l
/-- R39: a group of candidates at one PC. -/
def GroupAt (w : Nat) (l g : List Candidate) : Prop := GroupOf w l g ∧ ∃ pc, ∀ c ∈ g, c.pc = pc

theorem GroupAt.lowGroup (w : Nat) (l m : List Candidate) (h : ∀ c ∈ m, c ∈ l) : GroupAt w l (lowGroup w m) := by
  obtain ⟨hlen, hpc⟩ := lowGroup_group w m
  exact ⟨⟨hlen, fun c hc => h c (mem_of_mem_lowGroup hc)⟩, hpc⟩

/-- R39: groups A and B are each at one PC. -/
theorem issueGroups_groups (w : Nat) (l : List Candidate) : GroupAt w l (issueGroups w l).1 ∧ GroupAt w l (issueGroups w l).2 := by
  unfold issueGroups
  cases hp : lowestPc l with
  | none => exact ⟨⟨⟨Nat.zero_le _, by simp⟩, 0, by simp⟩, ⟨⟨Nat.zero_le _, by simp⟩, 0, by simp⟩⟩
  | some p =>
    refine ⟨.lowGroup w l l fun c hc => hc, ?_⟩
    simp only []
    split
    · refine ⟨⟨List.length_take_le _ _, fun c hc => ?_⟩, p, fun c hc => ?_⟩
      · exact List.mem_of_mem_filter (List.mem_of_mem_drop (List.mem_of_mem_take hc))
      · simpa using (List.mem_filter.1 (List.mem_of_mem_drop (List.mem_of_mem_take hc))).2
    · exact .lowGroup w l _ fun c hc => List.mem_of_mem_filter hc

/-- R42: the groups where a bin has aged. -/
theorem agedGroups_groups (w : Nat) (l : List Candidate) (b : Bin) : GroupOf w l (agedGroups w l b).1 ∧ GroupOf w l (agedGroups w l b).2 := by
  unfold agedGroups
  refine ⟨⟨List.length_take_le _ _, fun c hc => List.mem_of_mem_filter (List.mem_of_mem_take hc)⟩, ?_⟩
  exact (GroupAt.lowGroup w l _ fun c hc => List.mem_of_mem_filter hc).1

/-! ### The choice of one partition (R38-R42) -/

/-- R37: the ready threads among those given, as candidates. -/
def State.candidates (s : State) (ts : List TRef) : List Candidate := (ts.filter s.ready).filterMap s.candidate
/-- R42: the bins whose threads may be taken. -/
def State.ripeBins (s : State) (part : Part) (ts : List TRef) : List Bin :=
  part.bins.filter (s.ripe ((s.candidates ts).filter fun c => !part.binned c.t))
/-- R39, R42: the candidates outside the pool and in ripe bins, in order of age. -/
def State.pickable (s : State) (part : Part) (ts : List TRef) : List Candidate :=
  sortBy Candidate.le (((s.candidates ts).filter fun c => !part.binned c.t) ++ (s.candidates ts).filter fun c => (s.ripeBins part ts).any fun b => b.members.contains c.t)
/-- R42: the oldest bin of the launch that has reached age 64. -/
def State.agedBin (s : State) (part : Part) (ts : List TRef) (k : Nat) : Option Bin :=
  (s.ripeBins part ts).find? fun b => b.launch = k && 64 ≤ b.age && ((s.pickable part ts).filter (·.launch = k)).any fun c => b.members.contains c.t
/-- R39, R42: the groups of launch `k`. -/
def State.groupsOf (s : State) (part : Part) (ts : List TRef) (k : Nat) : List Candidate × List Candidate :=
  match s.agedBin part ts k with
  | some b => agedGroups (launchWidth s k) ((s.pickable part ts).filter (·.launch = k)) b
  | none => issueGroups (launchWidth s k) ((s.pickable part ts).filter (·.launch = k))

theorem State.choose_eq (s : State) (part : Part) (ts : List TRef) :
    s.choose part ts = (nextLaunch part.last ((s.pickable part ts).map (·.launch))).map fun k => (k, s.groupsOf part ts k) := by
  unfold State.choose
  simp only []
  change (match nextLaunch part.last ((s.pickable part ts).map (·.launch)) with | none => none | some k => some (k, s.groupsOf part ts k)) = _
  cases nextLaunch part.last ((s.pickable part ts).map (·.launch)) <;> rfl

/-- A candidate is a thread of its launch at its PC. -/
theorem State.candidate_some {s : State} {t : TRef} {c : Candidate} (h : s.candidate t = some c) :
    c.t = t ∧ ∃ tm th, s.team t.team = some tm ∧ s.thread t = some th ∧ c.launch = tm.launch ∧ c.pc = th.pc.toNat := by
  unfold State.candidate at h
  split at h
  · next tm th htm hth =>
    cases h
    exact ⟨rfl, tm, th, htm, hth, rfl, rfl⟩
  · simp at h

theorem State.mem_candidates {s : State} {ts : List TRef} {c : Candidate} (h : c ∈ s.candidates ts) : s.candidate c.t = some c := by
  obtain ⟨t, -, ht⟩ := List.mem_filterMap.1 h
  rw [(State.candidate_some ht).1, ht]

theorem State.mem_pickable {s : State} {part : Part} {ts : List TRef} {c : Candidate} (h : c ∈ s.pickable part ts) : c ∈ s.candidates ts := by
  rcases List.mem_append.1 ((sortBy_perm _ _).mem_iff.1 h) with h | h
  · exact List.mem_of_mem_filter h
  · exact List.mem_of_mem_filter h

/-- R38, R39: what the pickers choose is threads of one launch, no more than its width; at one PC where no bin has aged. -/
def PickedGroup (s : State) (young : Prop) (g : List Candidate) : Prop :=
  g.length ≤ 64 ∧ (∀ c ∈ g, s.candidate c.t = some c) ∧ (∃ k, ∀ c ∈ g, c.launch = k) ∧ (young → ∃ pc, ∀ c ∈ g, c.pc = pc)

theorem launchWidth_le (s : State) (k : Nat) : launchWidth s k ≤ 64 := by
  unfold launchWidth LaunchBody.width
  split
  · omega
  split <;> omega

theorem launchWidth_pos (s : State) (k : Nat) : 16 ≤ launchWidth s k := by
  unfold launchWidth LaunchBody.width
  split
  · omega
  split <;> omega

theorem GroupOf.picked {s : State} {part : Part} {ts : List TRef} {k : Nat} {g : List Candidate} (h : GroupOf (launchWidth s k) ((s.pickable part ts).filter (·.launch = k)) g)
    {young : Prop} (hpc : young → ∃ pc, ∀ c ∈ g, c.pc = pc) : PickedGroup s young g := by
  obtain ⟨hlen, hmem⟩ := h
  refine ⟨hlen.trans (launchWidth_le s k), fun c hc => State.mem_candidates (State.mem_pickable (List.mem_of_mem_filter (hmem c hc))), ⟨k, fun c hc => ?_⟩, hpc⟩
  simpa using (List.mem_filter.1 (hmem c hc)).2

/-- R42: while no bin has reached age 64 none is preferred. -/
theorem State.agedBin_young {s : State} {part : Part} {ts : List TRef} {k : Nat} (h : ∀ b ∈ part.bins, b.age < 64) : s.agedBin part ts k = none := by
  refine List.find?_eq_none.2 fun b hb => ?_
  have := h b (List.mem_of_mem_filter hb)
  simp only [Bool.and_eq_true, decide_eq_true_eq, not_and]
  intro hage
  omega

theorem State.choose_picked {s : State} {part : Part} {ts : List TRef} {k : Nat} {a b : List Candidate} (h : s.choose part ts = some (k, a, b)) :
    PickedGroup s (∀ q ∈ part.bins, q.age < 64) a ∧ PickedGroup s (∀ q ∈ part.bins, q.age < 64) b := by
  rw [State.choose_eq] at h
  obtain ⟨j, -, hj⟩ := Option.map_eq_some_iff.1 h
  obtain ⟨rfl, hgroups⟩ := Prod.mk.inj hj
  unfold State.groupsOf at hgroups
  split at hgroups
  · next q hq =>
    obtain ⟨ha, hb⟩ := agedGroups_groups (launchWidth s j) ((s.pickable part ts).filter (·.launch = j)) q
    rw [hgroups] at ha hb
    have hold : ¬∀ q ∈ part.bins, q.age < 64 := fun h => by simp [State.agedBin_young h] at hq
    exact ⟨ha.picked fun h => absurd h hold, hb.picked fun h => absurd h hold⟩
  · obtain ⟨⟨ha, hpa⟩, ⟨hb, hpb⟩⟩ := issueGroups_groups (launchWidth s j) ((s.pickable part ts).filter (·.launch = j))
    rw [hgroups] at ha hb hpa hpb
    exact ⟨ha.picked fun _ => hpa, hb.picked fun _ => hpb⟩

end Sys2Proof.Machine
end

section
/-!
SUPPORT. The groups of one partition (R38-R42; O41): what forming them changes, and which threads the first of them holds.
-/
namespace Sys2Proof.Machine

/-! ### Forming (R38, R39) -/

/-- Nothing but the cores differs, and more groups stand behind those that stood. -/
def Formed (s t : State) (more : List (List TRef)) : Prop := ∃ cores, t = { s with cores := cores, groups := s.groups ++ more }

theorem Formed.refl (s : State) : Formed s s [] := ⟨s.cores, by rw [List.append_nil]⟩

theorem Formed.trans {s t u : State} {l m : List (List TRef)} (h : Formed s t l) (k : Formed t u m) : Formed s u (l ++ m) := by
  obtain ⟨_, rfl⟩ := h
  obtain ⟨cores, rfl⟩ := k
  exact ⟨cores, by rw [← List.append_assoc]⟩

/-- R39: groups A and B as they take the slots of a partition. -/
def State.slotGroups (s : State) (c p : Nat) : List Candidate × List Candidate :=
  let part := (s.core c).part p
  let x := s.choose part (s.partThreads c p)
  (match x with | some x => if part.busy0 = 0 then x.2.1 else [] | none => [], match x with | some x => if part.busy1 = 0 then x.2.2 else [] | none => [])

/-- The groups that are not empty, as the threads they hold. -/
def newGroups (x : List Candidate × List Candidate) : List (List TRef) := ([x.1, x.2].map fun g => g.map (·.t)).filter (!·.isEmpty)

/-- R38-R40: groups take the slots of a partition, and their threads leave its pool. -/
def State.takeSlots (s : State) (c p : Nat) (last : Option Nat) (a b : List Candidate) : State :=
  let taken := (a ++ b).map (·.t)
  let s := s.modPart c p fun q =>
    { q with last := last.orElse (fun _ => q.last), busy0 := if a.isEmpty then q.busy0 else slotCycles a, busy1 := if b.isEmpty then q.busy1 else slotCycles b }
  let s := taken.foldl State.leavePool s
  let s := if taken.isEmpty then s else s.modCore c fun k => { k with issued := s.ns }
  { s with groups := s.groups ++ newGroups (a, b) }

theorem State.formPart_eq (s : State) (c p : Nat) :
    s.formPart c p = s.takeSlots c p ((s.choose ((s.core c).part p) (s.partThreads c p)).map (·.1)) (s.slotGroups c p).1 (s.slotGroups c p).2 := rfl

theorem State.takeSlots_formed (s : State) (c p : Nat) (last : Option Nat) (a b : List Candidate) : Formed s (s.takeSlots c p last a b) (newGroups (a, b)) := by
  unfold State.takeSlots
  simp only []
  split
  · obtain ⟨cores, hpool⟩ : OnlyCores s (((a ++ b).map (·.t)).foldl State.leavePool (s.modPart c p _)) := (OnlyCores.modCore s c _).trans (.foldl .leavePool _ _)
    rw [hpool]
    exact ⟨cores, rfl⟩
  · obtain ⟨cores, hpool⟩ : OnlyCores s (((a ++ b).map (·.t)).foldl State.leavePool (s.modPart c p _)) := (OnlyCores.modCore s c _).trans (.foldl .leavePool _ _)
    rw [hpool]
    exact ⟨_, rfl⟩

theorem State.formPart_formed (s : State) (c p : Nat) : Formed s (s.formPart c p) (newGroups (s.slotGroups c p)) := by
  rw [State.formPart_eq]
  exact s.takeSlots_formed c p _ _ _

theorem State.formWave_formed (s : State) (i : Nat) :
    ∃ gs, Formed s (s.formWave i) gs ∧ ∀ g ∈ gs, ∃ x : List Candidate, g = x.map (·.t) ∧ g ≠ [] ∧ x.length ≤ 32 ∧ (∃ pc, ∀ c ∈ x, c.pc = pc)
      ∧ ∀ c ∈ x, c.t.team = i ∧ s.candidate c.t = some c := by
  unfold State.formWave
  split
  · exact ⟨[], .refl s, by simp⟩
  next tm _ =>
  generalize (decide (tm.status ≠ .placed) || _) = stands
  cases stands with
  | true => exact ⟨[], .refl s, by simp⟩
  | false =>
    simp only [Bool.false_eq_true, if_false]
    generalize hx : lowGroup 32 _ = x
    obtain ⟨hlen, hpc⟩ := lowGroup_group 32 (((tm.alive.map fun k => ({ team := i, tid := k } : TRef)).filter s.ready).filterMap s.candidate)
    rw [hx] at hlen hpc
    have hmem : ∀ c ∈ x, c.t.team = i ∧ s.candidate c.t = some c := by
      intro c hc
      obtain ⟨t, ht, hcand⟩ := List.mem_filterMap.1 (mem_of_mem_lowGroup (hx ▸ hc))
      obtain ⟨k, -, rfl⟩ := List.mem_map.1 (List.mem_of_mem_filter ht)
      obtain ⟨hct, -⟩ := State.candidate_some hcand
      exact ⟨by rw [hct], by rw [hct, hcand]⟩
    split
    · exact ⟨[], .refl s, by simp⟩
    · next hne =>
      refine ⟨_, ⟨s.cores, rfl⟩, fun g hg => ?_⟩
      obtain rfl := List.mem_singleton.1 hg
      exact ⟨x, rfl, by simpa using hne, hlen, hpc, hmem⟩

/-! ### The threads of a group (R39, R42) -/

theorem State.refs_nodup (s : State) : s.refs.Nodup := by
  unfold State.refs
  refine List.nodup_flatMap.2 ⟨fun i _ => (numbers_nodup _ _).map fun a b h => by simpa using h, ?_⟩
  refine (numbers_nodup _ _).imp fun {i j} hij => ?_
  intro t hi hj
  obtain ⟨_, -, rfl⟩ := List.mem_map.1 hi
  obtain ⟨_, -, h⟩ := List.mem_map.1 hj
  exact hij (congrArg TRef.team h).symm

/-- A ready thread is a candidate. -/
theorem State.candidate_of_ready {s : State} {t : TRef} (h : s.ready t = true) : ∃ c, s.candidate t = some c := by
  unfold State.ready at h
  unfold State.candidate
  split at h
  · exact ⟨_, rfl⟩
  · simp at h

/-- The candidates are the ready threads. -/
theorem State.candidates_threads (s : State) (ts : List TRef) : (s.candidates ts).map (·.t) = ts.filter s.ready := by
  unfold State.candidates
  have hall : ∀ l : List TRef, (∀ t ∈ l, s.ready t = true) → (l.filterMap s.candidate).map (·.t) = l := by
    intro l hl
    induction l with
    | nil => rfl
    | cons t l ih =>
      obtain ⟨c, hc⟩ := State.candidate_of_ready (hl t (by simp))
      rw [List.filterMap_cons_some hc, List.map_cons, (State.candidate_some hc).1, ih fun u hu => hl u (by simp [hu])]
  exact hall _ fun t ht => (List.mem_filter.1 ht).2

/-- What a group takes of the threads `from'`: as many as the width admits, each once. -/
def Takes (w : Nat) (from' g : List TRef) : Prop := g.Nodup ∧ (∀ v ∈ g, v ∈ from') ∧ g.length = min w from'.length

/-- R39, R42: the first candidates of a kind are threads of that kind. -/
theorem takes_of_perm {mine cands : List Candidate} {l : List TRef} {kind : Candidate → Bool} {sort : TRef → Bool}
    (hperm : (mine.filter kind).Perm (cands.filter kind)) (hl : cands.map (·.t) = l) (hnodup : l.Nodup) (hkind : ∀ c ∈ cands, kind c = sort c.t) (w : Nat) :
    Takes w (l.filter sort) (((mine.filter kind).take w).map (·.t)) := by
  have hthreads : ((mine.filter kind).map (·.t)).Perm (l.filter sort) := by
    refine (hperm.map _).trans (.of_eq ?_)
    rw [← hl, List.filter_map]
    exact congrArg _ (List.filter_congr hkind)
  rw [List.map_take]
  refine ⟨((hthreads.nodup_iff.2 (hnodup.filter _)).sublist (List.take_sublist _ _)), fun v hv => hthreads.mem_iff.1 (List.mem_of_mem_take hv), ?_⟩
  rw [List.length_take, hthreads.length_eq]

/-- A group is not empty where the threads it is taken of are not. -/
theorem Takes.ne_nil {w : Nat} {from' : List TRef} {a : List Candidate} (h : Takes w from' (a.map (·.t))) (hw : 0 < w) {v : TRef} (hv : v ∈ from') : a ≠ [] := by
  obtain ⟨-, -, hlen⟩ := h
  rintro rfl
  have := List.length_pos_of_mem hv
  simp only [List.map_nil, List.length_nil] at hlen
  omega

end Sys2Proof.Machine
end

section
/-!
SUPPORT. Bins that have not reached age 64 (R41, R42; O41), and what entering and leaving the continuation pool leaves of them.
-/
namespace Sys2Proof.Machine

/-- R42: no bin of the partition has reached age 64. -/
def Part.Young (q : Part) : Prop := ∀ b ∈ q.bins, b.age < 64
/-- R42: no bin has reached age 64. -/
def Young (s : State) : Prop := ∀ c p, ((s.core c).part p).Young

theorem Young.of_cores {s t : State} (h : Young s) (ht : t.cores = s.cores) : Young t := fun c p => by
  have hcore : t.core c = s.core c := by rw [State.core, ht, State.core]
  rw [hcore]
  exact h c p

theorem SMap.get_of_forall {α : Type} {P : α → Prop} {d : α} {m : SMap α} (hd : P d) (hm : ∀ x ∈ m, P x.2) (k : Nat) : P (SMap.get d m k) := by
  induction m with
  | nil => exact hd
  | cons x m ih =>
    unfold SMap.get
    split
    · exact hm x (by simp)
    · exact ih fun y hy => hm y (by simp [hy])

/-- In an empty pool no bin has aged. -/
theorem Young.of_empty {s : State} (h : Sys2Proof.Claims.poolEmpty s) : Young s := fun c p => by
  have hparts : ∀ y ∈ (s.core c).parts, y.2.bins = [] :=
    SMap.get_of_forall (P := fun k : Core => ∀ y ∈ k.parts, y.2.bins = []) (d := {}) (fun y hy => by simp at hy) (fun x hx y hy => (h x hx y hy).1) c
  have hbins : ((s.core c).part p).bins = [] := SMap.get_of_forall (P := fun q : Part => q.bins = []) (d := {}) rfl hparts p
  intro b hb
  simp [hbins] at hb

theorem Young.modCore {s : State} (h : Young s) (c : Nat) {f : Core → Core} (hf : ∀ p, ((f (s.core c)).part p).Young) : Young (s.modCore c f) := fun d p => by
  rw [core_modCore]
  split
  · exact hf p
  · exact h d p

theorem part_modPart (k : Core) (p r : Nat) (f : Part → Part) : ({ k with parts := SMap.modify {} k.parts p f } : Core).part r = if r = p then f (k.part p) else k.part r := by
  unfold Core.part SMap.modify
  rw [SMap.get_set]

theorem Young.modPart {s : State} (h : Young s) (c p : Nat) {f : Part → Part} (hf : (f ((s.core c).part p)).Young) : Young (s.modPart c p f) := by
  refine h.modCore c fun r => ?_
  rw [part_modPart]
  split
  · exact hf
  · exact h c r

/-- R40: what moves in from the overflow queue is young. -/
theorem fillBins_young (fresh : TRef → Option (Nat × W32)) (bins : List Bin) (l : List TRef) (h : ∀ b ∈ bins, b.age < 64) :
    ∀ b ∈ (fillBins fresh bins l).1, b.age < 64 := by
  induction l generalizing bins with
  | nil => exact h
  | cons t l ih =>
    unfold fillBins
    split
    · exact ih bins h
    split
    · refine ih _ fun b hb => ?_
      obtain ⟨a, ha, rfl⟩ := List.mem_map.1 hb
      split <;> exact h a ha
    split
    · refine ih _ fun b hb => ?_
      rcases List.mem_append.1 hb with hb | hb
      · exact h b hb
      · simp [List.mem_singleton.1 hb]
    · exact h

theorem Young.scanOverflow {s : State} (h : Young s) (c p : Nat) : Young (s.scanOverflow c p) := by
  unfold State.scanOverflow
  simp only []
  split
  · exact h
  · exact h.modPart c p (fillBins_young _ _ _ fun b hb => h c p b (List.mem_of_mem_filter hb))

theorem Young.leavePool {s : State} (h : Young s) (t : TRef) : Young (s.leavePool t) := by
  unfold State.leavePool
  split
  · exact h
  · refine Young.scanOverflow (h.modPart _ _ fun b hb => ?_) _ _
    obtain ⟨a, ha, rfl⟩ := List.mem_map.1 hb
    exact h _ _ a ha

theorem Young.enterPool {s : State} (h : Young s) (t : TRef) : Young (s.enterPool t) := by
  unfold State.enterPool
  split
  · exact h
  split
  · exact h
  simp only []
  split
  · exact h
  split
  · refine h.modPart _ _ fun b hb => ?_
    obtain ⟨a, ha, rfl⟩ := List.mem_map.1 hb
    split <;> exact h _ _ a ha
  split
  · refine h.modPart _ _ fun b hb => ?_
    rcases List.mem_append.1 hb with hb | hb
    · exact h _ _ b hb
    · simp [List.mem_singleton.1 hb]
  · exact h.modPart _ _ (h _ _)

/-- R41: a bin below age 64 stays below it as a cycle passes; the event BIN_AGE_RIPE alone takes one there. -/
theorem Young.tendPart {s : State} (h : Young s) (c p : Nat) : Young (s.tendPart c p) := by
  refine h.modPart c p fun b hb => ?_
  obtain ⟨a, ha, rfl⟩ := List.mem_map.1 hb
  split
  · simp only []
    omega
  · exact h c p a ha

theorem Young.leavePools {s : State} (h : Young s) (l : List TRef) : Young (l.foldl State.leavePool s) :=
  List.foldlRecOn (motive := Young) _ _ h fun _ hu t _ => hu.leavePool t

theorem Young.takeSlots {s : State} (h : Young s) (c p : Nat) (last : Option Nat) (a b : List Candidate) : Young (s.takeSlots c p last a b) := by
  unfold State.takeSlots
  extract_lets taken s1 s2 s3
  have h1 : Young s1 := h.modPart c p (h c p)
  have h2 : Young s2 := h1.leavePools taken
  have h3 : Young s3 := by
    unfold s3
    split
    · exact h2
    · exact h2.modCore c (h2 c)
  exact h3.of_cores rfl

theorem Young.formPart {s : State} (h : Young s) (c p : Nat) : Young (s.formPart c p) := by
  rw [State.formPart_eq]
  exact Young.takeSlots h _ _ _ _ _

end Sys2Proof.Machine
end

section
/-!
SUPPORT. The groups that a cycle forms (R38-R42; O41): each is of threads of one launch, and the first that a partition forms holds the threads the choice says.
-/
namespace Sys2Proof.Machine

/-- R38, R39: a group of threads of one launch; at one PC under the condition given. -/
def IssuedGroup (s : State) (young : Prop) (g : List TRef) : Prop :=
  g ≠ [] ∧ g.length ≤ 64 ∧ (∃ k, ∀ v ∈ g, ∃ tv, s.team v.team = some tv ∧ tv.launch = k) ∧ (young → ∃ pc, ∀ v ∈ g, (s.thread v).map (·.pc) = some pc)

theorem PickedGroup.issued {s : State} {young : Prop} {x : List Candidate} (h : PickedGroup s young x) (hne : x.map (·.t) ≠ []) : IssuedGroup s young (x.map (·.t)) := by
  obtain ⟨hlen, hcand, ⟨k, hk⟩, hpc⟩ := h
  refine ⟨hne, by simpa using hlen, ⟨k, fun v hv => ?_⟩, fun hy => ?_⟩
  · obtain ⟨c, hc, rfl⟩ := List.mem_map.1 hv
    obtain ⟨-, tm, th, htm, -, hlaunch, -⟩ := State.candidate_some (hcand c hc)
    exact ⟨tm, htm, by rw [← hlaunch, hk c hc]⟩
  · obtain ⟨pc, hpc⟩ := hpc hy
    refine ⟨BitVec.ofNat 32 pc, fun v hv => ?_⟩
    obtain ⟨c, hc, rfl⟩ := List.mem_map.1 hv
    obtain ⟨-, tm, th, -, hth, -, hcpc⟩ := State.candidate_some (hcand c hc)
    simp [hth, ← hpc c hc, hcpc]

theorem mem_newGroups {x : List Candidate × List Candidate} {g : List TRef} (h : g ∈ newGroups x) : g ≠ [] ∧ (g = x.1.map (·.t) ∨ g = x.2.map (·.t)) := by
  obtain ⟨hmem, hne⟩ := List.mem_filter.1 h
  exact ⟨by simpa using hne, by simpa using hmem⟩

section
variable {s t : State} {more : List (List TRef)} (h : Formed s t more)
include h

theorem Formed.teams : t.teams = s.teams := by
  obtain ⟨_, rfl⟩ := h
  rfl
theorem Formed.team (i : Nat) : t.team i = s.team i := congrArg (·[i]?) h.teams
theorem Formed.thread (r : TRef) : t.thread r = s.thread r := by
  obtain ⟨_, rfl⟩ := h
  rfl
theorem Formed.groups : t.groups = s.groups ++ more := by
  obtain ⟨_, rfl⟩ := h
  rfl
theorem Formed.clk : t.clk = s.clk := by
  obtain ⟨_, rfl⟩ := h
  rfl
theorem Formed.mem : t.mem = s.mem := by
  obtain ⟨_, rfl⟩ := h
  rfl

/-- Forming groups changes no thread: a group issued there is one issued here. -/
theorem Formed.issued {young : Prop} {g : List TRef} (hg : IssuedGroup t young g) : IssuedGroup s young g := by
  simpa only [IssuedGroup, h.team, h.thread] using hg
end

/-- The slots of a partition take groups as the pickers choose them. -/
theorem State.slotGroups_picked (s : State) (c p : Nat) :
    PickedGroup s ((s.core c).part p).Young (s.slotGroups c p).1 ∧ PickedGroup s ((s.core c).part p).Young (s.slotGroups c p).2 := by
  have hnone : PickedGroup s ((s.core c).part p).Young [] := ⟨by simp, by simp, ⟨0, by simp⟩, fun _ => ⟨0, by simp⟩⟩
  unfold State.slotGroups
  simp only []
  cases hx : s.choose ((s.core c).part p) (s.partThreads c p) with
  | none => exact ⟨hnone, hnone⟩
  | some x =>
    obtain ⟨ha, hb⟩ := State.choose_picked (k := x.1) (a := x.2.1) (b := x.2.2) hx
    simp only []
    constructor
    · split
      · exact ha
      · exact hnone
    · split
      · exact hb
      · exact hnone

theorem State.formPart_issued {s : State} {young : Prop} (hy : young → Young s) (c p : Nat) : ∀ g ∈ newGroups (s.slotGroups c p), IssuedGroup s young g := by
  intro g hg
  obtain ⟨ha, hb⟩ := s.slotGroups_picked c p
  have hweaken : ∀ g, IssuedGroup s ((s.core c).part p).Young g → IssuedGroup s young g := fun g ⟨h1, h2, h3, h4⟩ => ⟨h1, h2, h3, fun h => h4 (hy h c p)⟩
  obtain ⟨hne, rfl | rfl⟩ := mem_newGroups hg
  · exact hweaken _ (ha.issued hne)
  · exact hweaken _ (hb.issued hne)

/-- R38-R42: the groups that partitions form one after another. -/
theorem State.formParts_issued {s : State} {young : Prop} (hy : young → Young s) (l : List Nat) :
    ∃ more, Formed s (l.foldl (fun (s : State) k => s.formPart (k / 6) (k % 6)) s) more ∧ ∀ g ∈ more, IssuedGroup s young g := by
  induction l generalizing s with
  | nil => exact ⟨[], .refl s, by simp⟩
  | cons k l ih =>
    have hpart := s.formPart_formed (k / 6) (k % 6)
    obtain ⟨more, hrest, hissued⟩ := ih (s := s.formPart (k / 6) (k % 6)) fun h => (hy h).formPart _ _
    refine ⟨_, hpart.trans hrest, fun g hg => ?_⟩
    rcases List.mem_append.1 hg with hg | hg
    · exact State.formPart_issued hy _ _ g hg
    · exact hpart.issued (hissued g hg)

/-- R303: the groups that waves form one after another. -/
theorem State.formWaves_issued (s : State) (young : Prop) (l : List Nat) :
    ∃ more, Formed s (l.foldl State.formWave s) more ∧ ∀ g ∈ more, IssuedGroup s young g := by
  induction l generalizing s with
  | nil => exact ⟨[], .refl s, by simp⟩
  | cons i l ih =>
    obtain ⟨gs, hwave, hgs⟩ := s.formWave_formed i
    obtain ⟨more, hrest, hissued⟩ := ih (s.formWave i)
    refine ⟨_, hwave.trans hrest, fun g hg => ?_⟩
    rcases List.mem_append.1 hg with hg | hg
    · obtain ⟨x, rfl, hne, hlen, hpc, hx⟩ := hgs g hg
      refine PickedGroup.issued ⟨by omega, fun c hc => (hx c hc).2, ⟨((s.team i).map (·.launch)).getD 0, fun c hc => ?_⟩, fun _ => hpc⟩ hne
      obtain ⟨hi, hcand⟩ := hx c hc
      obtain ⟨-, tm, th, htm, -, hlaunch, -⟩ := State.candidate_some hcand
      rw [hi] at htm
      simp [htm, hlaunch]
    · exact hwave.issued (hissued g hg)

/-- R37-R43: what forming the groups of a cycle adds. -/
theorem State.cycle_formed (s : State) {young : Prop} (hy : young → Young s.toPick) : ∃ more, Formed s.toPick s.cycle more ∧ ∀ g ∈ more, IssuedGroup s.toPick young g := by
  obtain ⟨parts, hparts, hpissued⟩ := State.formParts_issued hy s.pickPlaces
  obtain ⟨waves, hwaves, hwissued⟩ := State.formWaves_issued (s.pickPlaces.foldl (fun (s : State) k => s.formPart (k / 6) (k % 6)) s.toPick) young (numbers 0 (s.pickPlaces.foldl (fun (s : State) k => s.formPart (k / 6) (k % 6)) s.toPick).teams.length)
  refine ⟨parts ++ waves, hparts.trans hwaves, fun g hg => ?_⟩
  rcases List.mem_append.1 hg with hg | hg
  · exact hpissued g hg
  · exact hparts.issued (hwissued g hg)

end Sys2Proof.Machine
end

section
/-!
SUPPORT. Which threads the first group of a partition holds (R39, R42; O41).
-/
namespace Sys2Proof.Machine

/-- R38, R39: the first group of the only partition that picks, with no group at work, stands before every other of the cycle. -/
theorem State.cycle_first {s : State} {c p : Nat} (hp : p < 6) (hplaces : s.pickPlaces = [6 * c + p]) (hbusy : ((s.toPick.core c).part p).busy0 = 0)
    {k : Nat} {a b : List Candidate} (hchoose : s.toPick.choose ((s.toPick.core c).part p) (s.toPick.partThreads c p) = some (k, a, b)) (hne : a ≠ []) :
    ∃ rest, s.cycle.groups = s.toPick.groups ++ a.map (·.t) :: rest := by
  have hdiv : (6 * c + p) / 6 = c := by omega
  have hmod : (6 * c + p) % 6 = p := by omega
  have hcycle : s.cycle = (numbers 0 (s.toPick.formPart c p).teams.length).foldl State.formWave (s.toPick.formPart c p) := by
    unfold State.cycle
    simp only [hplaces, List.foldl_cons, List.foldl_nil, hdiv, hmod]
  have hfirst : (s.toPick.slotGroups c p).1 = a := by
    unfold State.slotGroups
    simp only [hchoose, hbusy, if_true]
  obtain ⟨waves, hwaves, -⟩ := State.formWaves_issued (s.toPick.formPart c p) True (numbers 0 (s.toPick.formPart c p).teams.length)
  have hgroups := ((s.toPick.formPart_formed c p).trans hwaves).groups
  refine ⟨([(s.toPick.slotGroups c p).2].map fun g => g.map (·.t)).filter (!·.isEmpty) ++ waves, ?_⟩
  rw [hcycle, hgroups]
  have hnew : newGroups (s.toPick.slotGroups c p) = a.map (·.t) :: ([(s.toPick.slotGroups c p).2].map fun g => g.map (·.t)).filter (!·.isEmpty) := by
    unfold newGroups
    rw [hfirst, List.map_cons, List.filter_cons_of_pos (by simpa using hne)]
  rw [hnew, List.cons_append]

section
variable {x : State} {part : Part} {ts : List TRef} {k : Nat} (hlaunch : ∀ v ∈ ts.filter x.ready, ∃ tv, x.team v.team = some tv ∧ tv.launch = k)
include hlaunch

theorem State.candidates_launch : ∀ c ∈ x.candidates ts, c.launch = k := by
  intro c hc
  have hv : c.t ∈ ts.filter x.ready := x.candidates_threads ts ▸ List.mem_map_of_mem hc
  obtain ⟨tv, htv, hk⟩ := hlaunch c.t hv
  obtain ⟨-, tm, th, htm, -, hcl, -⟩ := State.candidate_some (State.mem_candidates hc)
  rw [htm] at htv
  cases htv
  rw [hcl, hk]

/-- R38: where the threads are of one launch, all that can be taken are its own. -/
theorem State.pickable_launch : (x.pickable part ts).filter (·.launch = k) = x.pickable part ts :=
  List.filter_eq_self.2 fun c hc => by simpa using State.candidates_launch hlaunch c (State.mem_pickable hc)

/-- R38: that launch is selected. -/
theorem State.choose_launch (hne : x.pickable part ts ≠ []) : x.choose part ts = some (k, x.groupsOf part ts k) := by
  rw [State.choose_eq, nextLaunch_only (k := k) (by simpa using hne) (fun j hj => ?_)]
  · rfl
  · obtain ⟨c, hc, rfl⟩ := List.mem_map.1 hj
    exact State.candidates_launch hlaunch c (State.mem_pickable hc)
end

/-! ### No thread in the pool (R39) -/

/-- Where the pool is empty every ready thread can be taken. -/
theorem State.pickable_of_empty {x : State} {part : Part} (hbins : part.bins = []) (hwait : part.waitq = []) (ts : List TRef) : (x.pickable part ts).Perm (x.candidates ts) := by
  have hfree : (x.candidates ts).filter (fun c => !part.binned c.t) = x.candidates ts := List.filter_eq_self.2 fun c _ => by simp [Part.binned, hbins, hwait]
  unfold State.pickable
  refine (sortBy_perm _ _).trans (.of_eq ?_)
  simp [hfree, State.ripeBins, hbins]

/-- A candidate's PC is its thread's. -/
theorem State.candidate_pc {x : State} {c : Candidate} (h : x.candidate c.t = some c) : (x.thread c.t).map (·.pc.toNat) = some c.pc := by
  obtain ⟨-, -, th, -, hth, -, hpc⟩ := State.candidate_some h
  simp [hth, hpc]

/-- R39: of ready threads of one launch outside the pool, the first at the lowest PC are taken. -/
theorem State.choose_lowest {x : State} {part : Part} {ts : List TRef} {k : Nat} (hlaunch : ∀ v ∈ ts.filter x.ready, ∃ tv, x.team v.team = some tv ∧ tv.launch = k)
    (hnodup : ts.Nodup) (hne : ts.filter x.ready ≠ []) (hbins : part.bins = []) (hwait : part.waitq = []) :
    ∃ v ∈ ts.filter x.ready, ∃ pc, (x.thread v).map (·.pc.toNat) = some pc ∧ (∀ y ∈ ts.filter x.ready, ∀ z, (x.thread y).map (·.pc.toNat) = some z → pc ≤ z)
      ∧ ∃ a b, x.choose part ts = some (k, a, b) ∧ a ≠ [] ∧ Takes (launchWidth x k) ((ts.filter x.ready).filter fun y => (x.thread y).map (·.pc.toNat) = some pc) (a.map (·.t)) := by
  have hperm := x.pickable_of_empty hbins hwait ts
  have hthreads := x.candidates_threads ts
  have hpick : x.pickable part ts ≠ [] := fun h => hne (by rw [← hthreads, (hperm.symm.trans (.of_eq h)).eq_nil, List.map_nil])
  obtain ⟨pc, hmin⟩ : ∃ pc, ((x.pickable part ts).map (·.pc)).min? = some pc := by
    cases h : ((x.pickable part ts).map (·.pc)).min? with
    | none => simp [List.min?_eq_none_iff, hpick] at h
    | some pc => exact ⟨pc, rfl⟩
  obtain ⟨hmem, hleast⟩ := List.min?_eq_some_iff.1 hmin
  obtain ⟨c, hc, hcpc⟩ := List.mem_map.1 hmem
  have hccand := State.mem_pickable hc
  have hcv : c.t ∈ ts.filter x.ready := hthreads ▸ List.mem_map_of_mem hccand
  have hgroup : (x.groupsOf part ts k).1 = ((x.pickable part ts).filter (·.pc = pc)).take (launchWidth x k) := by
    have haged : x.agedBin part ts k = none := State.agedBin_young (by simp [hbins])
    unfold State.groupsOf issueGroups lowGroup
    simp only [haged, State.pickable_launch hlaunch, lowestPc_eq, hmin]
  have htakes := takes_of_perm (kind := fun c => c.pc = pc) (sort := fun y => (x.thread y).map (·.pc.toNat) = some pc) (hperm.filter _) hthreads (hnodup.filter x.ready)
    (fun d hd => by simp [State.candidate_pc (State.mem_candidates hd)]) (launchWidth x k)
  rw [← hgroup] at htakes
  have hcthread : (x.thread c.t).map (·.pc.toNat) = some pc := by rw [State.candidate_pc (State.mem_candidates hccand), hcpc]
  refine ⟨c.t, hcv, pc, hcthread, fun y hy z hz => ?_, _, _, State.choose_launch hlaunch hpick, ?_, htakes⟩
  · obtain ⟨d, hd, rfl⟩ := List.mem_map.1 (hthreads ▸ hy)
    rw [State.candidate_pc (State.mem_candidates hd)] at hz
    cases hz
    exact hleast _ (List.mem_map_of_mem (hperm.mem_iff.2 hd))
  · exact htakes.ne_nil (by have := launchWidth_pos x k; omega) (List.mem_filter.2 ⟨hcv, by simpa using hcthread⟩)

/-! ### A bin that has reached age 64 (R42) -/

/-- R42: of ready threads of one launch, those of its oldest bin are taken where that has reached age 64. -/
theorem State.choose_aged {x : State} {part : Part} {ts : List TRef} {b : Bin} {bins : List Bin} (hlaunch : ∀ v ∈ ts.filter x.ready, ∃ tv, x.team v.team = some tv ∧ tv.launch = b.launch)
    (hnodup : ts.Nodup) (hbins : part.bins = b :: bins) (hage : 64 ≤ b.age) (hmember : ∃ v ∈ ts.filter x.ready, v ∈ b.members) :
    ∃ a d, x.choose part ts = some (b.launch, a, d) ∧ a ≠ [] ∧ Takes (launchWidth x b.launch) ((ts.filter x.ready).filter fun y => y ∈ b.members) (a.map (·.t)) := by
  have hthreads := x.candidates_threads ts
  obtain ⟨v, hv, hvb⟩ := hmember
  obtain ⟨c, hc, rfl⟩ := List.mem_map.1 (hthreads ▸ hv)
  obtain ⟨ripe, hripe⟩ : ∃ ripe, x.ripeBins part ts = b :: ripe := by
    rw [State.ripeBins, hbins, List.filter_cons_of_pos (by simp [State.ripe, hage])]
    exact ⟨_, rfl⟩
  have hbinned : ∀ d : Candidate, d.t ∈ b.members → part.binned d.t = true := fun d hd => by simp [Part.binned, hbins, hd]
  have hmine : ((x.pickable part ts).filter fun d => b.members.contains d.t).Perm ((x.candidates ts).filter fun d => b.members.contains d.t) := by
    refine ((sortBy_perm _ _).filter _).trans (.of_eq ?_)
    have hfree : ((x.candidates ts).filter fun d => !part.binned d.t).filter (fun d => b.members.contains d.t) = [] := by
      refine List.filter_eq_nil_iff.2 fun d hd => ?_
      obtain ⟨-, hout⟩ := List.mem_filter.1 hd
      intro hin
      simp [hbinned d (by simpa using hin)] at hout
    have hin : ((x.candidates ts).filter fun d => (x.ripeBins part ts).any fun b => b.members.contains d.t).filter (fun d => b.members.contains d.t)
        = (x.candidates ts).filter fun d => b.members.contains d.t := by
      rw [List.filter_filter]
      refine List.filter_congr fun d _ => ?_
      simp only [hripe, List.any_cons]
      cases b.members.contains d.t <;> rfl
    rw [List.filter_append, hfree, hin, List.nil_append]
  have hcb : c ∈ (x.pickable part ts).filter fun d => b.members.contains d.t := hmine.mem_iff.2 (List.mem_filter.2 ⟨hc, by simpa using hvb⟩)
  have hcpick := List.mem_of_mem_filter hcb
  have haged : x.agedBin part ts b.launch = some b := by
    rw [State.agedBin, State.pickable_launch hlaunch, hripe, List.find?_cons_of_pos]
    simpa [hage] using ⟨c, hcpick, hvb⟩
  have hgroup : (x.groupsOf part ts b.launch).1 = ((x.pickable part ts).filter fun d => b.members.contains d.t).take (launchWidth x b.launch) := by
    unfold State.groupsOf agedGroups
    simp only [haged, State.pickable_launch hlaunch]
  have htakes := takes_of_perm (sort := fun y => y ∈ b.members) hmine hthreads (hnodup.filter x.ready) (fun d _ => by simp) (launchWidth x b.launch)
  rw [← hgroup] at htakes
  exact ⟨_, _, State.choose_launch hlaunch (List.ne_nil_of_mem hcpick),
    htakes.ne_nil (by have := launchWidth_pos x b.launch; omega) (List.mem_filter.2 ⟨hv, by simpa using hvb⟩), htakes⟩

end Sys2Proof.Machine
end

section
/-!
SUPPORT. A cycle in which no engine, slice, service core or relaxed store is at work and no signal is pending (R37-R43; O41): up to the picking of its groups it advances
the clock, and leaves memory and the groups.
-/
namespace Sys2Proof.Machine

/-! ### Maps and lists all of whose entries have a property -/

theorem SMap.forall_drop {α : Type} {P : α → Prop} {m : SMap α} (hm : ∀ x ∈ m, P x.2) (k : Nat) : ∀ x ∈ m.drop k, P x.2 := by
  induction m with
  | nil => exact hm
  | cons x m ih =>
    have hrest := ih fun y hy => hm y (List.mem_cons_of_mem x hy)
    unfold SMap.drop
    split
    · exact hrest
    · exact fun y hy => (List.mem_cons.1 hy).elim (fun h => h ▸ hm x (List.mem_cons_self ..)) (hrest y)

theorem SMap.forall_put {α : Type} {P : α → Prop} {m : SMap α} (hm : ∀ x ∈ m, P x.2) (k : Nat) {v : α} (hv : P v) : ∀ x ∈ m.put k v, P x.2 := by
  induction m with
  | nil => simpa [SMap.put] using hv
  | cons x m ih =>
    have hrest := ih fun y hy => hm y (List.mem_cons_of_mem x hy)
    unfold SMap.put
    split
    · exact fun y hy => (List.mem_cons.1 hy).elim (fun h => h ▸ hv) fun h => hm y (List.mem_cons_of_mem x h)
    split
    · exact fun y hy => (List.mem_cons.1 hy).elim (fun h => h ▸ hv) (hm y)
    · exact fun y hy => (List.mem_cons.1 hy).elim (fun h => h ▸ hm x (List.mem_cons_self ..)) (hrest y)

theorem SMap.forall_modify {α : Type} [DecidableEq α] {P : α → Prop} {d : α} {m : SMap α} (hd : P d) (hm : ∀ x ∈ m, P x.2) (k : Nat) {f : α → α} (hf : ∀ a, P a → P (f a)) :
    ∀ x ∈ SMap.modify d m k f, P x.2 := by
  unfold SMap.modify SMap.set
  split
  · exact SMap.forall_drop hm k
  · exact SMap.forall_put hm k (hf _ (SMap.get_of_forall hd hm k))

theorem forall_mem_modify {α : Type} {P : α → Prop} {l : List α} (hl : ∀ x ∈ l, P x) (i : Nat) {f : α → α} (hf : ∀ a, P a → P (f a)) : ∀ x ∈ l.modify i f, P x := by
  intro x hx
  obtain ⟨j, hj⟩ := List.getElem?_of_mem hx
  rw [List.getElem?_modify] at hj
  obtain ⟨a, ha, rfl⟩ := Option.map_eq_some_iff.1 hj
  have := hl a (List.mem_of_getElem? ha)
  split
  · exact hf a this
  · exact this

/-! ### What a calm cycle keeps -/

/-- What stands in a calm cycle of `s`, before groups form: one cycle has passed, and there is still nothing at work. -/
structure Calm (s : State) (young : Prop) (t : State) : Prop where
  clk : t.clk = s.clk + 1
  mem : t.mem = s.mem
  groups : t.groups = s.groups
  ops : t.ops = []
  relaxed : t.relaxed = []
  installing : t.installing = none
  hods : ∀ x ∈ t.slices, x.2.hod = none
  asked : ∀ x ∈ t.harts, x.2.asked = []
  signals : ∀ y ∈ t.teams, y.signals = 0
  pool : young → Young t

namespace Calm

section
variable {s t u : State} {young : Prop} (h : Calm s young t)
include h

/-- A change of the cores alone, which ages no bin. -/
theorem of_cores (hu : OnlyCores t u) (hy : Young t → Young u) : Calm s young u := by
  have hpool : young → Young u := fun k => hy (h.pool k)
  obtain ⟨_, rfl⟩ := hu
  exact ⟨h.clk, h.mem, h.groups, h.ops, h.relaxed, h.installing, h.hods, h.asked, h.signals, hpool⟩

/-- A change beside what the cycle looks at. -/
theorem modLaunch (k : Nat) (f : Launch → Launch) : Calm s young (t.modLaunch k f) :=
  ⟨h.clk, h.mem, h.groups, h.ops, h.relaxed, h.installing, h.hods, h.asked, h.signals, h.pool⟩
theorem noteUse (src bay n : Nat) : Calm s young (t.noteUse src bay n) :=
  ⟨h.clk, h.mem, h.groups, h.ops, h.relaxed, h.installing, h.hods, h.asked, h.signals, h.pool⟩
theorem tick : Calm s young t.tick :=
  ⟨h.clk, h.mem, h.groups, h.ops, h.relaxed, h.installing, h.hods, h.asked, h.signals, h.pool⟩
theorem later (l : List Instr) : Calm s young (t.later l) :=
  ⟨h.clk, h.mem, h.groups, h.ops, h.relaxed, h.installing, h.hods, h.asked, h.signals, h.pool⟩
theorem modTeam (i : Nat) {f : Team → Team} (hf : ∀ tm, (f tm).signals = tm.signals) : Calm s young (t.modTeam i f) :=
  ⟨h.clk, h.mem, h.groups, h.ops, h.relaxed, h.installing, h.hods, h.asked,
    forall_mem_modify (P := fun tm : Team => tm.signals = 0) h.signals i fun tm htm => (hf tm).trans htm, h.pool⟩
theorem modThread (r : TRef) (f : Thread → Thread) : Calm s young (t.modThread r f) := h.modTeam r.team fun _ => rfl
theorem modSlice (k : Nat) {f : Slice → Slice} (hf : ∀ l, l.hod = none → (f l).hod = none) : Calm s young (t.modSlice k f) :=
  ⟨h.clk, h.mem, h.groups, h.ops, h.relaxed, h.installing, SMap.forall_modify (P := fun l : Slice => l.hod = none) rfl h.hods k hf, h.asked, h.signals, h.pool⟩
end

/-- A calm cycle stays calm through steps that keep it so. -/
theorem foldl {s t : State} {young : Prop} (h : Calm s young t) {α : Type} {f : State → α → State} (l : List α)
    (hf : ∀ u, Calm s young u → ∀ a ∈ l, Calm s young (f u a)) : Calm s young (l.foldl f t) :=
  List.foldlRecOn (motive := Calm s young) _ _ h hf

/-! ### The parts of the cycle (R37-R43, R56, R64, R285) -/

section
variable {s t : State} {young : Prop} (h : Calm s young t)
include h

theorem enterPool (r : TRef) : Calm s young (t.enterPool r) := h.of_cores (.enterPool t r) fun hy => hy.enterPool r

theorem wakeTeam (i : Nat) : Calm s young (t.wakeTeam i) := by
  unfold State.wakeTeam
  split
  · exact h
  split
  · refine later (h.modTeam i ?_) _
    exact fun _ => rfl
  · exact h

theorem resumeAt (r : TRef) (pc : W32) : Calm s young (t.resumeAt r pc) := by
  refine wakeTeam (enterPool (modTeam (h.modThread r _) r.team ?_) r) r.team
  exact fun _ => rfl

theorem noteResult (r : TRef) : Calm s young (t.noteResult r) := by
  unfold State.noteResult
  split
  · split
    · exact h
    · simp only []
      have hnoted (c : Prop) [Decidable c] : Calm s young (if c then t else t.modThread r fun th => { th with awaits := t.awaitsL2 r }) := by
        split
        · exact h
        · exact h.modThread r _
      split
      · exact (hnoted _).enterPool r
      · exact hnoted _
  · exact h

theorem tendPart (c p : Nat) : Calm s young (t.tendPart c p) := h.of_cores (.modCore ..) fun hy => hy.tendPart c p

theorem noteHeld : Calm s young t.noteHeld := by
  unfold State.noteHeld
  refine foldl (h.foldl _ fun u hu x _ => hu.foldl _ fun v hv f _ => hv.noteUse ..) _ fun u hu x _ => hu.foldl _ fun v hv f _ => hv.noteUse ..

theorem chargeCycle : Calm s young t.chargeCycle := by
  unfold State.chargeCycle
  extract_lets l s1 used s2 s3 s4 s5
  have h1 : Calm s young s1 := h.foldl _ fun u hu x _ => hu.modLaunch _ _
  have h2 : Calm s young s2 := ⟨h1.clk, h1.mem, h1.groups, h1.ops, h1.relaxed, h1.installing, h1.hods, h1.asked, h1.signals, h1.pool⟩
  have h3 : Calm s young s3 := h2.foldl _ fun u hu x _ => hu.noteUse ..
  have h5 : Calm s young s5 := h3.noteHeld.foldl _ fun u hu tm _ => by
    split
    · split
      · exact hu.noteUse ..
      · exact hu
    · exact hu
  refine h5.foldl _ fun u hu x _ => ?_
  split
  · exact hu.noteUse ..
  · exact hu

theorem watchWaits : Calm s young t.watchWaits := by
  refine h.foldl _ fun u hu i _ => ?_
  split
  · split
    · exact hu
    · simp only []
      generalize (if u.idleUnit i = true then _ else _) = since
      split
      · exact hu
      · refine hu.modTeam i ?_
        exact fun _ => rfl
  · exact hu

theorem modStanding (k port : Nat) (f : Nat → Nat) : Calm s young (t.modStanding k port f) := by
  unfold State.modStanding
  split
  · exact h.modSlice k fun l hl => hl
  · exact ⟨h.clk, h.mem, h.groups, h.ops, h.relaxed, h.installing, h.hods, h.asked, h.signals, h.pool⟩

theorem serveQueues : Calm s young t.serveQueues := by
  unfold State.serveQueues
  refine tick (foldl (h.foldl _ fun u hu x _ => ?_) _ fun u hu x _ => ?_)
  · exact hu.foldl _ fun v hv y _ => hv.modStanding ..
  · exact hu.modStanding ..

theorem serveHarts : Calm s young t.serveHarts := by
  refine h.foldl _ fun u hu x hx => ?_
  simpa [h.asked x hx] using hu

theorem stirOne : Calm s young t.stirOne := by simpa [State.stirOne, h.ops] using h
theorem landOne : Calm s young t.landOne := by simpa [State.landOne, h.relaxed] using h

theorem stirHods : Calm s young t.stirHods := by
  refine h.foldl _ fun u hu x hx => ?_
  simpa only [h.hods x hx] using hu

theorem stirCopy : Calm s young t.stirCopy := by simpa only [State.stirCopy, h.installing] using h

theorem dropTlb : Calm s young t.dropTlb := by
  unfold State.dropTlb
  split
  · exact h.tick
  · split
    · exact h.tick
    · exact ⟨h.clk, h.mem, h.groups, h.ops, h.relaxed, h.installing, h.hods, h.asked, h.signals, h.pool⟩

theorem raiseDue : Calm s young t.raiseDue := by
  refine h.foldl _ fun u hu i _ => ?_
  split
  · exact hu
  · exact hu.later _

theorem tryAgain (r : TRef) : Calm s young (t.tryAgain r) := by
  unfold State.tryAgain
  simp only []
  split
  · split
    · exact h
    · exact h.resumeAt ..
  · split
    · exact h.resumeAt ..
    · exact h
  · exact h

theorem signalTeam (i : Nat) : Calm s young (t.signalTeam i) := by
  unfold State.signalTeam
  split
  · next tm htm => simpa [h.signals tm (List.mem_of_getElem? htm)] using h
  · exact h

/-- Within one millisecond no moment of a period of whole milliseconds passes. -/
theorem passes (hms : (s.clk + 1) * 5 / 12 / 1000000 = s.clk * 5 / 12 / 1000000) (n : Nat) : t.passes (1000000 * n) = false := by
  unfold State.passes State.ns
  rw [h.clk, Nat.add_sub_cancel, ← Nat.div_div_eq_div_mul, ← Nat.div_div_eq_div_mul (s.clk * 5 / 12), hms]
  simp

theorem stirRetire (hms : (s.clk + 1) * 5 / 12 / 1000000 = s.clk * 5 / 12 / 1000000) : Calm s young t.stirRetire := by
  have := h.passes hms 1
  simpa [State.stirRetire, this] using h

theorem stirMeters (hms : (s.clk + 1) * 5 / 12 / 1000000 = s.clk * 5 / 12 / 1000000) : Calm s young t.stirMeters := by
  have hwindow := h.passes hms 1
  have hcheck := h.passes hms 100
  have hwear := h.passes hms 600000
  unfold State.stirMeters
  split
  · exact h
  · simpa [hwindow, hcheck, hwear] using h
end

/-- R116: what passes of a cycle asks nothing for a service core. -/
theorem passHarts_asked {s : State} (h : ∀ x ∈ s.harts, x.2.asked = []) : ∀ x ∈ s.passHarts, x.2.asked = [] := by
  unfold State.passHarts
  generalize numbers 0 32 = l
  exact List.foldlRecOn (motive := fun m : SMap Hart => ∀ x ∈ m, x.2.asked = []) _ _ h fun m hm k _ =>
    SMap.forall_modify (P := fun x : Hart => x.asked = []) rfl hm k fun _ hx => hx

/-- R37, R41, R116: a cycle has passed. -/
theorem passCycle {s : State} {young : Prop} (hops : s.ops = []) (hrelaxed : s.relaxed = []) (hhods : ∀ x ∈ s.slices, x.2.hod = none) (hasked : ∀ x ∈ s.harts, x.2.asked = [])
    (hinstalling : s.installing = none) (hsignals : ∀ y ∈ s.teams, y.signals = 0) (hyoung : young → Young s) : Calm s young s.passCycle := by
  have hquiet : ∀ x ∈ s.passCycle.slices, x.2.hod = none := by
    intro x hx
    obtain ⟨y, hy, rfl⟩ := List.mem_map.1 hx
    simp [hhods y hy]
  have hharts : ∀ x ∈ s.passCycle.harts, x.2.asked = [] := by
    have hpass : s.passCycle.harts = s.passHarts := by simp only [State.passCycle]
    rw [hpass]
    exact passHarts_asked hasked
  have hpending : ∀ y ∈ s.passCycle.teams, y.signals = 0 := by
    intro y hy
    obtain ⟨tm, htm, rfl⟩ := List.mem_map.1 hy
    have := hsignals tm htm
    unfold Team.passCycle
    split <;> exact this
  exact ⟨rfl, rfl, rfl, congrArg (List.map _) hops, hrelaxed, hinstalling, hquiet, hharts, hpending, hyoung⟩

/-- R37-R43: up to the picking of groups nothing changes that a calm cycle keeps. -/
theorem toPick {s : State} {young : Prop} (h : Calm s young s.passCycle) (hms : (s.clk + 1) * 5 / 12 / 1000000 = s.clk * 5 / 12 / 1000000) : Calm s young s.toPick := by
  unfold State.toPick
  extract_lets places s1 s2
  have htended : Calm s young ((s1.busyPlaces.foldl addNat places).foldl (fun (s : State) k => s.tendPart (k / 6) (k % 6)) s1) := h.foldl _ fun u hu k _ => hu.tendPart ..
  have hnoted := htended.foldl s1.refs fun u hu r _ => hu.noteResult r
  have h2 : Calm s young s2 :=
    ((hnoted.chargeCycle.watchWaits.serveQueues.serveHarts.stirOne.landOne.stirHods.stirCopy.dropTlb.stirRetire hms).raiseDue).stirMeters hms
  exact (h2.foldl _ fun u hu r _ => hu.tryAgain r).foldl _ fun u hu i _ => hu.signalTeam i

end Calm
end Sys2Proof.Machine
end

section
/-!
SUPPORT. Clauses of O41 about a cycle, a bin's age, parking, idle time and sleep (R39-R43, R116, R196).
-/
namespace Sys2Proof.Machine

/-- R37-R43: a calm cycle advances the clock, and the groups it forms are of one launch, at one PC where no bin holds a thread. -/
theorem State.cycle_calm {s : State} (hops : s.ops = []) (hrelaxed : s.relaxed = []) (hhods : ∀ x ∈ s.slices, x.2.hod = none) (hasked : ∀ x ∈ s.harts, x.2.asked = [])
    (hinstalling : s.installing = none) (hsignals : ∀ y ∈ s.teams, y.signals = 0) (hms : (s.clk + 1) * 5 / 12 / 1000000 = s.clk * 5 / 12 / 1000000) :
    s.cycle.clk = s.clk + 1 ∧ s.cycle.mem = s.mem ∧ ∀ g ∈ s.cycle.groups, g ∈ s.groups ∨ IssuedGroup s.cycle (Sys2Proof.Claims.poolEmpty s) g := by
  have hcalm : Calm s (Sys2Proof.Claims.poolEmpty s) s.toPick :=
    .toPick (.passCycle hops hrelaxed hhods hasked hinstalling hsignals .of_empty) hms
  obtain ⟨more, hformed, hissued⟩ := s.cycle_formed hcalm.pool
  refine ⟨hformed.clk.trans hcalm.clk, hformed.mem.trans hcalm.mem, fun g hg => ?_⟩
  rw [hformed.groups, hcalm.groups] at hg
  rcases List.mem_append.1 hg with hg | hg
  · exact .inl hg
  · have := hissued g hg
    simp only [IssuedGroup, hformed.team, hformed.thread]
    exact .inr this

/-- R42: the bin of a key that has come to age 64 is ripe. -/
theorem State.ripen_bin {s : State} {c p k : Nat} {b : Bin} (hb : (((s.core c).part p).bins)[k]? = some b) (hage : b.age = 63) :
    ((((s.modPart c p fun q => { q with bins := q.bins.map (ripen (b.launch * 2 ^ 32 + b.pc.toNat)) }).core c).part p).bins)[k]? = some { b with age := 64 } := by
  rw [State.modPart, core_modCore, if_pos rfl, part_modPart, if_pos rfl, List.getElem?_map, hb]
  simp [ripen, Bin.key, hage]

/-- R40, R43: a thread of a placed team that no bin holds enters the pool of its partition. -/
theorem State.enterPool_binned {s : State} {u : TRef} {tm : Team} {th : Thread} (htm : s.team u.team = some tm) (hth : s.thread u = some th) (hplaced : tm.status = .placed)
    (hwave : tm.wave = none) (hout : ((s.core (s.coreOf tm u.tid)).part (s.partOf tm u.tid)).binned u = false) :
    (((s.enterPool u).core (s.coreOf tm u.tid)).part (s.partOf tm u.tid)).binned u = true := by
  have hkey : s.poolKey u = some (tm.launch, th.pc) := by simp [State.poolKey, htm, hth]
  unfold State.enterPool
  simp only [htm, hplaced, hwave, hout, hkey]
  simp only [ne_eq, not_true_eq_false, Option.isSome_none, Bool.false_eq_true, or_self, if_false]
  split
  · next hfound =>
    rw [State.modPart, core_modCore, if_pos rfl, part_modPart, if_pos rfl]
    obtain ⟨b, hb, hlaunch⟩ := List.any_eq_true.1 hfound
    simp only [Part.binned, Bool.or_eq_true, List.any_eq_true, List.mem_map]
    exact .inl ⟨_, ⟨b, hb, rfl⟩, by simp [of_decide_eq_true hlaunch]⟩
  split
  · rw [State.modPart, core_modCore, if_pos rfl, part_modPart, if_pos rfl]
    simp [Part.binned]
  · rw [State.modPart, core_modCore, if_pos rfl, part_modPart, if_pos rfl]
    simp [Part.binned]

/-- R37: a ready thread is one of a placed team. -/
theorem State.ready_placed {s : State} {u : TRef} {tm : Team} {th : Thread} (htm : s.team u.team = some tm) (hth : s.thread u = some th) (h : s.ready u = true) : tm.status = .placed := by
  simp only [State.ready, htm, hth, State.canRun, Bool.and_eq_true, decide_eq_true_eq] at h
  obtain ⟨-, ⟨⟨⟨⟨⟨⟨hplaced, -⟩, -⟩, -⟩, -⟩, -⟩, -⟩⟩ := h
  exact hplaced

/-- R43: a ready thread that has not issued for 64 cycles is parked. -/
theorem State.park_parks {s : State} {u : TRef} {tm : Team} {th : Thread} (htm : s.team u.team = some tm) (hth : s.thread u = some th) (hwave : tm.wave = none) (hidle : 64 ≤ th.idle)
    (hready : s.ready u = true) (hout : ((s.core (s.coreOf tm u.tid)).part (s.partOf tm u.tid)).binned u = false) : s.park u = s.enterPool u := by
  unfold State.park
  simp [htm, hth, hwave, hidle, hready, hout]

/-- R116: 256 cycles without an access raise a timestamp by 1, up to the greatest. -/
theorem Thread.idleTick_eq {th : Thread} (h : 256 ≤ th.quiet) : th.idleTick = { th with pts := min (th.pts + 1) (2 ^ 64 - 1), quiet := th.quiet - 256 } := by
  simp [Thread.idleTick, idlePts, h, stamp]

end Sys2Proof.Machine
end

section
/-!
SUPPORT. Clauses of O41 about a due fault and a sleep (R196, R264, R350, R354).
-/
namespace Sys2Proof.Machine

/-! ### The trap of a faulted access -/

/-- R264: a thread with no access under way has nothing to drain. -/
theorem State.drain_idle {s : State} {u : TRef} {th : Thread} (hth : s.thread u = some th) (hidle : ∀ x ∈ th.log, x.busy = false) : s.drain u = s := by
  have hdeliver : ∀ k, s.deliver u k = s := by
    intro k
    unfold State.deliver
    simp only [hth, Option.bind_some]
    cases hk : th.log[k]? with
    | none => rfl
    | some en => simp [hidle en (List.mem_of_getElem? hk)]
  unfold State.drain
  exact List.foldlRecOn (motive := (· = s)) _ _ rfl fun v hv k _ => by rw [hv, hdeliver]

/-- R350: where every cause is the same, it is the lowest. -/
theorem lowestCause_only {l : List (Nat × TrapInfo)} {f : TrapInfo} (hne : l ≠ []) (hall : ∀ x ∈ l, x.2 = f) : lowestCause l = some f := by
  unfold lowestCause
  have hfold : ∀ (l : List (Nat × TrapInfo)) (m : Option (Nat × TrapInfo)), (∀ x ∈ l, x.2 = f) → (m.map (·.2) = some f ∨ (m = none ∧ l ≠ [])) →
      (l.foldl (fun (m : Option (Nat × TrapInfo)) x =>
        match m with
        | none => some x
        | some y => if x.2.code < y.2.code ∨ (x.2.code = y.2.code ∧ x.1 < y.1) then some x else some y) m).map (·.2) = some f := by
    intro l
    induction l with
    | nil => exact fun m _ h => h.resolve_right (by simp)
    | cons x l ih =>
      intro m hl h
      have hx := hl x (by simp)
      refine ih _ (fun y hy => hl y (by simp [hy])) (.inl ?_)
      cases m with
      | none => simp [hx]
      | some y =>
        have hy : y.2 = f := by simpa using h
        simp only []
        split <;> simp [hx, hy]
  exact hfold l none hall (.inr ⟨rfl, hne⟩)

/-- R354: the faults of one entry alone are due. -/
theorem Thread.dueFaults_only {th : Thread} {k : Nat} {en : LogEntry} {f : TrapInfo} (hen : th.log[k]? = some en) (hvalid : en.valid = true) (hfault : en.fault = some f)
    (hother : ∀ j x, j ≠ k → th.log[j]? = some x → x.fault = none) : th.dueFaults ≠ [] ∧ ∀ x ∈ th.dueFaults, x.2 = f := by
  refine ⟨List.ne_nil_of_mem (a := (en.order, f)) (List.mem_filterMap.2 ⟨en, List.mem_of_getElem? hen, by simp [hvalid, hfault]⟩), fun x hx => ?_⟩
  obtain ⟨e, he, hdue⟩ := List.mem_filterMap.1 hx
  obtain ⟨j, hj⟩ := List.getElem?_of_mem he
  split at hdue
  · by_cases hjk : j = k
    · subst hjk
      rw [hen] at hj
      cases hj
      simp only [hfault, Option.map_some, Option.some.injEq] at hdue
      rw [← hdue]
    · simp [hother j e hjk hj] at hdue
  · simp at hdue

/-- R264: a thread that does not wait withdraws from nothing. -/
theorem State.withdraw_idle {s : State} {u : TRef} {th : Thread} (hth : s.thread u = some th) (hwait : th.wait = none) : s.withdraw u = s := by
  unfold State.withdraw
  simp [hth, hwait]

/-- R264: a thread that does not wait enters its handler. -/
theorem State.enterHandler_thread {s : State} {u : TRef} {th : Thread} (hth : s.thread u = some th) (hwait : th.wait = none) (tm : Team) (info : TrapInfo) (tepc : W32) :
    (s.enterHandler u tm info tepc).thread u = some { th with
      tcause := BitVec.ofNat 32 info.code, taux := info.aux, tepc, inTrap := true, pc := Sys2Proof.Claims.entryOf s tm,
      late := [], stall := 0, awaits := false, granted := none, answered := false, log := th.log.map fun en => { en with fault := none } } := by
  obtain ⟨cores, hpool⟩ := OnlyCores.leavePool s u
  have hpooled : (s.leavePool u).thread u = some th := by rw [hpool]; exact hth
  have hentry : (s.leavePool u).trapEntryOf tm = Sys2Proof.Claims.entryOf s tm := by
    rw [hpool]
    unfold State.trapEntryOf Sys2Proof.Claims.entryOf
    rw [← BitVec.setWidth_eq_extractLsb' (by decide)]
    rfl
  unfold State.enterHandler
  simp only [State.withdraw_idle hpooled hwait, State.modThread_thread_same, hpooled, Option.map_some, hentry]

/-- R264, R350, R354: a fault that is due is taken where the next instruction has no cause of its own. -/
theorem State.takeDue_traps {s : State} {u : TRef} {tm : Team} {th : Thread} {f : TrapInfo} (htm : s.team u.team = some tm) (hth : s.thread u = some th) (hplaced : tm.status = .placed)
    (hexited : th.exited = false) (hwait : th.wait = none) (hidle : ∀ x ∈ th.log, x.busy = false) (hdue : th.dueFaults ≠ [] ∧ ∀ x ∈ th.dueFaults, x.2 = f)
    (htrap : Sys2Proof.Claims.canTrapAs s tm th false) (hcause : s.nextCause u = none) : s.takeDue u = s.enterHandler u tm f th.pc := by
  obtain ⟨hhandler, hwave, hentry⟩ := htrap
  obtain ⟨hne, hall⟩ := hdue
  have hplacing : th.placing = false := List.any_eq_false.2 fun x hx => by simp [hidle x hx]
  have hboundary : th.atBoundary = true := by simp [Thread.atBoundary, hexited, hplacing, Thread.why, hwait]
  have hdrain := State.drain_idle hth hidle
  have hhandled : s.unhandled tm th false = false := by
    unfold State.unhandled
    rcases hentry with h | h
    · simp [h, hhandler]
    · simpa [hhandler] using fun _ => h
  unfold State.takeDue
  simp only [htm, hth]
  rw [if_neg (by simp [hplaced, hboundary, hne]), hdrain, if_neg (by simp [hwave]), hcause]
  unfold State.trapThread
  simp only [hdrain, htm, hth, Option.map_none, Option.toList_none, List.append_nil, lowestCause_only hne hall, hhandled]
  simp

/-! ### Sleep (R196) -/

/-- A thread that waits goes on after its wait. -/
theorem State.resume_goesOn {s : State} {u : TRef} {th : Thread} {w : Wait} {n : W32} (hth : s.thread u = some th) (hwait : th.waitsFor w n) : Sys2Proof.Claims.GoesOnAt (s.resume u) u n := by
  refine ⟨th.resumed, by rw [State.resume_thread, if_pos rfl, hth, Option.map_some], rfl, ?_⟩
  unfold Thread.waitsFor at hwait
  obtain ⟨x, hx, hxw⟩ := Option.map_eq_some_iff.1 hwait
  simp only [Prod.mk.injEq] at hxw
  simp [Thread.resumed, hx, hxw.2]

theorem State.why_of_waitsFor {s : State} {u : TRef} {th : Thread} {w : Wait} {n : W32} (hth : s.thread u = some th) (hwait : th.waitsFor w n) : s.why u = some w := by
  unfold Thread.waitsFor at hwait
  obtain ⟨x, hx, hxw⟩ := Option.map_eq_some_iff.1 hwait
  simp only [Prod.mk.injEq] at hxw
  simp [State.why, hth, Thread.why, hx, hxw.1]

end Sys2Proof.Machine
end

section
/-!
SUPPORT. Clauses of O41 about the end of a fence (R123, R125, R315): the answer of its last marker or of its last flush lets the thread go on.
-/
namespace Sys2Proof.Machine

theorem State.mem_refs {s : State} {u : TRef} {th : Thread} (hth : s.thread u = some th) : u ∈ s.refs := by
  obtain ⟨tm, htm, hk⟩ : ∃ tm, s.team u.team = some tm ∧ tm.threads[u.tid]? = some th := by
    unfold State.thread at hth
    cases htm : s.team u.team with
    | none => simp [htm] at hth
    | some tm => exact ⟨tm, rfl, by simpa [htm] using hth⟩
  have hi : u.team < s.teams.length := (List.getElem?_eq_some_iff.1 htm).1
  have htid : u.tid < tm.threads.length := (List.getElem?_eq_some_iff.1 hk).1
  unfold State.refs
  refine List.mem_flatMap.2 ⟨u.team, mem_numbers.2 ⟨by omega, by omega⟩, List.mem_map.2 ⟨u.tid, mem_numbers.2 ⟨by omega, ?_⟩, rfl⟩⟩
  simpa [htm] using htid

/-- R123: an answer is not of the thread's fence, or it is the last one, or there are more to come. -/
theorem State.fenceAnswered_cases (s : State) (v : TRef) (isFab : Bool) (k : Nat) :
    s.fenceAnswered v isFab k = s ∨ s.fenceAnswered v isFab k = s.resume v ∨ ∃ f, s.fenceAnswered v isFab k = s.modThread v f := by
  unfold State.fenceAnswered
  split
  · next fab sys _ =>
    simp only []
    generalize (if isFab then fab else sys).contains k = mine
    generalize (if isFab then fab.filter (· ≠ k) else fab) = fab'
    generalize (if isFab then sys else sys.filter (· ≠ k)) = sys'
    split
    · split
      · exact .inr (.inl rfl)
      · exact .inr (.inr ⟨_, rfl⟩)
    · exact .inl rfl
  · exact .inl rfl

/-- The answer of one thread's fence leaves every other thread. -/
theorem State.fenceAnswered_thread_other (s : State) {v u : TRef} (isFab : Bool) (k : Nat) (h : u ≠ v) : (s.fenceAnswered v isFab k).thread u = s.thread u := by
  obtain hs | hs | ⟨f, hs⟩ := s.fenceAnswered_cases v isFab k
  · rw [hs]
  · rw [hs, State.resume_thread, if_neg h]
  · rw [hs, State.modThread_thread_other s f h]

/-- A thread that does not wait has no fence to be answered. -/
theorem State.fenceAnswered_idle {s : State} {v : TRef} {th : Thread} (hth : s.thread v = some th) (hwait : th.wait = none) (isFab : Bool) (k : Nat) : s.fenceAnswered v isFab k = s := by
  unfold State.fenceAnswered
  simp [State.why, hth, Thread.why, hwait]

/-- A fence that waits for one answer more: a marker, or the flush of a port. -/
def lastAnswer (isFab : Bool) (k : Nat) : Wait := if isFab then .fence [k] [] else .fence [] [k]

/-- R123: the last answer lets the thread go on. -/
theorem State.fenceAnswered_last {s : State} {v : TRef} {isFab : Bool} {k : Nat} (h : s.why v = some (lastAnswer isFab k)) : s.fenceAnswered v isFab k = s.resume v := by
  unfold State.fenceAnswered
  rw [h]
  cases isFab <;> simp [lastAnswer]

theorem GoesOnAt.of_thread {s t : State} {u : TRef} {n : W32} (h : t.thread u = s.thread u) (hs : Sys2Proof.Claims.GoesOnAt s u n) : Sys2Proof.Claims.GoesOnAt t u n := by
  unfold Sys2Proof.Claims.GoesOnAt
  rw [h]
  exact hs

/-- R123: as the threads' fences are answered one after another, a thread that waits for this answer alone goes on. -/
theorem State.fencesAnswered_goesOn {s : State} {u : TRef} {th : Thread} {isFab : Bool} {k : Nat} {n : W32} (hth : s.thread u = some th) (hwait : th.waitsFor (lastAnswer isFab k) n)
    {l : List TRef} (hu : u ∈ l) : Sys2Proof.Claims.GoesOnAt (l.foldl (fun (s : State) t => s.fenceAnswered t isFab k) s) u n := by
  have hstays : ∀ (l : List TRef) (s : State), Sys2Proof.Claims.GoesOnAt s u n → Sys2Proof.Claims.GoesOnAt (l.foldl (fun (s : State) t => s.fenceAnswered t isFab k) s) u n :=
    fun l s h => List.foldlRecOn (motive := fun t : State => Sys2Proof.Claims.GoesOnAt t u n) _ _ h fun t ht v _ => by
      by_cases hv : u = v
      · subst hv
        have hgo := ht
        obtain ⟨tv, htv, hnone, -⟩ := hgo
        rw [State.fenceAnswered_idle htv hnone]
        exact ht
      · exact GoesOnAt.of_thread (State.fenceAnswered_thread_other t isFab k hv) ht
  induction l generalizing s with
  | nil => simp at hu
  | cons v l ih =>
    by_cases hv : u = v
    · subst hv
      rw [List.foldl_cons]
      refine hstays l _ ?_
      rw [State.fenceAnswered_last (State.why_of_waitsFor hth hwait)]
      exact State.resume_goesOn hth hwait
    · refine ih ?_ ((List.mem_cons.1 hu).resolve_left hv)
      rw [State.fenceAnswered_thread_other s isFab k hv, hth]

theorem State.fenceAnswered_relaxed (s : State) (v : TRef) (isFab : Bool) (k : Nat) : (s.fenceAnswered v isFab k).relaxed = s.relaxed := by
  obtain hs | hs | ⟨f, hs⟩ := s.fenceAnswered_cases v isFab k
  · rw [hs]
  · obtain ⟨_, _, _, _, _, _, _, _, h, -⟩ := Woken.resume s v
    rw [hs, h]
  · rw [hs]
    rfl

theorem State.fenceAnswered_lost (s : State) (v : TRef) (isFab : Bool) (k : Nat) : (s.fenceAnswered v isFab k).lost = s.lost := by
  obtain hs | hs | ⟨f, hs⟩ := s.fenceAnswered_cases v isFab k
  · rw [hs]
  · obtain ⟨_, _, _, _, _, _, _, _, h, -⟩ := Woken.resume s v
    rw [hs, h]
  · rw [hs]
    rfl

theorem State.releaseDue_lost (s : State) : s.releaseDue.lost = s.lost := rfl

/-! ### Markers (R315) -/

/-- R315: with the stores before it performed, a marker is answered, and the thread whose fence waits for it alone goes on. -/
theorem exec_fenceMarkerAnswer_goesOn {s : State} {u : TRef} {th : Thread} {m : Marker} {n : W32} (hth : s.thread u = some th) (hlost : (3, m.port) ∉ s.lost)
    (hmarker : s.markers.find? (·.id = m.id) = some m) (hown : ∀ o ∈ s.ownStores, o.id ∉ m.covers) (hwait : th.waitsFor (.fence [m.id] []) n) :
    ∃ t, exec (.fenceMarkerAnswer m.id false) s = .next t ∧ Sys2Proof.Claims.GoesOnAt t u n ∧ t.mem = s.mem := by
  have hnone : (s.ownStores.any fun o => m.covers.contains o.id) = false := List.any_eq_false.2 fun o ho => by simpa using hown o ho
  have hgone : s.lost.contains (3, m.port) = false := by simpa using hlost
  have hexec : exec (.fenceMarkerAnswer m.id false) s = .next ((s.refs.foldl (fun (s : State) t => s.fenceAnswered t true m.id)
      ({ s with markers := s.markers.filter (·.id ≠ m.id), launches := s.launches.map fun (la : Launch) => la.answered true m.id,
                queues := s.queues.map fun (q : Queue) => q.answered true m.id } : State).releaseDue).dropDone) := by
    change execFenceMarkerAnswer m.id false s = _
    unfold execFenceMarkerAnswer
    simp only [hmarker, hnone, Bool.false_eq_true, if_false]
    simp only [State.releaseDue_lost, hgone, Bool.or_false, Bool.false_eq_true, if_false]
    rfl
  refine ⟨_, hexec, ?_, ?_⟩
  · exact State.fencesAnswered_goesOn (isFab := true) (s := State.releaseDue { s with markers := _, launches := _, queues := _ }) hth hwait (State.mem_refs hth)
  · exact List.foldlRecOn (motive := fun x : State => x.mem = s.mem) _ _ rfl fun x hx v _ => (State.fenceAnswered_mem ..).trans hx

/-! ### Flushes (R125) -/

/-- R125: a relaxed store that lands changes memory alone. -/
theorem State.landPosted_eq (s : State) (p : Posted) : ∃ mem free, s.landPosted p = { s with mem := mem, free := free } := by
  unfold State.landPosted
  split
  · exact ⟨s.mem, s.free, rfl⟩
  split
  · exact ⟨s.mem, s.free + 1, rfl⟩
  · exact ⟨_, s.free + 1, rfl⟩

theorem State.landPort_eq (s : State) (port : Nat) : ∃ mem free, s.landPort port = { s with mem := mem, free := free, relaxed := s.relaxed.filter (·.port ≠ port) } := by
  unfold State.landPort
  refine List.foldlRecOn (motive := fun x : State => ∃ mem free, x = { s with mem := mem, free := free, relaxed := s.relaxed.filter (·.port ≠ port) }) _ _
    ⟨s.mem, s.free, rfl⟩ fun x hx p _ => ?_
  obtain ⟨mem, free, rfl⟩ := hx
  obtain ⟨mem', free', h⟩ := State.landPosted_eq { s with mem := mem, free := free, relaxed := s.relaxed.filter (·.port ≠ port) } p
  exact ⟨mem', free', h⟩

/-- R125: the flush of a port completes: no relaxed store of it is left, and the thread whose fence waits for it alone goes on. -/
theorem exec_fenceSysFlushComplete_goesOn {s : State} {u : TRef} {th : Thread} {port : Nat} {n : W32} (hth : s.thread u = some th) (hlost : (port, 0) ∉ s.lost)
    (hwait : th.waitsFor (.fence [] [port]) n) :
    ∃ t, exec (.fenceSysFlushComplete port) s = .next t ∧ Sys2Proof.Claims.GoesOnAt t u n ∧ ∀ x ∈ t.relaxed, x.port ≠ port := by
  obtain ⟨mem, free, hland⟩ := s.landPort_eq port
  have hkept : s.lost.contains (port, 0) = false := by simpa using hlost
  have hexec : exec (.fenceSysFlushComplete port) s = .next (s.refs.foldl (fun (s : State) t => s.fenceAnswered t false port)
      ({ s.landPort port with launches := (s.landPort port).launches.map fun (la : Launch) => la.answered false port,
                              queues := (s.landPort port).queues.map fun (q : Queue) => q.answered false port } : State).releaseDue) := by
    change execFenceSysFlushComplete port s = _
    unfold execFenceSysFlushComplete
    simp only []
    have hfolds : ∀ (awaits : State → TRef → Bool) (f : State → TRef → State) (l : List TRef) (x : State), x.lost.contains (port, 0) = false →
        l.foldl (fun (s : State) t => if s.lost.contains (port, 0) && awaits s t then f s t else s.fenceAnswered t false port) x
          = l.foldl (fun (s : State) t => s.fenceAnswered t false port) x := by
      intro awaits f l
      induction l with
      | nil => exact fun x _ => rfl
      | cons v l ih =>
        intro x hx
        rw [List.foldl_cons, List.foldl_cons, hx, Bool.false_and, if_neg Bool.false_ne_true]
        exact ih _ (by rw [State.fenceAnswered_lost]; exact hx)
    rw [hland]
    refine congrArg Host.Outcome.next (hfolds _ _ _ _ ?_)
    exact hkept
  refine ⟨_, hexec, ?_, ?_⟩
  · exact State.fencesAnswered_goesOn (isFab := false) (s := State.releaseDue _) (by rw [hland]; exact hth) hwait (State.mem_refs hth)
  · refine List.foldlRecOn (motive := fun x : State => ∀ y ∈ x.relaxed, y.port ≠ port) _ _ ?_ fun x hx v _ => ?_
    · rw [hland]
      exact fun y hy => by simpa using (List.mem_filter.1 hy).2
    · rw [State.fenceAnswered_relaxed]
      exact hx

end Sys2Proof.Machine
end

section
/-!
SUPPORT. Clauses of O41 about a code fetch (R191, R359): it lands with the bytes that it has read, or ends where its source cannot be read.
-/
namespace Sys2Proof.Machine

/-- An event that fills no line. -/
def fillsNone : Instr → Prop
  | .l2MissFill _ _ _ _ _ _ _ => False
  | _ => True

/-- What the end of a fetch leaves once it has changed its slot: no request is made, no line missed, and no slot of the team changed. -/
structure SlotStands (i : Nat) (s t : State) : Prop where
  slices : t.slices = s.slices
  walks : t.walks = s.walks
  senders : t.senders = s.senders
  mem : t.mem = s.mem
  agenda : ∃ l, t.agenda = s.agenda ++ l ∧ ∀ x ∈ l, fillsNone x
  team : ∀ tm, s.team i = some tm → ∃ tn, t.team i = some tn ∧ tn.slots = tm.slots

namespace SlotStands

theorem refl (i : Nat) (s : State) : SlotStands i s s := ⟨rfl, rfl, rfl, rfl, ⟨[], by simp⟩, fun tm h => ⟨tm, h, rfl⟩⟩

theorem trans {i : Nat} {s t u : State} (h : SlotStands i s t) (k : SlotStands i t u) : SlotStands i s u := by
  obtain ⟨l, hl, hnone⟩ := h.agenda
  obtain ⟨m, hm, mnone⟩ := k.agenda
  refine ⟨k.slices.trans h.slices, k.walks.trans h.walks, k.senders.trans h.senders, k.mem.trans h.mem, ⟨l ++ m, by rw [hm, hl, List.append_assoc], fun x hx => ?_⟩, fun tm htm => ?_⟩
  · exact (List.mem_append.1 hx).elim (hnone x) (mnone x)
  · obtain ⟨tn, htn, hslots⟩ := h.team tm htm
    obtain ⟨tu, htu, kslots⟩ := k.team tn htn
    exact ⟨tu, htu, kslots.trans hslots⟩

theorem of_cores (i : Nat) {s t : State} (h : OnlyCores s t) : SlotStands i s t := by
  obtain ⟨_, rfl⟩ := h
  exact ⟨rfl, rfl, rfl, rfl, ⟨[], by simp⟩, fun tm h => ⟨tm, h, rfl⟩⟩

theorem modTeam (i : Nat) (s : State) (j : Nat) {f : Team → Team} (hf : ∀ tm, (f tm).slots = tm.slots) : SlotStands i s (s.modTeam j f) := by
  refine ⟨rfl, rfl, rfl, rfl, ⟨[], by simp⟩, fun tm htm => ?_⟩
  by_cases hij : i = j
  · subst hij
    exact ⟨f tm, by rw [State.modTeam_team_same, htm, Option.map_some], hf tm⟩
  · exact ⟨tm, by rw [State.modTeam_team_other s f hij, htm], rfl⟩

theorem modThread (i : Nat) (s : State) (r : TRef) (f : Thread → Thread) : SlotStands i s (s.modThread r f) := modTeam i s r.team fun _ => rfl

theorem later (i : Nat) (s : State) {l : List Instr} (h : ∀ x ∈ l, fillsNone x) : SlotStands i s (s.later l) :=
  ⟨rfl, rfl, rfl, rfl, ⟨l, rfl, h⟩, fun tm htm => ⟨tm, htm, rfl⟩⟩

theorem wakeTeam (i : Nat) (s : State) (j : Nat) : SlotStands i s (s.wakeTeam j) := by
  unfold State.wakeTeam
  split
  · exact refl i s
  split
  · refine trans (modTeam i s j ?_) (later i _ ?_)
    · exact fun _ => rfl
    · simp [fillsNone]
  · exact refl i s

theorem resumeAt (i : Nat) (s : State) (r : TRef) (pc : W32) : SlotStands i s (s.resumeAt r pc) := by
  unfold State.resumeAt
  refine trans (trans (trans (modThread i s r _) (modTeam i _ r.team ?_)) (of_cores i (OnlyCores.enterPool _ r))) (wakeTeam i _ r.team)
  exact fun _ => rfl

/-- R191: the threads that wait for a slot are woken. -/
theorem wakeSlot (i : Nat) (s : State) (j slot : Nat) : SlotStands i s (s.wakeSlot j slot) := by
  unfold State.wakeSlot
  split
  · exact refl i s
  · refine List.foldlRecOn (motive := SlotStands i s) _ _ (refl i s) fun u hu k _ => hu.trans ?_
    simp only []
    split
    · split
      · exact resumeAt ..
      · exact refl i u
    · split
      · exact resumeAt ..
      · exact refl i u
    · exact refl i u

/-- R245: an operation leaves the matrix order of its team. -/
theorem nextMatrix (i : Nat) (s : State) (j id : Nat) : SlotStands i s (s.nextMatrix j id) := by
  unfold State.nextMatrix
  split
  · exact refl i s
  split
  · refine trans (modTeam i s j ?_) (later i _ fun x hx => ?_)
    · exact fun _ => rfl
    · obtain ⟨k, -, rfl⟩ := List.mem_map.1 hx
      exact trivial
  · exact refl i s

/-- R55, R202: an operation is over. -/
theorem dropOp (i : Nat) (s : State) (o : EngOp) : SlotStands i s (s.dropOp o) := by
  unfold State.dropOp
  extract_lets s1
  have h1 : SlotStands i s s1 := by
    refine trans (trans (t := { s with ops := s.ops.filter (·.id ≠ o.id) }) ⟨rfl, rfl, rfl, rfl, ⟨[], by simp⟩, fun tm h => ⟨tm, h, rfl⟩⟩ (modTeam i _ o.t.team ?_)) (nextMatrix i _ o.t.team o.id)
    exact fun _ => rfl
  split
  · split
    · exact h1.trans (later i s1 (by simp [fillsNone]))
    · exact h1
  · exact h1

end SlotStands

/-- R202: an operation that is over is gone. -/
theorem State.dropOp_op (s : State) (o : EngOp) : (s.dropOp o).op o.id = none := by
  have hops : (s.dropOp o).ops = s.ops.filter (·.id ≠ o.id) := by
    unfold State.dropOp State.nextMatrix State.endedAt
    extract_lets s1
    have h1 : s1.ops = s.ops.filter (·.id ≠ o.id) := by
      unfold s1
      split
      · rfl
      · split <;> rfl
    split
    · split
      · exact h1
      · exact h1
    · exact h1
  unfold State.op
  rw [hops]
  refine List.find?_eq_none.2 fun p hp => ?_
  simpa using (List.mem_filter.1 hp).2

theorem State.modOverlay_team {s : State} {i : Nat} {tm : Team} (htm : s.team i = some tm) (slot : Nat) (f : Overlay → Overlay) :
    ∃ tn, (s.modOverlay i slot f).team i = some tn ∧ tn.overlay slot = f (tm.overlay slot) := by
  refine ⟨_, by rw [State.modOverlay, State.modTeam_team_same, htm, Option.map_some], ?_⟩
  simp [Team.overlay]

theorem SlotStands.overlay {s t : State} {i : Nat} {tm : Team} (h : SlotStands i s t) (htm : s.team i = some tm) (slot : Nat) :
    ∃ tn, t.team i = some tn ∧ tn.overlay slot = tm.overlay slot := by
  obtain ⟨tn, htn, hslots⟩ := h.team tm htm
  exact ⟨tn, htn, by simp [Team.overlay, hslots]⟩

/-- R191: what a fetch that lands changes beside its slot. -/
theorem State.landFetch_stands (s : State) (o : EngOp) (slot len : Nat) :
    SlotStands o.t.team (s.modOverlay o.t.team slot fun v => { v with state := 2, bytes := o.fetched (len / 64) }) (s.landFetch o slot len) := by
  unfold State.landFetch
  extract_lets i bytes s1 s2
  have h2 : SlotStands i s1 s2 := .of_cores i (.trans ⟨_, rfl⟩ (.modCore ..))
  exact (h2.trans (.wakeSlot i s2 i slot)).trans (.dropOp i _ o)

/-- R359: what a fetch that ends without landing changes beside its slot. -/
theorem State.failFetch_stands (s : State) (o : EngOp) (slot : Nat) :
    SlotStands o.t.team (s.modOverlay o.t.team slot fun v => { v with state := 0, failed := true }) (s.failFetch o slot) :=
  (SlotStands.wakeSlot _ _ _ _).trans (.dropOp _ _ o)

/-! ### Attempts (R119, R289) -/

/-- R119, R289: what makes no request and misses no line waits for nothing. -/
theorem State.postpone_none {s u : State} (hslices : u.slices = s.slices) (hwalks : u.walks = s.walks) (hagenda : ∃ l, u.agenda = s.agenda ++ l ∧ ∀ x ∈ l, fillsNone x)
    (who : Asking) (asker : Requester) (port : Nat) (granted : Option (Nat × Nat)) : s.postpone u who asker port granted = none := by
  have hstanding : ∀ k, u.standing k port = s.standing k port := fun k => by unfold State.standing State.slice; rw [hslices, hwalks]
  have hrefused : s.refusedRequest u who port granted = none := by
    have hrequested : s.requested u port = [] := List.filter_eq_nil_iff.2 fun k _ => by simp [hstanding k]
    unfold State.refusedRequest
    rw [hrequested]
    rfl
  have hmisses : s.freshMisses u asker = [] := by
    obtain ⟨l, hl, hnone⟩ := hagenda
    unfold State.freshMisses
    simp only [hl, List.drop_left]
    refine List.filter_eq_nil_iff.2 fun x hx => ?_
    have := hnone x hx
    split
    · exact absurd this id
    · simp
  unfold State.postpone
  simp only [hrefused, hmisses]
  rfl

/-- R290: an operation that goes on uses the place that it was granted. -/
def State.granted (s : State) (o : EngOp) : State := if o.granted.isNone then s else (s.usePlace o.granted).setOp { o with granted := none }

theorem State.usePlace_stands (s : State) (p : Option (Nat × Nat)) : (s.usePlace p).teams = s.teams ∧ (s.usePlace p).senders = s.senders ∧ (s.usePlace p).mem = s.mem := by
  unfold State.usePlace State.modStanding
  split
  · split <;> exact ⟨rfl, rfl, rfl⟩
  · exact ⟨rfl, rfl, rfl⟩

theorem State.granted_stands (s : State) (o : EngOp) : (s.granted o).teams = s.teams ∧ (s.granted o).senders = s.senders ∧ (s.granted o).mem = s.mem := by
  unfold State.granted
  split
  · exact ⟨rfl, rfl, rfl⟩
  · exact s.usePlace_stands o.granted

/-- R119, R289: what an operation need not wait for is performed. -/
theorem State.attempt_performed {s : State} {o : EngOp} {f : State → State}
    (h : (s.granted o).postpone (f (s.granted o)) (.op o.id) (.op o.id) (enginePort o.core) o.granted = none) : s.attempt o f = f (s.granted o) := by
  unfold State.attempt
  change (match (s.granted o).postpone (f (s.granted o)) (.op o.id) (.op o.id) (enginePort o.core) o.granted with | some x => x.1 | none => f (s.granted o)) = _
  rw [h]

/-! ### The events (R191, R359) -/

/-- R191: a fetch whose operation has read every byte, and waits for nothing, lands. -/
theorem State.completeOp_lands {s : State} {id slot len : Nat} {src : W64} {o o1 : EngOp} (hop : s.op id = some o) (hrun : s.mayRun o = true)
    (hread : (s.runOp id o.todo.length).op id = some o1) (hheld : (s.runOp id o.todo.length).opHeld id = false) (hkind : o1.kind = .cfetch slot src len) (htodo : o1.todo = [])
    (hteam : ((s.runOp id o.todo.length).team o1.t.team).isSome) (hid : o1.id = id) :
    ∃ tn, (s.completeOp id).team o1.t.team = some tn ∧ (tn.overlay slot).state = 2 ∧ (tn.overlay slot).bytes = o1.fetched (len / 64) ∧ (s.completeOp id).op id = none
      ∧ (s.completeOp id).mem = (s.runOp id o.todo.length).mem := by
  unfold State.completeOp
  simp only [hop, hrun, hread, hheld, htodo]
  generalize s.runOp id o.todo.length = x at *
  obtain ⟨tm, htm⟩ := Option.isSome_iff_exists.1 hteam
  obtain ⟨hteams, hsenders, hmem⟩ := x.granted_stands o1
  have hlanded := (x.granted o1).landFetch_stands o1 slot len
  have hattempt : x.attempt o1 (fun s => s.closeOp o1) = (x.granted o1).landFetch o1 slot len := by
    have hclose : ∀ s : State, s.closeOp o1 = s.landFetch o1 slot len := fun s => by simp [State.closeOp, hkind]
    simp only [hclose]
    exact State.attempt_performed (State.postpone_none (s := x.granted o1) hlanded.slices hlanded.walks hlanded.agenda ..)
  have hawaits : ((x.granted o1).landFetch o1 slot len).awaitsEntry (.op id) = false := by
    obtain ⟨-, hentry⟩ : x.hodHolds (.op id) = false ∧ x.awaitsEntry (.op id) = false := by simpa [State.opHeld] using hheld
    have hwindows : ((x.granted o1).landFetch o1 slot len).senders = x.senders := hlanded.senders.trans hsenders
    unfold State.awaitsEntry at hentry ⊢
    rw [hwindows, hentry]
  simp only [Bool.not_true, Bool.false_eq_true, if_false, List.isEmpty_nil, Bool.or_false, hattempt, hawaits]
  obtain ⟨tl, htl, hslot⟩ := State.modOverlay_team (s := x.granted o1) (i := o1.t.team) (tm := tm) (by rw [State.team, hteams]; exact htm) slot
    fun v => { v with state := 2, bytes := o1.fetched (len / 64) }
  obtain ⟨tn, htn, hkept⟩ := hlanded.overlay htl slot
  exact ⟨tn, htn, by rw [hkept, hslot], by rw [hkept, hslot], hid ▸ State.dropOp_op _ o1, hlanded.mem.trans hmem⟩

/-- R359: a fetch one of whose reads faults ends without landing. -/
theorem State.stopOp_fails {s : State} {id slot len : Nat} {src : W64} {o : EngOp} (hop : s.op id = some o) (hkind : o.kind = .cfetch slot src len) (hteam : (s.team o.t.team).isSome)
    (hid : o.id = id) (f : TrapInfo) :
    ∃ tn, (s.stopOp id f).team o.t.team = some tn ∧ (tn.overlay slot).state = 0 ∧ (tn.overlay slot).failed = true ∧ (s.stopOp id f).op id = none ∧ (s.stopOp id f).mem = s.mem := by
  obtain ⟨tm, htm⟩ := Option.isSome_iff_exists.1 hteam
  have hstop : s.stopOp id f = s.failFetch o slot := by
    unfold State.stopOp
    simp only [hop, hkind]
  obtain ⟨tl, htl, hslot⟩ := State.modOverlay_team htm slot fun v => { v with state := 0, failed := true }
  have hfailed := s.failFetch_stands o slot
  obtain ⟨tn, htn, hkept⟩ := hfailed.overlay htl slot
  rw [hstop]
  exact ⟨tn, htn, by rw [hkept, hslot], by rw [hkept, hslot], hid ▸ State.dropOp_op _ o, hfailed.mem⟩

/-- R191, R359: the fetch of a slot of a team is an operation of that team. -/
theorem State.fetchOp_team {s : State} {i slot : Nat} {o : EngOp} (h : s.fetchOp i slot = some o) : o.t.team = i := by
  have := List.find?_some h
  simp only [Bool.and_eq_true, decide_eq_true_eq] at this
  exact this.1

end Sys2Proof.Machine
end

section
/-!
O41: the events that act on threads.
-/
namespace Sys2Proof.Machine

theorem State.partThreads_nodup (s : State) (c p : Nat) : (s.partThreads c p).Nodup := s.refs_nodup.filter _

/-! ## Obligations.ThreadEvents -/

/-- Settles O41, event by event: the cycle by what a calm one keeps and by what its groups hold, each other event by what it makes of its thread, bin, slot or port. -/
theorem threadEvents : Obligations.ThreadEvents := by
  unfold Obligations.ThreadEvents
  intro s u tm th htm hth
  refine ⟨?calm, ?picked, ?ripe, ?parked, ?idle, ?trap, ?sleep, ?landed, ?failed, ?marker, ?flush⟩
  case calm =>
    intro hops hrelaxed hhods hasked hinstalling hsignals hms
    obtain ⟨hclk, hmem, hgroups⟩ := State.cycle_calm hops hrelaxed hhods hasked hinstalling hsignals hms
    exact ⟨s.cycle, rfl, hclk, hmem, hgroups⟩
  case picked =>
    intro c p k
    have hfirst : ∀ {a b : List Candidate}, p < 6 → s.pickPlaces = [6 * c + p] → ((s.toPick.core c).part p).busy0 = 0 →
        s.toPick.choose ((s.toPick.core c).part p) (s.toPick.partThreads c p) = some (k, a, b) → a ≠ [] →
        ∃ rest, s.cycle.groups = s.toPick.groups ++ a.map (·.t) :: rest := fun hp hplaces hbusy => State.cycle_first hp hplaces hbusy
    generalize s.toPick = x at hfirst ⊢
    intro _ part l w takes hp hplaces hbusy hne hlaunch
    have htakes : ∀ {a b : List Candidate} {from' : List TRef}, x.choose part (x.partThreads c p) = some (k, a, b) → a ≠ [] →
        Takes (launchWidth x k) from' (a.map (·.t)) → takes from' := by
      intro a b from' hchoose hfound htaken
      obtain ⟨rest, hrest⟩ := hfirst hp hplaces hbusy hchoose hfound
      obtain ⟨hnodup, hmem, hlen⟩ := htaken
      exact ⟨s.cycle, a.map (·.t), rest, rfl, hrest, hnodup, hmem, hlen⟩
    refine ⟨fun hbins hwait => ?_, fun b rest hbins hk hage hmember => ?_⟩
    · obtain ⟨v, hv, pc, hvpc, hleast, a, b, hchoose, hfound, htaken⟩ := State.choose_lowest hlaunch (x.partThreads_nodup c p) hne hbins hwait
      exact ⟨v, hv, pc, hvpc, hleast, htakes hchoose hfound htaken⟩
    · subst hk
      obtain ⟨a, d, hchoose, hfound, htaken⟩ := State.choose_aged hlaunch (x.partThreads_nodup c p) hbins hage hmember
      exact htakes hchoose hfound htaken
  case ripe =>
    intro c p k b hb hage
    exact ⟨_, rfl, State.ripen_bin hb hage, rfl, rfl⟩
  case parked =>
    intro hwave hidle hready hout
    refine ⟨s.enterPool u, ?_, ?_, ?_, State.enterPool_mem s u⟩
    · exact congrArg Host.Outcome.next (State.park_parks htm hth hwave hidle hready hout)
    · exact State.enterPool_binned htm hth (State.ready_placed htm hth hready) hwave hout
    · rw [State.enterPool_thread, hth]
  case idle =>
    intro hplaced hwave hexited hquiet
    refine ⟨s.modThread u fun th => if th.exited then th else th.idleTick, ?_, ?_, rfl⟩
    · change execPtsIdleTick (.thread u) s = _
      simp [execPtsIdleTick, State.idleTick, htm, hplaced, hwave]
    · rw [State.modThread_thread_same, hth, Option.map_some, if_neg (by simp [hexited]), Thread.idleTick_eq hquiet]
  case trap =>
    intro k en f hplaced hexited hwait hidle hen hvalid hfault hother htrap hcause
    have hthread := State.enterHandler_thread hth hwait tm f th.pc
    refine ⟨s.enterHandler u tm f th.pc, ?_, ?_, State.enterHandler_mem .., ?_⟩
    · exact congrArg Host.Outcome.next (State.takeDue_traps htm hth hplaced hexited hwait hidle (Thread.dueFaults_only hen hvalid hfault hother) htrap hcause)
    · exact ⟨_, hthread, rfl, rfl, rfl, rfl, rfl, hwait, rfl, rfl, rfl, rfl⟩
    · refine ⟨{ en with fault := none }, ?_, hvalid, rfl, rfl⟩
      rw [hthread, Option.bind_some, List.getElem?_map, hen, Option.map_some]
  case sleep =>
    intro d n hwait hd
    refine ⟨s.resume u, ?_, State.resume_goesOn hth hwait, (Woken.resume s u).mem⟩
    change execSleepDeadline u s = _
    simp [execSleepDeadline, State.why_of_waitsFor hth hwait, hd]
  case landed =>
    intro i slot o o1 src len hfetch hop hrun x hread hheld hid hi hkind htodo hteam
    subst hi
    obtain ⟨tn, htn, hstate, hbytes, hgone, hmem⟩ := State.completeOp_lands hop hrun hread hheld hkind htodo hteam hid
    refine ⟨s.completeOp o.id, tn, ?_, htn, hstate, hbytes, hgone, hmem⟩
    change execCfetchLanded o1.t.team slot s = _
    simp [execCfetchLanded, hfetch]
  case failed =>
    intro i slot o src len f hfetch hop hkind hteam hfaulting
    obtain rfl := State.fetchOp_team hfetch
    obtain ⟨tn, htn, hstate, hended, hgone, hmem⟩ := State.stopOp_fails hop hkind hteam rfl f
    refine ⟨s.stopOp o.id f, tn, ?_, htn, hstate, hended, hgone, hmem⟩
    change execCfetchFailed o.t.team slot s = _
    simp [execCfetchFailed, hfetch, hfaulting]
  case marker =>
    intro m n hlost hmarker hown hwait
    exact exec_fenceMarkerAnswer_goesOn hth hlost hmarker hown hwait
  case flush =>
    intro port n hlost hwait
    exact exec_fenceSysFlushComplete_goesOn hth hlost hwait

end Sys2Proof.Machine
end

section
/-!
SUPPORT. Accesses of the on-chip spaces (O21): what an access that finds no place comes to, an entry of the operand log that holds its fault, and what
its issue leaves of every place that memory has.
-/
namespace Sys2Proof.Machine

/-! ### Places that hold what they held -/

/-- Every place of the module but the device registers holds what it held: physical memory, the chip scratchpads, the scratchpads of teams and the lane
slices of their threads. -/
def SameBytes (s t : State) : Prop :=
  t.mem = s.mem ∧ t.launches = s.launches
    ∧ ∀ i, (t.team i).map (fun tm => (tm.scratch, tm.threads.map (·.lane))) = (s.team i).map fun tm => (tm.scratch, tm.threads.map (·.lane))

theorem SameBytes.trans {s t u : State} (h : SameBytes s t) (k : SameBytes t u) : SameBytes s u :=
  ⟨k.1.trans h.1, k.2.1.trans h.2.1, fun i => (k.2.2 i).trans (h.2.2 i)⟩

theorem SameBytes.modTeam (s : State) (i : Nat) {f : Team → Team} (hscratch : ∀ tm, (f tm).scratch = tm.scratch)
    (hlanes : ∀ tm, (f tm).threads.map (·.lane) = tm.threads.map (·.lane)) : SameBytes s (s.modTeam i f) := by
  refine ⟨rfl, rfl, fun j => ?_⟩
  by_cases h : j = i
  · subst h
    rw [State.modTeam_team_same, Option.map_map]
    exact congrArg (Option.map · (s.team j)) (funext fun tm => by simp [hscratch, hlanes])
  · rw [State.modTeam_team_other _ _ h]

theorem SameBytes.modThread (s : State) (r : TRef) {f : Thread → Thread} (hf : ∀ th, (f th).lane = th.lane) : SameBytes s (s.modThread r f) :=
  .modTeam s r.team (fun _ => rfl) fun tm => map_modify_of_map_eq (·.lane) hf tm.threads r.tid

theorem SameBytes.countOccurrence (s : State) (r : TRef) (pc : W32) (performs : Bool) : SameBytes s (s.countOccurrence r pc performs) := by
  have hthread := SameBytes.modThread s r (f := fun th => { th with occ := SMap.modify 0 th.occ pc.toNat (· + 1) }) fun _ => rfl
  unfold State.countOccurrence
  split
  · exact hthread.trans (.modTeam _ _ (fun _ => rfl) fun _ => rfl)
  · exact hthread

theorem SameBytes.passStall (s : State) (r : TRef) (stall : Nat) (fresh : List LateResult) : SameBytes s (s.passStall r stall fresh) :=
  .modThread s r fun _ => rfl

theorem SameBytes.goTo (s : State) (r : TRef) (pc : W32) : SameBytes s (s.goTo r pc) := .modThread s r fun _ => rfl

theorem SameBytes.holdDest (s : State) (c : Ctx) (codes : List Nat) : SameBytes s (s.holdDest c codes) := .modTeam s c.t.team (fun _ => rfl) fun _ => rfl

/-- What follows a completed effect leaves every place as it is. -/
theorem SameBytes.settle_done (c : Ctx) (s0 : State) (fresh : List LateResult) (s1 : State) : SameBytes s1 (c.settle s0 fresh (.done s1)).advance := by
  have hkept : SameBytes s1 (c.keptLate fresh s1) := by
    unfold Ctx.keptLate
    split
    · exact ⟨rfl, rfl, fun _ => rfl⟩
    · exact .modThread _ _ fun _ => rfl
  have hadvance (u : State) : SameBytes u u.advance := ⟨by simp, by simp, fun i => by simp⟩
  have hnext (u : State) (h : SameBytes s1 u) : SameBytes s1 ((u.passStall c.t c.e.s.toNat fresh).goTo c.t c.next).advance :=
    ((h.trans (.passStall ..)).trans (.goTo ..)).trans (hadvance _)
  rw [Ctx.settle_done]
  split
  · exact hnext _ (hkept.trans (.countOccurrence ..))
  · exact hnext _ hkept

/-- A byte of a place reads as it did. -/
theorem SameBytes.peek {s t : State} (h : SameBytes s t) {l : Loc} (hl : match l with | .phys _ type => type ≠ 1 | _ => True) (n : Nat) : t.peek l n = s.peek l n := by
  obtain ⟨hmem, hlaunches, hteam⟩ := h
  cases l with
  | lane r off =>
    have hlane : (t.thread r).map (·.lane) = (s.thread r).map (·.lane) := by
      have := congrArg (Option.bind · fun x => x.2[r.tid]?) (hteam r.team)
      simpa [State.thread, Option.map_bind, Option.bind_map, Function.comp_def] using this
    unfold State.peek
    cases ht : t.thread r <;> cases hs : s.thread r <;> simp_all
  | scr i off =>
    have hscratch := congrArg (Option.map (·.1)) (hteam i)
    unfold State.peek
    cases ht : t.team i <;> cases hs : s.team i <;> simp_all
  | dscr k d off => simp [State.peek, State.dcopy, hlaunches]
  | phys pa type => simp [State.peek, hmem, show type ≠ 1 from hl]

theorem SameBytes.keepsOthers {s t : State} (h : SameBytes s t) (l : Loc) (n : Nat) : Claims.keepsOthers s t l n := fun _ hk _ => h.peek hk 1

theorem settle_done_agenda (c : Ctx) (s0 : State) (fresh : List LateResult) (s1 : State) : (c.settle s0 fresh (.done s1)).advance.agenda = s1.agenda := by
  have hkept : (c.keptLate fresh s1).agenda = s1.agenda := by unfold Ctx.keptLate; split <;> rfl
  rw [Ctx.settle_done, State.advance_agenda, State.goTo_agenda, State.passStall_agenda]
  split
  · rw [State.countOccurrence, if_pos rfl, State.modTeam_agenda, State.modThread_agenda, hkept]
  · exact hkept

/-! ### Effective addresses and places of the on-chip spaces (R69, R70) -/

/-- R69: outside .g an effective address has 32 bits. -/
theorem RegView.ea_lt (r : RegView) {e : Ext} (base : BitVec 11) (hasC : Bool) (h : e.space ≠ 4) : (r.ea e base hasC).toNat < 2 ^ 32 := by
  unfold RegView.ea effAddr
  rw [if_neg h, BitVec.toNat_setWidth]
  exact (Nat.mod_le _ _).trans_lt (BitVec.isLt _)

/-- R364: the fault of an address of fewer than 57 bits names that address. -/
theorem memFault_eq (code reason : Nat) {ea : Nat} (h : ea < 2 ^ 57) : memFault code reason ea = { code, aux := BitVec.ofNat 64 (reason * 2 ^ 57 + ea) } := by
  rw [memFault, Nat.mod_eq_of_lt h]

section
variable {s : State} {a : Agent} {tm : Team} {space : BitVec 3} {ea : W64} {n align reason : Nat} {store atom : Bool}
  (hspace : space ≠ 4) (htm : s.team a.t.team = some tm)
include hspace htm

/-- R70: outside .g a misaligned access has cause 0x42. -/
theorem State.locate_misaligned (h : ea.toNat % align ≠ 0) : s.locate a space ea n align store reason atom = .error (memFault 0x42 reason ea.toNat) := by
  unfold State.locate
  simp only [hspace, htm, h, if_false, if_true, ne_eq, not_false_eq_true]

/-- R70: outside .g an aligned access lies in the space that it names, or is out of its range. -/
theorem State.locate_onChip (h : ea.toNat % align = 0) :
    s.locate a space ea n align store reason atom = (s.onChip a.t tm space.toNat ea.toNat n).map fun l => (s, l) := by
  unfold State.locate
  simp only [hspace, htm, h, if_false, ne_eq, not_true_eq_false]

end

section
variable {s : State} {r : TRef} {tm : Team} {ea n : Nat} (hwave : tm.wave = none)
include hwave

/-- R70: beyond the end of the lane slice. -/
theorem State.onChip_beyond_lane (h : ((s.launchOf tm).body.lane + 1) * 256 < ea + n) : s.onChip r tm 0 ea n = .error (memFault 0x43 0 ea) :=
  if_neg (by simp [State.laneSize, hwave]; omega)

/-- R70: beyond the end of the scratchpad. -/
theorem State.onChip_beyond_scratch (h : (s.launchOf tm).body.scr * 4096 < ea + n) : s.onChip r tm 1 ea n = .error (memFault 0x43 1 ea) :=
  if_neg (by simp [State.scratchSize, hwave]; omega)

/-- R70: beyond the end of the chip scratchpad. -/
theorem State.onChip_beyond_chip (h : (s.launchOf tm).body.dscr * 65536 < ea + n) : s.onChip r tm 3 ea n = .error (memFault 0x43 3 ea) :=
  if_neg (by simp [State.dSize, hwave]; omega)

end

/-! ### The operand log (R265, R354) -/

theorem Thread.freeEntry_eq {th : Thread} {k : Nat} (h : Claims.FreeEntry th k) : th.freeEntry = some k := by
  obtain ⟨hk, ⟨en, hen, hbusy, hvalid⟩, htaken⟩ := h
  have hnumber : ∀ (j : Nat) (hj : j < (numbers 0 4).length), (numbers 0 4)[j] = j := by decide
  rw [Thread.freeEntry, List.find?_eq_some_iff_getElem]
  refine ⟨by simp [hen, hbusy, hvalid], k, hk, hnumber k hk, fun j hj => ?_⟩
  obtain ⟨x, hx, hx' | hx'⟩ := htaken j hj <;> simp [hnumber, hx, hx']

/-- R204, R210: ld, st and atom are issued as accesses of the entry that each captures; field C holds the new value of a compare-and-swap. -/
theorem exec_access {i : Instr} {op : Nat} {e : Ext} {ws : List W32} (hp : i.parts = some (op, e, ws)) (hop : op = 0x50 ∨ op = 0x51 ∨ op = 0x54) :
    ∃ entry, (∀ s, exec i s = issue op e ws (access entry) s)
      ∧ ∀ c : Ctx, c.op = op → ∃ dest opb opc, entry c = c.logEntry (decide (c.op = 0x54 ∧ c.e.fn = 7)) dest opb opc := by
  cases i with
  | ldBase _ | ld _ => cases hp; exact ⟨ldEntry, fun _ => rfl, fun c h => ⟨_, _, _, by rw [ldEntry, h]; rfl⟩⟩
  | stBase _ | st _ => cases hp; exact ⟨stEntry, fun _ => rfl, fun c h => ⟨_, _, _, by rw [stEntry, h]; rfl⟩⟩
  | atom _ => cases hp; exact ⟨atomEntry, fun _ => rfl, fun c h => ⟨_, _, _, by rw [atomEntry, h]; simp; rfl⟩⟩
  | _ => cases hp <;> simp at hop

/-- R354: an access that finds no place has an entry with its fault, and takes no other effect. -/
theorem access_faults {entry : Ctx → LogEntry} {c : Ctx} {s : State} {k : Nat} {f : TrapInfo} (hk : c.th.freeEntry = some k)
    (hloc : s.locate (s.agentOf c.t c.tm) (entry c).space (entry c).ea (sizeBytes (entry c).size) (sizeBytes (entry c).size) ((entry c).opcode ≠ 0x50) 0
      ((entry c).opcode = 0x54) = .error f) :
    ∃ s1, access entry c s = .done s1 ∧ SameBytes s s1 ∧ s1.agenda = s.agenda ++ [.varResultReturn c.t k]
      ∧ s1.thread c.t = (s.thread c.t).map fun th => th.modLog k fun _ => { entry c with fault := some f } := by
  have hperform : s.perform c.t c.tm (entry c) = (s, { entry c with fault := some f }) := by
    unfold State.perform
    simp only [hloc]
  have hlogged := SameBytes.modThread s c.t (f := fun th => th.modLog k fun _ => { entry c with fault := some f }) fun _ => rfl
  unfold access
  simp only [hk, hperform, Option.isNone_some, Bool.false_eq_true, and_false, if_false]
  refine ⟨_, rfl, ?_, ?_, ?_⟩
  · split
    · exact (hlogged.trans (.holdDest ..)).trans ⟨rfl, rfl, fun _ => rfl⟩
    · exact hlogged.trans ⟨rfl, rfl, fun _ => rfl⟩
  · split <;> rfl
  · rw [State.later_thread]
    split
    · exact (State.modTeam_thread _ _ _ (by intro; rfl) _).trans (State.modThread_thread_same ..)
    · exact State.modThread_thread_same ..

/-! ### The obligation -/

/-- Settles O21: such an access finds no place, and its issue does no more than fill its entry. -/
theorem accessFaultIsLogged : Obligations.AccessFaultIsLogged := by
  unfold Obligations.AccessFaultIsLogged
  intro i s c s0 k _ h hop hfree hwave n ea la logs
  obtain ⟨op, e, ws, hp, -⟩ := State.performs_spec h
  obtain ⟨-, hcop, -, htm, hth, -⟩ := State.performs_start h hp
  obtain ⟨entry, hexec, hentry⟩ := exec_access hp (hcop ▸ hop)
  obtain ⟨dest, opb, opc, hen⟩ := hentry c hcop
  have hlogs {code reason : Nat} (hspace : c.e.space ≠ 4) (hloc : ∀ store atom,
      s.locate (s.agentOf c.t c.tm) c.e.space (c.r.ea c.e c.e.a (c.op = 0x54 ∧ c.e.fn = 7)) n n store 0 atom = .error (memFault code reason ea)) : logs code reason := by
    have hdirect : op ≠ 0x43 ∧ op ≠ 0x44 := by omega
    obtain ⟨s1, haccess, hbytes, hagenda, hthread⟩ := access_faults (entry := entry) (f := memFault code reason ea) (s := s) (Thread.freeEntry_eq hfree)
      (by rw [hen]; exact hloc _ _)
    obtain ⟨hklt, ⟨old, hold, -⟩, -⟩ := hfree
    rw [hth, Option.map_some] at hthread
    have hall := hbytes.trans (.settle_done c s (c.freshLate s) s1)
    refine ⟨_, { entry c with fault := some (memFault code reason ea) }, (hexec s).trans (by rw [issue_direct h hp hdirect, haccess]), settle_done_goesOn _ _ _ (by simp [hthread]),
      ⟨⟨_, by rw [settle_done_thread, hthread, Option.map_some], ?_⟩, ?_, ?_, ?_⟩, ?_, hall.1, hall.keepsOthers _ _⟩
    · simp [Thread.modLog, hold]
    · rw [hen]; rfl
    · rw [hen]; rfl
    · rw [settle_done_agenda, hagenda]
      exact List.mem_append_right _ (List.mem_singleton.2 rfl)
    · exact congrArg some (memFault_eq code reason ((RegView.ea_lt _ _ _ hspace).trans (by decide)))
  have hteam : s.team (s.agentOf c.t c.tm).t.team = some c.tm := htm
  have hrange {space : BitVec 3} {reason : Nat} (hs : c.e.space = space) (hne : space ≠ 4) (ha : ea % n = 0)
      (hout : s.onChip c.t c.tm space.toNat ea n = .error (memFault 0x43 reason ea)) : logs 0x43 reason :=
    hlogs (hs ▸ hne) fun store atom => by
      rw [State.locate_onChip (hs ▸ hne) hteam ha, hs]
      change (s.onChip c.t c.tm space.toNat ea n).map _ = _
      rw [hout]
      rfl
  refine ⟨fun hs ha => ?_, fun ha hs hout => ?_, fun ha hs hout => ?_, fun ha hs hout => ?_⟩
  · have hspace : c.e.space ≠ 4 := by rcases hs with hs | hs | hs <;> simp [hs]
    exact hlogs hspace fun store atom => State.locate_misaligned hspace hteam ha
  · exact hrange hs (by decide) ha (State.onChip_beyond_lane hwave hout)
  · exact hrange hs (by decide) ha (State.onChip_beyond_scratch hwave hout)
  · exact hrange hs (by decide) ha (State.onChip_beyond_chip hwave hout)

end Sys2Proof.Machine
end

section
/-!
SUPPORT. Ring misuse (O26): a thread whose request waits in a ring, as it does while the thread itself waits for a slot, takes the trap of a 256th
registration as any other thread does. A trap withdraws what its thread waits for (R264), so the ring then holds a request less than before.
-/
namespace Sys2Proof.Machine

/-- A ring of one slot that is free, with 255 producers and the request of the thread below. -/
def misusedRing : Ring :=
  { base := 0, size := 16, count := 1, res := 0, head := 0, free := 1, filled := 0, prod := 255, tok := 0, eos := false, fill := [], held := []
    reqs := [.put { team := 0, tid := 0 } 1 0] }

/-- The thread that made the request, and waits for its slot. -/
def slotWaiter : Thread := { wait := some { why := .ringSlot 0, next := 0 } }

def slotWaiterTeam : Team := { launch := 0, tix := 0, status := .placed, threads := [slotWaiter], rings := [misusedRing] }

/-- The thread comes to issue, and its launch has a trap entry. -/
def misuseState : State :=
  { State.reset with groups := [[{ team := 0, tid := 0 }]], launches := [{ body := { tentry := 0x80 } }], teams := [slotWaiterTeam] }

/-- rjoin of ring 0. -/
def joinZero : Words := .ext (Base.toExt 0x5F { s := 0, g := 0, d := 0, a := 0, b := 0 } none)

/-- What misuseState issues it with. -/
def misuseCtx : Ctx :=
  { t := { team := 0, tid := 0 }, op := 0x5F, e := joinZero.toExt 0x5F, ws := wordsOf 0x5F joinZero, tm := slotWaiterTeam, th := slotWaiter
    r := RegView.ofThread slotWaiterTeam slotWaiter, next := BitVec.ofNat 32 (4 * (wordsOf 0x5F joinZero).length) }

/-- What it comes to. -/
def misuseAfter : Option State :=
  match exec (.rjoin joinZero) misuseState with
  | .next t => some t
  | _ => none

/-- The trap has withdrawn the request. -/
theorem misuseAfter_reqs : misuseAfter.bind (fun t => (t.ring 0 0).map (·.reqs)) = some [] := by rfl

/-- Refutes O26: the third clause of rjoin leaves out that the issuing thread has no request of its own in the ring, which the trap withdraws. -/
theorem not_ringSlotsAndProducers : ¬ Obligations.RingSlotsAndProducers := by
  unfold Obligations.RingSlotsAndProducers
  rintro ⟨-, hjoin, -⟩
  obtain ⟨-, -, hmisuse⟩ := hjoin joinZero misuseState misuseCtx misuseState misusedRing (by decide) (by rfl) rfl
  obtain ⟨t, hexec, -, hring⟩ := hmisuse (by decide) rfl ⟨rfl, rfl, .inr (by decide)⟩ (by decide)
  have hreqs : misuseAfter.bind (fun t => (t.ring 0 0).map (·.reqs)) = some misusedRing.reqs := by
    rw [misuseAfter, hexec]
    exact congrArg (Option.map (·.reqs)) hring
  exact absurd (misuseAfter_reqs.symm.trans hreqs) (by decide)

end Sys2Proof.Machine
end

section
/-!
SUPPORT. The ring descriptors of a team (R79): what a change of a thread, the end of waits and the completion of an instruction leave of them; what a
reader's release of its slots comes to, and what it then receives (O25).
-/
namespace Sys2Proof.Machine

/-! ### What leaves a ring as it is -/

theorem State.modThread_ring (s : State) (r : TRef) (f : Thread → Thread) (i k : Nat) : (s.modThread r f).ring i k = s.ring i k := by
  unfold State.ring State.modThread
  by_cases h : i = r.team
  · subst h
    rw [State.modTeam_team_same, Option.bind_map]
    rfl
  · rw [State.modTeam_team_other _ _ h]

theorem State.modTeam_ring (s : State) (j : Nat) {f : Team → Team} (hf : ∀ tm, (f tm).rings = tm.rings) (i k : Nat) : (s.modTeam j f).ring i k = s.ring i k := by
  unfold State.ring
  by_cases h : i = j
  · subst h
    rw [State.modTeam_team_same, Option.bind_map]
    simp [hf]
  · rw [State.modTeam_team_other _ _ h]

theorem State.modRing_ring_same (s : State) (i k : Nat) (f : Ring → Ring) : (s.modRing i k f).ring i k = (s.ring i k).map f := by
  unfold State.ring State.modRing
  rw [State.modTeam_team_same, Option.bind_map, Option.map_bind]
  simp

theorem State.modRing_thread (s : State) (i k : Nat) (f : Ring → Ring) (r : TRef) : (s.modRing i k f).thread r = s.thread r :=
  State.modTeam_thread _ _ _ (by intro; rfl) _

theorem State.foldl_modRing_ring {α : Type} (g : α → Ring → Ring) (l : List α) (s : State) (i k : Nat) :
    (l.foldl (fun s x => s.modRing i k (g x)) s).ring i k = (s.ring i k).map fun r => l.foldl (fun r x => g x r) r := by
  induction l generalizing s with
  | nil => simp
  | cons x l ih => simp [ih, State.modRing_ring_same, Function.comp_def]

theorem State.foldl_modRing_thread {α : Type} (g : α → Ring → Ring) (l : List α) (s : State) (i k : Nat) (r : TRef) :
    (l.foldl (fun s x => s.modRing i k (g x)) s).thread r = s.thread r := by
  induction l generalizing s with
  | nil => rfl
  | cons x l ih => rw [List.foldl_cons, ih, State.modRing_thread]

/-- The rings of a team, as far as only the ends of waits change it. -/
theorem Surveyed.ring {s t : State} (h : Surveyed s t) {i k : Nat} {r : Ring} (hr : s.ring i k = some r) : t.ring i k = some r := by
  obtain ⟨tm, htm, hk⟩ := Option.bind_eq_some_iff.1 hr
  obtain ⟨tn, htn, _, _, _, _, _, rfl, -⟩ := h.team htm
  exact Option.bind_eq_some_iff.2 ⟨_, htn, hk⟩

/-- A thread, as far as only the ends of waits change it. -/
theorem Surveyed.thread {s t : State} (h : Surveyed s t) {r : TRef} {th : Thread} (hth : s.thread r = some th) :
    ∃ th', t.thread r = some th' ∧ ThreadWoken th th' := by
  obtain ⟨tm, htm, hget⟩ := Option.bind_eq_some_iff.1 hth
  obtain ⟨tn, htn, _, _, _, _, ths, rfl, hlen, hths⟩ := h.team htm
  have hlt : r.tid < ths.length := hlen ▸ (List.getElem?_eq_some_iff.1 hget).1
  exact ⟨ths[r.tid], Option.bind_eq_some_iff.2 ⟨_, htn, List.getElem?_eq_getElem hlt⟩, hths _ _ _ hget (List.getElem?_eq_getElem hlt)⟩

theorem Woken.wr (s : State) (r : TRef) (d : BitVec 11) (n : Nat) (signed : Bool) (x : Nat) : Woken s (s.wr r d n signed x) := by
  unfold State.wr
  split
  · split <;> exact .writeDest ..
  · exact .writeDest ..

theorem settle_done_ring (c : Ctx) (s0 : State) (fresh : List LateResult) (s1 : State) (k : Nat) :
    (c.settle s0 fresh (.done s1)).advance.ring c.t.team k = s1.ring c.t.team k := by
  have hadvance (u : State) : u.advance.ring c.t.team k = u.ring c.t.team k := by simp [State.ring]
  have hkept : (c.keptLate fresh s1).ring c.t.team k = s1.ring c.t.team k := by
    unfold Ctx.keptLate
    split
    · rfl
    · exact State.modThread_ring ..
  rw [Ctx.settle_done, hadvance, State.goTo, State.modThread_ring, State.passStall, State.modThread_ring]
  split
  · rw [State.countOccurrence, if_pos rfl, State.modTeam_ring _ _ (by intro; rfl), State.modThread_ring, hkept]
  · exact hkept

/-! ### The release of slots (R120, R220) -/

/-- A release takes the slot from the slots that readers hold. -/
theorem Ring.release_eq (r : Ring) (j : Nat) : ∃ free, r.release j = { r with held := r.held.filter (· ≠ j), free } := by
  unfold Ring.release
  split
  · exact ⟨_, rfl⟩
  · next h =>
    have hheld : r.held.filter (· ≠ j) = r.held := List.filter_eq_self.2 fun x hx => by
      simpa using fun hj => h (by simpa [hj] using hx)
    exact ⟨r.free, by rw [hheld]⟩

/-- A ring whose readers have given back the slots of `l`. -/
def Ring.without (r : Ring) (l : List (Nat × Nat)) (free : Nat) : Ring := { r with held := r.held.filter fun j => l.all (·.2 ≠ j), free }

theorem Ring.not_mem_without {r : Ring} {l : List (Nat × Nat)} {free k j : Nat} (h : (k, j) ∈ l) : j ∉ (r.without l free).held := by
  simp only [Ring.without, List.mem_filter, not_and]
  exact fun _ hall => by simpa using List.all_eq_true.1 hall (k, j) h

theorem Ring.foldl_release_eq (l : List (Nat × Nat)) (r : Ring) : ∃ free, l.foldl (fun r x => r.release x.2) r = r.without l free := by
  induction l generalizing r with
  | nil => exact ⟨r.free, by simp [Ring.without]⟩
  | cons x l ih =>
    obtain ⟨free, hfirst⟩ := r.release_eq x.2
    obtain ⟨free', hrest⟩ := ih (r.release x.2)
    refine ⟨free', ?_⟩
    rw [List.foldl_cons, hrest, hfirst]
    simp [Ring.without, List.filter_filter, eq_comm, Bool.and_comm]

/-- The slots of ring `k` that a thread has read and not released. -/
def Thread.heldOn (th : Thread) (k : Nat) : List (Nat × Nat) := th.holds.filter (·.1 = k)

theorem Thread.mem_heldOn {th : Thread} {k j : Nat} : (k, j) ∈ th.heldOn k ↔ (k, j) ∈ th.holds := by simp [Thread.heldOn]

section
variable {s : State} {t : TRef} {k : Nat} {th : Thread} {r : Ring} (hth : s.thread t = some th) (hr : s.ring t.team k = some r)
include hth hr

/-- R220: the thread's slots on the ring are released. -/
theorem State.releaseSlots_spec : (∃ free, (s.releaseSlots t k).ring t.team k = some (r.without (th.heldOn k) free))
    ∧ ((s.releaseSlots t k).thread t).isSome := by
  unfold State.releaseSlots
  simp only [hth]
  rw [← Thread.heldOn]
  by_cases h : th.heldOn k = []
  · rw [if_pos (List.isEmpty_iff.2 h), h, hth]
    exact ⟨⟨r.free, by simp [hr, Ring.without]⟩, rfl⟩
  · rw [if_neg (List.isEmpty_iff.not.2 h)]
    obtain ⟨free, hfold⟩ := Ring.foldl_release_eq (th.heldOn k) r
    generalize hu : State.modThread _ t _ = u
    have hring : u.ring t.team k = some (r.without (th.heldOn k) free) := by
      rw [← hu, State.modThread_ring, State.foldl_modRing_ring (fun (x : Nat × Nat) r => r.release x.2), hr]
      exact congrArg some hfold
    have hthread : (u.thread t).isSome := by
      rw [← hu, State.modThread_thread_same, State.foldl_modRing_thread (fun (x : Nat × Nat) r => r.release x.2), hth]
      rfl
    rw [hring]
    simp only []
    split
    · exact ⟨⟨free, hring⟩, hthread⟩
    · exact ⟨⟨free, hring⟩, hthread⟩

end

/-! ### What a reader receives (R220) -/

section
variable {s : State} {t : TRef} {k : Nat} {r : Ring} (hr : s.ring t.team k = some r)
include hr

theorem State.ringTake_ended (heos : r.eos = true) : s.ringTake t k = some (s, 0xFFFFFFFF) := by
  obtain ⟨tm, htm, -⟩ := Option.bind_eq_some_iff.1 hr
  simp [State.ringTake, htm, hr, heos]

/-- R81, R220: the first slot of the fill order, when it is complete. -/
theorem State.ringTake_slot {j : Nat} {rest : List FillItem} (heos : r.eos = false) (hfill : r.fill = .slot j true :: rest) (hfilled : r.filled = filledOf r.fill) :
    ∃ ts, s.ringTake t k = some (((s.modRing t.team k fun r => r.take j).modThread t fun th => { th with holds := th.holds ++ [(k, j)] }).raisePts t ts, r.slotOffset j) := by
  obtain ⟨tm, htm, -⟩ := Option.bind_eq_some_iff.1 hr
  have hpos : 0 < r.filled := by
    rw [hfilled, hfill]
    exact Nat.succ_pos _
  have hfirst : firstSlot r.fill = some j := by rw [hfill]; rfl
  exact ⟨slotStamp tm r j, by simp [State.ringTake, htm, hr, heos, hpos, hfirst]⟩

section
variable (heos : r.eos = false) (hfilled : r.filled = 0)
include heos hfilled

/-- R83: the end of the stream is found. -/
theorem State.ringTake_ends (hend : 1 ≤ r.prod ∧ r.tok = r.prod) :
    s.ringTake t k = some (s.modRing t.team k (fun r => { r with eos := true }), 0xFFFFFFFF) := by
  obtain ⟨tm, htm, -⟩ := Option.bind_eq_some_iff.1 hr
  have hdue : r.endDue = true := by simp [Ring.endDue, hend, hfilled]
  simp [State.ringTake, htm, hr, heos, hfilled, hdue]

theorem State.ringTake_waits (hend : ¬(1 ≤ r.prod ∧ r.tok = r.prod)) : s.ringTake t k = none := by
  obtain ⟨tm, htm, -⟩ := Option.bind_eq_some_iff.1 hr
  have hdue : r.endDue = false := by simpa [Ring.endDue, hfilled] using hend
  simp [State.ringTake, htm, hr, heos, hfilled, hdue]

end
end

/-! ### rget -/

/-- A reader completes with what it receives. -/
theorem exec_rget_takes {w : Words} {s s0 s1 : State} {c : Ctx} {r q : Ring} {th : Thread} {x : Nat} (h : s.performs (.rget w) = some (c, s0))
    (hr : c.tm.rings[c.e.a.toNat]? = some r) (htake : (s.releaseSlots c.t c.e.a.toNat).ringTake c.t c.e.a.toNat = some (s1, x))
    (hth : s1.thread c.t = some th) (hq : s1.ring c.t.team c.e.a.toNat = some q) :
    ∃ t th', exec (.rget w) s = .next t ∧ t.goesOn c ∧ t.holds c.t c.e.d 32 false x ∧ t.ring c.t.team c.e.a.toNat = some q
      ∧ t.thread c.t = some th' ∧ th'.holds = th.holds := by
  have hbody : rgetBody c s = .done (s1.wr c.t c.e.d 32 false x) := by simp [rgetBody, Ctx.ringOf, hr, htake, Ctx.wr]
  have hexec : exec (.rget w) s = .next (c.settle s (c.freshLate s) (.done (s1.wr c.t c.e.d 32 false x))).advance :=
    hbody ▸ issue_direct h rfl (by decide) rgetBody _
  have hwoken := Surveyed.of_woken (Woken.wr s1 c.t c.e.d 32 false x)
  have hsome : (s1.thread c.t).isSome := by simp [hth]
  obtain ⟨th', hth', _, _, _, _, _, rfl⟩ := hwoken.thread hth
  refine ⟨_, _, hexec, settle_done_goesOn _ _ _ (by rw [hth']; rfl),
    settle_done_holds _ _ _ (State.wr_holds _ _ _ _ _ _ (.inl rfl) (State.team_isSome_of_thread hsome) hsome), (settle_done_ring ..).trans (hwoken.ring hq),
    (settle_done_thread ..).trans (congrArg _ hth'), rfl⟩

/-- Settles O25: the slots held are released first; then the four cases of what there is to read. -/
theorem ringRead : Obligations.RingRead := by
  unfold Obligations.RingRead
  intro w s c s0 r _ h k hr hfilled released
  obtain ⟨-, -, -, htm, hth, -⟩ := State.performs_start h rfl
  obtain ⟨⟨free, hring⟩, hthread⟩ := State.releaseSlots_spec (k := k) hth (Option.bind_eq_some_iff.2 ⟨_, htm, hr⟩)
  obtain ⟨th, hreader⟩ := Option.isSome_iff_exists.1 hthread
  have hgone {j : Nat} (hj : (k, j) ∈ c.th.holds) : j ∉ (r.without (c.th.heldOn k) free).held := Ring.not_mem_without (Thread.mem_heldOn.2 hj)
  refine ⟨fun heos => ?_, fun j rest heos hfill => ?_, fun heos hzero hone htok => ?_, fun heos hzero hend => ?_⟩
  · obtain ⟨t, _, hexec, hgoes, hholds, hq, -⟩ := exec_rget_takes h hr (State.ringTake_ended hring heos) hreader hring
    exact ⟨t, _, hexec, hgoes, hholds, hq, fun j hj _ => hgone hj⟩
  · obtain ⟨ts, htake⟩ := State.ringTake_slot hring heos hfill hfilled
    obtain ⟨t, th', hexec, hgoes, hholds, hq, hth', hheld⟩ := exec_rget_takes h hr htake (th := _) (q := _)
      (by rw [State.raisePts, State.modThread_thread_same, State.modThread_thread_same, State.modRing_thread, hreader]; rfl)
      (by rw [State.raisePts, State.modThread_ring, State.modThread_ring, State.modRing_ring_same, hring]; rfl)
    refine ⟨t, _, hexec, hgoes, hholds, hq, rfl, List.mem_concat_self, fun j' hj' hne hmem => ?_, th', hth', hheld ▸ List.mem_concat_self⟩
    rcases List.mem_append.1 hmem with hmem | hmem
    · exact hgone hj' hmem
    · exact hne (congrArg some (List.mem_singleton.1 hmem).symm)
  · obtain ⟨t, _, hexec, hgoes, hholds, hq, -⟩ := exec_rget_takes h hr (State.ringTake_ends hring heos hzero ⟨hone, htok⟩)
      (by rw [State.modRing_thread, hreader]) (by rw [State.modRing_ring_same, hring]; rfl)
    exact ⟨t, _, hexec, hgoes, hholds, hq, rfl⟩
  · have hbody : rgetBody c s = .wait (s.releaseSlots c.t k) (.rget k c.e.d) true := by
      simp [rgetBody, Ctx.ringOf, hr, k, State.ringTake_waits hring heos hzero hend]
    exact ⟨_, issue_direct h rfl (by decide) rgetBody _, hbody ▸ (settle_wait c s (c.freshLate s) _ _ hthread).1⟩

end Sys2Proof.Machine
end

section
/-!
SUPPORT. Engine operations (O44). What serving the request of a waiting rput leaves of the rings: which requests they hold, and which threads there are
(`Served`).
-/
namespace Sys2Proof.Machine

/-! ### Rings whose requests stand -/

theorem isSome_getElem?_of_length {α : Type} {l m : List α} (h : m.length = l.length) (k : Nat) : (m[k]?).isSome = (l[k]?).isSome := by
  rw [Bool.eq_iff_iff, isSome_getElem?, isSome_getElem?, h]

/-- The same threads exist, and every ring holds the same requests. -/
def Served (s t : State) : Prop := Standing s t ∧ ∀ i k, (t.ring i k).map (·.reqs) = (s.ring i k).map (·.reqs)

namespace Served

theorem trans {s t u : State} (h : Served s t) (k : Served t u) : Served s u := ⟨h.1.trans k.1, fun i j => (k.2 i j).trans (h.2 i j)⟩

theorem of_teams {s t : State} (h : t.teams = s.teams) : Served s t := ⟨.of_teams h, fun i k => by simp [State.ring, State.team, h]⟩

theorem refl (s : State) : Served s s := of_teams rfl

theorem modTeam (s : State) (i : Nat) {f : Team → Team} (hthreads : ∀ tm, (f tm).threads.length = tm.threads.length)
    (hrings : ∀ tm, (f tm).rings.map (·.reqs) = tm.rings.map (·.reqs)) : Served s (s.modTeam i f) := by
  refine ⟨fun r => ?_, fun j k => ?_⟩
  · unfold State.thread
    by_cases h : r.team = i
    · rw [h, State.modTeam_team_same]
      cases s.team i with
      | none => rfl
      | some tm => exact isSome_getElem?_of_length (hthreads tm) _
    · rw [State.modTeam_team_other _ _ h]
  · unfold State.ring
    by_cases h : j = i
    · rw [h, State.modTeam_team_same]
      cases s.team i with
      | none => rfl
      | some tm => simpa using congrArg (·[k]?) (hrings tm)
    · rw [State.modTeam_team_other _ _ h]

theorem modThread (s : State) (r : TRef) (f : Thread → Thread) : Served s (s.modThread r f) :=
  modTeam s r.team (fun _ => List.length_modify ..) fun _ => rfl

theorem modRing (s : State) (i k : Nat) {f : Ring → Ring} (hf : ∀ r, (f r).reqs = r.reqs) : Served s (s.modRing i k f) :=
  modTeam s i (fun _ => rfl) fun tm => map_modify_of_map_eq (·.reqs) hf tm.rings k

/-- The ends of waits leave the rings. -/
theorem of_surveyed {s t : State} (h : Surveyed s t) : Served s t := by
  obtain ⟨-, hlen, hteam⟩ := h
  have team (i : Nat) : (t.team i = none ∧ s.team i = none) ∨ ∃ tm tn, s.team i = some tm ∧ t.team i = some tn ∧ TeamWoken tm tn := by
    by_cases hi : i < s.teams.length
    · have hs := List.getElem?_eq_getElem hi
      have ht := List.getElem?_eq_getElem (hlen ▸ hi)
      exact .inr ⟨_, _, hs, ht, hteam i _ _ hs ht⟩
    · exact .inl ⟨List.getElem?_eq_none (by omega), List.getElem?_eq_none (by omega)⟩
  refine ⟨fun r => ?_, fun i k => ?_⟩
  · unfold State.thread
    rcases team r.team with ⟨ht, hs⟩ | ⟨tm, tn, hs, ht, _, _, _, _, _, rfl, hths, -⟩
    · rw [hs, ht]
    · rw [hs, ht]
      exact isSome_getElem?_of_length hths _
  · unfold State.ring
    rcases team i with ⟨ht, hs⟩ | ⟨tm, tn, hs, ht, _, _, _, _, _, rfl, -⟩
    · rw [hs, ht]
    · rw [hs, ht]
      rfl

theorem of_woken {s t : State} (h : Woken s t) : Served s t := of_surveyed (.of_woken h)

theorem of_reads {s t : State} (h : Reads s t) : Served s t := by
  refine ⟨h.standing, fun i k => ?_⟩
  have hteam := congrArg (fun o : Option Team => (o.bind fun tm => tm.rings[k]?).map (·.reqs)) (h.team i)
  simpa [State.ring, Option.bind_map, Function.comp_def, Team.unread] using hteam

/-! ### Accesses -/

theorem fillL1 (s : State) (core pa : Nat) (x : Nat × Nat) : Served s (s.fillL1 core pa x) := by
  unfold State.fillL1 State.keepCopy
  simp only []
  split
  · exact of_teams rfl
  · exact of_teams rfl

theorem loadHome (s : State) (core : Option Nat) (pts pa n : Nat) (q : Req) : Served s (s.loadHome core pts pa n q).1 := by
  have hnone : Served s (s.loadHome none pts pa n q).1 := of_teams (AtHome.loadHome s pts pa n q).teams
  cases core with
  | none => exact hnone
  | some c =>
    unfold State.loadHome at hnone ⊢
    simp only [] at hnone ⊢
    split
    · exact hnone
    · exact hnone.trans (fillL1 ..)

theorem load (s : State) (core : Option Nat) (pts : Nat) (l : Loc) (n : Nat) (q : Req) : Served s (s.load core pts l n q).1 := by
  unfold State.load
  split
  · split
    · exact loadHome ..
    split
    · exact loadHome ..
    split
    · exact loadHome ..
    · exact refl s
  · exact of_reads ((Reads.of_atHome (.reachL2 ..)).trans (.touch ..))

theorem fabricRead (s : State) (l : Loc) (n : Nat) : Served s (s.fabricRead l n).1 := by
  unfold State.fabricRead
  split
  · exact loadHome s none 0 _ n {}
  · exact of_teams rfl

theorem readFrom (s : State) (core : Option Nat) (pts : Nat) (l : Loc) (n : Nat) (q : Req) : Served s (s.readFrom core pts l n q).1 := by
  have hask := of_reads (Reads.ask s l q.va)
  have htick (b : Bool) : Served s (if b then (s.ask l q.va).tick else s.ask l q.va) := by
    split
    · exact hask.trans (of_teams rfl)
    · exact hask
  unfold State.readFrom
  simp only []
  split
  · exact hask
  split
  · exact (hask.trans (of_reads (.noteLink ..))).trans (fabricRead ..)
  split
  · exact hask.trans (of_teams rfl)
  split
  · exact htick _
  · exact ((htick _).trans (of_reads (.noteLink ..))).trans (load ..)

theorem setPts (s : State) (t : TRef) (pts : Nat) : Served s (s.setPts t pts) := of_reads (.setPts ..)

/-- A store to a scratchpad. -/
theorem store_scr (s : State) (core : Option Nat) (pts i off n w : Nat) (q : Req) : Served s (s.store core pts (.scr i off) n w q).1 := by
  have hstamp : Served s (s.storeStamp core pts (.scr i off) q).1 := of_reads ((Reads.of_atHome (.reachL2 ..)).trans (.touch ..))
  have hstore : (s.store core pts (.scr i off) n w q).1
      = ((s.storeStamp core pts (.scr i off) q).1.poke (.scr i off) n w).evaluate (.scr i off) n (s.storeStamp core pts (.scr i off) q).2 := rfl
  rw [hstore]
  refine (hstamp.trans ?_).trans (of_woken (Woken.evaluate ..))
  exact modTeam _ i (fun _ => rfl) fun _ => rfl

theorem locate {s : State} {a : Agent} {space : BitVec 3} {ea : W64} {n align : Nat} {store : Bool} {alignReason : Nat} {atom : Bool} :
    Ensures (s.locate a space ea n align store alignReason atom) fun x => Served s x.1 := by
  unfold State.locate
  split
  · split
    · exact ensures_error _ _
    have htranslate := translate_surveyed _ ‹_›
    (iterate 4 split; · exact ensures_error _ _)
    exact (ensures_ok _ _).2 (of_surveyed htranslate)
  · (iterate 2 split; · exact ensures_error _ _)
    exact (ensures_map _ _ _).2 fun _ _ => refl s

/-! ### Readers of a ring -/

theorem take_reqs (j : Nat) (r : Ring) : (r.take j).reqs = r.reqs := rfl

theorem ringTake {s s1 : State} {t : TRef} {k x : Nat} (h : s.ringTake t k = some (s1, x)) : Served s s1 := by
  unfold State.ringTake at h
  split at h
  · split at h
    · cases h
      exact refl s
    split at h
    · split at h
      · cases h
      · cases h
        exact ((modRing s _ _ (take_reqs _)).trans (modThread ..)).trans (of_woken (Woken.raisePts ..))
    split at h
    · cases h
      exact modRing s _ _ fun _ => rfl
    · cases h
  · cases h

/-- R82: readers go on. -/
theorem wakeReaders (n : Nat) (s : State) (i k : Nat) : Served s (s.wakeReaders i k n) := by
  induction n generalizing s with
  | zero => exact refl s
  | succ n ih =>
    unfold State.wakeReaders
    simp only []
    split
    · exact refl s
    split
    · exact refl s
    · next htake => exact ((Served.trans (of_teams rfl) (ringTake htake)).trans (of_woken ((Woken.wr ..).trans (.resume ..)))).trans (ih _)

theorem ringChanged (s : State) (i k : Nat) : Served s (s.ringChanged i k) := wakeReaders ..

/-! ### rput -/

theorem takeTurn (s : State) (t : TRef) : Served s (s.takeTurn t) := by
  unfold State.takeTurn
  split
  · exact refl s
  split
  · exact refl s
  · exact (of_teams (State.usePlace_stands ..).1).trans (modThread ..)

theorem revokeTeam (s : State) (i : Nat) : Served s (s.revokeTeam i) := modTeam s i (fun _ => rfl) fun _ => rfl

theorem readSlot {s : State} {t : TRef} {a : Agent} {space : BitVec 3} {ea : W64} {n : Nat} :
    Ensures (s.readSlot t a space ea n) fun x => Served s x.1 := by
  induction n generalizing s ea with
  | zero => exact (ensures_ok _ _).2 (refl s)
  | succ n ih =>
    unfold State.readSlot
    split
    · exact ensures_error _ _
    next s1 l hlocate =>
    split
    · exact ensures_error _ _
    next s2 pts v hread =>
    split
    · exact ensures_error _ _
    next s3 vs hrest =>
    have hfirst : Served s1 s2 := by
      have := readFrom s1 (l1Of a.core) (s1.ptsOf t) l 16 (a.req ea.toNat 0 (some (.thread t)))
      rwa [← State.readAt, hread] at this
    exact (ensures_ok _ _).2 ((((locate _ hlocate).trans hfirst).trans (setPts ..)).trans (ih (s3, vs) hrest))

theorem writeSlot (ws : List Nat) (s : State) (t : TRef) (core off : Nat) : Served s (s.writeSlot t core off ws) := by
  induction ws generalizing s off with
  | nil => exact refl s
  | cons w ws ih => exact ((store_scr s (some core) (s.ptsOf t) t.team off 16 w {}).trans (setPts ..)).trans (ih _ _)

theorem putSlot {s : State} {t : TRef} {k : Nat} {space : BitVec 3} {ea : W64} : Ensures (s.putSlot t k space ea) fun u => Served s u := by
  unfold State.putSlot
  split
  · next tm r _ _ =>
    simp only []
    split
    · exact ensures_error _ _
    next s1 vs hread =>
    have hreserved := modRing s1 t.team k (f := Ring.reserve) fun _ => rfl
    have hwritten := writeSlot vs (s1.modRing t.team k Ring.reserve) t (s.agentOf t tm).core (r.slotOffset r.res)
    have hcomplete := modRing ((s1.modRing t.team k Ring.reserve).writeSlot t (s.agentOf t tm).core (r.slotOffset r.res) vs) t.team k (f := (·.complete r.res)) fun _ => rfl
    exact (ensures_ok _ _).2 (((((readSlot _ hread).trans hreserved).trans hwritten).trans hcomplete).trans (ringChanged ..))
  · exact (ensures_ok _ _).2 (refl s)

/-- With no request to serve, nothing is served. -/
theorem serveRing_of_reqs_nil {s : State} {i k : Nat} (h : ∀ r, s.ring i k = some r → r.reqs = []) (n : Nat) : s.serveRing i k n = s := by
  cases n with
  | zero => rfl
  | succ n =>
    unfold State.serveRing State.serveHead
    cases hr : s.ring i k with
    | none => rfl
    | some r => simp only [h r hr]

end Served

/-- R81, R221: the one request of a ring is served, and its thread goes on. -/
theorem State.serve_put {s s1 : State} {i k : Nat} {r : Ring} {u : TRef} {space : BitVec 3} {ea : W64} {n : W32} (hr : s.ring i k = some r)
    (hreqs : r.reqs = [.put u space ea]) (hfree : r.canReserve = true) (heos : r.eos = false) (hheld : s.putHeld u = false)
    (hput : (((s.modRing i k fun r => { r with reqs := [] }).takeTurn u).revokeTeam i).putSlot u k space ea = .ok s1) (hu : u.team = i)
    (hwait : s1.waitsFor u (.ringSlot k) n)
    (hnow : ∀ tm th, s.team i = some tm → s.thread u = some th →
      (s.takeTurn u).postponeThread s1 u (s.coreOf tm u.tid) th.granted th.answered = none) : s.serve i k = s1.resume u := by
  subst hu
  have hserved : Served (s.modRing u.team k fun r => { r with reqs := [] }) s1 := ((Served.takeTurn ..).trans (.revokeTeam ..)).trans (Served.putSlot _ hput)
  obtain ⟨tm, htm, -⟩ := Option.bind_eq_some_iff.1 hr
  obtain ⟨th, hth⟩ : ∃ th, s.thread u = some th := by
    rw [← Option.isSome_iff_exists, ← State.modRing_thread s u.team k (fun r => { r with reqs := [] }), ← hserved.1 u]
    cases h : s1.thread u with
    | none => simp [State.waitsFor, h] at hwait
    | some _ => rfl
  have hempty (q : Ring) (hq : (s1.resume u).ring u.team k = some q) : q.reqs = [] := by
    have := (hserved.trans (.of_woken (Woken.resume s1 u))).2 u.team k
    rw [hq, State.modRing_ring_same, hr] at this
    simpa using this
  have hhead : s.serveHead u.team k = some (s1.resume u) := by
    simp [State.serveHead, hr, hreqs, hfree, heos, hheld, State.servePut, hput, htm, hth, hnow tm th htm hth]
  unfold State.serve
  simp only [hr, State.serveRing, hhead]
  exact Served.serveRing_of_reqs_nil hempty _

end Sys2Proof.Machine
end

section
/-!
SUPPORT. The end of an engine operation (O44): its completion word in a scratchpad is 1 higher (R202), and the operation is gone.
-/
namespace Sys2Proof.Machine

/-! ### What leaves the bytes of a scratchpad -/

theorem SameBytes.refl (s : State) : SameBytes s s := ⟨rfl, rfl, fun _ => rfl⟩

theorem SameBytes.later (s : State) (l : List Instr) : SameBytes s (s.later l) := ⟨rfl, rfl, fun _ => rfl⟩

theorem SameBytes.scratch {s t : State} (h : SameBytes s t) (i : Nat) : (t.team i).map (·.scratch) = (s.team i).map (·.scratch) := by
  simpa [Function.comp_def] using congrArg (Option.map (·.1)) (h.2.2 i)

theorem SameBytes.of_woken {s t : State} (h : Woken s t) : SameBytes s t := by
  obtain ⟨_, teams, _, _, _, _, _, _, rfl, -, hlen, hteams, -⟩ := h
  refine ⟨rfl, rfl, fun i => ?_⟩
  by_cases hi : i < s.teams.length
  · obtain ⟨_, _, _, _, ths, heq, hlength, hths⟩ := hteams i _ _ (List.getElem?_eq_getElem hi) (List.getElem?_eq_getElem (hlen ▸ hi))
    have hlanes : ths.map (·.lane) = s.teams[i].threads.map (·.lane) := by
      refine List.ext_getElem (by simp [hlength]) fun j hj hj' => ?_
      rw [List.length_map] at hj hj'
      obtain ⟨_, _, _, _, _, hth⟩ := hths j _ _ (List.getElem?_eq_getElem hj') (List.getElem?_eq_getElem hj)
      simp [hth]
    simp [State.team, List.getElem?_eq_getElem hi, List.getElem?_eq_getElem (hlen ▸ hi), heq, hlanes]
  · simp [State.team, List.getElem?_eq_none (show s.teams.length ≤ i by omega), List.getElem?_eq_none (show teams.length ≤ i by omega)]

theorem SameBytes.endedAt (s : State) (i pts : Nat) : SameBytes s (s.endedAt i pts) := .modTeam s i (fun _ => rfl) fun _ => rfl

theorem SameBytes.noteDone (s : State) (id ts : Nat) : SameBytes s (s.noteDone id ts) := by
  unfold State.noteDone
  split
  · exact ⟨rfl, rfl, fun _ => rfl⟩
  · exact .refl s

theorem SameBytes.nextMatrix (s : State) (i id : Nat) : SameBytes s (s.nextMatrix i id) := by
  unfold State.nextMatrix
  split
  · exact .refl s
  split
  · refine SameBytes.trans (.modTeam s i ?_ ?_) (.later ..)
    · exact fun _ => rfl
    · exact fun _ => rfl
  · exact .refl s

/-- R202: the end of an operation moves no byte. -/
theorem SameBytes.dropOp (s : State) (o : EngOp) : SameBytes s (s.dropOp o) := by
  unfold State.dropOp
  extract_lets s1
  have h1 : SameBytes s s1 :=
    (SameBytes.trans (t := { s with ops := s.ops.filter (·.id ≠ o.id) }) ⟨rfl, rfl, fun _ => rfl⟩ (.endedAt ..)).trans (.nextMatrix ..)
  split
  · split
    · exact h1.trans (.later ..)
    · exact h1
  · exact h1

theorem SameBytes.storeStamp_scr (s : State) (core : Option Nat) (pts i off : Nat) (q : Req) : SameBytes s (s.storeStamp core pts (.scr i off) q).1 := by
  change SameBytes s (s.touch (.scr i off) pts).1
  unfold State.touch
  simp only []
  split
  · exact .refl s
  · exact .modTeam s i (fun _ => rfl) fun _ => rfl

/-! ### The completion word (R202) -/

theorem State.poke_scratch (s : State) (i off n k : Nat) : ((s.poke (.scr i off) n (s.peek (.scr i off) n + k)).team i).map (·.scratch)
    = ((s.team i).map (·.scratch)).map fun m => m.write off n (m.read off n + k) := by
  simp only [State.poke, State.modTeam_team_same, Option.map_map]
  cases h : s.team i with
  | none => rfl
  | some tm => simp [State.peek, h]

section
variable {s : State} {o : EngOp} {ea : W64} {tm : Team} (htm : s.team o.t.team = some tm) (hwave : tm.wave = none) (halign : ea.toNat % 8 = 0)
  (hend : ea.toNat + 8 ≤ (s.launchOf tm).body.scr * 4096)
include htm hwave halign hend

/-- R70, R202: the check of a completion word in the scratchpad finds it there. -/
theorem State.checkAt_scratch : s.checkAt (s.opAgent o) 1 ea 8 8 true true = { s, faults := [], loc := some (.scr o.t.team ea.toNat) } := by
  have hplace : s.onChip o.t tm 1 ea.toNat 8 = .ok (.scr o.t.team ea.toNat) := if_pos (by simpa [State.scratchSize, hwave] using hend)
  unfold State.checkAt
  rw [State.locate_onChip (tm := tm) (by decide) htm halign, show (s.opAgent o).t = o.t from rfl, show (1 : BitVec 3).toNat = 1 from rfl, hplace]
  rfl

theorem State.addWord_scratch {k : Nat} (hword : o.word = some (1, ea)) :
    ((s.addWord o k).team o.t.team).map (·.scratch) = some (tm.scratch.write ea.toNat 8 (tm.scratch.read ea.toNat 8 + k)) := by
  have hcheck := State.checkAt_scratch (o := o) htm hwave halign hend
  unfold State.addWord
  simp only [hword, hcheck]
  generalize hr : s.storeStamp none o.pts (.scr o.t.team ea.toNat) _ = r
  have hstamp : SameBytes s r.1 := hr ▸ SameBytes.storeStamp_scr ..
  have hwritten := State.poke_scratch r.1 o.t.team ea.toNat 8 k
  rw [hstamp.scratch, htm, Option.map_some, Option.map_some] at hwritten
  rw [← hwritten]
  exact (((SameBytes.of_woken (Woken.evaluate ..)).trans (.endedAt ..)).trans (.noteDone ..)).scratch _

end

end Sys2Proof.Machine
end

section
/-!
O44: the events of engine operations.
-/
namespace Sys2Proof.Machine

theorem State.op_id {s : State} {id : Nat} {o : EngOp} (h : s.op id = some o) : o.id = id := by simpa using List.find?_some h

theorem State.addUnderflow_id (s : State) (o : EngOp) : (s.addUnderflow o).2.id = o.id := by
  unfold State.addUnderflow
  split <;> rfl

theorem State.addUnderflow_of_ne_qbx (s : State) {o : EngOp} (h : ∀ a b c d, o.kind ≠ .qbx a b c d) : s.addUnderflow o = (s, o) := by
  unfold State.addUnderflow
  split
  · next hkind => exact absurd hkind (h _ _ _ _)
  · rfl

theorem State.finishOp_op (s : State) (o : EngOp) : (s.finishOp o).op o.id = none := by
  rw [← s.addUnderflow_id o]
  exact State.dropOp_op ..

theorem State.faultOp_op (s : State) (o : EngOp) (f : TrapInfo) : (s.faultOp o f).op o.id = none := by
  rw [← s.addUnderflow_id o]
  exact State.dropOp_op ..

/-! ### Completion (R202) -/

section
variable {o : EngOp} (hfetch : ∀ a b c, o.kind ≠ .cfetch a b c) (hring : ∀ a b c d e, o.kind ≠ .ring a b c d e)
include hfetch hring

theorem State.closeOp_of_ne_mflip (s : State) (hflip : o.kind ≠ .mflip) : s.closeOp o = s.finishOp o := by
  unfold State.closeOp
  split
  · next h => exact absurd h (hfetch _ _ _)
  · next h => exact absurd h hflip
  · next h => exact absurd h (hring _ _ _ _ _)
  · rfl

theorem State.closeOp_op (s : State) : (s.closeOp o).op o.id = none := by
  by_cases hflip : o.kind = .mflip
  · unfold State.closeOp
    rw [hflip]
    exact State.dropOp_op ..
  · rw [State.closeOp_of_ne_mflip hfetch hring s hflip]
    exact State.finishOp_op ..

end

/-- R202: an operation with nothing left to perform, which need not wait, is closed. -/
theorem State.completeOp_closes {s : State} {id : Nat} {o : EngOp} (hop : s.op id = some o) (htodo : o.todo = []) (hrun : s.mayRun o = true)
    (hheld : s.opHeld id = false) (hnow : (s.granted o).postpone ((s.granted o).closeOp o) (.op o.id) (.op o.id) (enginePort o.core) o.granted = none) :
    ∃ u, (u = (s.granted o).closeOp o ∨ u = ((s.granted o).closeOp o).later [.engineOpComplete id]) ∧ s.completeOp id = u := by
  refine ⟨_, ?_, rfl⟩
  unfold State.completeOp
  simp only [hop, hrun, htodo, List.length_nil, State.runOp, hheld, State.attempt_performed (f := fun s => s.closeOp o) hnow, Bool.not_true, Bool.false_eq_true, if_false,
    List.isEmpty_nil, Bool.or_false]
  split
  · exact .inr rfl
  · exact .inl rfl

theorem State.granted_launches (s : State) (o : EngOp) : (s.granted o).launches = s.launches := by
  unfold State.granted State.usePlace State.modStanding
  split
  · rfl
  · split
    · split <;> rfl
    · rfl

/-- R202: the completion word in the scratchpad. -/
theorem State.finishOp_scratch {s : State} {o : EngOp} {ea : W64} {tm : Team} (hqbx : ∀ a b c d, o.kind ≠ .qbx a b c d) (hword : o.word = some (1, ea))
    (htm : s.team o.t.team = some tm) (hwave : tm.wave = none) (halign : ea.toNat % 8 = 0) (hend : ea.toNat + 8 ≤ (s.launchOf tm).body.scr * 4096) :
    ((s.finishOp o).team o.t.team).map (·.scratch) = some (tm.scratch.write ea.toNat 8 (tm.scratch.read ea.toNat 8 + 1)) := by
  unfold State.finishOp
  simp only [State.addUnderflow_of_ne_qbx s hqbx]
  rw [(SameBytes.dropOp ..).scratch, State.addWord_scratch htm hwave halign hend hword]

/-! ### Faults (R370) -/

theorem Woken.ops {s t : State} (h : Woken s t) : t.ops = s.ops := by
  obtain ⟨_, _, _, _, _, _, _, _, rfl, -⟩ := h
  rfl

theorem State.tokenDue_ops (s : State) (t : TRef) (k : Nat) : (s.tokenDue t k).ops = s.ops := by
  unfold State.tokenDue
  split
  · rfl
  split
  · rfl
  split
  · split
    · split
      · exact (Woken.resume ..).ops
      · rfl
    · split <;> rfl
  · rfl

/-- R359, R370: an operation that has met a fault is over. -/
theorem State.stopOp_op {s : State} {id : Nat} {o : EngOp} (hop : s.op id = some o) (f : TrapInfo) : (s.stopOp id f).op id = none := by
  obtain rfl := State.op_id hop
  have hfault := State.faultOp_op (s.zeroSlots o) { o with todo := [] } f
  unfold State.stopOp
  simp only [hop]
  split
  · exact State.dropOp_op ..
  split
  · simpa [State.op, State.tokenDue_ops] using hfault
  · exact hfault

/-! ### The obligation -/

/-- Settles O44, event by event. -/
theorem engineEvents : Obligations.EngineEvents := by
  unfold Obligations.EngineEvents
  intro s
  refine ⟨?reservation, ?complete, ?fault, ?timeout⟩
  case reservation =>
    intro i k r u space ea s1 n hr hreqs hfree heos hheld hput hu hwait hnow
    obtain ⟨th, hth⟩ : ∃ th, s1.thread u = some th := by
      cases h : s1.thread u with
      | none => simp [State.waitsFor, h] at hwait
      | some th => exact ⟨th, rfl⟩
    have hwaits : th.waitsFor (.ringSlot k) n := by simpa [State.waitsFor, Thread.waitsFor, hth] using hwait
    exact ⟨s1.resume u, congrArg Host.Outcome.next (State.serve_put hr hreqs hfree heos hheld hput hu hwait hnow), State.resume_goesOn hth hwaits⟩
  case complete =>
    intro id o hop htodo hrun hheld hfetch hring hnow
    obtain ⟨u, hu, hcomplete⟩ := State.completeOp_closes hop htodo hrun hheld hnow
    obtain ⟨hop', hteam⟩ : u.op id = ((s.granted o).closeOp o).op id ∧ u.team o.t.team = ((s.granted o).closeOp o).team o.t.team := by
      rcases hu with rfl | rfl <;> exact ⟨rfl, rfl⟩
    refine ⟨u, congrArg Host.Outcome.next hcomplete, ?_, fun ea tm tn hword hqbx hflip htm hwave halign hend htn => ?_⟩
    · rw [hop', ← State.op_id hop, State.closeOp_op hfetch hring]
    · obtain ⟨hteams, -⟩ := s.granted_stands o
      have hscratch := State.finishOp_scratch (s := s.granted o) hqbx hword (by rw [State.team, hteams]; exact htm) hwave halign (by rw [State.launchOf, State.granted_launches]; exact hend)
      rw [← State.closeOp_of_ne_mflip hfetch hring _ hflip, ← hteam, htn, Option.map_some, Option.some_inj] at hscratch
      rw [hscratch, Memory.read_write, show 256 ^ 8 = 2 ^ 64 by norm_num]
  case fault =>
    intro id o f hop hrun hfault
    refine ⟨s.tick.stopOp id f, ?_, State.stopOp_op (s := s.tick) hop f⟩
    change execEngineElementFault id s = _
    simp [execEngineElementFault, hop, hrun, hfault]
  case timeout =>
    intro id o fn d hop hkind hdue hall
    refine ⟨s.stopOp id (engineFault 0x61 0 0 0), ?_, State.stopOp_op hop _⟩
    have hunmatched : o.unmatched = true := by
      simpa [EngOp.unmatched, hkind, collReceived, mem_numbers] using hall
    change execCollMatchTimeout id s = _
    simp [execCollMatchTimeout, hop, State.matchOver, hunmatched, hdue]

end Sys2Proof.Machine
end

section
/-!
SUPPORT. Walks (O45): a walk caches the translation that it finds, for its core and for the core's die, and sets the bits of its leaf (R88, R90).
-/
namespace Sys2Proof.Machine

/-! ### The bits of a leaf (R90) -/

theorem State.markLeaf_mem (s : State) (bay pts ea : Nat) (store : Bool) : (s.markLeaf bay pts ea store).mem
    = (s.mem.set ea (s.mem.get ea ||| 0x80)).set (ea + 1) (s.mem.get (ea + 1) ||| (if store then 1 else 0)) := by
  simp [State.markLeaf]

section
variable (s : State) (bay pts ea : Nat) (store : Bool)

theorem State.markLeaf_accessed : (s.markLeaf bay pts ea store).mem.get ea = s.mem.get ea ||| 0x80 := by
  rw [State.markLeaf_mem, Memory.get_set_other _ _ (by omega), Memory.get_set_same]

theorem State.markLeaf_dirty : (s.markLeaf bay pts ea store).mem.get (ea + 1) = s.mem.get (ea + 1) ||| (if store then 1 else 0) := by
  rw [State.markLeaf_mem, Memory.get_set_same]

theorem State.markLeaf_other {a : Nat} (h : a ≠ ea) (h' : a ≠ ea + 1) : (s.markLeaf bay pts ea store).mem.get a = s.mem.get a := by
  rw [State.markLeaf_mem, Memory.get_set_other _ _ h', Memory.get_set_other _ _ h]

end

/-! ### Cached translations (R91) -/

/-- A translation entered for a die stays when it is entered for one of its cores as well. -/
theorem State.mem_cacheTlb_core (s : State) {e : Tlb} (he : e.core = none) (core : Nat) {c : Option Nat} (hc : c = some core ∨ c = none) :
    { e with core := c } ∈ ((s.cacheTlb e).cacheTlb { e with core := some core }).tlb := by
  rcases hc with rfl | rfl
  · exact List.mem_cons_self ..
  · have hsame : { e with core := none } = e := by rw [← he]
    rw [hsame]
    refine List.mem_cons_of_mem _ (List.mem_filter.2 ⟨List.mem_cons_self .., ?_⟩)
    simp [he]

/-- R88, R90, R91: what a walk that finds a translation leaves. -/
theorem exec_translationWalk {s s0 s1 : State} {core asid va pts ea e size pa type bits : Nat} {store x : Bool}
    (hwalk : s.walk (core / 64) asid va (s.chargedBay core asid) = .ok (s0, pts, ea, e, size)) (hfor : s.walkFor core asid va store true = .ok (s1, pa, type, bits, x)) :
    exec (.translationWalk core asid va store) s = .next s1 ∧ s1.mem.get ea = s.mem.get ea ||| 0x80
      ∧ s1.mem.get (ea + 1) = s.mem.get (ea + 1) ||| (if store then 1 else 0) ∧ (∀ a, a ≠ ea → a ≠ ea + 1 → s1.mem.get a = s.mem.get a)
      ∧ ∀ c, c = some core ∨ c = none → ∃ y ∈ s1.tlb, y.core = c ∧ y.die = core / 64 ∧ y.asid = asid ∧ y.page = va / 2 ^ y.bits
        ∧ pa = y.pa + va % 2 ^ y.bits ∧ y.type = type := by
  have hmem : s0.mem = s.mem := (walk_atHome _ hwalk).mem.1
  have hexec : exec (.translationWalk core asid va store) s = .next s1 := by
    change execTranslationWalk core asid va store s = _
    rw [execTranslationWalk, hfor]
  refine ⟨hexec, ?_⟩
  unfold State.walkFor at hfor
  rw [show dieOf core = core / 64 from rfl, hwalk] at hfor
  simp only [] at hfor
  split at hfor
  · cases hfor
  · obtain ⟨rfl, rfl, rfl, rfl, rfl⟩ : _ ∧ _ ∧ _ ∧ _ ∧ _ := by simpa only [Except.ok.injEq, Prod.mk.injEq] using hfor
    refine ⟨?_, ?_, fun a h h' => ?_, fun c hc => ⟨_, State.mem_cacheTlb_core _ rfl _ hc, rfl, rfl, rfl, rfl, rfl, rfl⟩⟩
    · rw [State.cacheTlb_mem, State.cacheTlb_mem, State.markLeaf_accessed, hmem]
    · rw [State.cacheTlb_mem, State.cacheTlb_mem, State.markLeaf_dirty, hmem]
    · rw [State.cacheTlb_mem, State.cacheTlb_mem, State.markLeaf_other _ _ _ _ _ h h', hmem]

end Sys2Proof.Machine
end

section
/-!
SUPPORT. The frames of a slice and the events that it raises (O45): what a fill, an eviction and the raising of events can change of the state (`AtSlices`),
the line that a fill brings (R76), the event of a miss (R300), and the line that an eviction takes.
-/
namespace Sys2Proof.Machine

/-! ### What slices and their events change -/

/-- Counts of activity, slices, the agenda and the windows of senders may differ; every hod core runs what it ran. -/
def AtSlices (s t : State) : Prop :=
  (∃ act sl ag senders sent, t = { s with activity := act, slices := sl, agenda := ag, senders := senders, nextSent := sent })
    ∧ ∀ k, (t.slice k).hod = (s.slice k).hod

/-- The same, with every frame of every slice as it was. -/
def EventsRaised (s t : State) : Prop := AtSlices s t ∧ ∀ k, (t.slice k).frames = (s.slice k).frames

namespace AtSlices

theorem refl (s : State) : AtSlices s s := ⟨⟨_, _, _, _, _, rfl⟩, fun _ => rfl⟩

theorem trans {s t u : State} (h : AtSlices s t) (k : AtSlices t u) : AtSlices s u := by
  obtain ⟨⟨_, _, _, _, _, rfl⟩, hhod⟩ := h
  obtain ⟨⟨_, _, _, _, _, rfl⟩, khod⟩ := k
  exact ⟨⟨_, _, _, _, _, rfl⟩, fun i => (khod i).trans (hhod i)⟩

theorem modSlice (s : State) (k : Nat) {f : Slice → Slice} (hf : ∀ l, (f l).hod = l.hod) : AtSlices s (s.modSlice k f) := by
  refine ⟨⟨_, _, _, _, _, rfl⟩, fun i => ?_⟩
  rw [slice_modSlice]
  split
  · next h => rw [h, hf]
  · rfl

theorem later (s : State) (l : List Instr) : AtSlices s (s.later l) := ⟨⟨_, _, _, _, _, rfl⟩, fun _ => rfl⟩

theorem noteUse (s : State) (src bay n : Nat) : AtSlices s (s.noteUse src bay n) := ⟨⟨_, _, _, _, _, rfl⟩, fun _ => rfl⟩

section
variable {s t : State} (h : AtSlices s t)
include h

theorem mem : t.mem = s.mem := by
  obtain ⟨⟨_, _, _, _, _, rfl⟩, -⟩ := h
  rfl

theorem teams : t.teams = s.teams := by
  obtain ⟨⟨_, _, _, _, _, rfl⟩, -⟩ := h
  rfl

theorem monitors : t.monitors = s.monitors := by
  obtain ⟨⟨_, _, _, _, _, rfl⟩, -⟩ := h
  rfl

theorem homeOf (pa : Nat) : t.homeOf pa = s.homeOf pa := by
  obtain ⟨⟨_, _, _, _, _, rfl⟩, -⟩ := h
  rfl

theorem region (pa : Nat) : t.region pa = s.region pa := by
  obtain ⟨⟨_, _, _, _, _, rfl⟩, -⟩ := h
  rfl

end
end AtSlices

namespace EventsRaised

theorem refl (s : State) : EventsRaised s s := ⟨.refl s, fun _ => rfl⟩

theorem trans {s t u : State} (h : EventsRaised s t) (k : EventsRaised t u) : EventsRaised s u := ⟨h.1.trans k.1, fun i => (k.2 i).trans (h.2 i)⟩

theorem modSlice (s : State) (k : Nat) {f : Slice → Slice} (hhod : ∀ l, (f l).hod = l.hod) (hframes : ∀ l, (f l).frames = l.frames) : EventsRaised s (s.modSlice k f) := by
  refine ⟨.modSlice s k hhod, fun i => ?_⟩
  rw [slice_modSlice]
  split
  · next h => rw [h, hframes]
  · rfl

theorem queueEntry (s : State) (coreid : Nat) (x : Sent) : EventsRaised s (s.queueEntry coreid x).s :=
  ⟨⟨⟨_, _, _, _, _, rfl⟩, fun _ => rfl⟩, fun _ => rfl⟩

/-- R290, R300: an event that no message is, where a handler is installed for it, is accepted or stands in the window of its slice. -/
theorem raiseHod (s : State) (k : Nat) (e : HodEvent) (he : e.kind ≠ 4) : EventsRaised s (s.raiseHod k e) := by
  have hrevoke : s.revokeSender e = s := by
    unfold State.revokeSender
    split
    · next h _ => exact absurd h he
    · rfl
  unfold State.raiseHod State.send
  cases hhandler : s.handlerOf e.asid k e.kind with
  | none => exact refl s
  | some h =>
    simp only [State.accept, hhandler, hrevoke, Option.isNone_some, Bool.false_eq_true, if_false]
    by_cases hempty : s.windowFor 255 (.hod k e) = []
    · rw [if_pos hempty]
      by_cases hroom : (s.slice k).hodq.length < 32
      · rw [if_pos hroom]
        exact (modSlice s k (f := fun l => { l with hodq := l.hodq ++ [{ e with entry := h.1, top := h.2 }] }) (fun _ => rfl) fun _ => rfl).trans ⟨.later .., fun _ => rfl⟩
      · rw [if_neg hroom]
        exact queueEntry ..
    · rw [if_neg hempty]
      by_cases hlength : (s.windowFor 255 (.hod k e)).length < 32
      · rw [if_pos hlength]
        exact queueEntry ..
      · rw [if_neg hlength]
        exact refl s

/-- R300: the events of the lines of a frame. -/
theorem evictionEvents (s : State) (k : Nat) (f : Frame) (lines : BitVec 4) (pts : Nat) (who : Option Requester) : EventsRaised s (s.evictionEvents k f lines pts who) := by
  unfold State.evictionEvents
  refine List.foldlRecOn (motive := EventsRaised s) _ _ (refl s) fun u hu j _ => hu.trans ?_
  split
  · exact raiseHod u k _ (show 3 ≠ 4 by decide)
  · exact refl u

theorem l2Holds {s t : State} (h : EventsRaised s t) (pa : Nat) : t.l2Holds pa = s.l2Holds pa := by
  unfold State.l2Holds
  rw [h.1.homeOf, h.2]

end EventsRaised

/-! ### The lines of frames (R76) -/

theorem AtSlices.noteMoved (s : State) (pa bay lines : Nat) : AtSlices s (s.noteMoved pa bay lines) := by
  unfold State.noteMoved
  simp only []
  split
  · exact (AtSlices.noteUse ..).trans (.noteUse ..)
  · exact ((AtSlices.noteUse ..).trans (.noteUse ..)).trans (.noteUse ..)

/-- A slice holds line `j` of a superblock. -/
def Slice.hasLine (l : Slice) (sb j : Nat) : Bool := l.frames.any fun f => f.sb = sb && f.valid.getLsbD j

theorem State.l2Holds_eq (s : State) (pa : Nat) : s.l2Holds pa = (s.slice (s.homeOf pa)).hasLine (pa / 512) (pa / 128 % 4) := rfl

theorem State.l2Holds_modSlice (s : State) (pa : Nat) (f : Slice → Slice) :
    (s.modSlice (s.homeOf pa) f).l2Holds pa = (f (s.slice (s.homeOf pa))).hasLine (pa / 512) (pa / 128 % 4) := by
  rw [State.l2Holds_eq, show (s.modSlice (s.homeOf pa) f).homeOf pa = s.homeOf pa from rfl, slice_modSlice, if_pos rfl]

theorem lineBit {j : Nat} (h : j < 4) : (1#4 <<< j).getLsbD j = true := by
  interval_cases j <;> rfl

theorem FillReq.into_sb (f : FillReq) (y : Frame) : (f.into y).sb = y.sb := by
  unfold FillReq.into Frame.ownedBy
  split <;> rfl

/-- R76: the request's line is in the frame that it enters. -/
theorem FillReq.into_valid (f : FillReq) (y : Frame) : (f.into y).valid.getLsbD (f.pa / 128 % 4) = true := by
  have hbit := lineBit (Nat.mod_lt (f.pa / 128) (by decide : 4 > 0))
  have hall : (15#4).getLsbD (f.pa / 128 % 4) = true := by
    have := Nat.mod_lt (f.pa / 128) (by decide : 4 > 0)
    interval_cases f.pa / 128 % 4 <;> rfl
  unfold FillReq.into
  simp only [BitVec.getLsbD_or]
  split <;> simp [hbit, hall]

theorem Slice.hasLine_into (l : Slice) (f : FillReq) {y : Frame} (hy : y.sb = f.pa / 512) (rest : List Frame) :
    Slice.hasLine { l with frames := f.into y :: rest } (f.pa / 512) (f.pa / 128 % 4) = true := by
  simp [Slice.hasLine, FillReq.into_sb, FillReq.into_valid, hy]

/-- R76: the frame that a fill claims for a bay. -/
def FillReq.claim (f : FillReq) (bay : Nat) : Frame :=
  f.into { sb := f.pa / 512, va := f.va / 512 * 512, valid := 0, dirty := 0, strm := 0, kept := false, asid := f.asid, bay }

theorem State.enterFrame_spec {s u : State} (h : AtSlices s u) (f : FillReq) (bay : Nat) (others : List Frame → List Frame) :
    AtSlices s (u.modSlice (s.homeOf f.pa) fun l => { l with frames := f.claim bay :: others l.frames })
      ∧ (u.modSlice (s.homeOf f.pa) fun l => { l with frames := f.claim bay :: others l.frames }).l2Holds f.pa = true := by
  refine ⟨h.trans (.modSlice _ _ fun _ => rfl), ?_⟩
  rw [← h.homeOf, State.l2Holds_modSlice]
  exact Slice.hasLine_into _ f rfl _

/-- R76: the frame that a fill claims, or uses, holds the line; no more than slices and their events change. -/
theorem State.claimFrame_spec (s : State) (f : FillReq) (bay : Nat) : AtSlices s (s.claimFrame f bay) ∧ (s.claimFrame f bay).l2Holds f.pa = true := by
  unfold State.claimFrame
  simp only []
  cases hframe : s.frameOf f.pa with
  | some x =>
    have hsb : x.sb = f.pa / 512 := by simpa using List.find?_some hframe
    simp only [Option.isSome_some, if_true]
    refine ⟨.modSlice s _ fun l => ?_, ?_⟩
    · unfold Slice.use
      split <;> rfl
    · rw [State.l2Holds_modSlice, Slice.use, show (s.slice (s.homeOf f.pa)).frames.find? (·.sb = f.pa / 512) = some x from hframe]
      exact Slice.hasLine_into _ f hsb _
  | none =>
    simp only [Option.isSome_none, Bool.false_eq_true, if_false]
    split
    · exact State.enterFrame_spec (.refl s) f bay id
    · next v _ =>
      obtain ⟨hclaimed, hholds⟩ := State.enterFrame_spec (u := s.noteBack v 15) (.noteMoved ..) f bay (·.filter (·.sb ≠ v.sb))
      split
      · have hraised := EventsRaised.evictionEvents ((s.noteBack v 15).modSlice (s.homeOf f.pa) fun l => { l with frames := f.claim bay :: l.frames.filter (·.sb ≠ v.sb) })
          (s.homeOf f.pa) v 15 f.pts f.who
        exact ⟨hclaimed.trans hraised.1, (hraised.l2Holds _).trans hholds⟩
      · exact ⟨hclaimed, hholds⟩

/-! ### Fills and misses (R76, R300) -/

/-- R25, R76: what a fill comes to before the monitors of a line of host memory are evaluated. -/
def State.filled (s : State) (f : FillReq) : State :=
  (s.noteMoved f.pa (f.bay.getD (s.chargedBay f.coreid f.asid)) (s.fetches f).length).claimFrame f (f.bay.getD (s.chargedBay f.coreid f.asid))

theorem State.filled_spec (s : State) (f : FillReq) : AtSlices s (s.filled f) ∧ (s.filled f).l2Holds f.pa = true := by
  obtain ⟨hclaimed, hholds⟩ := (s.noteMoved f.pa (f.bay.getD (s.chargedBay f.coreid f.asid)) (s.fetches f).length).claimFrame_spec f (f.bay.getD (s.chargedBay f.coreid f.asid))
  exact ⟨.trans (.noteMoved ..) hclaimed, hholds⟩

theorem State.fillLine_eq (s : State) (f : FillReq) : s.fillLine f = if s.region f.pa = .host
    then (s.fetches f).foldl (fun (s : State) j => s.evaluate (.phys (f.pa / 512 * 512 + 128 * j) 2) 128 0) (s.filled f) else s.filled f := by
  rw [← (s.filled_spec f).1.region]
  rfl

theorem Woken.l2Holds {s t : State} (h : Woken s t) (pa : Nat) : t.l2Holds pa = s.l2Holds pa := by
  obtain ⟨_, _, _, _, _, _, _, _, rfl, -⟩ := h
  rfl

/-- Where there is no monitor, the evaluation of a write ends no wait. -/
theorem State.evaluate_unwatched {s : State} (h : s.monitors = []) (l : Loc) (n ts : Nat) : (s.evaluate l n ts).teams = s.teams ∧ (s.evaluate l n ts).monitors = [] := by
  unfold State.evaluate
  simp only [h, List.filter_nil, List.foldl_nil]
  split
  · exact ⟨rfl, rfl⟩
  · exact ⟨rfl, h⟩

/-- R76: a line that has been filled is held by its home. -/
theorem State.fillLine_spec (s : State) (f : FillReq) : (s.fillLine f).l2Holds f.pa = true ∧ (s.fillLine f).mem = s.mem
    ∧ (s.region f.pa ≠ .host ∨ s.monitors = [] → (s.fillLine f).teams = s.teams) := by
  obtain ⟨hfilled, hholds⟩ := s.filled_spec f
  rw [State.fillLine_eq]
  split
  · next hhost =>
    have hwoken := Woken.foldl (fun (s : State) j => s.evaluate (.phys (f.pa / 512 * 512 + 128 * j) 2) 128 0) (fun _ _ => .evaluate ..) (s.fetches f) (s.filled f)
    refine ⟨(hwoken.l2Holds _).trans hholds, hwoken.mem.trans hfilled.mem, fun h => ?_⟩
    have hnone : (s.filled f).monitors = [] := hfilled.monitors.trans (h.resolve_left fun h => h hhost)
    refine (List.foldlRecOn (motive := fun u : State => u.teams = s.teams ∧ u.monitors = []) _ _ ⟨hfilled.teams, hnone⟩ fun u hu j _ => ?_).1
    obtain ⟨hteams, hmonitors⟩ := State.evaluate_unwatched hu.2 (.phys (f.pa / 512 * 512 + 128 * j) 2) 128 0
    exact ⟨hteams.trans hu.1, hmonitors⟩
  · exact ⟨hholds, hfilled.mem, fun _ => hfilled.teams⟩

/-- R300: the request of an ASID keeps it. -/
theorem State.ownedLine_of_ne {s : State} {f : FillReq} (h : f.asid ≠ 512) : s.ownedLine f = f := if_pos h

section
variable {s : State} {f : FillReq} (hmiss : s.l2Holds f.pa = false) (hasid : f.asid ≠ 512) (hroom : s.eventRoom (s.homeOf f.pa) = true)
include hmiss hasid hroom

/-- R300: a miss that raises no event is filled at once. -/
theorem State.missLine_fills (h : f.raises = false ∨ s.handlerOf f.asid (s.homeOf f.pa) 1 = none) : s.missLine f = s.fillLine f := by
  unfold State.missLine
  simp only [hmiss, hroom, State.ownedLine_of_ne hasid]
  rcases h with h | h <;> simp [h]

/-- R290, R300: a miss raises its event, which the hod core's queue takes. -/
theorem State.missLine_raises {h : Nat × Nat} (hraises : f.raises = true) (hregion : s.region f.pa = .hbm) (hhandler : s.handlerOf f.asid (s.homeOf f.pa) 1 = some h)
    (hwindow : s.windowFor 0xFF (.hod (s.homeOf f.pa) (f.event 1 (some f))) = []) (hqueue : (s.slice (s.homeOf f.pa)).hodq.length < 32) :
    s.missLine f = (s.modSlice (s.homeOf f.pa) fun l => { l with hodq := l.hodq ++ [{ f.event 1 (some f) with entry := h.1, top := h.2 }] }).later
      [.hodInvocationStart (s.homeOf f.pa)] := by
  have haccept : s.accept (.hod (s.homeOf f.pa) (f.event 1 (some f))) = some { s := (s.modSlice (s.homeOf f.pa) fun l =>
      { l with hodq := l.hodq ++ [{ f.event 1 (some f) with entry := h.1, top := h.2 }] }).later [.hodInvocationStart (s.homeOf f.pa)] } := by
    unfold State.accept
    simp only [FillReq.event, lineEvent, hhandler, hqueue, if_true]
    rfl
  unfold State.missLine
  simp only [hmiss, hroom, State.ownedLine_of_ne hasid, hraises, hregion, hhandler, State.send, hwindow, haccept]
  rfl

end

theorem State.later_slice (s : State) (l : List Instr) (k : Nat) : (s.later l).slice k = s.slice k := rfl

/-! ### Windows of a slice (R290) -/

section
variable {s : State} {k : Nat} (h : ∀ w ∈ s.senders, w.coreid = 0xFF → w.receiver = k → w.queue = 2 → w.window = [])
include h

theorem State.windowFor_hod_nil (e : HodEvent) : s.windowFor 0xFF (.hod k e) = [] := by
  unfold State.windowFor
  cases hfind : s.senders.find? (s.sends 0xFF (.hod k e)) with
  | none => rfl
  | some w =>
    have hsends := List.find?_some hfind
    simp only [State.sends, Bool.and_eq_true] at hsends
    obtain ⟨⟨hcore, hreceiver⟩, hqueue⟩ := hsends
    exact h w (List.mem_of_find?_eq_some hfind) (of_decide_eq_true hcore) (of_decide_eq_true hreceiver) (of_decide_eq_true hqueue)

theorem State.eventRoom_of_empty : s.eventRoom k = true := by
  have hload : s.windowLoad 0xFF k 2 = 0 := by
    unfold State.windowLoad
    refine List.foldlRecOn (motive := (· = 0)) _ _ rfl fun n hn w hw => ?_
    simp only [List.mem_filter, Bool.and_eq_true, decide_eq_true_eq] at hw
    rw [hn, h w hw.1 hw.2.1.1 hw.2.1.2 hw.2.2]
    rfl
  simp [State.eventRoom, hload]

end

/-! ### The events (R76, R300) -/

section
variable {s : State} {pa va ts asid coreid : Nat} {store : Bool} {hint : BitVec 2} {who : Option Requester} (hmiss : s.l2Holds pa = false) (hasid : asid ≠ 512)
include hmiss hasid

/-- R76, R300: a missed line for which no handler is to be invoked is filled. -/
theorem exec_l2MissFill_fills (hroom : s.windowLoad 0xFF (s.homeOf pa) 2 + 5 ≤ 32) (hunwatched : s.region pa ≠ .host ∨ s.monitors = [])
    (hquiet : coreid % 64 = 61 ∨ coreid % 64 = 62 ∨ s.handlerOf asid (s.homeOf pa) 1 = none) :
    ∃ t, exec (.l2MissFill pa va store hint asid coreid { who, pts := ts }) s = .next t ∧ t.l2Holds pa = true ∧ t.mem = s.mem ∧ t.teams = s.teams := by
  obtain ⟨hholds, hmem, hteams⟩ := s.fillLine_spec { pa, va, store, hint, asid, coreid, who, pts := ts, bay := none }
  refine ⟨_, congrArg Host.Outcome.next (State.missLine_fills (f := { pa, va, store, hint, asid, coreid, who, pts := ts, bay := none }) hmiss hasid
    (decide_eq_true hroom) ?_), hholds, hmem, hteams hunwatched⟩
  rcases hquiet with h | h | h
  · exact .inl (by simp [FillReq.raises, h])
  · exact .inl (by simp [FillReq.raises, h])
  · exact .inr h

/-- R300: a missed line of module memory raises its event. -/
theorem exec_l2MissFill_raises {h : Nat × Nat} (hhod : coreid % 64 ≠ 61) (hwave : coreid % 64 ≠ 62) (hregion : s.region pa = .hbm) (hhandler : s.handlerOf asid (s.homeOf pa) 1 = some h)
    (hwindow : ∀ w ∈ s.senders, w.coreid = 0xFF → w.receiver = s.homeOf pa → w.queue = 2 → w.window = []) (hqueue : (s.slice (s.homeOf pa)).hodq.length < 32) :
    ∃ t q, exec (.l2MissFill pa va store hint asid coreid { who, pts := ts }) s = .next t ∧ (t.slice (s.homeOf pa)).hodq = (s.slice (s.homeOf pa)).hodq ++ [q]
      ∧ q.kind = 1 ∧ q.asid = asid ∧ q.va = BitVec.ofNat 64 (va / 128 * 128) ∧ q.a2 = (if store then 1 else 0) ∧ q.a4 = BitVec.ofNat 64 coreid
      ∧ q.entry = h.1 ∧ q.pts = ts ∧ t.mem = s.mem ∧ t.teams = s.teams := by
  let f : FillReq := { pa, va, store, hint, asid, coreid, who, pts := ts, bay := none }
  have hraises : f.raises = true := by simp [f, FillReq.raises, hhod, hwave]
  have hstep := State.missLine_raises (f := f) hmiss hasid (State.eventRoom_of_empty hwindow) hraises hregion hhandler (State.windowFor_hod_nil hwindow _) hqueue
  refine ⟨_, { f.event 1 (some f) with entry := h.1, top := h.2 }, congrArg Host.Outcome.next hstep, ?_, rfl, rfl, rfl, ?_, rfl, rfl, rfl, rfl, rfl⟩
  · rw [State.later_slice, slice_modSlice, if_pos rfl]
  · cases store <;> rfl

end

/-! ### Lines that leave (R76) -/

theorem Frame.without_spec {f g : Frame} {bit : BitVec 4} (h : f.without bit = some g) : g.sb = f.sb ∧ g.valid = f.valid &&& ~~~ bit := by
  unfold Frame.without at h
  split at h
  · cases h
  · cases h
    exact ⟨rfl, rfl⟩

/-- R76: a line that has left its frame is not held. -/
theorem State.dropLine_spec (s : State) (pa : Nat) : AtSlices s (s.dropLine pa) ∧ (s.dropLine pa).l2Holds pa = false := by
  refine ⟨.modSlice s _ fun _ => rfl, ?_⟩
  unfold State.dropLine
  rw [State.l2Holds_modSlice, Slice.hasLine, List.any_eq_false]
  intro g hg
  simp only [List.mem_filterMap] at hg
  obtain ⟨f, -, hgo⟩ := hg
  simp only [Bool.and_eq_true, decide_eq_true_eq, not_and, Bool.not_eq_true]
  intro hsb
  split at hgo
  · obtain ⟨-, hvalid⟩ := Frame.without_spec hgo
    simp [hvalid, lineBit (Nat.mod_lt (pa / 128) (by decide : 4 > 0))]
  · next hne =>
    cases hgo
    exact absurd hsb hne

/-- R76: a streamed line whose leases are over leaves. -/
theorem exec_streamLineEvict {s : State} {pa : Nat} {f : Frame} (hframe : s.frameOf pa = some f) (hstream : (f.strm &&& f.valid).getLsbD (pa / 128 % 4) = true)
    (hleases : s.leasesOver pa = true) (hroom : s.windowLoad 0xFF (s.homeOf pa) 2 + 5 ≤ 32) :
    ∃ t, exec (.streamLineEvict pa) s = .next t ∧ t.l2Holds pa = false ∧ t.mem = s.mem := by
  have hbit : f.strm &&& f.valid &&& (1#4 <<< (pa / 128 % 4)) ≠ 0 := by
    intro h
    have := congrArg (·.getLsbD (pa / 128 % 4)) h
    simp only [BitVec.getLsbD_and, lineBit (Nat.mod_lt (pa / 128) (by decide : 4 > 0))] at this hstream
    simp [hstream] at this
  have hstep : s.evictStream pa = ((s.noteBack f (1#4 <<< (pa / 128 % 4))).dropLine pa).evictionEvents (s.homeOf pa) f (1#4 <<< (pa / 128 % 4)) (s.line pa).1 none := by
    unfold State.evictStream
    simp only [hframe]
    exact if_pos (by simpa [hleases, State.eventRoom, hroom] using hbit)
  have hback : AtSlices s (s.noteBack f (1#4 <<< (pa / 128 % 4))) := .noteMoved ..
  obtain ⟨hdropped, hgone⟩ := (s.noteBack f (1#4 <<< (pa / 128 % 4))).dropLine_spec pa
  have hraised := EventsRaised.evictionEvents ((s.noteBack f (1#4 <<< (pa / 128 % 4))).dropLine pa) (s.homeOf pa) f (1#4 <<< (pa / 128 % 4)) (s.line pa).1 none
  exact ⟨_, congrArg Host.Outcome.next hstep, (hraised.l2Holds pa).trans hgone, ((hback.trans hdropped).trans hraised.1).mem⟩

end Sys2Proof.Machine
end

section
/-!
SUPPORT. The beginning of an invocation (O45): the registers that a handler starts with (R119, R300).
-/
namespace Sys2Proof.Machine

/-- The entries of a map that hold its default may be left out. -/
theorem SMap.get_filter_ne {α : Type} [DecidableEq α] (d : α) {m : SMap α} (hkeys : m.Pairwise fun x y => x.1 ≠ y.1) (k : Nat) :
    SMap.get d (m.filter (·.2 ≠ d)) k = SMap.get d m k := by
  induction m with
  | nil => rfl
  | cons x m ih =>
    obtain ⟨hx, hm⟩ := List.pairwise_cons.1 hkeys
    have habsent : x.1 = k → SMap.get d m k = d := by
      rintro rfl
      clear ih hkeys
      induction m with
      | nil => rfl
      | cons y m ih =>
        rw [SMap.get, if_neg (Ne.symm (hx y (List.mem_cons_self ..)))]
        exact ih (fun z hz => hx z (List.mem_cons_of_mem _ hz)) (List.pairwise_cons.1 hm).2
    by_cases hd : x.2 = d
    · rw [List.filter_cons_of_neg (by simpa using hd), ih hm, SMap.get]
      split
      · next h => rw [habsent h, hd]
      · rfl
    · rw [List.filter_cons_of_pos (by simpa using hd), SMap.get, SMap.get, ih hm]

/-- R300: the registers of an invocation. -/
theorem get_hodRegs (e : HodEvent) (k : Nat) : SMap.get 0 (hodRegs e) k
    = SMap.get 0 [(2, BitVec.ofNat 64 e.top), (10, BitVec.ofNat 64 e.kind), (11, tagged e.va.toNat), (12, e.a2), (13, e.a3), (14, e.a4)] k :=
  SMap.get_filter_ne 0 (by simp) k

/-- R296, R300, R301: the first event of the queue starts its invocation. -/
theorem exec_hodInvocationStart {s : State} {k : Nat} {e : HodEvent} {es : List HodEvent} (hidle : (s.slice k).hod = none) (hqueue : (s.slice k).hodq = e :: es)
    (henabled : s.hodDisabled e.asid k = false) :
    ∃ t r, exec (.hodInvocationStart k) s = .next t ∧ (t.slice k).hod = some r ∧ (t.slice k).hodq = es ∧ r.event = e ∧ r.started = s.clk ∧ r.pc = BitVec.ofNat 64 e.entry
      ∧ SMap.get 0 r.regs 10 = BitVec.ofNat 64 e.kind ∧ SMap.get 0 r.regs 11 = BitVec.ofNat 64 (2 ^ 63 + e.va.toNat % 2 ^ 57)
      ∧ SMap.get 0 r.regs 12 = e.a2 ∧ SMap.get 0 r.regs 13 = e.a3 ∧ SMap.get 0 r.regs 14 = e.a4 ∧ SMap.get 0 r.regs 2 = BitVec.ofNat 64 e.top ∧ t.mem = s.mem := by
  have hstep : s.startInvocation k = s.modSlice k fun l =>
      { l with hodq := es, hod := some { event := e, started := s.clk, regs := hodRegs e, pc := BitVec.ofNat 64 e.entry, pts := e.pts } } := by
    unfold State.startInvocation
    simp only [hidle, hqueue, henabled]
    rfl
  refine ⟨_, { event := e, started := s.clk, regs := hodRegs e, pc := BitVec.ofNat 64 e.entry, pts := e.pts }, congrArg Host.Outcome.next hstep, ?_, ?_, rfl, rfl, rfl,
    get_hodRegs e 10, get_hodRegs e 11, get_hodRegs e 12, get_hodRegs e 13, get_hodRegs e 14, get_hodRegs e 2, rfl⟩
  · rw [slice_modSlice, if_pos rfl]
  · rw [slice_modSlice, if_pos rfl]

/-! ### Accesses of .g (R297, R298) -/

/-- R297: a tagged address of a naturally aligned access is one of .g. -/
theorem State.hodPlaceOf_global {s : State} {k : Nat} {e : HodEvent} {a va n : Nat} (htop : e.top ≤ 16384) (hn : n = 1 ∨ n = 2 ∨ n = 4 ∨ n = 8) (hva : va + n ≤ 2 ^ 57)
    (halign : va % n = 0) (ha : a = 2 ^ 63 + va) : s.hodPlaceOf k e a n = .ok (.global va) := by
  have haligned : a % n = 0 := by rcases hn with rfl | rfl | rfl | rfl <;> omega
  unfold State.hodPlaceOf
  rw [if_neg (by omega), if_neg (by omega), if_pos (by omega), if_pos haligned, ha, Nat.add_sub_cancel_left]

theorem State.setHod_hod (s : State) (k : Nat) (r : HodRun) : ((s.setHod k r).slice k).hod = some r := by
  rw [State.setHod, slice_modSlice, if_pos rfl]

theorem HodRun.set_get_same (r : HodRun) {x : Nat} (v : W64) (h : x ≠ 0) : SMap.get 0 (r.set x v).regs x = v := by
  rw [HodRun.set, if_neg h, SMap.get_set_same]

theorem HodRun.set_get_other (r : HodRun) {x j : Nat} (v : W64) (h : j ≠ x) : SMap.get 0 (r.set x v).regs j = SMap.get 0 r.regs j := by
  unfold HodRun.set
  split
  · rfl
  · exact SMap.get_set_other _ _ _ h

theorem State.store_phys_mem (s : State) (pts pa n w : Nat) (q : Req) : (s.store none pts (.phys pa 0) n w q).1.mem = s.mem.write pa n w := by
  simp [State.store, State.poke]

section
variable {s s1 : State} {k va n len base pa : Nat} {off : W64} {r : HodRun} (htop : r.event.top ≤ 16384) (hn : n = 1 ∨ n = 2 ∨ n = 4 ∨ n = 8) (hva : va + n ≤ 2 ^ 57)
  (halign : va % n = 0) (ha : (r.reg base + off).toNat = 2 ^ 63 + va)
include htop hn hva halign ha

/-- R298: a handler stores to .g. -/
theorem State.hodExec_store (src : Nat) (hplace : s.handlerPlace k r.event.asid va n true = .ok (s1, pa)) :
    (s.hodExec k r len (.store n base src off)).mem = s1.mem.write pa n (r.reg src).toNat
      ∧ ∃ q, ((s.hodExec k r len (.store n base src off)).slice k).hod = some q ∧ q.pc = r.pc + BitVec.ofNat 64 len ∧ q.regs = r.regs := by
  have hglobal : s.hodGlobal k r.event va n true false = .ok (s1, pa) := by simp [State.hodGlobal, hplace]
  simp only [State.hodExec, State.hodStore, State.hodPlaceOf_global htop hn hva halign ha, hglobal, Except.map, State.hodNext]
  exact ⟨(State.setHod_mem ..).trans (State.store_phys_mem ..), _, State.setHod_hod .., rfl, rfl⟩

/-- R298: a handler loads from .g, without sign extension. -/
theorem State.hodExec_load (rd : Nat) (hplace : s.handlerPlace k r.event.asid va n false = .ok (s1, pa)) (hclean : s1.physPoisoned pa n = false) :
    (s.hodExec k r len (.load n false rd base off)).mem = s1.mem
      ∧ ∃ q, ((s.hodExec k r len (.load n false rd base off)).slice k).hod = some q ∧ q.pc = r.pc + BitVec.ofNat 64 len
        ∧ (rd ≠ 0 → SMap.get 0 q.regs rd = BitVec.ofNat 64 (s1.mem.read pa n % 2 ^ (8 * n))) ∧ ∀ j, j ≠ rd → SMap.get 0 q.regs j = SMap.get 0 r.regs j := by
  have hglobal : s.hodGlobal k r.event va n false true = .ok (s1, pa) := by simp [State.hodGlobal, hplace, hclean]
  simp only [State.hodExec, State.hodLoad, State.hodPlaceOf_global htop hn hva halign ha, hglobal, Except.map, State.hodNext]
  have hvalue (q : Req) : hodExtend n false (s1.loadHome none r.pts pa n q).2.1 = BitVec.ofNat 64 (s1.mem.read pa n % 2 ^ (8 * n)) := by
    simp [hodExtend, State.loadHome]
  exact ⟨(State.setHod_mem ..).trans (State.loadHome_mem ..), _, State.setHod_hod .., rfl, fun hrd => (HodRun.set_get_same _ _ hrd).trans (hvalue _),
    fun j hj => HodRun.set_get_other _ _ hj⟩

end

end Sys2Proof.Machine
end

section
/-!
SUPPORT. The end of an invocation (O45): a message's sender has its reply (R301), and an invocation that is stopped is over (R397).
-/
namespace Sys2Proof.Machine

/-! ### What the end of a wait leaves of registers -/

theorem State.modTeam_sreg (s : State) (j : Nat) {f : Team → Team} (hf : ∀ tm, (f tm).s = tm.s) (i k : Nat) : (s.modTeam j f).sreg i k = s.sreg i k := by
  unfold State.sreg
  by_cases h : i = j
  · subst h
    rw [State.modTeam_team_same, Option.map_map]
    simp [Function.comp_def, hf]
  · rw [State.modTeam_team_other _ _ h]

theorem State.wakeTeam_sreg (s : State) (j i k : Nat) : (s.wakeTeam j).sreg i k = s.sreg i k := by
  unfold State.wakeTeam
  split
  · rfl
  split
  · exact State.modTeam_sreg s j (by intro; rfl) i k
  · rfl

theorem State.enterPool_sreg (s : State) (t : TRef) (i k : Nat) : (s.enterPool t).sreg i k = s.sreg i k := by
  obtain ⟨_, h⟩ := OnlyCores.enterPool s t
  rw [h]
  rfl

theorem State.resume_sreg (s : State) (t : TRef) (i k : Nat) : (s.resume t).sreg i k = s.sreg i k := by
  unfold State.resume
  split
  · unfold State.resumeAt
    rw [State.wakeTeam_sreg, State.enterPool_sreg, State.modTeam_sreg _ _ (by intro; rfl), State.modThread, State.modTeam_sreg _ _ (by intro; rfl)]
  · rfl

theorem State.resume_vreg (s : State) (t u : TRef) (k : Nat) : (s.resume t).vreg u k = s.vreg u k := by
  unfold State.vreg
  rw [State.resume_thread]
  split
  · rw [Option.map_map]
    rfl
  · rfl

/-- The thread that goes on still holds what it has received. -/
theorem State.resume_holds {s : State} {t : TRef} {d : BitVec 11} {n : Nat} {signed : Bool} {x : Nat} (h : s.holds t d n signed x) : (s.resume t).holds t d n signed x :=
  (State.holds_congr (s.resume_vreg t t) (s.resume_sreg t t.team)).2 h

theorem State.raisePts_holds {s : State} {t : TRef} {d : BitVec 11} {n : Nat} {signed : Bool} {x ts : Nat} (h : s.holds t d n signed x) :
    (s.raisePts t ts).holds t d n signed x := by
  have hthread : (s.raisePts t ts).thread t = (s.thread t).map fun th => { th with pts := max th.pts ts } := State.modThread_thread_same ..
  have hvreg (k : Nat) : (s.raisePts t ts).vreg t k = s.vreg t k := by
    rw [State.vreg, State.vreg, hthread, Option.map_map]
    rfl
  have hsreg (k : Nat) : (s.raisePts t ts).sreg t.team k = s.sreg t.team k := State.modTeam_sreg s t.team (by intro; rfl) _ k
  exact (State.holds_congr hvreg hsreg).2 h

/-- A thread that receives a value goes on waiting. -/
theorem State.wr_wait (s : State) (t : TRef) (d : BitVec 11) (n : Nat) (signed : Bool) (x : Nat) :
    ((s.wr t d n signed x).thread t).map (·.wait) = (s.thread t).map (·.wait) := by
  have hthread (u : State) (f : Thread → Thread) (hf : ∀ th, (f th).wait = th.wait) : ((u.modThread t f).thread t).map (·.wait) = (u.thread t).map (·.wait) := by
    rw [State.modThread_thread_same, Option.map_map]
    simp [Function.comp_def, hf]
  have hdest (m w : Nat) : ((s.writeDest t d m w).thread t).map (·.wait) = (s.thread t).map (·.wait) := by
    unfold State.writeDest
    split
    · exact hthread _ _ fun _ => rfl
    · rw [State.modTeam_thread _ _ _ (by intro; rfl)]
      exact hthread _ _ fun _ => rfl
    · rfl
  unfold State.wr
  split
  · split <;> exact hdest ..
  · exact hdest ..

/-! ### Replies (R301) -/

/-- R301: a thread that waits for a reply receives it, and goes on. -/
theorem State.replyTo_spec {s : State} {u : TRef} {d : BitVec 11} {n : W32} (hwait : s.waitsFor u (.reply d) n) (v : W64) (pts : Nat) :
    Sys2Proof.Claims.GoesOnAt (s.replyTo u (some d) v pts) u n ∧ (s.replyTo u (some d) v pts).holds u d 64 false v.toNat := by
  obtain ⟨x, hx, hxw⟩ := Option.map_eq_some_iff.1 hwait
  obtain ⟨th, hth, hw⟩ := Option.bind_eq_some_iff.1 hx
  obtain ⟨hwhy, hnext⟩ := Prod.mk.inj hxw
  have hreply : s.replyTo u (some d) v pts = ((s.wr u d 64 false v.toNat).raisePts u pts).resume u := by
    obtain ⟨why, next, group⟩ := x
    cases hwhy
    simp [State.replyTo, hx]
  have hsome : (s.thread u).isSome := by rw [hth]; rfl
  have hkept := s.wr_wait u d 64 false v.toNat
  rw [hth, Option.map_some] at hkept
  obtain ⟨th', hth', hw'⟩ := Option.map_eq_some_iff.1 hkept
  have hraised : ((s.wr u d 64 false v.toNat).raisePts u pts).thread u = some { th' with pts := max th'.pts pts } := by
    rw [State.raisePts, State.modThread_thread_same, hth', Option.map_some]
  rw [hreply]
  refine ⟨State.resume_goesOn hraised (w := .reply d) ?_, State.resume_holds (State.raisePts_holds (State.wr_holds _ _ _ _ _ _ (.inr rfl) (State.team_isSome_of_thread hsome) hsome))⟩
  simp [Thread.waitsFor, hw', hw, hwhy, hnext]

/-! ### What each hod core runs -/

/-- Every hod core runs what it ran. -/
def HodKept (s t : State) : Prop := (fun k => (t.slice k).hod) = fun k => (s.slice k).hod

namespace HodKept

theorem hod {s t : State} (h : HodKept s t) (k : Nat) : (t.slice k).hod = (s.slice k).hod := congrFun h k

theorem refl (s : State) : HodKept s s := rfl

theorem trans {s t u : State} (h : HodKept s t) (k : HodKept t u) : HodKept s u := Eq.trans k h

theorem of_slices {s t : State} (h : t.slices = s.slices) : HodKept s t := by
  unfold HodKept State.slice
  rw [h]

theorem of_woken {s t : State} (h : Woken s t) : HodKept s t := by
  obtain ⟨_, _, _, _, _, _, _, _, rfl, -⟩ := h
  exact rfl

theorem of_recorded {s t : State} (h : Recorded s t) : HodKept s t := by
  obtain ⟨_, _, _, _, _, _, _, _, _, sl, _, _, _, hwoken, -, hsl, -⟩ := h
  refine HodKept.trans (funext fun k => ?_) (of_woken hwoken)
  exact (congrArg Slice.hod (hsl k) :)

theorem modSlice (s : State) (k : Nat) {f : Slice → Slice} (hf : ∀ l, (f l).hod = l.hod) : HodKept s (s.modSlice k f) := funext (AtSlices.modSlice s k hf).2

theorem replyTo (s : State) (t : TRef) (dest : Option (BitVec 11)) (v : W64) (pts : Nat) : HodKept s (s.replyTo t dest v pts) := by
  unfold State.replyTo
  split
  · split
    · exact of_woken (((Woken.wr ..).trans (.raisePts ..)).trans (.resume ..))
    · exact refl s
  · exact refl s

theorem defaultAction (s : State) (e : HodEvent) : HodKept s (s.defaultAction e) := by
  unfold State.defaultAction
  split
  · exact replyTo ..
  · exact of_slices rfl
  · exact refl s

theorem dropEvents (s : State) (k asid : Nat) : HodKept s (s.dropEvents k asid) := by
  unfold State.dropEvents
  refine List.foldlRecOn (motive := HodKept s) _ _ (modSlice s k fun _ => rfl) fun u hu e _ => hu.trans ?_
  exact defaultAction u e

theorem hodRecord (s : State) (k : Nat) (e : HodEvent) (reason pc : Nat) : HodKept s (s.hodRecord k e reason pc) := of_recorded (.record ..)

theorem noteHodFault (s : State) (k : Nat) (e : HodEvent) (reason : Nat) : HodKept s (s.noteHodFault k e reason) := by
  unfold State.noteHodFault
  simp only []
  split
  · refine HodKept.trans (HodKept.trans ?_ (dropEvents ..)) (hodRecord ..)
    exact of_slices rfl
  · exact of_slices rfl

theorem fillLine (s : State) (f : FillReq) : HodKept s (s.fillLine f) := by
  have hfilled : HodKept s (s.filled f) := funext (s.filled_spec f).1.2
  rw [State.fillLine_eq]
  split
  · exact hfilled.trans (of_woken (Woken.foldl _ (fun _ _ => .evaluate ..) _ _))
  · exact hfilled

theorem fillAfterMiss (s : State) (f : FillReq) : HodKept s (s.fillAfterMiss f) := by
  unfold State.fillAfterMiss
  split
  · exact (fillLine s f).trans (funext (EventsRaised.raiseHod _ _ _ (show 2 ≠ 4 by decide)).1.2)
  · exact of_slices rfl

theorem finishEvent (s : State) (e : HodEvent) (reply : W64) (pts : Nat) : HodKept s (s.finishEvent e reply pts) := by
  unfold State.finishEvent
  split
  · exact replyTo ..
  · exact fillAfterMiss ..
  · exact refl s

end HodKept

/-! ### The end of an invocation (R301, R397) -/

theorem State.closeInvocation_spec (s : State) (k : Nat) : ((s.closeInvocation k).slice k).hod = none ∧ (s.closeInvocation k).teams = s.teams := by
  have hnone : ((s.modSlice k fun l => { l with hod := none }).slice k).hod = none := by rw [slice_modSlice, if_pos rfl]
  unfold State.closeInvocation
  simp only []
  split
  · exact ⟨hnone, rfl⟩
  · exact ⟨hnone, rfl⟩

/-- R397: an invocation that is stopped is over. -/
theorem State.stopInvocation_hod (s : State) (k : Nat) (r : HodRun) (reason pc : Nat) : ((s.stopInvocation k r reason pc).slice k).hod = none := by
  have hrecorded : HodKept (s.closeInvocation k) (((s.closeInvocation k).fwAfter r.pts).hodRecord k r.event reason pc) :=
    HodKept.trans (.of_slices rfl) (.hodRecord ..)
  unfold State.stopInvocation
  simp only []
  refine Eq.trans ?_ (s.closeInvocation_spec k).1
  split
  · exact (hrecorded.trans (.finishEvent ..)).hod k
  · exact ((hrecorded.trans (.noteHodFault ..)).trans (.finishEvent ..)).hod k

section
variable {s : State} {k : Nat} {r : HodRun} (hrun : (s.slice k).hod = some r)
include hrun

/-- R301: at the end of the invocation for a message its sender has the reply. -/
theorem exec_hodInvocationEnd {u : TRef} {d : BitVec 11} {n : W32} (hended : r.ended = true) (hkind : r.event.kind = 4) (hwho : r.event.who = some (.thread u))
    (hdest : r.event.dest = some d) (hwait : s.waitsFor u (.reply d) n) :
    ∃ t, exec (.hodInvocationEnd k r.event.asid 4) s = .next t ∧ (t.slice k).hod = none ∧ Sys2Proof.Claims.GoesOnAt t u n
      ∧ t.holds u d 64 false (SMap.get 0 r.regs 10).toNat ∧ t.mem = s.mem := by
  obtain ⟨hnone, hteams⟩ := s.closeInvocation_spec k
  have hwait' : (s.closeInvocation k).waitsFor u (.reply d) n := by simpa [State.waitsFor, State.thread, State.team, hteams] using hwait
  obtain ⟨hgoes, hholds⟩ := State.replyTo_spec hwait' (SMap.get 0 r.regs 10) r.pts
  have hstep : s.endInvocation k r.event.asid 4 = (s.closeInvocation k).replyTo u (some d) (SMap.get 0 r.regs 10) r.pts := by
    simp [State.endInvocation, hrun, hended, hkind, State.finishEvent, hwho, hdest]
  exact ⟨_, congrArg Host.Outcome.next hstep, ((HodKept.replyTo ..).hod k).trans hnone, hgoes, hholds, by simp⟩

/-- R301, R397: an invocation that has used its cycles is over. -/
theorem exec_hodCycleLimit (hended : r.ended = false) (hlimit : r.started + 8192 ≤ s.clk) : ∃ t, exec (.hodCycleLimit k) s = .next t ∧ (t.slice k).hod = none := by
  refine ⟨s.stopInvocation k r 0 r.pc.toNat, ?_, State.stopInvocation_hod ..⟩
  change execHodCycleLimit k s = _
  simp [execHodCycleLimit, hrun, hended, hlimit]

/-- R397, R398: an invocation that has met a fault is over. -/
theorem exec_hodHandlerFault {reason : Nat} (pc : Nat) (hfault : r.fault = some reason ∨ reason = 6) :
    ∃ t, exec (.hodHandlerFault k reason pc) s = .next t ∧ (t.slice k).hod = none := by
  refine ⟨s.stopInvocation k r reason pc, ?_, State.stopInvocation_hod ..⟩
  change execHodHandlerFault k reason pc s = _
  simp [execHodHandlerFault, hrun, hfault]

end

end Sys2Proof.Machine
end

section
/-!
SUPPORT. The slice port (O45): what a write of it does to the line that it names (R299), and the installation of slice programs (R295).
-/
namespace Sys2Proof.Machine

/-! ### Writes of the port (R299) -/

/-- A write that has been performed stands no longer in the port. -/
def HodRun.portDone (r : HodRun) : HodRun := { r with port := none }

section
variable {s : State} {k off : Nat} {v : W64} {r : HodRun} (hrun : (s.slice k).hod = some r)
include hrun

theorem State.portWrite_eq (hport : r.port = some (off, v)) (f : State → State) :
    s.portWrite k off v f = (f s).modSlice k fun l => { l with hod := l.hod.map HodRun.portDone } := by
  simp [State.portWrite, hrun, hport]
  rfl

end

/-- What the end of a write of the port leaves: frames and memory. -/
theorem State.portDone_frames (s : State) (k pa : Nat) : (s.modSlice k fun l => { l with hod := l.hod.map HodRun.portDone }).l2Holds pa = s.l2Holds pa
    ∧ (s.modSlice k fun l => { l with hod := l.hod.map HodRun.portDone }).frameOf pa = s.frameOf pa := by
  have hframes (j : Nat) : ((s.modSlice k fun l => { l with hod := l.hod.map HodRun.portDone }).slice j).frames = (s.slice j).frames := by
    rw [slice_modSlice]
    split
    · next h => rw [h]
    · rfl
  unfold State.l2Holds State.frameOf
  rw [hframes]
  exact ⟨rfl, rfl⟩

/-- R299: the frame of a superblock is kept, or no longer kept; every other frame stands. -/
def Frame.keepIf (sb : Nat) (b : Bool) (f : Frame) : Frame := if f.sb = sb then { f with kept := b } else f

theorem Frame.keepIf_sb (sb : Nat) (b : Bool) (f : Frame) : (f.keepIf sb b).sb = f.sb := by
  unfold Frame.keepIf
  split <;> rfl

theorem State.frameOf_keepIf {s : State} {pa : Nat} {f : Frame} (h : s.frameOf pa = some f) (b : Bool) :
    (s.modSlice (s.homeOf pa) fun l => { l with frames := l.frames.map (Frame.keepIf (pa / 512) b) }).frameOf pa = some { f with kept := b } := by
  have hsb : f.sb = pa / 512 := by simpa using List.find?_some h
  have hfind : (fun x : Frame => decide (x.sb = pa / 512)) ∘ Frame.keepIf (pa / 512) b = fun x => decide (x.sb = pa / 512) := funext fun x => by simp [Frame.keepIf_sb]
  unfold State.frameOf at h ⊢
  rw [show (s.modSlice (s.homeOf pa) fun l => { l with frames := l.frames.map (Frame.keepIf (pa / 512) b) }).homeOf pa = s.homeOf pa from rfl, slice_modSlice,
    if_pos rfl, List.find?_map, hfind, h, Option.map_some, Frame.keepIf, if_pos hsb]

/-- R76: a line that is held has a frame. -/
theorem State.frameOf_of_l2Holds {s : State} {pa : Nat} (h : s.l2Holds pa = true) : ∃ f, s.frameOf pa = some f := by
  obtain ⟨f, hf, hline⟩ := List.any_eq_true.1 h
  rw [← Option.isSome_iff_exists, State.frameOf, List.find?_isSome]
  exact ⟨f, hf, (Bool.and_eq_true _ _ ▸ hline).1⟩

section
variable {s s1 : State} {k pa va : Nat} {v : W64} {r : HodRun} {e : HodEvent} (hrun : (s.slice k).hod = some r) (hplace : s.portPlace k v = some (s1, pa, va, e))
include hrun hplace

/-- R299: a prefetch has the line held. -/
theorem exec_slicePortPref (hport : r.port = some (0x00, v)) (hwait : s.portWaits k v = false) :
    ∃ t, exec (.slicePortPref k v) s = .next t ∧ t.l2Holds pa = true ∧ t.mem = s1.mem := by
  have hdone : (s.portPrefetch k v).l2Holds pa = true ∧ (s.portPrefetch k v).mem = s1.mem := by
    unfold State.portPrefetch
    simp only [hplace]
    split
    · next h => exact ⟨(Bool.and_eq_true _ _ ▸ h).1, rfl⟩
    · obtain ⟨hholds, hmem, -⟩ := s1.fillLine_spec { pa, va, store := false, hint := if v.getLsbD 0 then 3 else 0, asid := e.asid, coreid := 0xFF, who := none, pts := e.pts }
      exact ⟨hholds, hmem⟩
  refine ⟨_, ?_, ((s.portPrefetch k v).portDone_frames k pa).1.trans hdone.1, hdone.2⟩
  change execSlicePortPref k v s = _
  rw [execSlicePortPref, hwait, State.portWrite_eq hrun hport]
  rfl

section
variable (hhome : s1.homeOf pa = k) (hholds : s1.l2Holds pa = true)
include hhome hholds

/-- R299: an evicted line is not held. -/
theorem exec_slicePortEvict (hport : r.port = some (0x10, v)) : ∃ t, exec (.slicePortEvict k v) s = .next t ∧ t.l2Holds pa = false ∧ t.mem = s1.mem := by
  obtain ⟨f, hframe⟩ := State.frameOf_of_l2Holds hholds
  have hevict : s.portEvict k v = (s1.noteBack f (1#4 <<< (pa / 128 % 4))).dropLine pa := by simp [State.portEvict, hplace, hframe, hhome, hholds]
  obtain ⟨hdropped, hgone⟩ := (s1.noteBack f (1#4 <<< (pa / 128 % 4))).dropLine_spec pa
  have hback : AtSlices s1 (s1.noteBack f (1#4 <<< (pa / 128 % 4))) := .noteMoved ..
  refine ⟨_, congrArg Host.Outcome.next (State.portWrite_eq hrun hport _), ?_, ?_⟩
  · exact (State.portDone_frames ..).1.trans (hevict ▸ hgone)
  · change (s.portEvict k v).mem = s1.mem
    rw [hevict, (hback.trans hdropped).mem]

/-- R299: a frame is kept, or no longer kept. -/
theorem exec_slicePortKeep (hport : r.port = some (0x08, v)) :
    ∃ t f, exec (.slicePortKeep k v) s = .next t ∧ t.frameOf pa = some f ∧ f.kept = v.getLsbD 0 ∧ t.mem = s1.mem := by
  obtain ⟨f, hframe⟩ := State.frameOf_of_l2Holds hholds
  have hkeep : s.portKeep k v = s1.modSlice (s1.homeOf pa) fun l => { l with frames := l.frames.map (Frame.keepIf (pa / 512) (v.getLsbD 0)) } := by
    simp only [State.portKeep, hplace, hhome, hholds]
    rfl
  refine ⟨_, { f with kept := v.getLsbD 0 }, congrArg Host.Outcome.next (State.portWrite_eq hrun hport _), ?_, rfl, ?_⟩
  · rw [(State.portDone_frames ..).2, hkeep, State.frameOf_keepIf hframe]
  · change (s.portKeep k v).mem = s1.mem
    rw [hkeep]
    rfl

end
end

/-! ### Slice programs (R295) -/

section
variable {s s1 : State} {asid st : Nat} {p : SliceProgram} (hstart : (Dev.stored s (Dev.sliceBase + 8)).getLsbD 0 = true)
  (hasid : asid = (Dev.stored s (Dev.sliceBase + 0x10)).toNat % 512) (hread : s.readProgram asid (Dev.stored s Dev.sliceBase).toNat = (st, s1, p))
include hstart hasid hread

/-- R295: an installation that is refused shows its status. -/
theorem exec_sliceProgramInstall_refused (hst : st ≠ 0) : ∃ t, exec .sliceProgramInstall s = .next t ∧ Dev.stored t (Dev.sliceBase + 8) = BitVec.ofNat 64 (16 * st)
    ∧ t.programs = s1.programs := by
  subst hasid
  have hstep : s.installProgram = Dev.store s1 (Dev.sliceBase + 8) (BitVec.ofNat 64 (16 * st)) := by
    simp [State.installProgram, hstart, hread, hst]
  exact ⟨_, congrArg Host.Outcome.next hstep, store_stored .., rfl⟩

/-- R295: a program that is installed is in force on no slice yet. -/
theorem exec_sliceProgramInstall_begins (hst : st = 0) : ∃ t, exec .sliceProgramInstall s = .next t ∧ Dev.stored t (Dev.sliceBase + 8) = 1
    ∧ SMap.get none t.programs asid = (if p.ilen = 0 ∧ p.methods = [] then none else some p)
    ∧ ∀ j, j < 192 → t.programOn j asid = SMap.get none s1.programs asid := by
  subst hasid hst
  have hstep : s.installProgram = Dev.store { s1 with
      programs := SMap.set none s1.programs ((Dev.stored s (Dev.sliceBase + 0x10)).toNat % 512) (if p.ilen = 0 ∧ p.methods = [] then none else some p),
      installing := some { asid := (Dev.stored s (Dev.sliceBase + 0x10)).toNat % 512, old := SMap.get none s1.programs ((Dev.stored s (Dev.sliceBase + 0x10)).toNat % 512),
                           left := numbers 0 192 } } (Dev.sliceBase + 8) 1 := by
    simp [State.installProgram, hstart, hread]
  refine ⟨_, congrArg Host.Outcome.next hstep, store_stored .., SMap.get_set_same .., fun j hj => ?_⟩
  exact if_pos ⟨rfl, List.contains_iff_mem.2 (mem_numbers.2 (by omega))⟩

end

section
variable {s : State} {i : Installing} (hinstalling : s.installing = some i)
include hinstalling

/-- R295: with no slice left to copy it, the installation is over. -/
theorem exec_sliceProgramCopied (hleft : i.left = []) :
    ∃ t, exec .sliceProgramCopied s = .next t ∧ (Dev.stored t (Dev.sliceBase + 8)).getLsbD 0 = false ∧ t.installing = none ∧ t.mem = s.mem := by
  obtain ⟨asid, old, left⟩ := i
  subst hleft
  refine ⟨Dev.store { s with installing := none } (Dev.sliceBase + 8) (Dev.stored s (Dev.sliceBase + 8) &&& ~~~ 1), ?_, ?_, rfl, rfl⟩
  · change execSliceProgramCopied s = _
    simp [execSliceProgramCopied, hinstalling]
  · rw [store_stored]
    simp

/-- R295: a program is in force on a slice that has copied it. -/
theorem State.copySlice_programOn {j : Nat} (hleft : j ∈ i.left) (hmay : s.mayCopy i.asid j = true) : (s.copySlice j).programOn j i.asid = SMap.get none s.programs i.asid := by
  unfold State.copySlice
  simp only [hinstalling, List.contains_iff_mem.2 hleft, hmay, Bool.not_true, Bool.or_self, Bool.false_eq_true, if_false]
  split
  · exact if_neg fun h => by simp at h
  · exact if_neg fun h => by simp at h

end

end Sys2Proof.Machine
end

section
/-!
SUPPORT. Grout waves (O45): the lanes that a wave starts with (R238, R303), and a wave that stops is over (R304, R396).
-/
namespace Sys2Proof.Machine

/-! ### The beginning of a wave (R238, R303, R305) -/

theorem packWave_length (q : GroutReq) (limit : Nat) (l : List GroutReq) : (packWave q limit l).1.length ≤ limit := by
  induction l generalizing limit with
  | nil => exact Nat.zero_le _
  | cons r rs ih =>
    unfold packWave
    split
    · exact ih limit
    split
    · exact Nat.zero_le _
    · next h =>
      have := ih (limit - 1)
      simp only [List.length_cons]
      omega

/-- R305: the first request of a wave is the one whose object it has. -/
theorem packWave_head (q : GroutReq) {limit : Nat} (hlimit : limit ≠ 0) (rest : List GroutReq) : ∃ l, (packWave q limit (q :: rest)).1 = q :: l := by
  refine ⟨(packWave q (limit - 1) rest).1, ?_⟩
  simp [packWave, hlimit]

/-- R303: the registers that a lane starts with. -/
theorem get_laneThread (pts : Nat) (q : GroutReq) (k : Nat) : SMap.get 0 (laneThread pts q).v k
    = SMap.get 0 [(0, q.arg0.extractLsb' 0 32), (1, q.arg0.extractLsb' 32 32), (2, q.arg1.extractLsb' 0 32), (3, q.arg1.extractLsb' 32 32)] k :=
  SMap.get_filter_ne 0 (by simp) k

/-- R303: the registers that a wave starts with. -/
theorem get_waveTeam_s (s : State) (slice : Nat) (q : GroutReq) (reqs : List GroutReq) (k : Nat) : SMap.get 0 (s.waveTeam slice q reqs).s k
    = SMap.get 0 [(0, q.object), (1, BitVec.ofNat 64 q.method)] k :=
  SMap.get_filter_ne 0 (by simp) k

theorem waveTeam_threads (s : State) (slice : Nat) (q : GroutReq) (reqs : List GroutReq) : ∃ pts, (s.waveTeam slice q reqs).threads = reqs.map (laneThread pts) :=
  ⟨_, rfl⟩

/-- R238, R303: the first request whose object is free starts a wave. -/
theorem exec_groutWaveStart {s : State} {k : Nat} {q : GroutReq} {rest : List GroutReq} (hqueue : (s.slice k).groutq = q :: rest) (hfree : s.objectFree k q = true) :
    ∃ t tm w th, exec (.groutWaveStart k) s = .next t ∧ t.teams.length = s.teams.length + 1 ∧ t.team s.teams.length = some tm ∧ tm.wave = some w
      ∧ w.object = q.object ∧ w.method = q.method ∧ w.code = q.meth.code ∧ tm.threads.length ≤ 32 ∧ tm.threads[0]? = some th ∧ th.pc = 0
      ∧ SMap.get 0 th.v 0 = q.arg0.extractLsb' 0 32 ∧ SMap.get 0 th.v 1 = q.arg0.extractLsb' 32 32
      ∧ SMap.get 0 th.v 2 = q.arg1.extractLsb' 0 32 ∧ SMap.get 0 th.v 3 = q.arg1.extractLsb' 32 32
      ∧ SMap.get 0 tm.s 0 = q.object ∧ SMap.get 0 tm.s 1 = BitVec.ofNat 64 q.method ∧ t.mem = s.mem := by
  obtain ⟨limit, hlimit, hmost, hpack⟩ : ∃ limit, limit ≠ 0 ∧ limit ≤ 32 ∧ (if q.meth.serial then 1 else 32) = limit := by
    cases q.meth.serial
    · exact ⟨32, by decide, by decide, rfl⟩
    · exact ⟨1, by decide, by decide, rfl⟩
  obtain ⟨l, hhead⟩ := packWave_head q hlimit rest
  have hteams : (s.startWave k).teams = s.teams ++ [s.waveTeam k q (packWave q limit (q :: rest)).1] := by
    unfold State.startWave
    simp only [hqueue, List.find?_cons, hfree, hpack]
    split <;> rfl
  obtain ⟨pts, hthreads⟩ := waveTeam_threads s k q (packWave q limit (q :: rest)).1
  refine ⟨s.startWave k, s.waveTeam k q (packWave q limit (q :: rest)).1, _, laneThread pts q, rfl, by simp [hteams], by simp [State.team, hteams], rfl, rfl, rfl, rfl, ?_, ?_, rfl,
    get_laneThread _ q 0, get_laneThread _ q 1, get_laneThread _ q 2, get_laneThread _ q 3, get_waveTeam_s s k q _ 0, get_waveTeam_s s k q _ 1, by simp⟩
  · rw [hthreads, List.length_map]
    exact (packWave_length ..).trans hmost
  · rw [hthreads, hhead]
    rfl

/-! ### A team that has retired -/

/-- The team is there, and has retired. -/
def Retired (i : Nat) (s : State) : Prop := (s.team i).map (·.status) = some .retired

namespace Retired

variable {i : Nat} {s t : State} (h : Retired i s)
include h

theorem of_teams (ht : t.teams = s.teams) : Retired i t := by
  unfold Retired State.team at h ⊢
  rw [ht, h]

theorem modTeam (j : Nat) {f : Team → Team} (hf : ∀ tm, (f tm).status = tm.status) : Retired i (s.modTeam j f) := by
  unfold Retired at h ⊢
  by_cases hij : i = j
  · subst hij
    rw [State.modTeam_team_same, Option.map_map]
    simpa [Function.comp_def, hf] using h
  · rw [State.modTeam_team_other _ _ hij, h]

theorem modThread (r : TRef) (f : Thread → Thread) : Retired i (s.modThread r f) := h.modTeam r.team fun _ => rfl

theorem of_surveyed (hs : Surveyed s t) : Retired i t := by
  obtain ⟨tm, htm, hstatus⟩ := Option.map_eq_some_iff.1 h
  obtain ⟨tn, htn, _, _, _, _, _, rfl, -⟩ := hs.team htm
  exact Option.map_eq_some_iff.2 ⟨_, htn, hstatus⟩

theorem of_woken (hs : Woken s t) : Retired i t := h.of_surveyed (.of_woken hs)

theorem of_recorded (hs : Recorded s t) : Retired i t := h.of_surveyed (.of_recorded hs)

theorem of_cores (hs : OnlyCores s t) : Retired i t := by
  obtain ⟨_, rfl⟩ := hs
  exact h

theorem deliver (r : TRef) (k : Nat) : Retired i (s.deliver r k) := by
  unfold State.deliver
  split
  · exact h
  split
  · exact h
  split
  · exact h.modThread ..
  · refine Retired.modThread ?_ _ _
    split
    · exact h
    · exact h.of_woken (Woken.wr ..)

theorem drain (r : TRef) : Retired i (s.drain r) := by
  unfold State.drain
  exact List.foldlRecOn (motive := Retired i) _ _ h fun u hu k _ => hu.deliver r k

theorem forget (r : TRef) : Retired i (s.forget r) := by
  unfold State.forget
  exact (Retired.of_teams (h.of_cores (OnlyCores.leavePool s r)) rfl).modThread _ _

/-- R353: the end of another team. -/
theorem endTeam (j : Nat) : Retired i (s.endTeam j) := by
  unfold State.endTeam
  split
  · exact h
  next tm htm =>
  split
  · exact h
  next hstatus =>
  have hij : i ≠ j := by
    rintro rfl
    obtain ⟨tn, htn, hretired⟩ := Option.map_eq_some_iff.1 h
    exact hstatus (by rw [htm] at htn; cases htn; exact hretired)
  have hforgotten : Retired i (tm.tids.foldl (fun s k => s.forget { team := j, tid := k }) (s.discardReds j)) :=
    List.foldlRecOn (motive := Retired i) _ _ (h.of_cores (OnlyCores.discardReds s j)) fun u hu k _ => hu.forget _
  have hexited := hforgotten.modTeam j (f := fun tm => { tm with threads := tm.threads.map (fun th => { th with exited := true }), colls := [] }) fun _ => rfl
  simp only []
  split
  · exact hexited
  · unfold Retired at hexited ⊢
    rw [State.later_team, State.modTeam_team_other _ _ hij, hexited]

theorem unperform (r : TRef) (w : Wait) : Retired i (s.unperform r w) := by
  unfold State.unperform
  split
  · split
    · exact (h.modTeam _ (by intro; rfl)).modThread ..
    · exact h
  · exact h

theorem withdraw (r : TRef) : Retired i (s.withdraw r) := by
  unfold State.withdraw
  split
  · exact h
  next w _ =>
  have hperformed := h.unperform r w.why
  simp only []
  refine Retired.modThread (Retired.of_teams ?_ rfl) _ _
  split
  · exact hperformed.modTeam _ (by intro; rfl)
  · exact (hperformed.modTeam _ (by intro; rfl)).of_teams rfl
  · exact hperformed.of_teams rfl
  · exact hperformed

theorem enterHandler (r : TRef) (tm : Team) (info : TrapInfo) (tepc : W32) : Retired i (s.enterHandler r tm info tepc) := by
  unfold State.enterHandler
  exact ((h.of_cores (OnlyCores.leavePool s r)).withdraw r).modThread _ _

theorem trapThread (r : TRef) (cause : Option (TrapInfo × W32)) (replay : Bool) : Retired i (s.trapThread r cause replay) := by
  have hdrained := h.drain r
  unfold State.trapThread
  simp only []
  split
  · split
    · exact hdrained
    split
    · exact (hdrained.of_recorded (Recorded.record ..)).endTeam _
    · exact hdrained.enterHandler ..
  · exact hdrained

theorem replyTo (r : TRef) (dest : Option (BitVec 11)) (v : W64) (pts : Nat) : Retired i (s.replyTo r dest v pts) := by
  unfold State.replyTo
  split
  · split
    · exact h.of_woken (((Woken.wr ..).trans (.raisePts ..)).trans (.resume ..))
    · exact h
  · exact h

theorem failCall (asid : Nat) (object : W64) (r : TRef) (dest : Option (BitVec 11)) (info : TrapInfo) : Retired i (s.failCall asid object r dest info) := by
  unfold State.failCall
  split
  · exact h.of_recorded (Recorded.record ..)
  · split
    · exact h.trapThread ..
    · exact h

end Retired

/-! ### The end of a wave (R304, R396) -/

theorem State.closeWave_retired {s : State} {i : Nat} {tm : Team} (htm : s.team i = some tm) (w : Wave) : Retired i (s.closeWave i w) := by
  have hclosed : Retired i (s.modTeam i fun tm => { tm with status := .retired, threads := tm.threads.map fun th => { th with exited := true } }) := by
    unfold Retired
    rw [State.modTeam_team_same, htm]
    rfl
  unfold State.closeWave
  simp only []
  split
  · exact hclosed
  · exact hclosed

theorem State.stopWave_retired {s : State} {i : Nat} {tm : Team} {w : Wave} (htm : s.team i = some tm) (hwave : tm.wave = some w) (hplaced : tm.status ≠ .retired)
    (lane pc reason : Nat) : Retired i (s.stopWave i lane pc reason) := by
  unfold State.stopWave
  simp only [htm, hwave, hplaced, if_false]
  refine List.foldlRecOn (motive := Retired i) _ _ (State.closeWave_retired htm w) fun u hu k _ => ?_
  split
  · split
    · exact hu.replyTo ..
    · exact hu.failCall ..
  · exact hu

/-- R304: a wave with a lane that goes on has a lane at which it stops. -/
theorem Team.nextLane_isSome {tm : Team} (h : tm.alive ≠ []) : ∃ x, tm.nextLane = some x := by
  obtain ⟨k, l, hl⟩ := List.exists_cons_of_ne_nil h
  unfold Team.nextLane
  rw [hl, List.foldl_cons, ← Option.isSome_iff_exists]
  refine List.foldlRecOn (motive := fun m : Option (Nat × Nat) => m.isSome = true) _ _ rfl fun m hm j _ => ?_
  obtain ⟨x, rfl⟩ := Option.isSome_iff_exists.1 hm
  simp only []
  split
  · rfl
  · rfl

/-- R304, R396: a wave that has run for 2,048 cycles is over. -/
theorem exec_methodCycleLimit {s : State} {i : Nat} {tm : Team} {w : Wave} (htm : s.team i = some tm) (hwave : tm.wave = some w) (hplaced : tm.status = .placed)
    (halive : tm.alive ≠ []) (hlimit : w.started + 2048 ≤ s.clk) : ∃ t tn, exec (.methodCycleLimit i) s = .next t ∧ t.team i = some tn ∧ tn.status = .retired := by
  obtain ⟨⟨lane, pc⟩, hlane⟩ := Team.nextLane_isSome halive
  obtain ⟨tn, htn, hstatus⟩ := Option.map_eq_some_iff.1 (State.stopWave_retired htm hwave (by simp [hplaced]) lane (pc % 2 ^ 28) 3)
  refine ⟨_, tn, ?_, htn, hstatus⟩
  change execMethodCycleLimit i s = _
  simp [execMethodCycleLimit, htm, hwave, hlane, hlimit]

end Sys2Proof.Machine
end

section
/-!
O45: the events of slices, hod invocations and grout.
-/
namespace Sys2Proof.Machine

/-- Settles O45, event by event. -/
theorem sliceEvents : Obligations.SliceEvents := by
  unfold Obligations.SliceEvents
  intro s k
  refine ⟨?walk, ?miss, ?stream, ?start, ?access, ?reply, ?cycles, ?fault, ?port, ⟨?install, ?copied⟩, ?wave, ?stop⟩
  case walk =>
    intro core asid va store s0 pts ea e size s1 pa type bits x hwalk hfor
    exact ⟨s1, exec_translationWalk hwalk hfor⟩
  case miss =>
    intro pa va store hint asid coreid who ts hmiss hasid
    refine ⟨fun hroom hunwatched hquiet => exec_l2MissFill_fills hmiss hasid hroom hunwatched hquiet, ?_⟩
    intro h hhod hwave hregion hhandler hwindow hqueue
    exact exec_l2MissFill_raises hmiss hasid hhod hwave hregion hhandler hwindow hqueue
  case stream =>
    intro pa f hframe hstream hleases hroom
    exact exec_streamLineEvict hframe hstream hleases hroom
  case start =>
    intro e es hidle hqueue henabled
    exact exec_hodInvocationStart hidle hqueue henabled
  case access =>
    intro r va n len base rd off s1 pa htop hn hva halign ha
    exact ⟨fun src hplace => State.hodExec_store htop hn hva halign ha src hplace, fun hplace hclean => State.hodExec_load htop hn hva halign ha rd hplace hclean⟩
  case reply =>
    intro r u d n hrun hended hkind hwho hdest hwait
    exact exec_hodInvocationEnd hrun hended hkind hwho hdest hwait
  case cycles =>
    intro r hrun hended hlimit
    exact exec_hodCycleLimit hrun hended hlimit
  case fault =>
    intro r reason pc hrun hfault
    exact exec_hodHandlerFault hrun pc hfault
  case port =>
    intro r v s1 pa va e hrun hplace
    exact ⟨exec_slicePortPref hrun hplace, fun hhome hholds => ⟨exec_slicePortEvict hrun hplace hhome hholds, exec_slicePortKeep hrun hplace hhome hholds⟩⟩
  case install =>
    intro hstart st s1 p hread
    exact ⟨exec_sliceProgramInstall_refused hstart rfl hread, exec_sliceProgramInstall_begins hstart rfl hread⟩
  case copied =>
    intro i hinstalling
    exact ⟨exec_sliceProgramCopied hinstalling, fun j hleft hmay => State.copySlice_programOn hinstalling hleft hmay⟩
  case wave =>
    intro q rest hqueue hfree
    exact exec_groutWaveStart hqueue hfree
  case stop =>
    intro i tm w htm hwave hplaced halive hlimit
    exact exec_methodCycleLimit htm hwave hplaced halive hlimit

end Sys2Proof.Machine
end

section
/-!
SUPPORT. Exact sums and products (O7): the sum of a list of finite values is counted in units of its least exponent, which each of them is a multiple
of (R93); where a NaN or an infinity is among them, the signs of the infinities decide.
-/
namespace Sys2Proof.Machine

/-! ### Values in units of a power of two -/

theorem real_fin (neg : Bool) (m : Nat) (x : Int) : Claims.real (.fin neg m x) = (if neg then -1 else 1) * m * 2 ^ x := rfl

/-- A finite value is its number of units of 2^x, where x is at most its own exponent. -/
theorem FVal.real_eq_units {v : FVal} (hv : Claims.finite v) {x : Int} (hx : x ≤ v.exponent) : Claims.real v = (v.units x : ℝ) * 2 ^ x := by
  cases v with
  | nan => exact hv.elim
  | inf s => exact hv.elim
  | fin s m y =>
    have hpow : ((2 : ℝ) ^ (y - x).toNat) * 2 ^ x = 2 ^ y := by
      have hxy : x ≤ y := hx
      rw [← zpow_natCast, Int.toNat_of_nonneg (sub_nonneg.2 hxy), ← zpow_add₀ two_ne_zero, sub_add_cancel]
    rw [real_fin, ← hpow]
    unfold FVal.units
    push_cast
    ring

/-- The value of n units of 2^x. -/
theorem real_ofUnits (n x : Int) (zeroNeg : Bool) : Claims.real (ofUnits n x zeroNeg) = (n : ℝ) * 2 ^ x := by
  unfold ofUnits
  split
  · next h => simp [real_fin, h]
  · next h =>
    have habs : ((n.natAbs : ℤ) : ℝ) = |(n : ℝ)| := by rw [Int.natCast_natAbs, Int.cast_abs]
    rw [Int.cast_natCast] at habs
    simp only [real_fin, habs, decide_eq_true_eq]
    split
    · next hneg => rw [abs_of_neg (Int.cast_lt_zero.2 hneg)]; ring
    · next hneg => rw [abs_of_nonneg (Int.cast_nonneg (not_lt.1 hneg))]; ring

theorem finite_ofUnits (n x : Int) (zeroNeg : Bool) : Claims.finite (ofUnits n x zeroNeg) := by
  unfold ofUnits
  split <;> trivial

/-- Only 0 units have the value 0. -/
theorem ofUnits_of_real_eq_zero {n x : Int} {zeroNeg : Bool} (h : Claims.real (ofUnits n x zeroNeg) = 0) : ofUnits n x zeroNeg = .fin zeroNeg 0 x := by
  rw [real_ofUnits, mul_eq_zero, Int.cast_eq_zero] at h
  exact if_pos (h.resolve_right (zpow_ne_zero x two_ne_zero))

/-! ### NaN and infinities among the terms -/

theorem any_isNaN {l : List FVal} : l.any (·.isNaN) = true ↔ .nan ∈ l := by
  have hnan (v : FVal) : v.isNaN = true ↔ v = .nan := by cases v <;> simp [FVal.isNaN]
  simp [hnan]

theorem mem_infSigns {l : List FVal} {s : Bool} : s ∈ infSigns l ↔ .inf s ∈ l := by
  unfold infSigns
  rw [List.mem_filterMap]
  constructor
  · rintro ⟨v, hv, hs⟩
    cases v with
    | inf t => cases hs; exact hv
    | nan | fin _ _ _ => cases hs
  · exact fun h => ⟨_, h, rfl⟩

/-- The least exponent of a list, in whose units its sum is exact. -/
def leastExponent (l : List FVal) : Int :=
  l.foldl (fun m v => min m v.exponent) (match l with | v :: _ => v.exponent | [] => 0)

theorem leastExponent_le {l : List FVal} {v : FVal} (h : v ∈ l) : leastExponent l ≤ v.exponent := by
  unfold leastExponent
  generalize (match l with | v :: _ => v.exponent | [] => 0) = a
  have hle (a b : Int) (l : List FVal) (hab : a ≤ b) : l.foldl (fun m v => min m v.exponent) a ≤ b :=
    List.foldlRecOn (motive := (· ≤ b)) _ _ hab fun m hm w _ => (min_le_left _ _).trans hm
  induction l generalizing a with
  | nil => simp at h
  | cons w l ih =>
    rcases List.mem_cons.1 h with rfl | h
    · exact hle _ _ l (min_le_right _ _)
    · exact ih h _

theorem exactSum_nan (md : Rnd) {l : List FVal} (h : .nan ∈ l) : exactSum md l = .nan := if_pos (any_isNaN.2 h)

/-- R93: infinities of both signs have no sum. -/
theorem exactSum_infs (md : Rnd) {l : List FVal} (hpos : .inf false ∈ l) (hneg : .inf true ∈ l) : exactSum md l = .nan := by
  rw [← mem_infSigns] at hpos hneg
  unfold exactSum
  split
  · rfl
  · split
    · next s ss hs =>
      rw [hs, List.mem_cons] at hpos hneg
      refine if_neg fun hall => ?_
      have hsame (t : Bool) (ht : t = s ∨ t ∈ ss) : t = s := ht.elim id fun h => by simpa using List.all_eq_true.1 hall t h
      exact Bool.false_ne_true ((hsame _ hpos).trans (hsame _ hneg).symm)
    · next hs => simp [hs] at hpos

/-- R93: an infinity with none of the other sign is the sum. -/
theorem exactSum_inf (md : Rnd) {l : List FVal} {neg : Bool} (hnan : .nan ∉ l) (hinf : .inf neg ∈ l) (hother : .inf (!neg) ∉ l) : exactSum md l = .inf neg := by
  have hsign (t : Bool) (ht : t ∈ infSigns l) : t = neg := by
    by_contra h
    exact hother (Bool.eq_not.2 h ▸ mem_infSigns.1 ht)
  rw [← mem_infSigns] at hinf
  unfold exactSum
  rw [if_neg (mt any_isNaN.1 hnan)]
  split
  · next s ss hs =>
    rw [hs] at hsign
    obtain rfl := hsign s (List.mem_cons_self ..)
    exact if_pos (List.all_eq_true.2 fun t ht => by simpa using hsign t (List.mem_cons_of_mem _ ht))
  · next hs => simp [hs] at hinf

/-- R93, R168: the sum of finite values, in units of their least exponent. -/
theorem exactSum_finite (md : Rnd) {l : List FVal} (h : ∀ v ∈ l, Claims.finite v) :
    exactSum md l = ofUnits (l.map (·.units (leastExponent l))).sum (leastExponent l) (zeroSign md l) := by
  have hnan : ¬ l.any (·.isNaN) = true := mt any_isNaN.1 fun hn => h _ hn
  have hinf : infSigns l = [] := List.eq_nil_iff_forall_not_mem.2 fun _ hs => h _ (mem_infSigns.1 hs)
  unfold exactSum
  rw [if_neg hnan, hinf, List.sum_eq_foldl, List.foldl_map]
  rfl

/-- R93: the exact sum of finite values is their sum. -/
theorem real_exactSum (md : Rnd) {l : List FVal} (h : ∀ v ∈ l, Claims.finite v) : Claims.real (exactSum md l) = (l.map Claims.real).sum := by
  have hterms : l.map Claims.real = l.map fun v => (v.units (leastExponent l) : ℝ) * 2 ^ leastExponent l :=
    List.map_congr_left fun v hv => FVal.real_eq_units (h v hv) (leastExponent_le hv)
  rw [exactSum_finite md h, real_ofUnits, hterms, List.sum_map_mul_right]
  push_cast
  rw [List.map_map]
  rfl

/-! ### The sign of a sum that is 0 -/

/-- A zero of a sign. -/
def FVal.isZeroOf (neg : Bool) : FVal → Bool
  | .fin s 0 _ => s == neg
  | _ => false

theorem FVal.isZeroOf_iff {neg : Bool} {v : FVal} : v.isZeroOf neg = true ↔ ∃ y, v = .fin neg 0 y := by
  cases v with
  | fin s m y => cases m <;> simp [FVal.isZeroOf]
  | nan | inf _ => simp [FVal.isZeroOf]

theorem zeroSign_eq (md : Rnd) (l : List FVal) :
    zeroSign md l = if l.all (·.isZeroOf false) then false else if l.all (·.isZeroOf true) then true else decide (md = .rd) := by
  unfold zeroSign
  congr 3
  · congr 1 with v
    rcases v with _ | _ | ⟨_ | _, _ | _, _⟩ <;> rfl
  · congr 2 with v
    rcases v with _ | _ | ⟨_ | _, _ | _, _⟩ <;> rfl

theorem all_isZeroOf {l : List FVal} {neg : Bool} : l.all (·.isZeroOf neg) = true ↔ ∀ v ∈ l, ∃ y, v = .fin neg 0 y := by
  simp only [List.all_eq_true, FVal.isZeroOf_iff]

theorem zeroSign_positive (md : Rnd) {l : List FVal} (h : ∀ v ∈ l, ∃ y, v = .fin false 0 y) : zeroSign md l = false := by
  rw [zeroSign_eq, if_pos (all_isZeroOf.2 h)]

theorem zeroSign_negative (md : Rnd) {l : List FVal} (hl : l ≠ []) (h : ∀ v ∈ l, ∃ y, v = .fin true 0 y) : zeroSign md l = true := by
  have hpos : ¬ l.all (·.isZeroOf false) = true := fun hall => by
    obtain ⟨v, hv⟩ := List.exists_mem_of_ne_nil l hl
    obtain ⟨y, rfl⟩ := h v hv
    obtain ⟨_, hz⟩ := all_isZeroOf.1 hall _ hv
    cases hz
  rw [zeroSign_eq, if_neg hpos, if_pos (all_isZeroOf.2 h)]

theorem zeroSign_mixed (md : Rnd) {l : List FVal} (hpos : ¬∀ v ∈ l, ∃ y, v = .fin false 0 y) (hneg : ¬∀ v ∈ l, ∃ y, v = .fin true 0 y) :
    zeroSign md l = decide (md = .rd) := by
  rw [zeroSign_eq, if_neg (mt all_isZeroOf.1 hpos), if_neg (mt all_isZeroOf.1 hneg)]

/-! ### Products -/

theorem FVal.mul_fin (s t : Bool) (m n : Nat) (x y : Int) : FVal.mul (.fin s m x) (.fin t n y) = .fin (s ^^ t) (m * n) (x + y) := rfl

/-- R93: the exact product of finite values is their product. -/
theorem FVal.real_mul {a b : FVal} (ha : Claims.finite a) (hb : Claims.finite b) : Claims.finite (a.mul b) ∧ Claims.real (a.mul b) = Claims.real a * Claims.real b := by
  cases a with
  | nan | inf _ => exact ha.elim
  | fin s m x =>
    cases b with
    | nan | inf _ => exact hb.elim
    | fin t n y =>
      refine ⟨trivial, ?_⟩
      rw [FVal.mul_fin, real_fin, real_fin, real_fin, zpow_add₀ two_ne_zero, Nat.cast_mul]
      cases s <;> cases t <;> simp <;> ring

/-- R93: a product is NaN where an operand is, and where 0 meets an infinity. -/
theorem FVal.mul_eq_nan {a b : FVal} : a.mul b = .nan
    ↔ (a = .nan ∨ b = .nan ∨ (∃ s t x, a = .inf s ∧ b = .fin t 0 x) ∨ (∃ s t x, b = .inf s ∧ a = .fin t 0 x)) := by
  have hzero (m : Nat) (s : Bool) : (if m = 0 then FVal.nan else .inf s) = .nan ↔ m = 0 := by split <;> simp [*]
  cases a with
  | nan => simp [FVal.mul]
  | inf s => cases b <;> simp [FVal.mul, hzero]
  | fin s m x => cases b <;> simp [FVal.mul, hzero]

/-! ### The claim -/

theorem exactSumAndProduct : Claims.ExactSumAndProduct := by
  unfold Claims.ExactSumAndProduct
  refine ⟨fun md l hl hfin => ⟨?_, real_exactSum md hfin, fun hzero => ?_⟩, fun md l => exactSum_nan md, fun md l _ hneg hpos => exactSum_infs md hpos hneg,
    fun md l neg => exactSum_inf md, fun a b => FVal.real_mul, FVal.mul_fin, fun a b => FVal.mul_eq_nan⟩
  · rw [exactSum_finite md hfin]
    exact finite_ofUnits ..
  · rw [exactSum_finite md hfin] at hzero ⊢
    exact ⟨_, _, ofUnits_of_real_eq_zero hzero, zeroSign_positive md, zeroSign_negative md hl, zeroSign_mixed md⟩

end Sys2Proof.Machine
end

section
/-!
SUPPORT. Rounding (O7): the integer that a magnitude is rounded to, and how the bits of a format hold a number of units in the last place (R95).
-/
namespace Sys2Proof.Machine

/-! ### Rounding to an integer -/

/-- R95: n whole units and r of d parts of one, rounded under a mode. -/
theorem roundsUnits_of {md : Rnd} {neg : Bool} {a : ℝ} {n d r : Nat} (hr : r < d) (ha : a = n + r / d) :
    Claims.RoundsUnits md (neg = true) a
      (if roundsUp md neg (n % 2 = 1) (decide (d < 2 * r)) (decide (d = 2 * r)) (decide (r ≠ 0)) then n + 1 else n : Nat) := by
  have hd : (0 : ℝ) < d := by exact_mod_cast (Nat.zero_le r).trans_lt hr
  have hfloor : ⌊a⌋ = n := by
    have hlt : (r : ℝ) / d < 1 := (div_lt_one hd).2 (by exact_mod_cast hr)
    rw [Int.floor_eq_iff, ha, Int.cast_natCast]
    exact ⟨by linarith [div_nonneg (Nat.cast_nonneg (α := ℝ) r) hd.le], by linarith⟩
  have hpart : a - (⌊a⌋ : ℤ) = r / d := by rw [hfloor, ha, Int.cast_natCast, add_sub_cancel_left]
  have habove : 1 / 2 < (r : ℝ) / d ↔ d < 2 * r := by
    rw [lt_div_iff₀ hd, ← Nat.cast_lt (α := ℝ)]
    push_cast
    constructor <;> intro h <;> linarith
  have hhalf : (r : ℝ) / d = 1 / 2 ↔ d = 2 * r := by
    rw [div_eq_iff hd.ne', ← Nat.cast_inj (R := ℝ)]
    push_cast
    constructor <;> intro h <;> linarith
  have hinexact : (r : ℝ) / d ≠ 0 ↔ r ≠ 0 := by simp [hd.ne']
  have hodd : (n : ℤ) % 2 = 1 ↔ n % 2 = 1 := by omega
  have hup (up : Bool) (P : Prop) (h : up = true ↔ P) :
      (P → ((if up then n + 1 else n : Nat) : ℤ) = n + 1) ∧ (¬P → ((if up then n + 1 else n : Nat) : ℤ) = n) := by
    cases up <;> simp_all
  unfold Claims.RoundsUnits
  simp only [hpart]
  rw [hfloor]
  refine hup _ _ ?_
  cases md with
  | rne => simp only [roundsUp, habove, hhalf, hodd, Bool.or_eq_true, Bool.and_eq_true, decide_eq_true_eq]
  | rz => simp only [roundsUp, Bool.false_eq_true]
  | rd => simp only [roundsUp, hinexact, Bool.and_eq_true, decide_eq_true_eq]
  | ru => simp only [roundsUp, hinexact, Bool.and_eq_true, decide_eq_true_eq, Bool.not_eq_true']; simp

/-- R95, R96: a magnitude of m times 2^x is rounded to an integer. -/
theorem roundUnits_spec (md : Rnd) (neg : Bool) (m : Nat) (x : Int) :
    Claims.RoundsUnits md (neg = true) ((m : ℝ) * 2 ^ x) (roundUnits md neg m x false) := by
  unfold roundUnits
  split
  · next hx =>
    have hwhole : (m : ℝ) * 2 ^ x = (m * 2 ^ x.toNat : Nat) + (0 : Nat) / (1 : Nat) := by
      rw [show (2 : ℝ) ^ x = 2 ^ x.toNat by rw [← zpow_natCast, Int.toNat_of_nonneg hx]]
      simp
    simpa using roundsUnits_of (md := md) (neg := neg) Nat.one_pos hwhole
  · next hx =>
    have hpos : 0 < 2 ^ (-x).toNat := Nat.two_pow_pos _
    have hparts : (m : ℝ) * 2 ^ x = (m / 2 ^ (-x).toNat : Nat) + (m % 2 ^ (-x).toNat : Nat) / (2 ^ (-x).toNat : Nat) := by
      have hd : ((2 ^ (-x).toNat : Nat) : ℝ) ≠ 0 := by exact_mod_cast hpos.ne'
      have hpow : (2 : ℝ) ^ x = ((2 ^ (-x).toNat : Nat) : ℝ)⁻¹ := by
        rw [Nat.cast_pow, Nat.cast_ofNat, ← zpow_natCast, Int.toNat_of_nonneg (by omega), ← zpow_neg, neg_neg]
      have hm : (m : ℝ) = (2 ^ (-x).toNat : Nat) * (m / 2 ^ (-x).toNat : Nat) + (m % 2 ^ (-x).toNat : Nat) := by
        exact_mod_cast (Nat.div_add_mod m _).symm
      rw [hpow]
      field_simp
      exact hm
    simpa using roundsUnits_of (md := md) (neg := neg) (Nat.mod_lt m hpos) hparts

/-- R95: a magnitude is rounded to its integer part or to 1 more. -/
theorem RoundsUnits.bounds {md : Rnd} {neg : Prop} {a : ℝ} {k : ℤ} (h : Claims.RoundsUnits md neg a k) : ⌊a⌋ ≤ k ∧ k ≤ ⌊a⌋ + 1 := by
  have either {up : Prop} (hup : up → k = ⌊a⌋ + 1) (hdown : ¬up → k = ⌊a⌋) : ⌊a⌋ ≤ k ∧ k ≤ ⌊a⌋ + 1 := by
    by_cases h : up
    · rw [hup h]; omega
    · rw [hdown h]; omega
  exact either h.1 h.2

end Sys2Proof.Machine
end

section
/-!
SUPPORT. The bits of a format (O7, O11): sign, exponent and fraction fields, what `Fmt.decode` reads of them, and how a rounded magnitude of n units of
2^(e - frac) is delivered in them (R92, R95).
-/
namespace Sys2Proof.Machine

/-! ### Fields -/

/-- R92: what the figures of a format have in common: the exponent codes from 1 on to the last but one stand for EMIN to EMAX. -/
structure Fmt.Regular (F : Fmt) : Prop where
  frac_pos : 0 < F.frac
  expo_two : 2 ≤ F.expo
  codes : (F.expMask : Int) = F.emax - F.emin + 2

theorem Fmt.regular {F : Fmt} (h : F ∈ Claims.formats) : F.Regular := by
  obtain rfl | rfl | rfl : F = F32 ∨ F = F16 ∨ F = BF16 := by simpa [Claims.formats] using h
  all_goals exact ⟨by decide, by decide, by decide⟩

/-- R92: the bits with given fields. -/
def Fmt.bits (F : Fmt) (neg : Bool) (E f : Nat) : Nat := F.signBit neg + E * 2 ^ F.frac + f

theorem Fmt.expMask_lt (F : Fmt) : F.expMask < 2 ^ F.expo := Nat.sub_lt (Nat.two_pow_pos _) Nat.one_pos

section
variable (F : Fmt) (neg : Bool) {E f : Nat} (hE : E < 2 ^ F.expo) (hf : f < 2 ^ F.frac)
include hE hf

theorem Fmt.magnitude_lt : E * 2 ^ F.frac + f < 2 ^ (F.frac + F.expo) :=
  calc E * 2 ^ F.frac + f < (E + 1) * 2 ^ F.frac := by rw [Nat.add_one_mul]; omega
    _ ≤ 2 ^ F.expo * 2 ^ F.frac := Nat.mul_le_mul_right _ hE
    _ = 2 ^ (F.frac + F.expo) := by rw [Nat.pow_add, Nat.mul_comm]

theorem Fmt.bits_div : F.bits neg E f / 2 ^ (F.frac + F.expo) = if neg then 1 else 0 := by
  have hlt := F.magnitude_lt hE hf
  rw [Fmt.bits, Fmt.signBit, Nat.add_assoc]
  cases neg
  · simpa using Nat.div_eq_of_lt hlt
  · simp [Nat.add_div_left, Nat.div_eq_of_lt hlt]

theorem Fmt.bits_mod : F.bits neg E f % 2 ^ (F.frac + F.expo) = E * 2 ^ F.frac + f := by
  have hlt := F.magnitude_lt hE hf
  rw [Fmt.bits, Fmt.signBit, Nat.add_assoc]
  cases neg
  · simpa using Nat.mod_eq_of_lt hlt
  · simpa using Nat.mod_eq_of_lt hlt

theorem Fmt.negative_bits : F.negative (F.bits neg E f) = neg := by
  rw [Fmt.negative, F.bits_div neg hE hf]
  cases neg <;> rfl

theorem Fmt.expField_bits : F.expField (F.bits neg E f) = E := by
  have hsplit : F.bits neg E f / 2 ^ F.frac % 2 ^ F.expo = F.bits neg E f % 2 ^ (F.frac + F.expo) / 2 ^ F.frac := by
    rw [Nat.pow_add, Nat.mod_mul_right_div_self]
  rw [Fmt.expField, hsplit, F.bits_mod neg hE hf, Nat.mul_comm, Nat.mul_add_div (Nat.two_pow_pos _), Nat.div_eq_of_lt hf, Nat.add_zero]

theorem Fmt.fracField_bits : F.fracField (F.bits neg E f) = f := by
  have hsplit : F.bits neg E f % 2 ^ F.frac = F.bits neg E f % 2 ^ (F.frac + F.expo) % 2 ^ F.frac := by
    rw [Nat.mod_mod_of_dvd _ (Nat.pow_dvd_pow 2 (Nat.le_add_right _ _))]
  rw [Fmt.fracField, hsplit, F.bits_mod neg hE hf, Nat.mul_add_mod', Nat.mod_eq_of_lt hf]

end

/-- R92: an exponent code of 0 stands for a subnormal value. -/
theorem Fmt.decode_subnormal {F : Fmt} (hF : F.Regular) (neg : Bool) {f : Nat} (hf : f < 2 ^ F.frac) :
    F.decode (F.bits neg 0 f) = .fin neg f (F.emin - F.frac) := by
  have hpow := Nat.pow_le_pow_right (n := 2) Nat.two_pos hF.expo_two
  have hmask : 0 ≠ F.expMask := by unfold Fmt.expMask; omega
  have hE : 0 < 2 ^ F.expo := Nat.two_pow_pos _
  unfold Fmt.decode
  simp only [F.expField_bits neg hE hf, F.fracField_bits neg hE hf, F.negative_bits neg hE hf, if_neg hmask, if_true]

/-- R92: any other exponent code but the last stands for a normal value. -/
theorem Fmt.decode_normal (F : Fmt) (neg : Bool) {E f : Nat} (hE : E < F.expMask) (hpos : 0 < E) (hf : f < 2 ^ F.frac) :
    F.decode (F.bits neg E f) = .fin neg (f + 2 ^ F.frac) (F.emin - F.frac + (E - 1 : Nat)) := by
  have hlt := hE.trans F.expMask_lt
  unfold Fmt.decode
  simp only [F.expField_bits neg hlt hf, F.fracField_bits neg hlt hf, F.negative_bits neg hlt hf, if_neg hE.ne, if_neg hpos.ne']

/-! ### Delivery -/

/-- R95: the bits that a magnitude of n units of 2^(e - frac) is delivered in. -/
def Fmt.deliver (F : Fmt) (md : Rnd) (neg : Bool) (e : Int) (n : Nat) : Nat :=
  if F.emax < e then (if md = .rne ∨ (md = .ru ∧ neg = false) ∨ (md = .rd ∧ neg = true) then F.infinity neg else F.largest neg)
  else if n < 2 ^ F.frac then F.bits neg 0 n
  else F.bits neg (e - F.emin + 1).toNat (n - 2 ^ F.frac)

/-- R95: the exponent of the unit in the last place, plus the fraction bits, of a magnitude of m times 2^x. -/
def Fmt.exponent (F : Fmt) (m : Nat) (x : Int) : Int := max ((Nat.log2 m : Int) + x) F.emin

/-- R95: a value that is not 0 is delivered after one rounding; where it is rounded up to a power of two its exponent is 1 higher. -/
theorem Fmt.round_eq_deliver (F : Fmt) (md : Rnd) (neg : Bool) {m : Nat} (hm : m ≠ 0) (x : Int) :
    let e := F.exponent m x
    let n := roundUnits md neg m (x - (e - F.frac)) false
    F.round md neg m x = if n = 2 ^ (F.frac + 1) then F.deliver md neg (e + 1) (2 ^ F.frac) else F.deliver md neg e n := by
  intro e n
  unfold Fmt.round
  rw [if_neg hm]
  extract_lets e0 n0 e1 n1
  trans F.deliver md neg e1 n1
  · clear_value e1 n1
    unfold Fmt.deliver Fmt.bits
    cases md <;> cases neg <;> simp
  · by_cases h : n = 2 ^ (F.frac + 1)
    · rw [if_pos h, show e1 = e + 1 from if_pos h, show n1 = 2 ^ F.frac from if_pos h]
    · rw [if_neg h, show e1 = e from if_neg h, show n1 = n from if_neg h]

end Sys2Proof.Machine
end

section
/-!
O7: exact sums and products, and the rounding of R95: the rounded magnitude lies in the format's range of fractions, so that its bits are its value where
it is below 2^(EMAX + 1).
-/
namespace Sys2Proof.Machine

/-! ### What is delivered -/

/-- R95: the bits `w` stand for the magnitude `v`, a multiple of the unit in the last place, with a sign: its value, or what overflow gives under a mode. -/
def Fmt.Delivers (F : Fmt) (md : Rnd) (neg : Bool) (v : ℝ) (w : Nat) : Prop :=
  (v < 2 ^ (F.emax + 1) → ∃ (m : Nat) (y : Int), F.decode w = .fin neg m y ∧ (m : ℝ) * 2 ^ y = v)
    ∧ (2 ^ (F.emax + 1) ≤ v → w = if md = .rne ∨ (md = .ru ∧ neg = false) ∨ (md = .rd ∧ neg = true) then F.infinity neg else F.largest neg)

section
variable {F : Fmt} (hF : F.Regular) {e : Int} {n : Nat} (he : F.emin ≤ e) (hn : n < 2 ^ (F.frac + 1)) (hnormal : e ≠ F.emin → 2 ^ F.frac ≤ n)
include hF hn hnormal

/-- R95: a magnitude overflows where its exponent is beyond EMAX. -/
theorem Fmt.overflows_iff : (2 : ℝ) ^ (F.emax + 1) ≤ n * 2 ^ (e - F.frac) ↔ F.emax < e := by
  have hscale (k : Nat) (i : Int) : ((2 ^ k : Nat) : ℝ) * 2 ^ i = 2 ^ (k + i) := by
    rw [Nat.cast_pow, Nat.cast_ofNat, ← zpow_natCast, zpow_add₀ two_ne_zero]
  have hu : (0 : ℝ) < 2 ^ (e - F.frac) := zpow_pos two_pos _
  constructor
  · intro h
    have hlt : (n : ℝ) * 2 ^ (e - F.frac) < 2 ^ (e + 1) :=
      calc (n : ℝ) * 2 ^ (e - F.frac) < (2 ^ (F.frac + 1) : Nat) * 2 ^ (e - F.frac) := mul_lt_mul_of_pos_right (by exact_mod_cast hn) hu
        _ = 2 ^ (e + 1) := by rw [hscale]; congr 1; push_cast; ring
    have := (zpow_lt_zpow_iff_right₀ (one_lt_two (α := ℝ))).1 (h.trans_lt hlt)
    omega
  · intro h
    have hcodes := hF.codes
    have hpow := Nat.pow_le_pow_right (n := 2) Nat.two_pos hF.expo_two
    have hle : F.emin ≤ F.emax := by unfold Fmt.expMask at hcodes; omega
    calc (2 : ℝ) ^ (F.emax + 1) ≤ 2 ^ e := zpow_le_zpow_right₀ one_le_two h
      _ = (2 ^ F.frac : Nat) * 2 ^ (e - F.frac) := by rw [hscale]; congr 1; ring
      _ ≤ n * 2 ^ (e - F.frac) := mul_le_mul_of_nonneg_right (by exact_mod_cast hnormal (by omega)) hu.le

include he

/-- R92, R95: within the range of the format the bits are those of the magnitude. -/
theorem Fmt.decode_deliver (md : Rnd) (neg : Bool) (h : e ≤ F.emax) : F.decode (F.deliver md neg e n) = .fin neg n (e - F.frac) := by
  unfold Fmt.deliver
  rw [if_neg (not_lt.2 h)]
  split
  · next hsub =>
    have hemin : e = F.emin := by by_contra hne; exact absurd (hnormal hne) (not_le.2 hsub)
    rw [Fmt.decode_subnormal hF neg hsub, hemin]
  · next hsub =>
    have hcodes := hF.codes
    rw [F.decode_normal neg (by omega) (by omega) (by rw [Nat.pow_succ] at hn; omega), Nat.sub_add_cancel (not_lt.1 hsub)]
    congr 1
    omega

theorem Fmt.delivers_deliver (md : Rnd) (neg : Bool) : F.Delivers md neg (n * 2 ^ (e - F.frac)) (F.deliver md neg e n) := by
  have hover := Fmt.overflows_iff hF hn hnormal
  refine ⟨fun hv => ⟨n, e - F.frac, Fmt.decode_deliver hF he hn hnormal md neg ?_, rfl⟩, fun hv => if_pos (hover.1 hv)⟩
  exact not_lt.1 (mt hover.2 (not_le.2 hv))

end

/-! ### The magnitude that is rounded -/

/-- The exponent of the leading bit of m times 2^x. -/
theorem log_mul_zpow {m : Nat} (hm : m ≠ 0) (x : Int) : Int.log 2 ((m : ℝ) * 2 ^ x) = Nat.log2 m + x := by
  have hx : (0 : ℝ) < 2 ^ x := zpow_pos two_pos x
  have hpos : (0 : ℝ) < m * 2 ^ x := mul_pos (by exact_mod_cast Nat.pos_of_ne_zero hm) hx
  have hlow : (2 : ℝ) ^ ((Nat.log2 m : Int) + x) ≤ m * 2 ^ x := by
    rw [zpow_add₀ two_ne_zero, zpow_natCast]
    exact mul_le_mul_of_nonneg_right (by exact_mod_cast Nat.log2_self_le hm) hx.le
  have hhigh : (m : ℝ) * 2 ^ x < 2 ^ ((Nat.log2 m : Int) + x + 1) := by
    rw [show (Nat.log2 m : Int) + x + 1 = ((Nat.log2 m + 1 : Nat) : Int) + x by push_cast; ring, zpow_add₀ two_ne_zero, zpow_natCast]
    exact mul_lt_mul_of_pos_right (by exact_mod_cast Nat.lt_log2_self) hx
  have h1 := (Int.zpow_le_iff_le_log one_lt_two hpos).1 (by exact_mod_cast hlow)
  have h2 := (Int.lt_zpow_iff_log_lt one_lt_two hpos).1 (by exact_mod_cast hhigh)
  omega

section
variable (F : Fmt) (md : Rnd) (neg : Bool) {m : Nat} (hm : m ≠ 0) (x : Int)
include hm

/-- R95: a magnitude in units of its last place is below 2^(frac + 1), and at least 2^frac where it is normal. -/
theorem Fmt.units_range : (m : ℝ) * 2 ^ (x - (F.exponent m x - F.frac)) < 2 ^ (F.frac + 1)
    ∧ (F.exponent m x ≠ F.emin → (2 : ℝ) ^ F.frac ≤ m * 2 ^ (x - (F.exponent m x - F.frac))) := by
  have hpos : (0 : ℝ) < m * 2 ^ (x - (F.exponent m x - F.frac)) := mul_pos (by exact_mod_cast Nat.pos_of_ne_zero hm) (zpow_pos two_pos _)
  have hlog := log_mul_zpow hm (x - (F.exponent m x - F.frac))
  have hexp : F.exponent m x = max ((Nat.log2 m : Int) + x) F.emin := rfl
  constructor
  · have hlt := (Int.lt_zpow_iff_log_lt (x := (F.frac + 1 : Nat)) one_lt_two hpos).2 (by rw [hlog]; push_cast; omega)
    exact_mod_cast hlt
  · intro hne
    have hle := (Int.zpow_le_iff_le_log (x := (F.frac : Nat)) one_lt_two hpos).2 (by rw [hlog]; omega)
    exact_mod_cast hle

theorem Fmt.roundUnits_range : roundUnits md neg m (x - (F.exponent m x - F.frac)) false ≤ 2 ^ (F.frac + 1)
    ∧ (F.exponent m x ≠ F.emin → 2 ^ F.frac ≤ roundUnits md neg m (x - (F.exponent m x - F.frac)) false) := by
  obtain ⟨hlt, hle⟩ := F.units_range hm x
  obtain ⟨hlow, hhigh⟩ := RoundsUnits.bounds (roundUnits_spec md neg m (x - (F.exponent m x - F.frac)))
  constructor
  · have hfloor := (Int.floor_lt (z := 2 ^ (F.frac + 1))).2 (by exact_mod_cast hlt)
    zify
    omega
  · intro hne
    have hfloor := (Int.le_floor (z := 2 ^ F.frac)).2 (by exact_mod_cast hle hne)
    zify
    omega

/-- R95: a value that is not 0 is delivered as its rounded magnitude. -/
theorem Fmt.delivers_round {F : Fmt} (hF : F.Regular) :
    F.Delivers md neg (roundUnits md neg m (x - (F.exponent m x - F.frac)) false * 2 ^ (F.exponent m x - F.frac)) (F.round md neg m x) := by
  obtain ⟨hle, hnormal⟩ := F.roundUnits_range md neg hm x
  have he : F.emin ≤ F.exponent m x := le_max_right _ _
  rw [F.round_eq_deliver md neg hm x]
  split
  · next hcarry =>
    have hvalue : ((2 ^ (F.frac + 1) : Nat) : ℝ) * 2 ^ (F.exponent m x - F.frac) = (2 ^ F.frac : Nat) * 2 ^ (F.exponent m x + 1 - F.frac) := by
      rw [show F.exponent m x + 1 - F.frac = F.exponent m x - F.frac + 1 by ring, zpow_add_one₀ two_ne_zero]
      push_cast
      ring
    rw [hcarry, hvalue]
    exact Fmt.delivers_deliver hF (by omega) (Nat.pow_lt_pow_right one_lt_two (Nat.lt_succ_self _)) (fun _ => le_rfl) md neg
  · next hcarry => exact Fmt.delivers_deliver hF he (lt_of_le_of_ne hle hcarry) hnormal md neg

end

/-! ### The obligation -/

theorem abs_real_fin (neg : Bool) (m : Nat) (x : Int) : |Claims.real (.fin neg m x)| = m * 2 ^ x := by
  have hpos : (0 : ℝ) ≤ m * 2 ^ x := mul_nonneg (Nat.cast_nonneg m) (zpow_nonneg zero_le_two x)
  rw [real_fin, mul_assoc, abs_mul, abs_of_nonneg hpos]
  cases neg <;> simp

theorem real_fin_neg_iff {neg : Bool} {m : Nat} (hm : m ≠ 0) (x : Int) : Claims.real (.fin neg m x) < 0 ↔ neg = true := by
  have hpos : (0 : ℝ) < m * 2 ^ x := mul_pos (by exact_mod_cast Nat.pos_of_ne_zero hm) (zpow_pos two_pos x)
  rw [real_fin, mul_assoc]
  cases neg
  · simpa using hpos.le
  · simpa using hpos

theorem roundingIsR95 : Claims.RoundingIsR95 := by
  unfold Claims.RoundingIsR95
  intro F hF md neg m x
  refine ⟨if_pos rfl, fun hm => ?_⟩
  have hneg := real_fin_neg_iff (neg := neg) hm x
  obtain ⟨hvalue, hoverflow⟩ := Fmt.delivers_round md neg hm x (Fmt.regular hF)
  have hunits : (m : ℝ) * 2 ^ x / 2 ^ (F.exponent m x - F.frac) = m * 2 ^ (x - (F.exponent m x - F.frac)) := by
    rw [mul_div_assoc, ← zpow_sub₀ two_ne_zero]
  unfold Claims.RoundsTo
  rw [abs_real_fin, log_mul_zpow hm, show max ((Nat.log2 m : Int) + x) F.emin = F.exponent m x from rfl]
  simp only [hunits, hneg]
  refine ⟨_, roundUnits_spec md neg m _, fun hv => ?_, fun hv => ⟨neg, Iff.rfl, hoverflow hv⟩⟩
  obtain ⟨k, y, hdecode, hk⟩ := hvalue hv
  exact ⟨neg, k, y, hdecode, Iff.rfl, hk⟩

/-- Settles O7: sums and products are counted in units of a power of two, and a rounded magnitude is held in the fields of its format. -/
theorem floatRounding : Obligations.FloatRounding := ⟨exactSumAndProduct, roundingIsR95⟩

end Sys2Proof.Machine
end

section
/-!
SUPPORT. Conversions (O11): what `.sat` makes of delivered bits (R96), integers of a type code (R105, R173), and the ten classes (R174).
-/
namespace Sys2Proof.Machine

/-! ### Saturation (R96, R168) -/

theorem Fmt.infinity_eq_bits (F : Fmt) (neg : Bool) : F.infinity neg = F.bits neg F.expMask 0 := rfl

theorem Fmt.Regular.expMask_pos {F : Fmt} (hF : F.Regular) : 0 < F.expMask := by
  have hpow := Nat.pow_le_pow_right (n := 2) Nat.two_pos hF.expo_two
  unfold Fmt.expMask
  omega

theorem Fmt.largest_eq_bits {F : Fmt} (hF : F.Regular) (neg : Bool) : F.largest neg = F.bits neg (F.expMask - 1) (2 ^ F.frac - 1) := by
  obtain ⟨E, hE⟩ := Nat.exists_eq_succ_of_ne_zero hF.expMask_pos.ne'
  have hpos := Nat.two_pow_pos F.frac
  rw [Fmt.largest, Fmt.infinity, Fmt.bits, hE, Nat.succ_mul, Nat.succ_sub_one]
  omega

/-- The bits that `w` could be: fields of a format. -/
def Fmt.HasFields (F : Fmt) (w : Nat) : Prop := ∃ neg E f, E < 2 ^ F.expo ∧ f < 2 ^ F.frac ∧ w = F.bits neg E f

theorem Fmt.hasFields_infinity (F : Fmt) (neg : Bool) : F.HasFields (F.infinity neg) := ⟨neg, _, _, F.expMask_lt, Nat.two_pow_pos _, rfl⟩

section
variable {F : Fmt} (hF : F.Regular)
include hF

theorem Fmt.hasFields_largest (neg : Bool) : F.HasFields (F.largest neg) :=
  ⟨neg, _, _, (Nat.sub_le _ _).trans_lt F.expMask_lt, Nat.sub_lt (Nat.two_pow_pos _) Nat.one_pos, Fmt.largest_eq_bits hF neg⟩

theorem Fmt.hasFields_deliver (md : Rnd) (neg : Bool) {e : Int} {n : Nat} (hn : n < 2 ^ (F.frac + 1)) : F.HasFields (F.deliver md neg e n) := by
  unfold Fmt.deliver
  split
  · split
    · exact F.hasFields_infinity neg
    · exact Fmt.hasFields_largest hF neg
  · next he =>
    split
    · next hsub => exact ⟨neg, 0, n, Nat.two_pow_pos _, hsub, rfl⟩
    · have hcodes := hF.codes
      have hmask := F.expMask_lt
      exact ⟨neg, _, _, by omega, by rw [Nat.pow_succ] at hn; omega, rfl⟩

theorem Fmt.hasFields_ofVal (md : Rnd) (v : FVal) : F.HasFields (F.ofVal md v) := by
  cases v with
  | nan =>
    exact ⟨false, _, _, F.expMask_lt, Nat.pow_lt_pow_right one_lt_two (Nat.sub_lt hF.frac_pos Nat.one_pos), by simp [Fmt.ofVal, Fmt.canonicalNaN, Fmt.bits, Fmt.signBit]⟩
  | inf neg => exact F.hasFields_infinity neg
  | fin neg m x =>
    rw [Fmt.ofVal]
    by_cases hm : m = 0
    · exact ⟨neg, 0, 0, Nat.two_pow_pos _, Nat.two_pow_pos _, by simp [Fmt.round, Fmt.bits, hm]⟩
    · rw [F.round_eq_deliver md neg hm x]
      split
      · exact Fmt.hasFields_deliver hF md neg (Nat.pow_lt_pow_right one_lt_two (Nat.lt_succ_self _))
      · next hcarry => exact Fmt.hasFields_deliver hF md neg (lt_of_le_of_ne (F.roundUnits_range md neg hm x).1 hcarry)

end

/-- Fields are an infinity where their magnitude is its. -/
theorem Fmt.bits_eq_infinity_iff {F : Fmt} {neg s : Bool} {E f : Nat} (hE : E < 2 ^ F.expo) (hf : f < 2 ^ F.frac) :
    F.bits neg E f = F.infinity s ↔ neg = s ∧ E * 2 ^ F.frac + f = F.infinity false := by
  have hmask := F.expMask_lt
  have hzero := Nat.two_pow_pos F.frac
  have hinf : F.infinity false = F.expMask * 2 ^ F.frac + 0 := by simp [Fmt.infinity, Fmt.signBit]
  rw [F.infinity_eq_bits s, hinf]
  constructor
  · intro h
    have hneg := congrArg F.negative h
    have hmod := congrArg (· % 2 ^ (F.frac + F.expo)) h
    simp only [F.bits_mod _ hE hf, F.bits_mod _ hmask hzero] at hmod
    rw [F.negative_bits _ hE hf, F.negative_bits _ hmask hzero] at hneg
    exact ⟨hneg, hmod⟩
  · rintro ⟨rfl, h⟩
    rw [Fmt.bits, Fmt.bits, Nat.add_assoc, h, Nat.add_assoc]

/-- R96, R168: .sat replaces an infinity by the largest finite value of its sign. -/
theorem Fmt.saturate_eq {F : Fmt} (sat : Bool) {r : Nat} (hr : F.HasFields r) : F.saturate sat r
    = if sat then (if r = F.infinity false then F.largest false else if r = F.infinity true then F.largest true else r) else r := by
  obtain ⟨neg, E, f, hE, hf, rfl⟩ := hr
  unfold Fmt.saturate
  rw [F.bits_mod neg hE hf, F.negative_bits neg hE hf]
  simp only [Fmt.bits_eq_infinity_iff hE hf]
  by_cases h : E * 2 ^ F.frac + f = F.infinity false <;> cases sat <;> cases neg <;> simp [h]

/-! ### Types (R139, R173) -/

theorem format_eq_fmtOf (ty : BitVec 5) : Claims.format ty = fmtOf ty := by revert ty; decide

theorem format_regular (ty : BitVec 5) : (Claims.format ty).Regular := by
  refine Fmt.regular ?_
  unfold Claims.format Claims.formats
  split
  · simp
  · split <;> simp

theorem codeBits_eq_widthOf (ty : BitVec 5) : Claims.codeBits ty.toNat = widthOf ty.toNat := by revert ty; decide

theorem codeSigned_eq_signedType (ty : BitVec 5) : Claims.codeSigned ty.toNat = signedType ty := by revert ty; decide

theorem widthOf_pos (k : Nat) : 0 < widthOf k := by
  unfold widthOf typeBits
  split <;> decide

/-! ### Integers (R96, R173) -/

/-- The two's complement value of the low n bits. -/
theorem signedOf_eq_toInt_ofNat {n : Nat} (hn : 0 < n) (w : Nat) : signedOf n w = (BitVec.ofNat n w).toInt := by
  obtain ⟨k, rfl⟩ := Nat.exists_eq_add_one_of_ne_zero hn.ne'
  have hcast : (w : Int) % 2 ^ (k + 1) = ((w % 2 ^ (k + 1) : Nat) : Int) := by push_cast; rfl
  rw [signedOf, BitVec.toInt_eq_toNat_cond, BitVec.toNat_ofNat, Nat.add_one_sub_one, hcast]
  split <;> split <;> omega

theorem lowBits_eq_toNat_ofInt (n : Nat) (x : Int) : lowBits n x = (BitVec.ofInt n x).toNat := (BitVec.toNat_ofInt x).symm

section
variable (ty : BitVec 5)

theorem sourceInt_eq_codeInt (w : Nat) : sourceInt ty.toNat w = Claims.codeInt ty.toNat w := by
  unfold sourceInt Claims.codeInt
  rw [codeBits_eq_widthOf, signedOf_eq_toInt_ofNat (widthOf_pos _), BitVec.toNat_ofNat]
  rfl

theorem satInt_eq_clamp (x : Int) :
    satInt (isSignedType ty.toNat) (widthOf ty.toNat) x = max (Claims.codeMin ty.toNat) (min x (Claims.codeMax ty.toNat)) := by
  unfold satInt Claims.codeMin Claims.codeMax
  rw [codeBits_eq_widthOf, show Claims.codeSigned ty.toNat = isSignedType ty.toNat from rfl]
  push_cast
  split <;> rfl

/-- R173: an integer result, extended to the width of its register where its type is signed. -/
theorem extendInt_eq {e : Ext} (he : e.ty = ty) (k : Int) : extendInt ty.toNat k
    = if Claims.codeSigned ty.toNat then (BitVec.ofInt (Claims.width e) (BitVec.ofInt (Claims.codeBits ty.toNat) k).toInt).toNat
      else (BitVec.ofInt (Claims.codeBits ty.toNat) k).toNat := by
  have hwidth : Claims.width e = max 32 (widthOf ty.toNat) := by
    unfold Claims.width
    rw [he]
    clear he
    revert ty
    decide
  unfold extendInt
  rw [codeBits_eq_widthOf, hwidth, show Claims.codeSigned ty.toNat = isSignedType ty.toNat from rfl]
  simp only [lowBits_eq_toNat_ofInt, signedOf_eq_toInt_ofNat (widthOf_pos _), BitVec.ofNat_toNat, BitVec.setWidth_eq]
  by_cases hsigned : isSignedType ty.toNat = true
  · by_cases hnarrow : widthOf ty.toNat < 32
    · rw [if_pos ⟨hsigned, hnarrow⟩, if_pos hsigned, max_eq_left hnarrow.le]
    · rw [if_neg (fun h => hnarrow h.2), if_pos hsigned, max_eq_right (not_lt.1 hnarrow), BitVec.ofInt_toInt]
  · rw [if_neg (fun h => hsigned h.1), if_neg hsigned]

end

/-! ### fcvt (R173) -/

theorem ofUnits_eq_fin (k : Int) : ofUnits k 0 false = .fin (decide (k < 0)) k.natAbs 0 := by
  unfold ofUnits
  split
  · next h => simp [h]
  · rfl

/-- R96: an integer conversion of a float: 0 for a NaN, the end of the range for an infinity, and else the rounded value, clamped. -/
theorem floatToInt_spec (ty : BitVec 5) (md : Rnd) (v : FVal) : match v with
    | .nan => floatToInt ty.toNat md v = 0
    | .inf s => floatToInt ty.toNat md v = if s then Claims.codeMin ty.toNat else Claims.codeMax ty.toNat
    | .fin neg m x => ∃ j : ℤ, Claims.RoundsUnits md (neg = true) (m * 2 ^ x) j
        ∧ floatToInt ty.toNat md v = max (Claims.codeMin ty.toNat) (min (if neg then -j else j) (Claims.codeMax ty.toNat)) := by
  cases v with
  | nan => rfl
  | inf s =>
    simp only [floatToInt, satInt_eq_clamp]
    revert ty s
    decide
  | fin neg m x => exact ⟨_, roundUnits_spec md neg m x, satInt_eq_clamp ty _⟩

section
variable (ty fn : BitVec 5) (md : Rnd) (sat : Bool) (w : Nat)

/-- R96, R173: a float result. -/
theorem convertBits_float (h : Claims.floatCode ty.toNat = true) :
    let D := Claims.format ty
    let r := D.ofVal md (if Claims.floatCode fn.toNat then (Claims.format (BitVec.ofNat 5 fn.toNat)).decode (if fn.toNat = 0 then w else w % 65536)
      else .fin (decide (Claims.codeInt fn.toNat w < 0)) (Claims.codeInt fn.toNat w).natAbs 0)
    convertBits ty.toNat fn.toNat md sat w
      = if sat then (if r = D.infinity false then D.largest false else if r = D.infinity true then D.largest true else r) else r := by
  intro D r
  have hD : D = fmtOf ty := format_eq_fmtOf ty
  have hr : D.HasFields r := Fmt.hasFields_ofVal (format_regular ty) md _
  rw [← Fmt.saturate_eq sat hr]
  unfold convertBits
  simp only [r, hD, sourceInt_eq_codeInt, ofUnits_eq_fin, format_eq_fmtOf, BitVec.ofNat_toNat, BitVec.setWidth_eq]
  rw [if_pos (show isFloatType ty.toNat = true from h), ← apply_ite ((fmtOf ty).saturate sat), ← apply_ite ((fmtOf ty).ofVal md)]
  rfl

/-- R96, R173: an integer result, before it is reduced to its width. -/
theorem convertBits_int {e : Ext} (he : e.ty = ty) (h : Claims.floatCode ty.toNat ≠ true) :
    ∃ k : ℤ, Claims.ConvertsTo ty.toNat fn.toNat md sat w k ∧ convertBits ty.toNat fn.toNat md sat w
      = if Claims.codeSigned ty.toNat then (BitVec.ofInt (Claims.width e) (BitVec.ofInt (Claims.codeBits ty.toNat) k).toInt).toNat
        else (BitVec.ofInt (Claims.codeBits ty.toNat) k).toNat := by
  unfold convertBits Claims.ConvertsTo
  simp only [sourceInt_eq_codeInt, format_eq_fmtOf, BitVec.ofNat_toNat, BitVec.setWidth_eq, satInt_eq_clamp]
  rw [if_neg (show ¬ isFloatType ty.toNat = true from h)]
  by_cases hfn : isFloatType fn.toNat = true
  · rw [if_pos hfn]
    refine ⟨_, ?_, extendInt_eq ty he _⟩
    rw [if_pos (show Claims.floatCode fn.toNat = true from hfn)]
    exact floatToInt_spec ty md _
  · rw [if_neg hfn]
    refine ⟨_, ?_, extendInt_eq ty he _⟩
    rw [if_neg (show ¬ Claims.floatCode fn.toNat = true from hfn)]

end

end Sys2Proof.Machine
end

section
/-!
O11: fcvt and fcla.
-/
namespace Sys2Proof.Machine

/-! ### The classes of R174 -/

/-- R92: the significand of a finite value is 0 where its exponent code and its fraction are. -/
theorem Fmt.decode_finite {F : Fmt} {w : Nat} (h : Claims.finite (F.decode w)) :
    ∃ m x, F.decode w = .fin (F.negative w) m x ∧ (m = 0 ↔ F.fracField w = 0 ∧ F.expField w = 0) := by
  have hpos := Nat.two_pow_pos F.frac
  unfold Fmt.decode at h ⊢
  simp only [] at h ⊢
  split at h
  · split at h <;> exact h.elim
  · next hmask =>
    rw [if_neg hmask]
    split at h
    · next hzero => exact ⟨_, _, if_pos hzero, by simp [hzero]⟩
    · next hzero => exact ⟨_, _, if_neg hzero, by omega⟩

section
variable {F : Fmt} {w : Nat}

theorem classBit_inf {s : Bool} (h : F.decode w = .inf s) : classBit F w = if F.negative w then 0 else 7 := by
  unfold classBit
  simp only [h]

/-- R174: a NaN is quiet where the highest bit of its fraction is 1. -/
theorem classBit_nan (hfrac : 0 < F.frac) (h : F.decode w = .nan) : classBit F w = if w.testBit (F.frac - 1) then 8 else 9 := by
  have hquiet : F.fracField w / 2 ^ (F.frac - 1) = w / 2 ^ (F.frac - 1) % 2 := by
    rw [Fmt.fracField, ← Nat.mod_mul_right_div_self, ← Nat.pow_succ, Nat.succ_eq_add_one, Nat.sub_add_cancel hfrac]
  unfold classBit
  simp only [h, hquiet, Nat.testBit_eq_decide_div_mod_eq, decide_eq_true_eq]

section
variable (h : Claims.finite (F.decode w))
include h

theorem classBit_zero (hfrac : F.fracField w = 0) (hexp : F.expField w = 0) : classBit F w = if F.negative w then 3 else 4 := by
  obtain ⟨m, x, hdecode, hm⟩ := Fmt.decode_finite h
  unfold classBit
  simp only [hdecode, if_pos (hm.2 ⟨hfrac, hexp⟩)]

theorem classBit_subnormal (hfrac : F.fracField w ≠ 0) (hexp : F.expField w = 0) : classBit F w = if F.negative w then 2 else 5 := by
  obtain ⟨m, x, hdecode, hm⟩ := Fmt.decode_finite h
  unfold classBit
  simp only [hdecode, if_neg (fun h0 => hfrac (hm.1 h0).1), if_pos hexp]

theorem classBit_normal (hexp : F.expField w ≠ 0) : classBit F w = if F.negative w then 1 else 6 := by
  obtain ⟨m, x, hdecode, hm⟩ := Fmt.decode_finite h
  unfold classBit
  simp only [hdecode, if_neg (fun h0 => hexp (hm.1 h0).2), if_neg hexp]

end

end

/-! ### The obligation -/

/-- R173: an operand that is an integer of 64 bits is read in 64 bits. -/
theorem sourceBits_eq (fn : BitVec 5) :
    (if widthOf fn.toNat = 64 ∧ !isFloatType fn.toNat then 64 else 32) = if fn.toNat = 6 ∨ fn.toNat = 10 then 64 else 32 := by
  revert fn
  decide

/-- R173: fcvt completes with the converted bits. -/
theorem exec_fcvt {w : Words} {s s0 : State} {c : Ctx} (h : s.performs (.fcvt w) = some (c, s0)) :
    ∃ t, exec (.fcvt w) s = .next t
      ∧ t.holds c.t c.e.d (Claims.width c.e) (Claims.codeSigned c.e.ty.toNat)
          (convertBits c.e.ty.toNat c.e.fn.toNat c.e.rnd c.e.sat (c.r.val c.e.a (if c.e.fn.toNat = 6 ∨ c.e.fn.toNat = 10 then 64 else 32)))
      ∧ t.goesOn c := by
  rw [codeSigned_eq_signedType, ← sourceBits_eq]
  exact exec_result h rfl (by decide) rfl rfl (intBits_eq c.e)

/-- R174: fcla completes with the bit of the class. -/
theorem exec_fcla {w : Words} {s s0 : State} {c : Ctx} (h : s.performs (.fcla w) = some (c, s0)) :
    ∃ t, exec (.fcla w) s = .next t
      ∧ t.holds c.t c.e.d 32 false (2 ^ classBit (Claims.format c.e.ty) (if c.e.ty = 0 then c.r.val c.e.a 32 else c.r.val c.e.a 32 % 65536)) ∧ t.goesOn c := by
  rw [format_eq_fmtOf]
  exact exec_result h rfl (by decide) rfl rfl (.inl rfl)

/-- Settles O11: fcvt is exact but for one rounding, to the format or to an integer that is then clamped and extended; fcla reads the class off the fields. -/
theorem floatConversionResult : Obligations.FloatConversionResult := by
  unfold Obligations.FloatConversionResult
  intro w s c s0
  constructor
  · intro _ h dst src a D sat
    obtain ⟨t, hexec, hholds, hgoes⟩ := exec_fcvt h
    refine ⟨t, _, hexec, hgoes, hholds, ?_⟩
    split
    · next hfloat => exact convertBits_float c.e.ty c.e.fn c.e.rnd c.e.sat a hfloat
    · next hfloat => exact convertBits_int c.e.ty c.e.fn c.e.rnd c.e.sat a rfl hfloat
  · intro _ h F a neg
    obtain ⟨t, hexec, hholds, hgoes⟩ := exec_fcla h
    have hfrac : 0 < F.frac := (format_regular c.e.ty).frac_pos
    exact ⟨t, _, hexec, hgoes, hholds, classBit_inf, classBit_nan hfrac, fun hfin h0 => classBit_zero hfin h0.1 h0.2,
      fun hfin h0 => classBit_subnormal hfin h0.1 h0.2, classBit_normal⟩

end Sys2Proof.Machine
end

section
/-!
SUPPORT. The status of a handle record (O32): its causes in the order of R261, each read off the fields of R104.
-/
namespace Sys2Proof.Machine

theorem recordReserved_iff (r : Nat) : recordReserved r = true
    ↔ bitsAt r 0 63 57 ≠ 0 ∨ bitsAt r 1 63 57 ≠ 0 ∨ bitsAt r 2 63 48 ≠ 0 ∨ bitsAt r 3 63 48 ≠ 0 ∨ bitsAt r 4 63 48 ≠ 0 ∨ bitsAt r 5 63 48 ≠ 0
      ∨ bitsAt r 6 63 48 ≠ 0 ∨ bitsAt r 7 31 16 ≠ 0 ∨ bitsAt r 7 9 8 ≠ 0 ∨ bitsAt r 7 6 4 ≠ 0 := by
  simp [recordReserved, handleReserved]

theorem isBx_iff {fmt : Nat} : isBx fmt = true ↔ fmt = 11 ∨ fmt = 12 := by simp [isBx]

/-- R106: an extent is out of range, or a dimension above the rank has one. -/
theorem Handle.extentsOk_eq_false {h : Handle} : h.extentsOk = false
    ↔ h.d0 = 0 ∨ h.d1 = 0 ∨ h.d2 = 0 ∨ h.d3 = 0 ∨ (h.rank < 1 ∧ h.d1 ≠ 1) ∨ (h.rank < 2 ∧ h.d2 ≠ 1) ∨ (h.rank < 3 ∧ h.d3 ≠ 1) := by
  simp only [Handle.extentsOk, Bool.and_eq_false_iff, Bool.or_eq_false_iff, decide_eq_false_iff_not, not_le, Nat.lt_one_iff, or_assoc, ne_eq]

/-- R104, R106, R328: a reserved format, a block format without feature 6, or an extent out of range. -/
theorem State.recordStatus_format {s : State} {h : Handle} : (h.fmt = 15 || (isBx h.fmt && !s.present 6) || !h.extentsOk) = true
    ↔ h.fmt = 15 ∨ ((h.fmt = 11 ∨ h.fmt = 12) ∧ s.present 6 = false) ∨ h.extentsOk = false := by
  simp only [Bool.or_eq_true, decide_eq_true_eq, Bool.and_eq_true, isBx_iff, Bool.not_eq_true', or_assoc]

theorem State.recordStatus_invalid {s : State} {r : Nat} (h : (Handle.ofRecord r).valid = false) : s.recordStatus r = 0 := by
  unfold State.recordStatus
  simp only [h, Bool.not_false, if_true]

/-- R261: the status of a valid record. -/
theorem State.recordStatus_valid {s : State} {r : Nat} (hvalid : (Handle.ofRecord r).valid = true) : s.recordStatus r = if recordReserved r then 1
    else if (Handle.ofRecord r).fmt = 15 || (isBx (Handle.ofRecord r).fmt && !s.present 6) || !(Handle.ofRecord r).extentsOk then 2
    else if !(Handle.ofRecord r).aligned then 3
    else if isBx (Handle.ofRecord r).fmt && (Handle.ofRecord r).d0 % 32 ≠ 0 then 4
    else if !(Handle.ofRecord r).domainOk then 5 else 0 := by
  unfold State.recordStatus
  simp only [hvalid, Bool.not_true, Bool.false_eq_true, if_false]

theorem recordStatus : Claims.RecordStatus := by
  unfold Claims.RecordStatus
  intro s r h f reserved extents
  have hreserved : recordReserved r = true ↔ reserved := recordReserved_iff r
  have hextents : (h.fmt = 15 || (isBx h.fmt && !s.present 6) || !h.extentsOk) = true ↔ extents := by
    rw [State.recordStatus_format, Handle.extentsOk_eq_false]
    exact Iff.rfl
  have hblock : (isBx h.fmt && decide (h.d0 % 32 ≠ 0)) = true ↔ (h.fmt = 11 ∨ h.fmt = 12) ∧ h.d0 % 32 ≠ 0 := by
    rw [Bool.and_eq_true, isBx_iff, decide_eq_true_eq]
  have hvalid (hv : f 7 7 7 = 1) := State.recordStatus_valid (s := s) (r := r) (decide_eq_true hv)
  refine ⟨fun hv => State.recordStatus_invalid (decide_eq_false fun h1 => absurd (hv.symm.trans h1) Nat.zero_ne_one), ?_, ?_, ?_, ?_, ?_⟩
  · intro hv hr
    rw [hvalid hv, if_pos (hreserved.2 hr)]
  · intro hv hr he
    rw [hvalid hv, if_neg (mt hreserved.1 hr), if_pos (hextents.2 he)]
  · intro hv hr he ha
    rw [hvalid hv, if_neg (mt hreserved.1 hr), if_neg (mt hextents.1 he), if_pos (by rw [show (Handle.ofRecord r).aligned = false from ha]; rfl)]
  · intro hv hr he ha hbx hd
    rw [hvalid hv, if_neg (mt hreserved.1 hr), if_neg (mt hextents.1 he), if_neg (by rw [show (Handle.ofRecord r).aligned = true from ha]; decide),
      if_pos (hblock.2 ⟨hbx, hd⟩)]
  · intro hv hr he ha hbd
    rw [hvalid hv, if_neg (mt hreserved.1 hr), if_neg (mt hextents.1 he), if_neg (by rw [show (Handle.ofRecord r).aligned = true from ha]; decide),
      if_neg (mt hblock.1 hbd)]
    change (if !h.domainOk then 5 else 0) = if h.domainOk then 0 else 5
    cases h.domainOk <;> rfl

end Sys2Proof.Machine
end

section
/-!
SUPPORT. What accesses leave of the handle tables (O32): finding a place, reading it and ending waits change neither the contexts with their records (R103),
nor which context's table a team uses (R268), nor which threads there are.
-/
namespace Sys2Proof.Machine

/-- The contexts, the context of every team, and which threads there are. -/
def SameHandles (s t : State) : Prop := t.contexts = s.contexts ∧ (∀ tm, t.asidOf tm = s.asidOf tm) ∧ Standing s t

namespace SameHandles

theorem refl (s : State) : SameHandles s s := ⟨rfl, fun _ => rfl, fun _ => rfl⟩

theorem trans {s t u : State} (h : SameHandles s t) (k : SameHandles t u) : SameHandles s u :=
  ⟨k.1.trans h.1, fun tm => (k.2.1 tm).trans (h.2.1 tm), h.2.2.trans k.2.2⟩

/-- R268: the context of a team depends on its launch and on the privileged registers. -/
theorem of_fields {s t : State} (hcontexts : t.contexts = s.contexts) (hcsr : t.csr = s.csr) (hlaunches : t.launches = s.launches) (hthreads : Standing s t) :
    SameHandles s t := by
  refine ⟨hcontexts, fun tm => ?_, hthreads⟩
  have hlaunch : t.launchOf tm = s.launchOf tm := by rw [State.launchOf, State.launchOf, hlaunches]
  have hasid : tm.asid t = tm.asid s := by rw [Team.asid, Team.asid, hlaunch]
  rw [State.asidOf, State.asidOf, State.privileged, State.privileged, hasid, hlaunch, hcsr]

theorem of_teams {s t : State} (hcontexts : t.contexts = s.contexts) (hcsr : t.csr = s.csr) (hlaunches : t.launches = s.launches) (hteams : t.teams = s.teams) :
    SameHandles s t := of_fields hcontexts hcsr hlaunches (.of_teams hteams)

theorem of_atHome {s t : State} (h : AtHome s t) : SameHandles s t := by
  have hteams := h.teams
  obtain ⟨_, _, _, _, _, _, rfl, -⟩ := h
  exact of_teams rfl rfl rfl hteams

theorem of_woken {s t : State} (h : Woken s t) : SameHandles s t := by
  have hthreads := Standing.of_woken h
  obtain ⟨_, _, _, _, _, _, _, _, rfl, -⟩ := h
  exact of_fields rfl rfl rfl hthreads

theorem of_reads {s t : State} (h : Reads s t) : SameHandles s t := by
  refine ⟨?_, h.asidOf, h.standing⟩
  obtain ⟨_, _, _, _, _, _, _, _, _, _, rfl, -⟩ := h
  rfl

theorem revokeTeam (s : State) (i : Nat) : SameHandles s (s.revokeTeam i) :=
  of_fields rfl rfl rfl fun r => by rw [State.revokeTeam, State.modTeam_thread _ _ _ (by intro; rfl)]

/-! ### Finding the place of an access -/

theorem markLeaf (s : State) (bay pts ea : Nat) (store : Bool) : SameHandles s (s.markLeaf bay pts ea store) := by
  have hstamp := of_atHome (.storeStamp s pts ea { charge := some bay })
  have hset (u : State) (m : Memory) : SameHandles u { u with mem := m } := of_teams rfl rfl rfl rfl
  unfold State.markLeaf
  exact (hstamp.trans (hset ..)).trans (of_woken (Woken.evaluate _ _ _ _))

theorem cacheTlb (s : State) (t : Tlb) : SameHandles s (s.cacheTlb t) := of_teams rfl rfl rfl rfl

theorem walkFor {s : State} {core asid va : Nat} {store user : Bool} : Ensures (s.walkFor core asid va store user) fun x => SameHandles s x.1 := by
  unfold State.walkFor
  simp only []
  split
  · exact ensures_error _ _
  have hwalk := of_atHome (walk_atHome _ ‹_›)
  split
  · exact ensures_error _ _
  · have hcounted (u : State) (n : SMap Nat) : SameHandles u { u with walks := n } := of_teams rfl rfl rfl rfl
    exact (ensures_ok _ _).2 ((((hwalk.trans (hcounted ..)).trans (markLeaf ..)).trans (cacheTlb ..)).trans (cacheTlb ..))

theorem translate {s : State} {core asid va : Nat} {store user : Bool} : Ensures (s.translate core asid va store user) fun x => SameHandles s x.1 := by
  unfold State.translate
  simp only []
  split
  · exact ensures_error _ _
  split
  · split
    · exact ensures_error _ _
    · refine (ensures_ok _ _).2 ?_
      simp only []
      split
      · exact refl s
      · exact cacheTlb ..
  · exact walkFor

theorem locate {s : State} {a : Agent} {space : BitVec 3} {ea : W64} {n align : Nat} {store : Bool} {alignReason : Nat} {atom : Bool} :
    Ensures (s.locate a space ea n align store alignReason atom) fun x => SameHandles s x.1 := by
  unfold State.locate
  split
  · split
    · exact ensures_error _ _
    have htranslate := SameHandles.translate _ ‹_›
    split
    · exact ensures_error _ _
    split
    · exact ensures_error _ _
    split
    · exact ensures_error _ _
    split
    · exact ensures_error _ _
    · exact (ensures_ok _ _).2 htranslate
  · split
    · exact ensures_error _ _
    split
    · exact ensures_error _ _
    · exact (ensures_map _ _ _).2 fun _ _ => refl s

/-! ### Reading -/

theorem keepCopy (s : State) (core : Nat) (c : L1Copy) : SameHandles s (s.keepCopy core c) := by
  unfold State.keepCopy
  simp only []
  split <;> exact of_teams rfl rfl rfl rfl

theorem loadHome (s : State) (core : Option Nat) (pts pa n : Nat) (q : Req) : SameHandles s (s.loadHome core pts pa n q).1 := by
  have hhome := of_atHome (AtHome.loadHome s pts pa n q)
  cases core with
  | none => exact hhome
  | some c =>
    unfold State.loadHome at hhome ⊢
    simp only [] at hhome ⊢
    split
    · exact hhome
    · exact hhome.trans (keepCopy ..)

theorem load (s : State) (core : Option Nat) (pts : Nat) (l : Loc) (n : Nat) (q : Req) : SameHandles s (s.load core pts l n q).1 := by
  unfold State.load
  split
  · split
    · exact loadHome ..
    · split
      · exact loadHome ..
      · split
        · exact loadHome ..
        · exact refl s
  · exact (of_atHome (.reachL2 ..)).trans (of_reads (.touch ..))

theorem fabricRead (s : State) (l : Loc) (n : Nat) : SameHandles s (s.fabricRead l n).1 := by
  unfold State.fabricRead
  split
  · next pa _ => exact loadHome s none 0 pa n {}
  · exact ((of_reads (.tick _)).trans (of_reads (.tick _))).trans (of_reads (.tick _))

theorem readFrom (s : State) (core : Option Nat) (pts : Nat) (l : Loc) (n : Nat) (q : Req) : SameHandles s (s.readFrom core pts l n q).1 := by
  have hlink (u : State) (bay : Nat) : SameHandles u (u.noteLink l bay) := of_reads (.noteLink ..)
  have hticked (u : State) (b : Bool) : SameHandles u (if b then u.tick else u) := by
    cases b
    · exact refl u
    · exact of_reads (.tick u)
  have hask : SameHandles s (s.ask l q.va) := of_reads (.ask ..)
  unfold State.readFrom
  simp only []
  split
  · exact hask
  split
  · exact hask.trans ((hlink ..).trans (fabricRead ..))
  split
  · exact hask.trans (of_reads (.tick _))
  split
  · exact hask.trans (hticked ..)
  · exact hask.trans ((hticked ..).trans ((hlink ..).trans (load ..)))

theorem readWide (n : Nat) (s : State) (t : TRef) (core : Nat) (l : Loc) (q : Req) (k : Nat) : SameHandles s (s.readWide t core l q n k).1 := by
  induction n generalizing s k with
  | zero => exact refl s
  | succ n ih =>
    have hread : SameHandles s (s.readAt core (s.ptsOf t) (l.shift (8 * k)) 8 q).1 := readFrom ..
    unfold State.readWide
    split
    · next h => rw [h] at hread; exact hread
    · next s1 pts v h =>
      rw [h] at hread
      have hrest := ih (s1.setPts t pts) (k + 1)
      have hnext : SameHandles s (State.readWide (s1.setPts t pts) t core l q n (k + 1)).1 := hread.trans ((of_reads (.setPts ..)).trans hrest)
      split
      · next h' => rw [h'] at hnext; exact hnext
      · exact hnext

end SameHandles

/-- What follows a completed effect leaves the contexts. -/
theorem settle_done_contexts (c : Ctx) (s0 : State) (fresh : List LateResult) (s1 : State) : (c.settle s0 fresh (.done s1)).advance.contexts = s1.contexts := by
  have hkept : (c.keptLate fresh s1).contexts = s1.contexts := by unfold Ctx.keptLate; split <;> rfl
  rw [Ctx.settle_done, State.advance_contexts, State.goTo_contexts, State.passStall_contexts]
  split
  · rw [State.countOccurrence, if_pos rfl, State.modTeam_contexts, State.modThread_contexts, hkept]
  · exact hkept

/-! ### The record of a handle (R103) -/

theorem SameHandles.context {s t : State} (h : SameHandles s t) (asid : Nat) : t.context asid = s.context asid := by
  unfold State.context
  rw [h.1]

theorem State.context_modContext (s : State) (asid : Nat) {f : Context → Context} (hf : ∀ c, (f c).asid = c.asid ∧ (f c).gone = c.gone) :
    (s.modContext asid f).context asid = (s.context asid).map f := by
  unfold State.context State.modContext
  rw [List.find?_map]
  have hsame : ((fun c : Context => c.asid = asid && !c.gone) ∘ fun c => if c.asid = asid then f c else c) = fun c => decide (c.asid = asid) && !c.gone := by
    funext c
    by_cases h : c.asid = asid <;> simp [h, hf c]
  rw [hsame]
  cases h : s.contexts.find? fun c => decide (c.asid = asid) && !c.gone with
  | none => rfl
  | some c =>
    have hc := List.find?_some h
    simp only [Bool.and_eq_true, decide_eq_true_eq] at hc
    simp [hc.1]

/-- R103, R260: a capture leaves every record. -/
theorem Ctx.capture_context (c : Ctx) (s : State) (n : Nat) :
    ∃ hts : Context → SMap Nat, (c.capture s n).context (s.asidOf c.tm) = (s.context (s.asidOf c.tm)).map fun k => { k with hts := hts k } := by
  unfold Ctx.capture State.touchHandle
  cases h : s.context (s.asidOf c.tm) with
  | none => exact ⟨fun k => k.hts, by simp [h]⟩
  | some k =>
    refine ⟨fun k' => SMap.set 0 k'.hts n (max (s.ptsOf c.t) (SMap.get 0 k.hts n)), ?_⟩
    have hset := State.context_modContext s (s.asidOf c.tm) (f := fun k' => { k' with hts := SMap.set 0 k'.hts n (max (s.ptsOf c.t) (SMap.get 0 k.hts n)) })
      fun _ => ⟨rfl, rfl⟩
    rw [h] at hset
    exact ((SameHandles.of_reads (.setPts ..)).context _).trans hset

theorem Ctx.capture_standing (c : Ctx) (s : State) (n : Nat) : Standing s (c.capture s n) := by
  unfold Ctx.capture State.touchHandle
  split
  · exact fun _ => rfl
  · exact Standing.trans (t := s.modContext _ _) (.of_teams rfl) (Reads.setPts ..).standing

end Sys2Proof.Machine
end

section
/-!
SUPPORT. Accesses of 64 bytes (O32): eight words read or written at consecutive places are one number, lowest word first (R3), and a write leaves every
byte outside them as it was.
-/
namespace Sys2Proof.Machine

/-! ### Bytes of a place -/

/-- A place of bytes: no device register. -/
def Loc.isBytes : Loc → Prop
  | .phys _ type => type ≠ 1
  | _ => True

/-- The lane slice, scratchpad or chip scratchpad that a place names is there. -/
def State.hasPlace (s : State) : Loc → Prop
  | .lane r _ => (s.thread r).isSome
  | .scr i _ => (s.team i).isSome
  | .dscr k _ _ => (s.launches[k]?).isSome
  | .phys _ _ => True

/-- The memory in which a place lies. -/
def State.memoryAt (s : State) : Loc → Memory
  | .lane r _ => ((s.thread r).map (·.lane)).getD []
  | .scr i _ => ((s.team i).map (·.scratch)).getD []
  | .dscr k d _ => (s.dcopy k d).mem
  | .phys _ _ => s.mem

/-- The offset of a place in its memory. -/
def Loc.offset : Loc → Nat
  | .lane _ off | .scr _ off | .dscr _ _ off | .phys off _ => off

theorem Memory.read_nil (a n : Nat) : Memory.read [] a n = 0 := by
  induction n generalizing a with
  | zero => rfl
  | succ n ih => simp [Memory.read, ih, Memory.get, SMap.get, Memory.blank]

theorem Memory.read_add (m : Memory) (a k n : Nat) : m.read a (k + n) = m.read a k + 256 ^ k * m.read (a + k) n := by
  induction k generalizing a with
  | zero => simp [Memory.read]
  | succ k ih =>
    rw [Nat.add_right_comm, Memory.read, Memory.read, ih (a + 1), Nat.pow_succ, ← Nat.add_assoc a k 1, Nat.add_right_comm a k 1]
    ring

section
variable (s : State) {l : Loc}

theorem State.peek_eq_read (h : l.isBytes) (n : Nat) : s.peek l n = (s.memoryAt l).read l.offset n := by
  cases l with
  | lane r off => simp only [State.peek, State.memoryAt, Loc.offset]; cases s.thread r <;> simp [Memory.read_nil]
  | scr i off => simp only [State.peek, State.memoryAt, Loc.offset]; cases s.team i <;> simp [Memory.read_nil]
  | dscr k d off => rfl
  | phys pa type => exact if_neg h

@[simp] theorem Loc.shift_zero (l : Loc) : l.shift 0 = l := by cases l <;> rfl

@[simp] theorem Loc.shift_shift (l : Loc) (a b : Nat) : (l.shift a).shift b = l.shift (a + b) := by cases l <;> simp [Loc.shift, Nat.add_assoc]

@[simp] theorem Loc.offset_shift (l : Loc) (k : Nat) : (l.shift k).offset = l.offset + k := by cases l <;> rfl

@[simp] theorem State.memoryAt_shift (l : Loc) (k : Nat) : s.memoryAt (l.shift k) = s.memoryAt l := by cases l <;> rfl

@[simp] theorem Loc.isBytes_shift (l : Loc) (k : Nat) : (l.shift k).isBytes ↔ l.isBytes := by cases l <;> rfl

@[simp] theorem State.hasPlace_shift (l : Loc) (k : Nat) : s.hasPlace (l.shift k) ↔ s.hasPlace l := by cases l <;> rfl

/-- R3: the bytes of a place are those of its first words and those that follow. -/
theorem State.peek_add (h : l.isBytes) (k n : Nat) : s.peek l (k + n) = s.peek l k + 256 ^ k * s.peek (l.shift k) n := by
  rw [s.peek_eq_read h, s.peek_eq_read h, s.peek_eq_read ((Loc.isBytes_shift l k).2 h), Memory.read_add, State.memoryAt_shift, Loc.offset_shift]

end

theorem ordinary_isBytes {l : Loc} (h : Claims.ordinary l) : l.isBytes := by
  cases l with
  | phys pa type => rcases h with rfl | rfl <;> simp [Loc.isBytes]
  | lane _ _ | scr _ _ | dscr _ _ _ => trivial

theorem ordinary_shift (l : Loc) (k : Nat) : Claims.ordinary (l.shift k) ↔ Claims.ordinary l := by cases l <;> rfl

/-- Two places lie in the same memory. -/
def Loc.together : Loc → Loc → Prop
  | .lane r _, .lane u _ => r = u
  | .scr i _, .scr j _ => i = j
  | .dscr k d _, .dscr k' d' _ => k = k' ∧ d = d'
  | .phys _ _, .phys _ _ => True
  | _, _ => False

theorem Loc.together_refl (l : Loc) : l.together l := by cases l <;> simp [Loc.together]

@[simp] theorem Loc.shift_together (l k : Loc) (a : Nat) : (l.shift a).together k ↔ l.together k := by cases l <;> cases k <;> rfl

theorem Loc.meets_iff (l k : Loc) (n m : Nat) : l.meets n k m = true ↔ l.together k ∧ l.offset < k.offset + m ∧ k.offset < l.offset + n := by
  cases l <;> cases k <;> simp [Loc.meets, Loc.together, Loc.offset, and_assoc]

/-- A place that no byte of a range meets, meets none of a part of the range. -/
theorem Loc.meets_part (l k : Loc) {a n b m c : Nat} (hab : a ≤ b) (hmn : b + m ≤ a + n) (h : (l.shift a).meets n k c = false) : (l.shift b).meets m k c = false := by
  rw [← Bool.not_eq_true, Loc.meets_iff, Loc.shift_together, Loc.offset_shift] at h ⊢
  exact fun ⟨hsame, _, _⟩ => h ⟨hsame, by omega, by omega⟩

/-- The bytes of a range meet none of those before it. -/
theorem Loc.meets_before (l : Loc) {a n b m : Nat} (h : b + m ≤ a) : (l.shift a).meets n (l.shift b) m = false := by
  rw [← Bool.not_eq_true, Loc.meets_iff, Loc.offset_shift, Loc.offset_shift]
  omega

/-! ### What writes leave -/

/-- The places are there that were there, and every byte but those of the device registers is what it was. -/
def SamePlaces (s t : State) : Prop := (∀ l, s.hasPlace l → t.hasPlace l) ∧ ∀ (k : Loc) (m : Nat), k.isBytes → t.peek k m = s.peek k m

/-- The low n bytes of `w` are put at a place; the places are there that were there, and every other byte but those of the device registers is what it was. -/
def Stores (s t : State) (l : Loc) (n w : Nat) : Prop :=
  (∀ k, s.hasPlace k → t.hasPlace k) ∧ t.peek l n = w % 256 ^ n ∧ ∀ (k : Loc) (m : Nat), k.isBytes → l.meets n k m = false → t.peek k m = s.peek k m

theorem State.dcopy_modLaunch (s : State) (k d : Nat) (f : DCopy → DCopy) (k' d' : Nat) :
    (s.modLaunch k fun la => { la with dcopies := SMap.modify {} la.dcopies d f }).dcopy k' d'
      = if k' = k ∧ d' = d ∧ (s.launches[k]?).isSome then f (s.dcopy k d) else s.dcopy k' d' := by
  unfold State.dcopy State.modLaunch
  rw [List.getElem?_modify]
  by_cases hk : k' = k
  · subst hk
    cases hla : s.launches[k']? with
    | none => simp
    | some la => by_cases hd : d' = d <;> simp [hd, SMap.modify, SMap.get_set]
  · simp [hk, Ne.symm hk]

theorem hasPlace_modLaunch (s : State) (k : Nat) (f : Launch → Launch) {l : Loc} (h : s.hasPlace l) : (s.modLaunch k f).hasPlace l := by
  cases l with
  | dscr k' d off =>
    change ((s.modLaunch k f).launches[k']?).isSome
    rw [State.modLaunch, List.getElem?_modify, Option.map_eq_map, Option.isSome_map]
    exact h
  | lane _ _ | scr _ _ | phys _ _ => exact h

namespace SamePlaces

theorem refl (s : State) : SamePlaces s s := ⟨fun _ h => h, fun _ _ _ => rfl⟩

theorem trans {s t u : State} (h : SamePlaces s t) (k : SamePlaces t u) : SamePlaces s u :=
  ⟨fun l hl => k.1 l (h.1 l hl), fun l n hl => (k.2 l n hl).trans (h.2 l n hl)⟩

theorem of_sameBytes {s t : State} (h : SameBytes s t) : SamePlaces s t := by
  refine ⟨fun l hl => ?_, fun l n hl => h.peek (by cases l <;> trivial) n⟩
  obtain ⟨-, hlaunches, hteam⟩ := h
  cases l with
  | lane r off =>
    have hlane := congrArg (Option.bind · fun x => x.2[r.tid]?) (hteam r.team)
    have hlane : (t.thread r).map (·.lane) = (s.thread r).map (·.lane) := by simpa [State.thread, Option.map_bind, Option.bind_map, Function.comp_def] using hlane
    simpa [State.hasPlace] using (congrArg Option.isSome hlane).trans (by simpa [State.hasPlace] using hl)
  | scr i off => simpa [State.hasPlace] using (congrArg Option.isSome (hteam i)).trans (by simpa [State.hasPlace] using hl)
  | dscr k d off => simpa [State.hasPlace, hlaunches] using hl
  | phys pa type => trivial

theorem of_fields {s t : State} (hmem : t.mem = s.mem) (hlaunches : t.launches = s.launches) (hteams : t.teams = s.teams) : SamePlaces s t :=
  of_sameBytes ⟨hmem, hlaunches, fun i => by rw [State.team, State.team, hteams]⟩

theorem of_atHome {s t : State} (h : AtHome s t) : SamePlaces s t := by
  have hteams := h.teams
  obtain ⟨_, _, _, _, _, _, rfl, -⟩ := h
  exact of_fields rfl rfl hteams

theorem touch (s : State) (l : Loc) (pts : Nat) : SamePlaces s (s.touch l pts).1 := by
  cases l with
  | lane r off => exact refl s
  | phys pa type => exact refl s
  | scr i off =>
    unfold State.touch
    simp only []
    split
    · exact refl s
    · exact of_sameBytes (.modTeam s i (fun _ => rfl) fun _ => rfl)
  | dscr k d off =>
    refine ⟨fun l hl => ?_, fun l n hl => ?_⟩
    · exact hasPlace_modLaunch s k _ hl
    · unfold State.touch
      cases l with
      | dscr k' d' off' =>
        simp only [State.peek, State.dcopy_modLaunch]
        split
        · next h => obtain ⟨rfl, rfl, -⟩ := h; rfl
        · rfl
      | lane _ _ | scr _ _ | phys _ _ => rfl

theorem storeStamp (s : State) (core : Option Nat) (pts : Nat) (l : Loc) (q : Req) : SamePlaces s (s.storeStamp core pts l q).1 := by
  unfold State.storeStamp
  split
  · next pa =>
    have hstamp := of_atHome (AtHome.storeStamp s pts pa q)
    cases core with
    | none => exact hstamp
    | some c =>
      have hdrop (u : State) : SamePlaces u (u.dropL1 c pa) := of_fields rfl rfl rfl
      exact hstamp.trans (hdrop _)
  · exact (of_atHome (.reachL2 ..)).trans (touch ..)

theorem setPts (s : State) (t : TRef) (pts : Nat) : SamePlaces s (s.setPts t pts) := by
  refine of_sameBytes (.modTeam s t.team (fun tm => ?_) fun tm => ?_)
  · split <;> rfl
  · split
    · simp [Function.comp_def]
    · exact map_modify_of_map_eq (f := fun th => { th with pts, quiet := 0 }) (·.lane) (fun _ => rfl) tm.threads t.tid

end SamePlaces

section
variable {s : State} {l : Loc} (hl : l.isBytes) (n w : Nat) {k : Loc}
include hl

theorem State.memoryAt_poke_other (h : ¬l.together k) : (s.poke l n w).memoryAt k = s.memoryAt k := by
  cases l with
  | lane r off =>
    cases k with
    | lane u off' => simp only [State.poke, State.memoryAt, State.modThread_thread_other _ _ (Ne.symm h)]
    | scr i off' =>
      simp only [State.poke, State.memoryAt]
      by_cases hi : i = r.team
      · subst hi
        rw [State.modThread_team_same, Option.map_map]
        rfl
      · rw [State.modThread_team_other _ _ _ hi]
    | dscr _ _ _ | phys _ _ => rfl
  | scr i off =>
    cases k with
    | scr j off' => simp only [State.poke, State.memoryAt, State.modTeam_team_other _ _ (Ne.symm h)]
    | lane u off' =>
      simp only [State.poke, State.memoryAt]
      rw [State.modTeam_thread _ _ _ (by intro; rfl)]
    | dscr _ _ _ | phys _ _ => rfl
  | dscr j d off =>
    cases k with
    | dscr j' d' off' =>
      simp only [State.poke, State.memoryAt, State.dcopy_modLaunch]
      rw [if_neg fun ⟨hj, hd, _⟩ => h ⟨hj.symm, hd.symm⟩]
    | lane _ _ | scr _ _ | phys _ _ => rfl
  | phys pa type =>
    cases k with
    | phys pa' type' => exact absurd trivial h
    | lane _ _ | scr _ _ | dscr _ _ _ => simp only [State.poke, if_neg hl]; rfl

theorem State.memoryAt_poke_same (hplace : s.hasPlace l) (h : l.together k) : (s.poke l n w).memoryAt k = (s.memoryAt k).write l.offset n w := by
  cases l with
  | lane r off =>
    obtain ⟨th, hth⟩ := Option.isSome_iff_exists.1 hplace
    cases k with
    | lane u off' => obtain rfl : r = u := h; simp [State.poke, State.memoryAt, Loc.offset, hth]
    | scr _ _ | dscr _ _ _ | phys _ _ => exact h.elim
  | scr i off =>
    obtain ⟨tm, htm⟩ := Option.isSome_iff_exists.1 hplace
    cases k with
    | scr j off' => obtain rfl : i = j := h; simp [State.poke, State.memoryAt, Loc.offset, htm]
    | lane _ _ | dscr _ _ _ | phys _ _ => exact h.elim
  | dscr j d off =>
    cases k with
    | dscr j' d' off' =>
      obtain ⟨rfl, rfl⟩ : j = j' ∧ d = d' := h
      simp only [State.poke, State.memoryAt]
      rw [State.dcopy_modLaunch, if_pos ⟨rfl, rfl, hplace⟩]
      rfl
    | lane _ _ | scr _ _ | phys _ _ => exact h.elim
  | phys pa type =>
    cases k with
    | phys pa' type' => simp only [State.poke, if_neg hl]; rfl
    | lane _ _ | scr _ _ | dscr _ _ _ => exact h.elim

theorem State.hasPlace_poke (h : s.hasPlace k) : (s.poke l n w).hasPlace k := by
  cases l with
  | lane r off =>
    cases k with
    | lane u off' => rw [State.poke, State.hasPlace, Standing.modThread]; exact h
    | scr i off' => simpa [State.poke, State.hasPlace, State.team, State.modThread, State.modTeam] using h
    | dscr _ _ _ | phys _ _ => exact h
  | scr i off =>
    cases k with
    | lane u off' => rw [State.poke, State.hasPlace, State.modTeam_thread _ _ _ (by intro; rfl)]; exact h
    | scr j off' => simpa [State.poke, State.hasPlace, State.team, State.modTeam] using h
    | dscr _ _ _ | phys _ _ => exact h
  | dscr j d off => exact hasPlace_modLaunch s j _ h
  | phys pa type =>
    rw [State.poke, if_neg hl]
    cases k <;> exact h

end

namespace Stores

theorem after {s t u : State} {l : Loc} {n w : Nat} (h : SamePlaces s t) (k : Stores t u l n w) : Stores s u l n w :=
  ⟨fun p hp => k.1 p (h.1 p hp), k.2.1, fun p m hp hm => (k.2.2 p m hp hm).trans (h.2 p m hp)⟩

theorem before {s t u : State} {l : Loc} {n w : Nat} (h : Stores s t l n w) (k : SamePlaces t u) (hl : l.isBytes) : Stores s u l n w :=
  ⟨fun p hp => k.1 p (h.1 p hp), (k.2 l n hl).trans h.2.1, fun p m hp hm => (k.2 p m hp).trans (h.2.2 p m hp hm)⟩

/-- R3: what is put at a place is there, and no other byte has changed. -/
theorem poke {s : State} {l : Loc} (hl : l.isBytes) (hplace : s.hasPlace l) (n w : Nat) : Stores s (s.poke l n w) l n w := by
  have hother (k : Loc) (h : ¬l.together k) : (s.poke l n w).memoryAt k = s.memoryAt k := State.memoryAt_poke_other hl n w h
  have hsame (k : Loc) (h : l.together k) : (s.poke l n w).memoryAt k = (s.memoryAt k).write l.offset n w := State.memoryAt_poke_same hl n w hplace h
  refine ⟨fun k hk => State.hasPlace_poke hl n w hk, ?_, fun k m hk hm => ?_⟩
  · rw [State.peek_eq_read _ hl, hsame l l.together_refl, Memory.read_write]
  · rw [State.peek_eq_read _ hk, State.peek_eq_read _ hk]
    by_cases h : l.together k
    · rw [← Bool.not_eq_true, Loc.meets_iff] at hm
      have hout : ¬(l.offset < k.offset + m ∧ k.offset < l.offset + n) := fun hin => hm ⟨h, hin⟩
      rw [hsame k h, Memory.read_write_other _ _ _ _ _ _ (by omega)]
    · rw [hother k h]

/-- R204, R206: a store at an ordinary place. -/
theorem writeAt {s : State} {l : Loc} (hl : Claims.ordinary l) (hplace : s.hasPlace l) (core : Option Nat) (pts n w : Nat) (q : Req) :
    Stores s (s.writeAt core pts l n w q).1 l n w := by
  have hbytes := (ordinary_isBytes hl)
  have hstore : Stores s (s.store core pts l n w q).1 l n w :=
    (Stores.poke hbytes ((SamePlaces.storeStamp s core pts l q).1 l hplace) n w).after (.storeStamp ..) |>.before (.of_sameBytes (.of_woken (Woken.evaluate ..))) hbytes
  cases l with
  | phys pa type =>
    have htype : type ≠ 3 := by rcases hl with rfl | rfl <;> decide
    have hfabric : s.isFabric (.phys pa type) = false := by simp [State.isFabric, htype]
    have hposted : s.isPosted (.phys pa type) = false := by simp [State.isPosted, htype]
    simpa only [State.writeAt, hfabric, hposted, Bool.false_eq_true, if_false] using hstore
  | lane _ _ | scr _ _ | dscr _ _ _ => exact hstore

end Stores

/-! ### Eight words (R261, R262) -/

/-- R204, R372: a load of a scratchpad reads it, or finds it poisoned. -/
theorem State.readAt_scr_eq (s : State) (core pts i off n : Nat) (q : Req) : s.readAt core pts (.scr i off) n q
    = if s.poisoned (.scr i off) n then (s, pts, .error (poisonFault (.scr i off) q.va))
      else ((s.touch (.scr i off) pts).1, (s.touch (.scr i off) pts).2, .ok ((s.touch (.scr i off) pts).1.peek (.scr i off) n)) := by
  have hmarked (core : Option Nat) : s.loadMarked core pts (.scr i off) n = s.poisoned (.scr i off) n := by cases core <;> rfl
  simp [State.readAt, State.readFrom, State.ask, State.linkOf, State.linkGone, State.isFabric, State.isPosted, State.noteLink, State.load, State.reachL2, hmarked]

theorem State.readAt_scr {s t : State} {core pts i off n p v : Nat} {q : Req} (h : s.readAt core pts (.scr i off) n q = (t, p, .ok v)) :
    SamePlaces s t ∧ v = s.peek (.scr i off) n := by
  rw [State.readAt_scr_eq] at h
  split at h
  · simp at h
  · obtain ⟨rfl, -, rfl⟩ : _ ∧ _ ∧ _ := by simpa using h
    exact ⟨.touch .., (SamePlaces.touch ..).2 _ n trivial⟩

/-- R261: words read one after another from a scratchpad are the number that it holds. -/
theorem State.readWide_scr (n : Nat) {s s' : State} {t : TRef} {core i off k r : Nat} {q : Req}
    (h : s.readWide t core (.scr i off) q n k = (s', .ok r)) : r = s.peek ((Loc.scr i off).shift (8 * k)) (8 * n) := by
  induction n generalizing s s' k r with
  | zero =>
    obtain ⟨-, rfl⟩ : _ ∧ _ := by simpa [State.readWide] using h
    simp [State.peek_eq_read s (l := (Loc.scr i off).shift (8 * k)) trivial, Memory.read]
  | succ n ih =>
    unfold State.readWide at h
    split at h
    · simp at h
    · next s1 pts v hread =>
      obtain ⟨hsame, hv⟩ := State.readAt_scr hread
      split at h
      · next s2 w hrest =>
        obtain ⟨-, rfl⟩ : _ ∧ _ := by simpa using h
        have hw : w = s.peek ((Loc.scr i off).shift (8 * (k + 1))) (8 * n) := (ih hrest).trans ((hsame.trans (.setPts ..)).2 _ _ trivial)
        have hsplit : 8 * (n + 1) = 8 + 8 * n := by ring
        rw [hsplit, State.peek_add s (l := (Loc.scr i off).shift (8 * k)) trivial, Loc.shift_shift, show 8 * k + 8 = 8 * (k + 1) by ring, hw, hv]
        rfl
      · next hno => exact absurd h (hno _ _)

/-- R262: words written one after another put their number at the place. -/
theorem State.writeWide_stores (n : Nat) {s : State} {l : Loc} (hl : Claims.ordinary l) (hplace : s.hasPlace l) (t : TRef) (core w : Nat) (q : Req) (k : Nat) :
    Stores s (s.writeWide t core l w q n k) (l.shift (8 * k)) (8 * n) (w / 2 ^ (64 * k)) := by
  have hbytes (j : Nat) : (l.shift j).isBytes := (Loc.isBytes_shift l j).2 (ordinary_isBytes hl)
  induction n generalizing s k with
  | zero => exact ⟨fun _ h => h, by simp [State.peek_eq_read _ (hbytes _), Memory.read, Nat.mod_one], fun _ _ _ _ => rfl⟩
  | succ n ih =>
    unfold State.writeWide
    generalize hr : s.writeAt (some core) (s.ptsOf t) (l.shift (8 * k)) 8 (w / 2 ^ (64 * k) % 2 ^ 64) q = r
    have hfirst : Stores s (r.1.setPts t r.2) (l.shift (8 * k)) 8 (w / 2 ^ (64 * k) % 2 ^ 64) :=
      hr ▸ (Stores.writeAt ((ordinary_shift l _).2 hl) ((State.hasPlace_shift s l _).2 hplace) ..).before (.setPts ..) (hbytes _)
    have hrest := ih (s := r.1.setPts t r.2) (hfirst.1 l hplace) (k + 1)
    obtain ⟨hkeeps, hword, hothers⟩ := hfirst
    obtain ⟨hkeeps', hwords, hothers'⟩ := hrest
    refine ⟨fun p hp => hkeeps' p (hkeeps p hp), ?_, fun p m hp hm => ?_⟩
    · have hstays := hothers' (l.shift (8 * k)) 8 (hbytes _) (l.meets_before (by omega))
      have hsplit : 8 * (n + 1) = 8 + 8 * n := by ring
      rw [hsplit, State.peek_add _ (hbytes _), Loc.shift_shift, show 8 * k + 8 = 8 * (k + 1) by ring, hstays, hword, hwords, Nat.pow_add, Nat.mod_mul,
        show 64 * (k + 1) = 64 * k + 64 by ring, Nat.pow_add, ← Nat.div_div_eq_div_mul]
      simp
    · rw [hothers' p m hp (l.meets_part p (by omega) (by omega) hm), hothers p m hp (l.meets_part p le_rfl (by omega) hm)]

end Sys2Proof.Machine
end

section
/-!
O32: thset and thget, and the status of a handle record.
-/
namespace Sys2Proof.Machine

/-! ### thset (R261) -/

/-- R103, R261: the table after thset: the record is at its handle where its status is 0. -/
def Ctx.tabled (c : Ctx) (s : State) (r : Nat) : State :=
  if s.recordStatus r = 0 then (c.capture s c.handleNo).setHandle (s.asidOf c.tm) c.handleNo r else s

theorem Ctx.tabled_standing (c : Ctx) (s : State) (r : Nat) : Standing s (c.tabled s r) := by
  unfold Ctx.tabled
  split
  · exact (c.capture_standing s _).trans (.of_teams rfl)
  · exact fun _ => rfl

/-- R103: the record of thset's handle after it, and those of the others. -/
theorem Ctx.tabled_context (c : Ctx) {s : State} (r : Nat) {k : Context} (hk : s.context (s.asidOf c.tm) = some k) :
    ∃ k', (c.tabled s r).context (s.asidOf c.tm) = some k'
      ∧ SMap.get 0 k'.handles c.handleNo = (if s.recordStatus r = 0 then r else SMap.get 0 k.handles c.handleNo)
      ∧ ∀ j, j ≠ c.handleNo → SMap.get 0 k'.handles j = SMap.get 0 k.handles j := by
  unfold Ctx.tabled
  split
  · obtain ⟨hts, hcapture⟩ := c.capture_context s c.handleNo
    have hset := State.context_modContext (c.capture s c.handleNo) (s.asidOf c.tm) (f := fun x => { x with handles := SMap.set 0 x.handles c.handleNo r })
      fun _ => ⟨rfl, rfl⟩
    rw [hcapture, hk] at hset
    exact ⟨_, hset, SMap.get_set_same .., fun j hj => SMap.get_set_other _ _ _ hj⟩
  · exact ⟨k, hk, rfl, fun _ _ => rfl⟩

/-- R261: thset reads its record and gives its status. -/
theorem thsetBody_eq {c : Ctx} {s s1 s2 : State} {l : Loc} {r : Nat}
    (hloc : s.locate (c.agent s) c.e.space (c.r.ea c.e c.e.a false) 64 64 false 2 = .ok (s1, l))
    (hread : s1.readWide c.t (c.agent s).core l ((c.agent s).req (c.r.ea c.e c.e.a false).toNat 0 (some (.thread c.t))) 8 0 = (s2, .ok r)) :
    thsetBody c s = .done (c.wr (c.tabled (c.revoke s2) r) 32 false (s2.recordStatus r)) := by
  unfold thsetBody
  simp only [hloc, hread]
  rfl

/-! ### thget (R262) -/

/-- R48, R73: a member of a cluster set is a team. -/
theorem State.member_isSome {s : State} {i : Nat} {tm : Team} {m j : Nat} (hi : (s.team i).isSome) (h : s.member i tm m = some j) : (s.team j).isSome := by
  unfold State.member at h
  simp only [] at h
  split at h
  · split at h
    · cases h; exact hi
    · cases h
  · split at h
    · have hj := List.find?_some h
      cases ht : s.team j with
      | none => simp [ht] at hj
      | some t => rfl
    · cases h

section
variable {s : State}

/-- R70: the place of an on-chip access that takes bytes is there. -/
theorem State.onChip_hasPlace {r : TRef} {tm : Team} {space ea n : Nat} (hn : 0 < n) (hteam : (s.team r.team).isSome) (hthread : (s.thread r).isSome) :
    Ensures (s.onChip r tm space ea n) fun l => s.hasPlace l := by
  unfold State.onChip
  split
  · split
    · exact (ensures_ok _ _).2 hthread
    · exact ensures_error _ _
  · split
    · exact (ensures_ok _ _).2 hteam
    · exact ensures_error _ _
  · split
    · exact ensures_error _ _
    · next j hj =>
      split
      · exact (ensures_ok _ _).2 (State.member_isSome hteam hj)
      · exact ensures_error _ _
  · split
    · next hend =>
      refine (ensures_ok _ _).2 ?_
      change (s.launches[tm.launch]?).isSome
      cases hla : s.launches[tm.launch]? with
      | none => simp [State.dSize, State.launchOf, hla] at hend; omega
      | some la => rfl
    · exact ensures_error _ _

/-- R70, R87: the place that an access finds is there. -/
theorem State.locate_hasPlace {a : Agent} {space : BitVec 3} {ea : W64} {n align reason : Nat} {store atom : Bool} (hn : 0 < n)
    (hthread : (s.thread a.t).isSome) : Ensures (s.locate a space ea n align store reason atom) fun x => x.1.hasPlace x.2 := by
  unfold State.locate
  split
  · split
    · exact ensures_error _ _
    split
    · exact ensures_error _ _
    split
    · exact ensures_error _ _
    split
    · exact ensures_error _ _
    split
    · exact ensures_error _ _
    · exact (ensures_ok _ _).2 trivial
  · split
    · exact ensures_error _ _
    split
    · exact ensures_error _ _
    · exact (ensures_map _ _ _).2 (State.onChip_hasPlace hn (State.team_isSome_of_thread hthread) hthread)

end

section
variable (c : Ctx) (s : State) (n : Nat)

theorem Ctx.capture_asidOf (tm : Team) : (c.capture s n).asidOf tm = s.asidOf tm := by
  unfold Ctx.capture State.touchHandle
  split
  · rfl
  · exact (Reads.setPts ..).asidOf tm

/-- R103: a capture leaves the records as they read. -/
theorem Ctx.capture_handleRecord (k : Nat) : c.handleRecord (c.capture s n) k = c.handleRecord s k := by
  obtain ⟨hts, hcapture⟩ := c.capture_context s n
  unfold Ctx.handleRecord State.handle
  rw [c.capture_asidOf, hcapture]
  cases s.context (s.asidOf c.tm) <;> rfl

theorem Ctx.capture_samePlaces : SamePlaces s (c.capture s n) := by
  unfold Ctx.capture State.touchHandle
  split
  · exact .refl s
  · exact SamePlaces.trans (t := s.modContext _ _) (.of_fields rfl rfl rfl) (.setPts ..)

theorem Ctx.revoke_samePlaces : SamePlaces s (c.revoke s) := .of_sameBytes (.modTeam s c.t.team (fun _ => rfl) fun _ => rfl)

end

theorem SameHandles.handleRecord {s t : State} (h : SameHandles s t) (c : Ctx) (n : Nat) : c.handleRecord t n = c.handleRecord s n := by
  unfold Ctx.handleRecord State.handle
  rw [h.2.1, h.context]

/-- R262: thget stores the record of its handle. -/
theorem thgetBody_stores {c : Ctx} {s s1 : State} {l : Loc} (hthread : (s.thread c.t).isSome)
    (hloc : s.locate (c.agent s) c.e.space (c.r.ea c.e c.e.a false) 64 64 true 2 = .ok (s1, l)) (hl : Claims.ordinary l) :
    ∃ u, thgetBody c s = .done u ∧ Stores s1 u l 64 (c.handleRecord s c.handleNo) := by
  have hplace : s1.hasPlace l := State.locate_hasPlace (by decide) hthread _ hloc
  have hlocated : SameHandles s s1 := SameHandles.locate _ hloc
  have hrevoked : SameHandles s1 (if c.e.space = 4 then c.revoke s1 else s1) ∧ SamePlaces s1 (if c.e.space = 4 then c.revoke s1 else s1) := by
    split
    · exact ⟨.revokeTeam .., c.revoke_samePlaces s1⟩
    · exact ⟨.refl s1, .refl s1⟩
  obtain ⟨hhandles, hplaces⟩ := hrevoked
  have hbefore := hplaces.trans (c.capture_samePlaces _ c.handleNo)
  have hstores := (State.writeWide_stores 8 hl (hbefore.1 l hplace) c.t (c.agent s).core (c.handleRecord s c.handleNo)
    ((c.agent s).req (c.r.ea c.e c.e.a false).toNat 0 (some (.thread c.t))) 0).after hbefore
  refine ⟨_, ?_, by simpa using hstores⟩
  unfold thgetBody
  simp only [hloc, c.capture_handleRecord, (hlocated.trans hhandles).handleRecord]
  rfl

/-! ### The obligation -/

theorem handleTable : Claims.HandleTable := by
  unfold Claims.HandleTable
  intro w s c s0 s1 l ea n
  constructor
  · intro _ h hloc s2 r hread
    obtain ⟨rfl, -, -, -, hth, -⟩ := State.performs_start h rfl
    refine ⟨?_, ?_⟩
    · rintro ⟨i, off, rfl⟩
      simpa using State.readWide_scr 8 hread
    have hread' : SameHandles s1 s2 := by
      have hwords := SameHandles.readWide 8 s1 c.t (c.agent s0).core l ((c.agent s0).req (c.r.ea c.e c.e.a false).toNat 0 (some (.thread c.t))) 0
      rwa [hread] at hwords
    have hsame : SameHandles s0 (c.revoke s2) := ((SameHandles.locate _ hloc).trans hread').trans (.revokeTeam ..)
    have hthread : ((c.tabled (c.revoke s2) r).thread c.t).isSome := by rw [c.tabled_standing, hsame.2.2, hth]; rfl
    have hwritten := State.wr_holds (c.tabled (c.revoke s2) r) c.t c.e.d 32 false (s2.recordStatus r) (.inl rfl) (State.team_isSome_of_thread hthread) hthread
    have hwoken : Woken (c.tabled (c.revoke s2) r) (c.wr (c.tabled (c.revoke s2) r) 32 false (s2.recordStatus r)) := .wr ..
    have hexec : exec (.thset w) s0 = .next _ := (issue_direct h rfl (by decide) thsetBody _).trans (by rw [thsetBody_eq hloc hread])
    refine ⟨_, hexec, settle_done_goesOn _ _ _ (by rw [Standing.of_woken hwoken, hthread]), settle_done_holds _ _ _ hwritten, fun k hk => ?_⟩
    rw [← hsame.context, ← hsame.2.1] at hk
    obtain ⟨k', hk', hrecord, hothers⟩ := c.tabled_context r hk
    refine ⟨k', ?_, hrecord, hothers⟩
    rw [← hk', hsame.2.1, ← (SameHandles.of_woken hwoken).context]
    unfold State.context
    rw [settle_done_contexts]
  · intro _ h hloc hl
    obtain ⟨rfl, -, -, -, hth, -⟩ := State.performs_start h rfl
    have hthread : (s0.thread c.t).isSome := by rw [hth]; rfl
    obtain ⟨u, hbody, hstores⟩ := thgetBody_stores hthread hloc hl
    have hexec : exec (.thget w) s0 = .next _ := (issue_direct h rfl (by decide) thgetBody _).trans (by rw [hbody])
    have hstanding : (s1.thread c.t).isSome := by rw [(SameHandles.locate _ hloc).2.2, hthread]
    have hafter := hstores.before (.of_sameBytes (.settle_done c s0 (c.freshLate s0) u)) (ordinary_isBytes hl)
    obtain ⟨-, hrecord, hothers⟩ := hafter
    refine ⟨_, hexec, settle_done_goesOn _ _ _ (hstores.1 (.lane c.t 0) hstanding), ?_, fun k hk hm => hothers k 1 ?_ hm⟩
    · exact hrecord.trans (congrArg (c.handleRecord s0 c.handleNo % ·) (Nat.pow_mul 2 8 64).symm)
    · cases k <;> exact hk

/-- Settles O32: finding and reading places leaves the handle tables, and eight words written one after another are the record. -/
theorem handles : Obligations.Handles := ⟨handleTable, recordStatus⟩

end Sys2Proof.Machine
end

section
/-!
SUPPORT. The flush points (O23): what a drained buffer leaves behind, which markers and flushes a fence sends and awaits, and which homes rclose waits for
(R123, R213, R214, R216, R217, R219, R315).
-/
namespace Sys2Proof.Machine

/-! ### What follows the effect of an instruction -/

/-- What follows an effect changes teams, and the place in the groups being issued. -/
def Settled (s t : State) : Prop := ∃ teams groups pos, t = { s with teams := teams, groups := groups, pos := pos }

theorem Settled.trans {s t u : State} (h : Settled s t) (k : Settled t u) : Settled s u := by
  obtain ⟨_, _, _, rfl⟩ := h
  obtain ⟨teams, groups, pos, rfl⟩ := k
  exact ⟨teams, groups, pos, rfl⟩

theorem Settled.refl (s : State) : Settled s s := ⟨s.teams, s.groups, s.pos, rfl⟩

theorem Settled.modTeam (s : State) (i : Nat) (f : Team → Team) : Settled s (s.modTeam i f) := ⟨_, s.groups, s.pos, rfl⟩

theorem Settled.modThread (s : State) (r : TRef) (f : Thread → Thread) : Settled s (s.modThread r f) := .modTeam ..

theorem Settled.advance (s : State) : Settled s s.advance := by
  obtain ⟨groups, pos, h⟩ := s.advance_eq
  exact ⟨s.teams, groups, pos, h⟩

theorem Settled.countOccurrence (s : State) (r : TRef) (pc : W32) : Settled s (s.countOccurrence r pc true) :=
  (Settled.modThread s r _).trans (.modTeam ..)

theorem Settled.keptLate (c : Ctx) (fresh : List LateResult) (s : State) : Settled s (c.keptLate fresh s) := by
  unfold Ctx.keptLate
  split
  · exact .refl s
  · exact .modThread ..

theorem settle_done_settled (c : Ctx) (s0 : State) (fresh : List LateResult) (s1 : State) : Settled s1 (c.settle s0 fresh (.done s1)).advance := by
  rw [Ctx.settle_done]
  refine Settled.trans ?_ ((Settled.modThread _ _ _).trans ((Settled.modThread _ _ _).trans (.advance _)))
  split
  · exact (Settled.keptLate c fresh s1).trans (.countOccurrence ..)
  · exact .keptLate c fresh s1

theorem settle_wait_settled (c : Ctx) (s0 : State) (fresh : List LateResult) (s1 : State) (w : Wait) (counts : Bool) :
    Settled s1 (c.settle s0 fresh (.wait s1 w counts)).advance := by
  unfold Ctx.settle
  simp only []
  refine Settled.trans ?_ ((Settled.modThread _ _ _).trans ((Settled.modThread _ _ _).trans (.advance _)))
  split
  · exact (Settled.countOccurrence s1 _ _).trans (.modTeam ..)
  · exact .refl s1

/-! ### Draining (R213) -/

/-- R213: what the homes of contributions make of the pending set of a context. -/
def Context.accepts (l : List Contribution) (x : Context) : Context := { x with pending := x.pending ++ l.filter fun r => decide (x.asid = r.asid) }

/-- R213: contributions go to the pending sets of their contexts. -/
theorem State.acceptAll_eq (l : List Contribution) (s : State) :
    l.foldl (fun (s : State) r => s.modContext r.asid fun c => { c with pending := c.pending ++ [r] }) s = { s with contexts := s.contexts.map (Context.accepts l) } := by
  induction l generalizing s with
  | nil =>
    have hid : Context.accepts [] = id := funext fun x => by simp [Context.accepts]
    simp [hid]
  | cons r l ih =>
    rw [List.foldl_cons, ih]
    simp only [State.modContext, List.map_map]
    congr 1
    refine List.map_congr_left fun x _ => ?_
    by_cases h : x.asid = r.asid <;> simp [Context.accepts, h]

/-- R213: the buffer of a partition has gone to the pending sets, but for what was lost. -/
def Drained (s t : State) (core part : Nat) : Prop :=
  ((t.core core).part part).reds = ((s.core core).part part).reds.filter (·.bad)
    ∧ (∀ r ∈ ((s.core core).part part).reds, r.bad = false → ∀ x ∈ s.contexts, x.asid = r.asid → ∃ y ∈ t.contexts, y.asid = r.asid ∧ r ∈ y.pending)
    ∧ t.mem = s.mem

theorem State.modPart_reds (s : State) (core part : Nat) (f : Part → Part) : ((s.modPart core part f).core core).part part = f ((s.core core).part part) := by
  simp [State.modPart, core_modCore, Core.part]

/-- R213: draining changes the buffer of the partition and the pending sets. -/
theorem State.drainPart_eq (s : State) (core part : Nat) : ∃ cores l, s.drainPart core part = { s with cores := cores, contexts := s.contexts.map (Context.accepts l) }
    ∧ (SMap.get {} cores core).part part = { (s.core core).part part with reds := ((s.core core).part part).reds.filter (·.bad) }
    ∧ ∀ r, r ∈ l ↔ r ∈ ((s.core core).part part).reds ∧ r.bad = false := by
  unfold State.drainPart
  extract_lets l s1
  have hl : ∀ r, r ∈ l ↔ r ∈ ((s.core core).part part).reds ∧ r.bad = false := fun r => by
    rw [(sortBy_perm _ _).mem_iff, List.mem_filter, Bool.not_eq_true']
  rw [State.acceptAll_eq]
  by_cases hempty : l.isEmpty = true
  · have hs1 : s1 = s := if_pos hempty
    refine ⟨s.cores, l, by rw [hs1], ?_, hl⟩
    have hbad : ((s.core core).part part).reds.filter (·.bad) = ((s.core core).part part).reds := List.filter_eq_self.2 fun r hr => by
      by_contra hb
      exact List.not_mem_nil (List.isEmpty_iff.1 hempty ▸ (hl r).2 ⟨hr, by simpa using hb⟩)
    rw [hbad]
    rfl
  · have hs1 : s1 = s.modPart core part fun q => { q with reds := q.reds.filter (·.bad) } := if_neg hempty
    exact ⟨s1.cores, l, by rw [hs1]; rfl, by rw [hs1]; exact s.modPart_reds core part _, hl⟩

/-- R213: a flush point of a thread drains the buffer of its partition, and changes no more than that buffer and the pending sets. -/
theorem State.flushPoint_drains {s : State} {c : Ctx} (htm : s.team c.t.team = some c.tm) (hwave : c.tm.wave = none) :
    ∃ cores contexts, s.flushPoint c.t = { s with cores := cores, contexts := contexts }
      ∧ Drained s (s.flushPoint c.t) (s.coreOf c.tm c.t.tid) (s.partOf c.tm c.t.tid) := by
  have hflush : s.flushPoint c.t = s.drainPart (s.coreOf c.tm c.t.tid) (s.partOf c.tm c.t.tid) := by simp [State.flushPoint, htm, hwave]
  obtain ⟨cores, l, hdrain, hreds, hl⟩ := s.drainPart_eq (s.coreOf c.tm c.t.tid) (s.partOf c.tm c.t.tid)
  rw [hflush, hdrain]
  refine ⟨_, _, rfl, congrArg Part.reds hreds, fun r hr hbad x hx hasid => ⟨_, List.mem_map_of_mem hx, hasid, ?_⟩, rfl⟩
  exact List.mem_append_right _ (List.mem_filter.2 ⟨(hl r).2 ⟨hr, hbad⟩, decide_eq_true hasid⟩)

/-- A change that leaves the cores, the contexts and memory leaves what has been drained. -/
def Undisturbed (s t : State) : Prop := t.cores = s.cores ∧ t.contexts = s.contexts ∧ t.mem = s.mem

theorem Settled.undisturbed {s t : State} (h : Settled s t) : Undisturbed s t := by
  obtain ⟨_, _, _, rfl⟩ := h
  exact ⟨rfl, rfl, rfl⟩

theorem Drained.before {s t u : State} {core part : Nat} (h : Drained s t core part) (k : Undisturbed t u) : Drained s u core part := by
  obtain ⟨hreds, hpending, hmem⟩ := h
  obtain ⟨kcores, kcontexts, kmem⟩ := k
  exact ⟨by rw [State.core, kcores]; exact hreds, by rw [kcontexts]; exact hpending, kmem.trans hmem⟩

/-! ### Markers and flushes (R123, R125, R315) -/

/-- R315: where no port has carried a store since its last marker, none leaves. -/
theorem State.sendMarkers_none {s : State} (h : s.fabSince = []) (bay : Nat) : s.sendMarkers bay = s := by
  unfold State.sendMarkers
  rw [h]
  rfl

/-- R315: what leaving markers change of the state. -/
theorem State.sendMarkers_eq (s : State) (bay : Nat) : ∃ launches queues teams fabSince fabLost fresh nextFab agenda act,
    s.sendMarkers bay = { s with launches := launches, queues := queues, teams := teams, fabSince := fabSince, fabLost := fabLost, markers := s.markers ++ fresh,
                                 nextFab := nextFab, agenda := s.agenda ++ agenda, activity := act }
      ∧ ∀ p ∈ s.fabSince, ∃ m ∈ fresh, m.port = p.1 ∧ m.count = SMap.get 0 s.fabSent p.1 ∧ Instr.fenceMarkerAnswer m.id (s.fabLost.contains p.1) ∈ agenda := by
  unfold State.sendMarkers
  extract_lets ports fresh s1
  obtain ⟨act, hs1⟩ : ∃ act, s1 = { s with activity := act } := State.noteUses_eq ..
  have hports : ∀ p ∈ s.fabSince, p.1 ∈ ports := fun p hp => (mem_foldl_addNat (·.1) s.fabSince [] p.1).2 (.inr ⟨p, hp, rfl⟩)
  split
  · next hnone =>
    refine ⟨s.launches, s.queues, s.teams, s.fabSince, s.fabLost, [], s.nextFab, [], act, by rw [hs1, List.append_nil, List.append_nil], fun p hp => ?_⟩
    exact absurd (hports p hp) (by simp [List.isEmpty_iff.1 hnone])
  · obtain ⟨teams, hawait⟩ := State.awaitMarkers_eq
      { s1 with fabSince := [], fabLost := [], markers := s1.markers ++ fresh, nextFab := s1.nextFab + ports.length } (fresh.map (·.id))
    rw [hawait, hs1]
    refine ⟨_, _, teams, [], [], fresh, _, fresh.map fun m => Instr.fenceMarkerAnswer m.id (s.fabLost.contains m.port), act, rfl, fun p hp => ?_⟩
    obtain ⟨k, hk, hget⟩ := List.mem_iff_getElem.1 (hports p hp)
    have hport : (ports[k]?).getD 0 = p.1 := by simp [hk, hget]
    exact ⟨_, List.mem_map_of_mem (mem_numbers.2 (by omega : 0 ≤ k ∧ k < 0 + ports.length)), hport, congrArg (SMap.get 0 s.fabSent) hport,
      List.mem_map.2 ⟨_, List.mem_map_of_mem (mem_numbers.2 (by omega : 0 ≤ k ∧ k < 0 + ports.length)), by rw [hport]⟩⟩

/-- R125: with no relaxed store and no open flush none leaves, and none is awaited. -/
theorem State.sendFlushes_none {s : State} (hrelaxed : s.relaxed = []) (hfence : ∀ u fab sys, s.why u ≠ some (.fence fab sys))
    (hlaunch : ∀ la ∈ s.launches, la.closing = none) : s.sendFlushes.2 = [] := by
  have hopen : s.openFlushes = [] := by
    refine List.append_eq_nil_iff.2 ⟨?_, List.flatMap_eq_nil_iff.2 fun la hla => by simp [hlaunch la hla]⟩
    refine List.foldlRecOn (motive := fun l : List Nat => l = []) _ _ rfl fun l hl t _ => ?_
    split
    · next h => exact absurd h (hfence t _ _)
    · exact hl
  unfold State.sendFlushes
  simp only [hrelaxed, hopen]
  rfl

section
variable (s : State) (bay : Nat) (sys : Bool) (mine : Marker → Bool)

/-- R123: a fence starts with its markers, and with flushes where it is of the system. -/
theorem State.startFence_eq : ∃ agenda, (s.startFence bay sys mine).1 = { s.sendMarkers bay with agenda := (s.sendMarkers bay).agenda ++ agenda } := by
  unfold State.startFence
  simp only []
  split
  · exact ⟨_, rfl⟩
  · exact ⟨[], by rw [List.append_nil]⟩

theorem State.startFence_undisturbed : Undisturbed s (s.startFence bay sys mine).1 := by
  obtain ⟨_, hstart⟩ := s.startFence_eq bay sys mine
  obtain ⟨_, _, _, _, _, _, _, _, _, hsend, -⟩ := s.sendMarkers_eq bay
  rw [hstart, hsend]
  exact ⟨rfl, rfl, rfl⟩

theorem Standing.awaitMarkers (ids : List Nat) : Standing s (s.awaitMarkers ids) := by
  unfold State.awaitMarkers
  refine List.foldlRecOn (motive := fun u : State => Standing s u) _ _ (.of_teams rfl) fun u hu t _ => ?_
  split
  · exact hu.trans (.modThread u t _)
  · exact hu

/-- R315: markers that leave end no thread. -/
theorem Standing.sendMarkers : Standing s (s.sendMarkers bay) := by
  unfold State.sendMarkers
  extract_lets ports fresh s1
  obtain ⟨act, hs1⟩ : ∃ act, s1 = { s with activity := act } := State.noteUses_eq ..
  have h1 : Standing s s1 := .of_teams (by rw [hs1])
  split
  · exact h1
  · refine Standing.trans (t := { s1 with fabSince := [], fabLost := [], markers := s1.markers ++ fresh, nextFab := s1.nextFab + ports.length }) (h1.trans (.of_teams rfl)) ?_
    exact (Standing.awaitMarkers _ _).trans (.of_teams (State.later_teams ..))

theorem Standing.startFence : Standing s (s.startFence bay sys mine).1 := by
  obtain ⟨_, hstart⟩ := s.startFence_eq bay sys mine
  rw [hstart]
  exact (Standing.sendMarkers s bay).trans (.of_teams rfl)

/-- R315: the fence awaits a marker on every port that has carried a store since its last one, with the port's count. -/
theorem State.startFence_markers : ∀ p ∈ s.fabSince, ∃ m ∈ (s.startFence bay sys mine).1.markers, m.port = p.1 ∧ m.count = SMap.get 0 s.fabSent p.1
    ∧ m.id ∈ (s.startFence bay sys mine).2.1 ∧ Instr.fenceMarkerAnswer m.id (s.fabLost.contains p.1) ∈ (s.startFence bay sys mine).1.agenda := by
  intro p hp
  obtain ⟨_, _, _, _, _, fresh, _, agenda, _, hsend, hfresh⟩ := s.sendMarkers_eq bay
  obtain ⟨m, hm, hport, hcount, hanswer⟩ := hfresh p hp
  obtain ⟨_, hstart⟩ := s.startFence_eq bay sys mine
  have hfab : (s.startFence bay sys mine).2.1 = (s.markers.filter mine).map (·.id) ++ fresh.map (·.id) := by
    unfold State.startFence
    simp only [hsend, List.drop_left]
    split <;> rfl
  rw [hfab, hstart, hsend]
  exact ⟨m, List.mem_append_right _ hm, hport, hcount, List.mem_append_right _ (List.mem_map_of_mem hm), List.mem_append_left _ (List.mem_append_right _ hanswer)⟩

/-- R125: a fence of the system awaits the flush of every port with relaxed stores. -/
theorem State.startFence_flushes (hsys : sys = true) : ∀ p ∈ s.relaxed, p.port ∈ (s.startFence bay sys mine).2.2 := by
  obtain ⟨_, _, _, _, _, _, _, _, _, hsend, -⟩ := s.sendMarkers_eq bay
  intro p hp
  unfold State.startFence
  simp only [hsys, if_true]
  exact State.sendFlushes_ports _ p (by rw [hsend]; exact hp)

variable {s mine}

/-- R123: with no store by the fabric since the last markers, and no earlier marker of the caller's own, no marker is awaited. -/
theorem State.startFence_noMarkers (hsince : s.fabSince = []) (hmine : ∀ m ∈ s.markers, mine m = false) : (s.startFence bay sys mine).2.1 = [] := by
  have hold : s.markers.filter mine = [] := List.filter_eq_nil_iff.2 fun m hm => by simp [hmine m hm]
  unfold State.startFence
  simp only [State.sendMarkers_none hsince, hold, List.drop_length]
  split <;> rfl

/-- R125: only a fence of the system, with a flush to await, awaits flushes. -/
theorem State.startFence_noFlushes (h : sys = true → s.fabSince = [] ∧ s.sendFlushes.2 = []) : (s.startFence bay sys mine).2.2 = [] := by
  unfold State.startFence
  simp only []
  split
  · next hsys => rw [State.sendMarkers_none (h hsys).1]; exact (h hsys).2
  · rfl
end

/-! ### fence (R123, R219) -/

section
variable {s s1 : State} {c : Ctx}

/-- What the scope of a fence makes it wait for, as the obligation says it of the state after its issue. -/
def FenceSettles (s t : State) (c : Ctx) : Prop :=
  (c.e.scope = 0 → t.goesOn c)
    ∧ (c.e.scope = 1 → s.fabSince = [] → (∀ m ∈ s.markers, ∀ w ∈ m.who, s.covers c.t w = false) → t.goesOn c)
    ∧ (c.e.scope ≠ 0 → s.storesDone c.t → t.goesOn c)
    ∧ (c.e.scope ≠ 0 → s.fabSince ≠ [] → ∃ fab sys, t.waitsFor c.t (.fence fab sys) c.next ∧ ∀ p ∈ s.fabSince, ∃ m ∈ t.markers,
        m.port = p.1 ∧ m.count = SMap.get 0 s.fabSent p.1 ∧ m.id ∈ fab ∧ Instr.fenceMarkerAnswer m.id (s.fabLost.contains p.1) ∈ t.agenda)
    ∧ (c.e.scope = 2 → s.relaxed ≠ [] → ∃ fab sys, t.waitsFor c.t (.fence fab sys) c.next ∧ ∀ p ∈ s.relaxed, p.port ∈ sys)

theorem State.ownOrJoined_of_covers {t : TRef} {m : Marker} (h : ∀ w ∈ m.who, s.covers t w = false) : s.ownOrJoined t m = false := by
  have hnone : m.who.any (s.covers t) = false := List.any_eq_false.2 fun w hw => by simp [h w hw]
  simp [State.ownOrJoined, hnone]

/-- R123, R315: a fence that has nothing to await goes on, and every other waits for all its answers. -/
theorem fence_settles (fresh : List LateResult) (hth : (s1.thread c.t).isSome) (hscope : c.e.scope ≠ 0) (bay : Nat) {t : State}
    (ht : t = (c.settle s fresh (let x := s1.startFence bay (c.e.scope = 2) (s1.ownOrJoined c.t)
      if x.2.1.isEmpty && x.2.2.isEmpty then .done x.1 else .wait x.1 (.fence x.2.1 x.2.2) true)).advance) :
    FenceSettles s1 t c ∧ Undisturbed s1 t := by
  have hundisturbed := s1.startFence_undisturbed bay (c.e.scope = 2) (s1.ownOrJoined c.t)
  have hstanding : ((s1.startFence bay (c.e.scope = 2) (s1.ownOrJoined c.t)).1.thread c.t).isSome := by rw [Standing.startFence, hth]
  have hmarkers := s1.startFence_markers bay (c.e.scope = 2) (s1.ownOrJoined c.t)
  have hflushes := s1.startFence_flushes bay (c.e.scope = 2) (s1.ownOrJoined c.t)
  have hnoMarkers : s1.fabSince = [] → (∀ m ∈ s1.markers, ∀ w ∈ m.who, s1.covers c.t w = false) → (s1.startFence bay (c.e.scope = 2) (s1.ownOrJoined c.t)).2.1 = [] :=
    fun hsince hcovers => State.startFence_noMarkers bay _ hsince fun m hm => State.ownOrJoined_of_covers (hcovers m hm)
  have hnoFlushes := State.startFence_noFlushes (s := s1) (mine := s1.ownOrJoined c.t) bay (c.e.scope = 2)
  generalize s1.startFence bay (c.e.scope = 2) (s1.ownOrJoined c.t) = x at *
  obtain ⟨x, fab, sys⟩ := x
  have hdone : s1.storesDone c.t → fab = [] ∧ sys = [] := fun ⟨hsince, hcovers, hrelaxed, hfence, hlaunch⟩ =>
    ⟨hnoMarkers hsince hcovers, hnoFlushes fun _ => ⟨hsince, State.sendFlushes_none hrelaxed hfence hlaunch⟩⟩
  have hfab : c.e.scope = 1 → s1.fabSince = [] → (∀ m ∈ s1.markers, ∀ w ∈ m.who, s1.covers c.t w = false) → fab = [] ∧ sys = [] := fun hone hsince hcovers =>
    ⟨hnoMarkers hsince hcovers, hnoFlushes fun h => absurd h (by simp [hone])⟩
  by_cases hempty : fab = [] ∧ sys = []
  · obtain ⟨rfl, rfl⟩ := hempty
    have hgoes : t.goesOn c := by rw [ht]; exact settle_done_goesOn c s fresh hstanding
    refine ⟨⟨fun _ => hgoes, fun _ _ _ => hgoes, fun _ _ => hgoes, fun _ hne => ?_, fun htwo hne => ?_⟩, ?_⟩
    · obtain ⟨p, hp⟩ := List.exists_mem_of_ne_nil _ hne
      obtain ⟨m, -, -, -, hm, -⟩ := hmarkers p hp
      exact absurd hm List.not_mem_nil
    · obtain ⟨p, hp⟩ := List.exists_mem_of_ne_nil _ hne
      exact absurd (hflushes (by simp [htwo]) p hp) List.not_mem_nil
    · have hsettled : Undisturbed x t := by rw [ht]; exact (settle_done_settled c s fresh x).undisturbed
      exact ⟨hsettled.1.trans hundisturbed.1, hsettled.2.1.trans hundisturbed.2.1, hsettled.2.2.trans hundisturbed.2.2⟩
  · have ht : t = (c.settle s fresh (.wait x (.fence fab sys) true)).advance := by
      rw [ht]
      refine congrArg (fun e => State.advance (c.settle s fresh e)) (if_neg ?_)
      simpa using hempty
    have hwaits : t.waitsFor c.t (.fence fab sys) c.next := by rw [ht]; exact (settle_wait c s fresh _ true hstanding).1
    have hsettled : Settled x t := by rw [ht]; exact settle_wait_settled ..
    have hstands : t.markers = x.markers ∧ t.agenda = x.agenda := by
      obtain ⟨_, _, _, hx⟩ := hsettled
      rw [hx]
      exact ⟨rfl, rfl⟩
    refine ⟨⟨fun h => absurd h hscope, fun hone hsince hcovers => absurd (hfab hone hsince hcovers) hempty, fun _ h => absurd (hdone h) hempty,
      fun _ _ => ⟨fab, sys, hwaits, ?_⟩, fun htwo _ => ⟨fab, sys, hwaits, hflushes (by simp [htwo])⟩⟩, ?_⟩
    · rw [hstands.1, hstands.2]
      exact hmarkers
    · have hsettled := hsettled.undisturbed
      exact ⟨hsettled.1.trans hundisturbed.1, hsettled.2.1.trans hundisturbed.2.1, hsettled.2.2.trans hundisturbed.2.2⟩

/-- R219: a fence of scope dev goes on at once. -/
theorem fenceDev_settles {t : State} (hscope : c.e.scope = 0) (hgoes : t.goesOn c) : FenceSettles s t c :=
  ⟨fun _ => hgoes, fun _ _ _ => hgoes, fun _ _ => hgoes, fun h => absurd hscope h, fun h => absurd (h.symm.trans hscope) (by decide)⟩
end

/-! ### rclose (R217) -/

/-- R217: a home holds a contribution of the region. -/
def HoldsRegion (s : State) (asid region h : Nat) : Prop := ∃ k r, s.context asid = some k ∧ r ∈ k.pending ∧ r.region = region ∧ h = s.homeOf r.pa

theorem State.mem_homesOf {s : State} {asid region h : Nat} : h ∈ s.homesOf asid region ↔ HoldsRegion s asid region h := by
  unfold State.homesOf HoldsRegion
  cases s.context asid with
  | none => simp
  | some k =>
    rw [mem_foldl_addNat]
    simp only [List.not_mem_nil, false_or, List.mem_filter, decide_eq_true_eq, Option.some.injEq]
    constructor
    · rintro ⟨r, ⟨hr, hregion⟩, hhome⟩
      exact ⟨k, r, rfl, hr, hregion, hhome.symm⟩
    · rintro ⟨_, r, rfl, hr, hregion, hhome⟩
      exact ⟨r, ⟨hr, hregion⟩, hhome.symm⟩

theorem Settled.holdsRegion {s t : State} (h : Settled s t) (asid region k : Nat) : HoldsRegion t asid region k ↔ HoldsRegion s asid region k := by
  obtain ⟨_, _, _, rfl⟩ := h
  rfl

/-- What rclose waits for, as the obligation says it of the state after its issue. -/
def RcloseSettles (t : State) (c : Ctx) (asid : Nat) : Prop :=
  ((∀ h, ¬HoldsRegion t asid c.e.a.toNat h) → t.goesOn c)
    ∧ ((∃ h, HoldsRegion t asid c.e.a.toNat h) → ∃ homes, t.waitsFor c.t (.rclose c.e.a.toNat homes) c.next ∧ (∀ h, h ∈ homes ↔ HoldsRegion t asid c.e.a.toNat h)
        ∧ ∀ h ∈ homes, Instr.regionCloseAtHome h asid { region := c.e.a.toNat, closer := c.t } ∈ t.agenda)

/-- R217: with the buffer drained, rclose goes on where no home holds contributions of the region, and else waits for each that does. -/
theorem rclose_settles {s s1 : State} {c : Ctx} (hflush : s.flushPoint c.t = s1) (hth : (s1.thread c.t).isSome) (fresh : List LateResult) :
    RcloseSettles (c.settle s fresh (rcloseBody c s)).advance c (c.tm.asid s1) ∧ Undisturbed s1 (c.settle s fresh (rcloseBody c s)).advance := by
  have hmem := fun h => State.mem_homesOf (s := s1) (asid := c.tm.asid s1) (region := c.e.a.toNat) (h := h)
  unfold rcloseBody
  simp only [hflush]
  generalize s1.homesOf (c.tm.asid s1) c.e.a.toNat = homes at *
  cases homes with
  | nil =>
    simp only []
    have hsettled := settle_done_settled c s fresh s1
    refine ⟨⟨fun _ => settle_done_goesOn c s fresh hth, fun ⟨h, hh⟩ => ?_⟩, hsettled.undisturbed⟩
    exact absurd ((hmem h).2 ((hsettled.holdsRegion ..).1 hh)) List.not_mem_nil
  | cons h hs =>
    simp only []
    have hsettled := settle_wait_settled c s fresh (s1.later ((h :: hs).map fun k => .regionCloseAtHome k (c.tm.asid s1) { region := c.e.a.toNat, closer := c.t }))
      (.rclose c.e.a.toNat (h :: hs)) true
    have hheld : ∀ k, k ∈ h :: hs ↔ HoldsRegion _ (c.tm.asid s1) c.e.a.toNat k := fun k => (hmem k).trans (hsettled.holdsRegion ..).symm
    refine ⟨⟨fun hnone => absurd ((hheld h).1 List.mem_cons_self) (hnone h), fun _ => ⟨h :: hs, (settle_wait c s fresh (s1 := s1.later _) _ true hth).1, hheld,
      fun k hk => ?_⟩⟩, hsettled.undisturbed⟩
    obtain ⟨_, _, _, heq⟩ := hsettled
    rw [heq]
    exact List.mem_append_right _ (List.mem_map_of_mem (f := fun k => Instr.regionCloseAtHome k (c.tm.asid s1) { region := c.e.a.toNat, closer := c.t }) hk)

/-! ### The obligation -/

/-- Settles O23: a flush point drains the buffer, and what follows it waits for what it orders. -/
theorem flushPoints : Obligations.FlushPoints := by
  unfold Obligations.FlushPoints
  intro i s c s0 _ h hlost hwave core part before drains
  have start {op : Nat} {e : Ext} {ws : List W32} (hp : i.parts = some (op, e, ws)) : ∃ cores contexts, s.flushPoint c.t = { s with cores := cores, contexts := contexts }
      ∧ Drained s (s.flushPoint c.t) core part ∧ (s.thread c.t).isSome := by
    obtain ⟨-, -, -, htm, hth, -⟩ := State.performs_start h hp
    obtain ⟨cores, contexts, hflush, hdrained⟩ := State.flushPoint_drains htm hwave
    exact ⟨cores, contexts, hflush, hdrained, by rw [hth]; rfl⟩
  cases i with
  | rflush w =>
    obtain ⟨cores, contexts, hflush, hdrained, hth⟩ := start rfl
    have hexec : exec (.rflush w) s = .next _ := issue_direct h rfl (by decide) (flushes fun c s => .done (s.flushPoint c.t)) _
    rw [flushes_of_none hlost] at hexec
    exact ⟨_, hexec, settle_done_goesOn _ _ _ (by rw [hflush]; exact hth), hdrained.before (settle_done_settled ..).undisturbed⟩
  | rclose w =>
    obtain ⟨cores, contexts, hflush, hdrained, hth⟩ := start rfl
    have hexec : exec (.rclose w) s = .next _ := issue_direct h rfl (by decide) (flushes rcloseBody) _
    rw [flushes_of_none hlost] at hexec
    obtain ⟨hsettles, hundisturbed⟩ := rclose_settles rfl (by rw [hflush]; exact hth) (c.freshLate s)
    rw [show c.tm.asid (s.flushPoint c.t) = c.tm.asid s by rw [hflush]; rfl] at hsettles
    exact ⟨_, hexec, hdrained.before hundisturbed, hsettles⟩
  | fence w =>
    obtain ⟨cores, contexts, hflush, hdrained, hth⟩ := start rfl
    have hexec : exec (.fence w) s = .next _ := issue_direct h rfl (by decide) (flushes fenceBody) _
    rw [flushes_of_none hlost] at hexec
    by_cases hscope : c.e.scope = 0
    · have hbody : fenceBody c s = .done (s.flushPoint c.t) := if_pos hscope
      rw [hbody] at hexec
      exact ⟨_, hexec, hdrained.before (settle_done_settled ..).undisturbed, fenceDev_settles hscope (settle_done_goesOn _ _ _ (by rw [hflush]; exact hth))⟩
    · have hbody : fenceBody c s = _ := if_neg hscope
      obtain ⟨hsettles, hundisturbed⟩ := fence_settles (s := s) (c.freshLate s) (by rw [hflush]; exact hth) hscope (c.bay (s.flushPoint c.t))
        (congrArg (fun e => (c.settle s _ e).advance) hbody)
      refine ⟨_, hexec, hdrained.before hundisturbed, ?_⟩
      rw [hflush] at hsettles
      exact hsettles
  | _ => exact trivial

end Sys2Proof.Machine
end

section
/-!
SUPPORT. The bytes that come from outside (O50): what a run of bytes makes of memory, line by line, and what a store of the host or of another module and
a load of theirs leave (R309, R314, R124, R307).
-/
namespace Sys2Proof.Machine
open Sys2Proof.Claims

/-! ### Memory written byte by byte -/

namespace Memory

theorem write_eq_writeBytes (m : Memory) (a n w : Nat) : m.write a n w = m.writeBytes a (natBytes n w) := by
  induction n generalizing m a w with
  | zero => rfl
  | succ n ih => exact ih ..

theorem writeBytes_append (m : Memory) (a : Nat) (l k : List Byte) : m.writeBytes a (l ++ k) = (m.writeBytes a l).writeBytes (a + l.length) k := by
  induction l generalizing m a with
  | nil => rfl
  | cons b l ih => rw [List.cons_append, writeBytes, ih, writeBytes, List.length_cons, Nat.add_right_comm, Nat.add_assoc]

theorem get_writeBytes_same (l : List Byte) (m : Memory) (a j : Nat) {b : Byte} (h : l[j]? = some b) : get (writeBytes m a l) (a + j) = b := by
  induction l generalizing m a j with
  | nil => exact absurd h (by simp)
  | cons x l ih =>
    rw [writeBytes]
    cases j with
    | zero =>
      rw [get_writeBytes_other _ _ _ _ (by omega)]
      simpa using h
    | succ j => rw [Nat.add_comm j, ← Nat.add_assoc]; exact ih _ _ j (by simpa using h)

end Memory

theorem natBytes_bytesNat (l : List Byte) : natBytes l.length (bytesNat l) = l := by
  induction l with
  | nil => rfl
  | cons b l ih =>
    have hb := b.isLt
    have hlow : BitVec.ofNat 8 (b.toNat + 256 * bytesNat l) = b := BitVec.eq_of_toNat_eq (by rw [BitVec.toNat_ofNat]; omega)
    have hhigh : (b.toNat + 256 * bytesNat l) / 256 = bytesNat l := by omega
    simp only [List.length_cons, natBytes, bytesNat, hlow, hhigh, ih]

/-- R3: bytes written as a number of theirs. -/
theorem Memory.write_bytesNat (m : Memory) (a : Nat) (l : List Byte) : m.write a l.length (bytesNat l) = m.writeBytes a l := by
  rw [Memory.write_eq_writeBytes, natBytes_bytesNat]

theorem bytesAt_of_writeBytes {s t : State} {pa : Nat} {bytes : List Byte} (h : t.mem = s.mem.writeBytes pa bytes) : BytesAt s t pa bytes := by
  unfold BytesAt
  rw [h]
  refine ⟨fun j b hb => ?_, fun a ha => Memory.get_writeBytes_other _ _ _ _ ha⟩
  simp [Memory.read, Memory.get_writeBytes_same _ _ _ _ hb]

/-! ### Stores from outside (R124, R309) -/

/-- R309: the stores of a run of bytes, a line each, leave the run. -/
theorem State.storeLines_mem (n : Nat) (s : State) (pa : Nat) (bytes : List Byte) (h : bytes.length + pa % 128 ≤ 128 * n) :
    (s.storeLines pa bytes n).1.mem = s.mem.writeBytes pa bytes := by
  induction n generalizing s pa bytes with
  | zero =>
    have hnil : bytes = [] := List.length_eq_zero_iff.1 (by omega)
    rw [hnil]
    rfl
  | succ n ih =>
    have hstore : ∀ q, (s.store none 0 (.phys pa 0) (min (128 - pa % 128) bytes.length) (bytesNat (bytes.take (128 - pa % 128))) q).1.mem
        = s.mem.writeBytes pa (bytes.take (128 - pa % 128)) := fun q => by
      rw [State.store_phys_mem, ← List.length_take, Memory.write_bytesNat]
    unfold State.storeLines
    simp only []
    split
    · next hlast => rw [hstore, List.take_of_length_le hlast]
    · next hmore =>
      have hlen : (bytes.take (128 - pa % 128)).length = 128 - pa % 128 := by rw [List.length_take]; omega
      have hrest := ih (s.store none 0 (.phys pa 0) (min (128 - pa % 128) bytes.length) (bytesNat (bytes.take (128 - pa % 128))) { who := some .host }).1
        (pa + (128 - pa % 128)) (bytes.drop (128 - pa % 128)) (by rw [List.length_drop]; omega)
      rw [hrest, hstore]
      conv_rhs => rw [← List.take_append_drop (128 - pa % 128) bytes, Memory.writeBytes_append, hlen]

/-- R309: a run within module memory is stored as it is. -/
theorem State.storeArrives_mem {s : State} {pa : Nat} {bytes : List Byte} (h : pa + bytes.length ≤ s.hbmTop) :
    (s.storeArrives pa bytes).mem = s.mem.writeBytes pa bytes := by
  have htake : bytes.take (s.hbmTop - pa) = bytes := List.take_of_length_le (by omega)
  unfold State.storeArrives State.storeOutside
  simp only [htake, State.later_mem]
  split
  · next hnil => rw [List.isEmpty_iff.1 hnil]; rfl
  · exact State.storeLines_mem _ _ _ _ (by omega)

/-- R309: a run above module memory stores nothing there. -/
theorem State.storeArrives_outside {s : State} {pa : Nat} (bytes : List Byte) (h : s.hbmTop ≤ pa) : (s.storeArrives pa bytes).mem = s.mem := by
  simp [State.storeArrives, State.storeOutside, Nat.sub_eq_zero_of_le h]

theorem State.hbmTop_le (s : State) : s.hbmTop ≤ 0xB2D05E0000 := by
  unfold State.hbmTop
  split <;> omega

/-- R307: host memory stands above module memory. -/
theorem State.le_of_region_host {s : State} {pa : Nat} (h : s.region pa = .host) : 0x100000000000 ≤ pa := by
  unfold State.region at h
  by_contra hlow
  have hnot : ¬(0x100000000000 ≤ pa ∧ pa < 0x200000000000) := fun hin => hlow hin.1
  simp only [if_neg hnot] at h
  split at h
  · cases h
  · split at h
    · cases h
    · split at h <;> cases h

/-- R307: a write of module memory is none of the host's own. -/
theorem State.hostOwn_hbm {s : State} {pa : Nat} {bytes : List Byte} (h : pa + bytes.length ≤ s.hbmTop) : s.hostOwn pa bytes = s := by
  have htop := s.hbmTop_le
  unfold State.hostOwn
  refine List.foldlRecOn (motive := fun u => u = s) _ _ rfl fun u hu l hl => ?_
  rw [hu]
  have hl := mem_numbers.1 hl
  refine if_pos ?_
  rw [Bool.or_eq_true, decide_eq_true_eq]
  exact .inl fun hhost => absurd (State.le_of_region_host hhost) (by omega)

/-- R307: a write of the host within a line of its own memory: a line that a home holds it leaves, and any other takes the bytes. -/
theorem State.hostOwn_host {s : State} {pa : Nat} {bytes : List Byte} (hregion : s.region (pa / 128 * 128) = .host) (hline : pa % 128 + bytes.length ≤ 128)
    (hbytes : bytes ≠ []) : (s.hostOwn pa bytes).phase = s.phase
      ∧ (s.hostOwn pa bytes).mem = if s.l2Holds (pa / 128 * 128) then s.mem else s.mem.writeBytes pa bytes := by
  have hlen := List.length_pos_of_ne_nil hbytes
  have hone : (pa % 128 + bytes.length + 127) / 128 = 1 := by omega
  have hmax : max pa (pa / 128 * 128) = pa := by omega
  have hhere : (bytes.drop (pa - pa)).take (pa / 128 * 128 + 128 - pa) = bytes := by
    rw [Nat.sub_self, List.drop_zero]
    exact List.take_of_length_le (by omega)
  unfold State.hostOwn
  rw [hone]
  simp only [numbers, List.foldl_cons, List.foldl_nil, Nat.mul_comm 128, hregion, ne_eq, not_true_eq_false, decide_false, Bool.false_or, hmax, hhere]
  split
  · exact ⟨rfl, rfl⟩
  · exact ⟨rfl, rfl⟩

/-- R309: the host writes module memory. -/
theorem hostWrite_bytes {s : State} {pa : Nat} {bytes : List Byte} (h : pa + bytes.length ≤ s.hbmTop) : BytesAt s (s.hostStore pa bytes) pa bytes := by
  refine bytesAt_of_writeBytes ?_
  unfold State.hostStore
  rw [State.hostOwn_hbm h, State.storeArrives_mem h]

/-- R307: the host writes its own memory. -/
theorem hostWrite_own {s : State} {pa : Nat} {bytes : List Byte} (hregion : s.region (pa / 128 * 128) = .host) (hline : pa % 128 + bytes.length ≤ 128) (hbytes : bytes ≠ []) :
    (s.hostStore pa bytes).mem = if s.l2Holds (pa / 128 * 128) then s.mem else s.mem.writeBytes pa bytes := by
  obtain ⟨hphase, hmem⟩ := State.hostOwn_host hregion hline hbytes
  have htop := (s.hostOwn pa bytes).hbmTop_le
  have hlow := State.le_of_region_host hregion
  unfold State.hostStore
  rw [State.storeArrives_outside bytes (by omega), hmem]

theorem State.ownArrived_eq (s : State) (pa : Nat) (bytes : List Byte) : ∃ own, s.ownArrived pa bytes = { s with ownStores := own } := by
  unfold State.ownArrived
  split
  · exact ⟨_, rfl⟩
  · exact ⟨s.ownStores, rfl⟩

/-- R124: a fabric store is performed at its home. -/
theorem fabricStore_bytes {s : State} {m pa : Nat} {bytes : List Byte} (h : pa + bytes.length ≤ s.hbmTop) (hm : m = Config.moduleNumber ∨ s.present 3 = true) :
    BytesAt s (s.fabricArrival m pa bytes) pa bytes := by
  have hcomes : ¬((decide (m ≠ Config.moduleNumber) && !s.present 3) = true) := by
    rcases hm with rfl | hpresent
    · simp
    · simp [hpresent]
  refine bytesAt_of_writeBytes ?_
  unfold State.fabricArrival
  rw [if_neg hcomes]
  split
  · obtain ⟨own, hown⟩ := s.ownArrived_eq pa bytes
    rw [hown]
    exact State.storeArrives_mem (s := { s with ownStores := own }) h
  · exact State.storeArrives_mem h

/-! ### Loads from outside (R309, R314) -/

theorem State.queueRequest_lines (s : State) (slice : Nat) (q : Req) : (s.queueRequest slice q).lines = s.lines := by
  unfold State.queueRequest
  split <;> rfl

/-- R76: reaching a home slice leaves the timestamps of lines. -/
theorem State.reachL2_lines (s : State) (l : Loc) (store : Bool) (ts : Nat) (q : Req) : (s.reachL2 l store ts q).lines = s.lines := by
  unfold State.reachL2
  split
  · simp only []
    split <;> exact s.queueRequest_lines _ q
  · simp only []
    split <;> exact s.queueRequest_lines _ q
  · rfl

/-- R309: a read at the homes of a range leaves memory and the timestamps of its lines. -/
theorem State.homeRead_stays (s : State) (pa n : Nat) : (s.homeRead pa n).mem = s.mem ∧ (s.homeRead pa n).lines = s.lines := by
  unfold State.homeRead
  refine List.foldlRecOn (motive := fun u : State => u.mem = s.mem ∧ u.lines = s.lines) _ _ ⟨rfl, rfl⟩ fun u hu l _ => ?_
  obtain ⟨hmem, hlines⟩ := hu
  exact ⟨(State.reachL2_mem ..).trans hmem, (State.reachL2_lines ..).trans hlines⟩

/-- R309: a load of the host returns what stands in module memory, and grants no lease. -/
theorem hostLoad_answers {s : State} {pa : Nat} (n : Nat) (h : s.region pa = .hbm) :
    (s.hostRead pa n).hostAnswer = BitVec.ofNat 64 (s.mem.read pa n) ∧ (s.hostRead pa n).mem = s.mem ∧ (s.hostRead pa n).lines = s.lines := by
  obtain ⟨hmem, hlines⟩ := s.homeRead_stays pa n
  unfold State.hostRead
  rw [h]
  exact ⟨rfl, hmem, hlines⟩

section
variable {s : State} {pa : Nat} (n : Nat) (hpresent : s.present 3 = true) (hregion : s.region pa = .hbm)
include hpresent hregion

/-- R314: a load of another module returns what stands in memory. -/
theorem fabricLoad_answers :
    (s.fabricRequest (.load pa n)).fabAnswer = BitVec.ofNat 128 (s.mem.read pa n) ∧ (s.fabricRequest (.load pa n)).mem = s.mem := by
  unfold State.fabricRequest
  simp only [hpresent, hregion, Bool.not_true, Bool.false_eq_true, if_false, ne_eq, not_true_eq_false]
  exact ⟨by rw [State.loadHome]; simp, State.loadHome_mem ..⟩

/-- R210, R314: an atomic of another module is performed once. -/
theorem fabricAtom_performed (fn ty : BitVec 5) (rnd : Rnd) (b c : W128) (hclean : s.physPoisoned pa n = false) :
    (s.fabricRequest (.atom pa n fn ty rnd b c)).fabAnswer = BitVec.ofNat 128 (s.mem.read pa n)
      ∧ (s.fabricRequest (.atom pa n fn ty rnd b c)).mem = s.mem.write pa n (atomNew fn.toNat ty (8 * n) rnd (s.mem.read pa n) b.toNat c.toNat) := by
  unfold State.fabricRequest
  simp only [hpresent, hregion, hclean, Bool.not_true, Bool.false_eq_true, if_false, ne_eq, not_true_eq_false]
  unfold State.atomHere
  exact ⟨rfl, State.store_phys_mem ..⟩

end

end Sys2Proof.Machine
end

section
/-!
SUPPORT. Waits that something outside ends (O50): a thread that waits takes a trap at its instruction, and a monitor of a word elsewhere is released
(R84, R264, R311, R365, R376, R377).
-/
namespace Sys2Proof.Machine
open Sys2Proof.Claims

/-! ### Traps of a waiting thread (R264) -/

/-- A thread keeps all but its counts of occurrences (R44). -/
theorem State.unperform_thread {s : State} {u : TRef} {th : Thread} (hth : s.thread u = some th) (w : Wait) :
    ∃ occ, (s.unperform u w).thread u = some { th with occ := occ } := by
  unfold State.unperform
  split
  · split
    · rw [State.modThread_thread_same, State.modTeam_thread _ _ _ (by intro; rfl), hth]
      exact ⟨_, rfl⟩
    · exact ⟨th.occ, hth⟩
  · exact ⟨th.occ, hth⟩

theorem State.unperform_teams (s : State) (u : TRef) (w : Wait) : ∃ teams, s.unperform u w = { s with teams := teams } := by
  unfold State.unperform
  split
  · split
    · exact ⟨_, rfl⟩
    · exact ⟨s.teams, rfl⟩
  · exact ⟨s.teams, rfl⟩

/-- R264: a thread that leaves its wait is otherwise as it was, but for its counts of occurrences. -/
theorem State.withdraw_thread {s : State} {u : TRef} {th : Thread} (hth : s.thread u = some th) :
    ∃ occ, (s.withdraw u).thread u = some { th with occ := occ, wait := none } := by
  cases hwait : th.wait with
  | none =>
    rw [State.withdraw_idle hth hwait, hth]
    exact ⟨th.occ, by rw [← hwait]⟩
  | some w =>
    obtain ⟨occ, hocc⟩ := State.unperform_thread hth w.why
    refine ⟨occ, ?_⟩
    unfold State.withdraw
    simp only [hth, Option.bind_some, hwait]
    rw [State.modThread_thread_same]
    have hkept : ∀ v : State, v.thread u = (s.unperform u w.why).thread u → (v.thread u).map (fun th => { th with wait := none }) = some { th with occ := occ, wait := none } :=
      fun v hv => by rw [hv, hocc]; rfl
    split
    · exact hkept _ (State.modTeam_thread _ _ _ (by intro; rfl) _)
    · exact hkept _ (State.modTeam_thread _ _ _ (by intro; rfl) _)
    · exact hkept _ rfl
    · exact hkept _ rfl

/-- R264: leaving a wait changes teams, windows and what is on its way, and may take monitors away. -/
theorem State.withdraw_eq (s : State) (u : TRef) :
    ∃ teams monitors senders agenda, s.withdraw u = { s with teams := teams, monitors := monitors, senders := senders, agenda := agenda } ∧ monitors ⊆ s.monitors := by
  unfold State.withdraw
  split
  · exact ⟨s.teams, s.monitors, s.senders, s.agenda, rfl, List.Subset.refl _⟩
  · next w _ =>
    obtain ⟨teams, hunperform⟩ := s.unperform_teams u w.why
    simp only [hunperform]
    split <;> exact ⟨_, _, _, _, rfl, fun _ hm => List.mem_of_mem_filter hm⟩

section
variable {s : State} {u : TRef} {th : Thread} (hth : s.thread u = some th) (tm : Team) (info : TrapInfo) (tepc : W32)

include hth in
/-- R264: a thread, waiting or not, enters its handler. -/
theorem State.enterHandler_tookTrap : TookTrapAs s (s.enterHandler u tm info tepc) u tm th info.code info.aux tepc := by
  obtain ⟨cores, hpool⟩ := OnlyCores.leavePool s u
  have hpooled : (s.leavePool u).thread u = some th := by rw [hpool]; exact hth
  obtain ⟨occ, hwithdrawn⟩ := State.withdraw_thread hpooled
  obtain ⟨teams, monitors, senders, agenda, hstate, -⟩ := (s.leavePool u).withdraw_eq u
  have hentry : ((s.leavePool u).withdraw u).trapEntryOf tm = entryOf s tm := by
    rw [hstate, hpool]
    unfold State.trapEntryOf entryOf
    rw [← BitVec.setWidth_eq_extractLsb' (by decide)]
    rfl
  unfold TookTrapAs State.enterHandler
  simp only [State.modThread_thread_same, hwithdrawn, Option.map_some, Option.some.injEq, exists_eq_left', hentry, and_self]

/-- R264: entering the handler adds no monitor. -/
theorem State.enterHandler_monitors : (s.enterHandler u tm info tepc).monitors ⊆ s.monitors := by
  obtain ⟨cores, hpool⟩ := OnlyCores.leavePool s u
  obtain ⟨teams, monitors, senders, agenda, hstate, hsub⟩ := (s.leavePool u).withdraw_eq u
  have hmonitors : (s.enterHandler u tm info tepc).monitors = monitors := congrArg State.monitors hstate
  rw [hmonitors]
  rw [hpool] at hsub
  exact hsub

end

section
variable {s : State} {u : TRef} {tm : Team} {th : Thread} (htm : s.team u.team = some tm) (hth : s.thread u = some th) (htrap : canTrapAs s tm th false)
  (hlog : ∀ en ∈ th.log, en.busy = false ∧ en.fault = none) (info : TrapInfo)
include htm hth htrap hlog

/-- R264, R350: with no access open and no fault due, a cause is taken. -/
theorem State.raise_takes (tepc : W32) : s.raise u info tepc = s.enterHandler u tm info tepc := by
  obtain ⟨hhandler, hwave, hentry⟩ := htrap
  have hdrain := State.drain_idle hth fun en hen => (hlog en hen).1
  have hdue : th.dueFaults = [] := List.filterMap_eq_nil_iff.2 fun en hen => by simp [(hlog en hen).2]
  have hhandled : s.unhandled tm th false = false := by
    unfold State.unhandled
    rcases hentry with h | h
    · simp [h, hhandler]
    · simpa [hhandler] using fun _ => h
  have hlowest (k : Nat) : lowestCause [(k, info)] = some info := rfl
  unfold State.raise State.trapThread
  simp only [htm, hwave, Option.isSome_none, Bool.false_eq_true, if_false, hdrain, hth, hdue, Option.map_some, Option.toList_some, List.nil_append, hlowest, hhandled, if_true]

/-- R264, R376: what a waiting thread awaits fails: it takes the trap at its instruction. -/
theorem State.faultWait_takes : TookTrapAs s (s.faultWait u info) u tm th info.code info.aux th.pc ∧ (s.faultWait u info).mem = s.mem
    ∧ (s.faultWait u info).monitors ⊆ s.monitors := by
  have hraise : s.faultWait u info = s.enterHandler u tm info th.pc := by
    unfold State.faultWait
    rw [hth]
    exact State.raise_takes htm hth htrap hlog info th.pc
  rw [hraise]
  exact ⟨State.enterHandler_tookTrap hth .., State.enterHandler_mem .., State.enterHandler_monitors ..⟩

/-- R376: the flush of a fence does not come in time. -/
theorem hostLate_traps {fab sys : List Nat} {n : W32} (hwait : th.waitsFor (.fence fab sys) n) (hsys : sys ≠ []) :
    TookTrapAs s (s.hostLate u true) u tm th 0x47 (BitVec.ofNat 64 (2 ^ 57)) th.pc ∧ (s.hostLate u true).mem = s.mem := by
  have hlate : s.hostLate u true = s.faultWait u (memFault 0x47 1 0) := by simp [State.hostLate, State.why_of_waitsFor hth hwait, hsys]
  obtain ⟨htook, hmem, -⟩ := State.faultWait_takes htm hth htrap hlog (memFault 0x47 1 0)
  rw [hlate]
  exact ⟨htook, hmem⟩

/-- R377: the marker of a fence is not answered in time. -/
theorem fabricLate_traps {fab sys : List Nat} {n : W32} (hwait : th.waitsFor (.fence fab sys) n) (hfab : fab ≠ []) :
    TookTrapAs s (s.fabricLate u true) u tm th 0x47 (BitVec.ofNat 64 (3 * 2 ^ 57)) th.pc ∧ (s.fabricLate u true).mem = s.mem := by
  have hlate : s.fabricLate u true = (s.expireMarkers u fab).faultWait u (memFault 0x47 3 0) := by simp [State.fabricLate, State.why_of_waitsFor hth hwait, hfab]
  obtain ⟨htook, hmem, -⟩ := State.faultWait_takes (s := s.expireMarkers u fab) htm hth htrap hlog (memFault 0x47 3 0)
  rw [hlate]
  exact ⟨htook, hmem⟩

end

/-! ### Monitors of words elsewhere (R84, R311) -/

/-- A thread that receives a value goes on waiting. -/
theorem State.writeDest_wait {s : State} {u : TRef} {th : Thread} (hth : s.thread u = some th) (dest : BitVec 11) (n w : Nat) :
    ∃ x, (s.writeDest u dest n w).thread u = some x ∧ x.wait = th.wait := by
  unfold State.writeDest
  split
  · rw [State.modThread_thread_same, hth]
    exact ⟨_, rfl, rfl⟩
  · rw [State.modTeam_thread _ _ _ (by intro; rfl), State.modThread_thread_same, hth]
    exact ⟨_, rfl, rfl⟩
  · exact ⟨th, hth, rfl⟩

theorem State.writeDest_monitors (s : State) (u : TRef) (dest : BitVec 11) (n w : Nat) : (s.writeDest u dest n w).monitors = s.monitors := by
  unfold State.writeDest
  split <;> rfl

theorem OnlyCores.monitors {s t : State} (h : OnlyCores s t) : t.monitors = s.monitors := by
  obtain ⟨_, rfl⟩ := h
  rfl

theorem State.wakeTeam_monitors (s : State) (i : Nat) : (s.wakeTeam i).monitors = s.monitors := by
  unfold State.wakeTeam
  split
  · rfl
  · split <;> rfl

theorem State.resume_monitors (s : State) (u : TRef) : (s.resume u).monitors = s.monitors := by
  unfold State.resume
  split
  · exact (State.wakeTeam_monitors ..).trans (OnlyCores.enterPool _ u).monitors
  · rfl

/-- The end of a wait, whatever the thread waits for. -/
theorem State.resume_ends {s : State} {u : TRef} {th : Thread} {n : W32} (hth : s.thread u = some th) (hnext : th.wait.map (·.next) = some n) : GoesOnAt (s.resume u) u n := by
  obtain ⟨w, hw, rfl⟩ := Option.map_eq_some_iff.1 hnext
  exact State.resume_goesOn hth (w := w.why) (by simp [Thread.waitsFor, hw])

theorem State.monitorOf_thread {s : State} {u : TRef} {m : Monitor} (h : s.monitorOf u = some m) : m.t = u := by
  simpa using List.find?_some h

theorem State.monitorOf_ne {s : State} {u : TRef} {m : Monitor} (h : m ∉ s.monitors) : s.monitorOf u ≠ some m := fun hm => h (List.mem_of_find?_eq_some hm)

section
variable {s : State} {u : TRef} {th : Thread} {m : Monitor} {n : W32} (hth : s.thread u = some th) (hmonitor : s.monitorOf u = some m) (hnext : th.wait.map (·.next) = some n)
include hth hnext

/-- R84: a monitor that is released lets its thread go on, and is no more. -/
theorem State.release_ends (hm : m.t = u) (ts : Nat) : GoesOnAt (s.release m ts) u n ∧ m ∉ (s.release m ts).monitors := by
  subst hm
  unfold State.release
  obtain ⟨x, hx, hxw⟩ := State.writeDest_wait (s := { s with monitors := s.monitors.filter (· ≠ m) }) hth m.dest (8 * m.n)
    (State.peek { s with monitors := s.monitors.filter (· ≠ m) } m.loc m.n)
  refine ⟨State.resume_ends (th := { x with pts := max x.pts ts }) ?_ (by rw [← hnext, ← hxw]), ?_⟩
  · rw [State.raisePts, State.modThread_thread_same, hx, Option.map_some]
  · rw [State.resume_monitors, State.raisePts, State.modThread_monitors, State.writeDest_monitors]
    simp

include hmonitor

/-- R84, R311: the wake of a monitor of a word in the fabric window. -/
theorem fabricWake_goesOn {word : W64} (hfabric : s.isFabric m.loc = true) (hcond : condHolds m.fn.toNat m.signed (8 * m.n) word.toNat m.value.toNat = true) :
    GoesOnAt (s.fabricWake u word) u n ∧ (s.fabricWake u word).mem = s.mem := by
  unfold State.fabricWake
  simp only [hmonitor, hfabric, hcond, Bool.not_true, Bool.or_self, Bool.false_eq_true, if_false]
  obtain ⟨x, hx, hxw⟩ := State.writeDest_wait (s := { s with monitors := s.monitors.filter (· ≠ m) }) hth m.dest (8 * m.n) word.toNat
  exact ⟨State.resume_ends hx (by rw [← hnext, ← hxw]), by simp⟩

/-- R311, R365: the home reads the word again: its read is refused, or comes back marked, or ends the wait where it makes the condition true. -/
theorem pollWord_settles {tm : Team} {word : W64} (htm : s.team u.team = some tm) (hposted : s.isPosted m.loc = true) (hlink : s.linkGone m.loc = false)
    (htrap : canTrapAs s tm th false) (hlog : ∀ en ∈ th.log, en.busy = false ∧ en.fault = none) (hmet : (s.poke m.loc m.n word.toNat).satisfied m = true) :
    (s.pollWord u word).monitorOf u ≠ some m
      ∧ if Config.loadRefused s.free then TookTrapAs s (s.pollWord u word) u tm th 0x44 (BitVec.ofNat 64 (2 * 2 ^ 57 + m.va % 2 ^ 57)) th.pc
        else if Config.answerMarked s.free then TookTrapAs s (s.pollWord u word) u tm th 0x46 (poisonFault m.loc m.va).aux th.pc
        else GoesOnAt (s.pollWord u word) u n := by
  have hu := State.monitorOf_thread hmonitor
  obtain ⟨pa, hloc⟩ : ∃ pa, m.loc = .phys pa 3 := by
    unfold State.isPosted at hposted
    split at hposted
    · next pa type heq => exact ⟨pa, by rw [heq]; simp_all⟩
    · cases hposted
  have fails (info : TrapInfo) : TookTrapAs s (s.tick.monitorFails m info) u tm th info.code info.aux th.pc ∧ (s.tick.monitorFails m info).monitorOf u ≠ some m := by
    obtain ⟨htook, -, hmonitors⟩ := State.faultWait_takes (s := { s.tick with monitors := s.monitors.filter (· ≠ m) }) htm hth htrap hlog info
    unfold State.monitorFails
    rw [hu]
    exact ⟨htook, State.monitorOf_ne fun hm => by simpa using hmonitors hm⟩
  unfold State.pollWord
  simp only [hmonitor, hposted, hlink, Bool.not_true, Bool.false_eq_true, if_false]
  split
  · obtain ⟨htook, hgone⟩ := fails (memFault 0x44 2 m.va)
    exact ⟨hgone, htook⟩
  · split
    · obtain ⟨htook, hgone⟩ := fails (poisonFault m.loc m.va)
      rw [hloc] at htook hgone ⊢
      exact ⟨hgone, htook⟩
    · have hsatisfied : (s.tick.poke m.loc m.n word.toNat).satisfied m = true := by
        rw [← hmet, hloc]
        unfold State.satisfied
        rw [hloc]
        rfl
      rw [if_pos hsatisfied]
      obtain ⟨hgoes, hgone⟩ := State.release_ends (s := s.tick.poke m.loc m.n word.toNat) (by rw [hloc]; exact hth) hnext hu 0
      exact ⟨State.monitorOf_ne hgone, hgoes⟩

end

end Sys2Proof.Machine
end

section
/-!
SUPPORT. Snoops, markers that arrive and links that are lost (O50): R307, R310, R315, R418.
-/
namespace Sys2Proof.Machine

/-! ### Snoops (R310) -/

section
variable {s : State} {pa : Nat} {line : List Byte} (hregion : s.region pa = .host) (hport : s.present (hostPort pa) = true)
include hregion hport

/-- R310: a snoop that leaves the line at its home is answered with it. -/
theorem snoop_answers : (s.snoop pa false line).hostLine = s.mem.bytes (pa / 128 * 128) 128 ∧ (s.snoop pa false line).mem = s.mem := by
  unfold State.snoop
  simp [hregion, hport]

/-- R310: a snoop that takes the line away is answered with what stood there, and the host's bytes stand there then. -/
theorem snoop_takes (hlen : line.length = 128) :
    (s.snoop pa true line).hostLine = s.mem.bytes (pa / 128 * 128) 128 ∧ (s.snoop pa true line).mem = s.mem.writeBytes (pa / 128 * 128) line := by
  have hwhole : line.take 128 = line := List.take_of_length_le (by omega)
  unfold State.snoop
  simp only [hregion, hport, ne_eq, not_true_eq_false, decide_false, Bool.not_true, Bool.or_self, Bool.false_eq_true, if_false, hwhole]
  split <;> exact ⟨rfl, rfl⟩

end

/-! ### Markers that arrive (R315) -/

/-- R315: a marker that arrives is answered once no store that it follows has still to be performed. -/
theorem markerArrives_settles {s : State} (m count : Nat) (hpresent : s.present 3 = true) :
    (s.markerArrives m count).mem = s.mem
      ∧ (s.storesDue m = false → m ∈ (s.markerArrives m count).fabAnswered) ∧ (s.storesDue m = true → (m, BitVec.ofNat 32 count) ∈ (s.markerArrives m count).fabIn) := by
  unfold State.markerArrives
  rw [if_pos hpresent]
  refine ⟨rfl, fun hnone => List.mem_append_right _ (List.mem_map.2 ⟨(m, BitVec.ofNat 32 count), List.mem_filter.2 ⟨?_, ?_⟩, rfl⟩), fun hdue => List.mem_filter.2 ⟨?_, hdue⟩⟩
  · exact List.mem_append_right _ List.mem_cons_self
  · exact (congrArg not hnone).trans rfl
  · exact List.mem_append_right _ List.mem_cons_self

theorem State.storesDue_of_none {s : State} {m : Nat} (hstore : ∀ pa bytes, Instr.fabricStoreArrival m pa bytes ∉ s.agenda)
    (hchunk : ∀ b j bytes, Instr.relayChunkArrival m b j bytes ∉ s.agenda) : s.storesDue m = false := by
  refine List.any_eq_false.2 fun i hi => ?_
  split
  · simpa using fun heq => hstore _ _ (heq ▸ hi)
  · simpa using fun heq => hchunk _ _ _ (heq ▸ hi)
  · simp

theorem State.storesDue_of_store {s : State} {m pa : Nat} {bytes : List Byte} (h : Instr.fabricStoreArrival m pa bytes ∈ s.agenda) : s.storesDue m = true :=
  List.any_eq_true.2 ⟨_, h, by simp⟩

/-! ### Links (R418) -/

theorem Recorded.clk_lost {s t : State} (h : Recorded s t) : t.clk = s.clk ∧ t.lost = s.lost := by
  obtain ⟨_, _, _, _, _, _, _, _, _, _, _, _, _, ⟨_, _, _, _, _, _, _, _, rfl, -⟩, -⟩ := h
  exact ⟨rfl, rfl⟩

/-- R292: the bytes of a record depend on memory and on the time alone. -/
theorem State.writeRecord_mem_congr {s t : State} (hmem : t.mem = s.mem) (hclk : t.clk = s.clk) (ring : Nat) (e : Event) :
    (t.writeRecord ring e).mem = (s.writeRecord ring e).mem := by
  have hdesc : t.ringDesc ring = s.ringDesc ring := by simp only [State.ringDesc, hmem]
  have hns (v w : State) (h : Recorded v w) : w.ns = v.ns := congrArg (· * 5 / 12) h.clk_lost.1
  have hraise (v : State) : (v.raiseVector ring).mem = v.mem := by
    obtain ⟨_, _, _, _, _, hv, -⟩ := raiseVector_spec v ring
    rw [hv]
  have htime : t.ns = s.ns := congrArg (· * 5 / 12) hclk
  unfold State.writeRecord
  simp only [hraise, fwStore_mem, hns _ _ (Recorded.fwStore ..), hdesc, hmem, htime]

/-- R418: a link that is lost is so from now on, and the operator is told. -/
theorem linkLoss_reported {s : State} {f port : Nat} {q : Queue} {c : Context} (hfeature : s.feature f = true) (hport : port < linkPorts f) (hnew : (f, port) ∉ s.lost)
    (hqueue : (s.queues.find? fun q => q.registered && q.ctl) = some q) (hcontext : s.context q.asid = some c) (hheld : c.held = []) (hroom : s.ringFull q.evring = false) :
    (f, port) ∈ (s.loseLink f port).lost ∧ (s.loseLink f port).mem = (s.writeRecord q.evring (firmwareEvent 19 q.asid (BitVec.ofNat 64 (f % 128)))).mem := by
  have hlost : s.loseLink f port = State.toOperator { s with lost := s.lost ++ [(f, port)] } 19 (f % 128) := by simp [State.loseLink, hfeature, hport, hnew]
  have hwritten : State.toOperator { s with lost := s.lost ++ [(f, port)] } 19 (f % 128)
      = State.writeRecord { s with lost := s.lost ++ [(f, port)] } q.evring (firmwareEvent 19 q.asid (BitVec.ofNat 64 (f % 128))) := by
    have hroom' : State.ringFull { s with lost := s.lost ++ [(f, port)] } q.evring = false := hroom
    have hcontext' : State.context { s with lost := s.lost ++ [(f, port)] } q.asid = some c := hcontext
    simp [State.toOperator, hqueue, State.recordTo, hcontext', hroom', hheld]
  have hstays := (Recorded.writeRecord { s with lost := s.lost ++ [(f, port)] } q.evring (firmwareEvent 19 q.asid (BitVec.ofNat 64 (f % 128)))).clk_lost.2
  rw [hlost, hwritten]
  exact ⟨by rw [hstays]; exact List.mem_append_right _ List.mem_cons_self, State.writeRecord_mem_congr (s := s) (t := { s with lost := s.lost ++ [(f, port)] }) rfl rfl _ _⟩

end Sys2Proof.Machine
end

section
/-!
SUPPORT. Accesses of service cores (O50): an access that no request of its own holds up is performed at once (R111, R119, R289, R290, R312).
-/
namespace Sys2Proof.Machine
open Sys2Proof.Claims

/-! ### What an access asks of others (R119, R289) -/

/-- The events have no fill of a line but that of the place. -/
def fillsOnly (pa : Nat) : Instr → Prop
  | .l2MissFill p _ _ _ _ _ _ => p = pa
  | _ => True

theorem fillsOnly_of_fillsNone (pa : Nat) {i : Instr} (h : fillsNone i) : fillsOnly pa i := by
  cases i with
  | l2MissFill _ _ _ _ _ _ _ => exact h.elim
  | _ => exact trivial

/-- R289: up to `n` requests of a port have been made of each receiver, and no line is missed but that of the place. -/
structure AsksHome (pa port n : Nat) (s t : State) : Prop where
  standing : ∀ k, t.standing k port ≤ s.standing k port + n
  agenda : ∃ l, t.agenda = s.agenda ++ l ∧ ∀ x ∈ l, fillsOnly pa x

namespace AsksHome

variable {pa port : Nat}

theorem trans {n m : Nat} {s t u : State} (h : AsksHome pa port n s t) (k : AsksHome pa port m t u) : AsksHome pa port (n + m) s u := by
  obtain ⟨l, hl, honly⟩ := h.agenda
  obtain ⟨l', hl', konly⟩ := k.agenda
  refine ⟨fun j => ?_, l ++ l', by rw [hl', hl, List.append_assoc], fun x hx => (List.mem_append.1 hx).elim (honly x) (konly x)⟩
  have := h.standing j
  have := k.standing j
  omega

/-- What changes no slice and no count of walks asks for nothing. -/
theorem quiet {s t : State} (hslices : t.slices = s.slices) (hwalks : t.walks = s.walks) {l : List Instr} (hl : t.agenda = s.agenda ++ l) (honly : ∀ x ∈ l, fillsOnly pa x) :
    AsksHome pa port 0 s t :=
  ⟨fun k => by unfold State.standing State.slice; rw [hslices, hwalks]; omega, l, hl, honly⟩

theorem still {s t : State} (hslices : t.slices = s.slices) (hwalks : t.walks = s.walks) (hagenda : t.agenda = s.agenda) : AsksHome pa port 0 s t :=
  quiet hslices hwalks (l := []) (by rw [hagenda, List.append_nil]) (by simp)

theorem of_stands {i : Nat} {s t : State} (h : SlotStands i s t) : AsksHome pa port 0 s t := by
  obtain ⟨l, hl, hnone⟩ := h.agenda
  exact quiet h.slices h.walks hl fun x hx => fillsOnly_of_fillsNone pa (hnone x hx)

theorem modSlice (s : State) (i n : Nat) (f : Slice → Slice) (hf : ∀ x, SMap.get 0 (f x).queued port ≤ SMap.get 0 x.queued port + n) : AsksHome pa port n s (s.modSlice i f) := by
  refine ⟨fun k => ?_, [], by simp, by simp⟩
  unfold State.standing
  rw [slice_modSlice]
  split
  · split
    · next hk => rw [hk]; exact hf _
    · omega
  · exact Nat.le_add_right ..

theorem queueRequest (s : State) (i : Nat) (q : Req) : AsksHome pa port 1 s (s.queueRequest i q) := by
  unfold State.queueRequest
  split
  · next p _ =>
    refine modSlice s i 1 _ fun x => ?_
    by_cases hp : port = p
    · subst hp
      rw [SMap.get_modify_same]
    · rw [SMap.get_modify_other _ _ _ hp]
      omega
  · exact (still rfl rfl rfl : AsksHome pa port 0 s s).trans (m := 1) ⟨fun _ => Nat.le_add_right .., [], by simp, by simp⟩

theorem useLine (s : State) (p : Nat) (store : Bool) (hint : BitVec 2) (asid va : Nat) : AsksHome pa port 0 s (s.useLine p store hint asid va) := by
  refine modSlice s _ 0 _ fun x => ?_
  unfold Slice.use
  split <;> exact Nat.le_refl _

theorem later (s : State) {l : List Instr} (h : ∀ x ∈ l, fillsOnly pa x) : AsksHome pa port 0 s (s.later l) := quiet rfl rfl rfl h

/-- R76, R289: an access that reaches the home of its line makes one request, and may miss that line. -/
theorem reachL2 (s : State) (store : Bool) (ts : Nat) (q : Req) : AsksHome pa port 1 s (s.reachL2 (.phys pa 0) store ts q) := by
  unfold State.reachL2
  simp only []
  split
  · exact (queueRequest s _ q).trans (useLine ..)
  · refine (queueRequest s _ q).trans (later _ fun x hx => ?_)
    rw [List.mem_singleton.1 hx]
    rfl

theorem modCore (s : State) (c : Nat) (f : Core → Core) : AsksHome pa port 0 s (s.modCore c f) := still rfl rfl rfl

theorem fillL1 (s : State) (c p : Nat) (x : Nat × Nat) : AsksHome pa port 0 s (s.fillL1 c p x) := by
  unfold State.fillL1 State.keepCopy
  simp only []
  split <;> exact still rfl rfl rfl

theorem backInvalidate (s : State) (p : Nat) : AsksHome pa port 0 s (s.backInvalidate p) := by
  unfold State.backInvalidate
  split <;> exact still rfl rfl rfl

/-- R75, R116: a load at the home of a line. -/
theorem loadHome (s : State) (core : Option Nat) (pts n : Nat) (q : Req) : AsksHome pa port 1 s (s.loadHome core pts pa n q).1 := by
  have hstamped (x : Nat × Nat) : AsksHome pa port 0 s ((s.noteUse (srcSlice (s.homeOf pa)) (q.bay s) 1).setLine pa x) := still rfl rfl rfl
  have hreached (ts : Nat) (x : Nat × Nat) := (hstamped x).trans (reachL2 _ false ts q)
  unfold State.loadHome
  simp only []
  split
  · split
    · exact hreached ..
    · exact (hreached ..).trans (fillL1 ..)
  · exact hreached ..

/-- R75, R116: a store reaches its home. -/
theorem storeStamp (s : State) (core : Option Nat) (pts : Nat) (q : Req) : AsksHome pa port 1 s (s.storeStamp core pts (.phys pa 0) q).1 := by
  have hstamped (x : Nat × Nat) : AsksHome pa port 0 (s.backInvalidate pa) ((s.backInvalidate pa).setLine pa x) := still rfl rfl rfl
  have hreached (ts : Nat) (x : Nat × Nat) := ((backInvalidate s pa).trans (hstamped x)).trans (reachL2 _ true ts q)
  unfold State.storeStamp
  simp only []
  split
  · exact (hreached ..).trans (modCore ..)
  · exact hreached ..

end AsksHome

/-! ### Monitors that a store releases (R84, R86) -/

namespace SlotStands

theorem beside (i : Nat) {s t : State} (hslices : t.slices = s.slices) (hwalks : t.walks = s.walks) (hsenders : t.senders = s.senders) (hmem : t.mem = s.mem)
    (hagenda : t.agenda = s.agenda) (hteams : t.teams = s.teams) : SlotStands i s t :=
  ⟨hslices, hwalks, hsenders, hmem, ⟨[], by rw [hagenda, List.append_nil], by simp⟩, fun tm htm => ⟨tm, by rw [State.team, hteams]; exact htm, rfl⟩⟩

theorem writeDest (i : Nat) (s : State) (r : TRef) (dest : BitVec 11) (n w : Nat) : SlotStands i s (s.writeDest r dest n w) := by
  unfold State.writeDest
  split
  · exact modThread ..
  · exact (modThread i s r _).trans (modTeam i _ r.team fun _ => rfl)
  · exact refl i s

theorem resume (i : Nat) (s : State) (r : TRef) : SlotStands i s (s.resume r) := by
  unfold State.resume
  split
  · exact resumeAt ..
  · exact refl i s

theorem release (i : Nat) (s : State) (m : Monitor) (ts : Nat) : SlotStands i s (s.release m ts) := by
  unfold State.release
  have hgone : SlotStands i s { s with monitors := s.monitors.filter (· ≠ m) } := beside i rfl rfl rfl rfl rfl rfl
  exact hgone.trans ((writeDest ..).trans ((modThread ..).trans (resume ..)))

theorem noteEvaluation (i : Nat) (s : State) (m : Monitor) : SlotStands i s (s.noteEvaluation m) := by
  unfold State.noteEvaluation
  split
  · exact beside i rfl rfl rfl rfl rfl rfl
  · exact refl i s

theorem foldl {α : Type} (i : Nat) {f : State → α → State} (hf : ∀ s a, SlotStands i s (f s a)) (l : List α) (s : State) : SlotStands i s (l.foldl f s) :=
  List.foldlRecOn (motive := SlotStands i s) _ _ (refl i s) fun _ ht a _ => ht.trans (hf _ a)

/-- R86: the monitors of a word that has been written. -/
theorem evaluate (i : Nat) (s : State) (l : Loc) (n ts : Nat) : SlotStands i s (s.evaluate l n ts) := by
  unfold State.evaluate
  simp only []
  generalize (s.monitors.filter fun m => !m.loc.elsewhere && m.loc.meets m.n l n) = met
  refine ((foldl i (noteEvaluation i) met s).trans
    (foldl i (f := fun s m => s.release m ts) (fun s m => release i s m ts) (met.filter (met.foldl State.noteEvaluation s).satisfied) _)).trans ?_
  split
  · exact beside i rfl rfl rfl rfl rfl rfl
  · exact refl i _

end SlotStands

/-! ### What a service core's access does (R312) -/

theorem State.modHart_hart (s : State) (h : Nat) (f : Hart → Hart) : (s.modHart h f).hart h = f (s.hart h) := SMap.get_modify_same ..

/-- R111, R312: a store of a service core is performed at the home. -/
theorem State.hartStore_performs (s : State) (h pa n w : Nat) : (s.hartStore h pa n w).mem = s.mem.write pa n w ∧ (s.hart h).pts ≤ ((s.hartStore h pa n w).hart h).pts
    ∧ AsksHome pa (servicePort h) 1 s (s.hartStore h pa n w) := by
  unfold State.hartStore
  simp only []
  have hpts : (s.hart h).pts ≤ (s.store (some (hartCache h)) (s.hart h).pts (.phys pa 0) n w (hartReq h)).2 := Nat.le_max_left ..
  have hmem : (s.store (some (hartCache h)) (s.hart h).pts (.phys pa 0) n w (hartReq h)).1.mem = s.mem.write pa n w := by simp [State.store, State.poke]
  have hasks : AsksHome pa (servicePort h) 1 s (s.store (some (hartCache h)) (s.hart h).pts (.phys pa 0) n w (hartReq h)).1 := by
    have hstamped : AsksHome pa (servicePort h) 1 s (s.storeStamp (some (hartCache h)) (s.hart h).pts (.phys pa 0) (hartReq h)).1 := .storeStamp ..
    unfold State.store
    generalize s.storeStamp (some (hartCache h)) (s.hart h).pts (.phys pa 0) (hartReq h) = r at *
    have hpoked : AsksHome pa (servicePort h) 0 r.1 (r.1.poke (.phys pa 0) n w) := .still rfl rfl rfl
    exact hstamped.trans (hpoked.trans (.of_stands (SlotStands.evaluate 0 (r.1.poke (.phys pa 0) n w) (.phys pa 0) n r.2)))
  generalize s.store (some (hartCache h)) (s.hart h).pts (.phys pa 0) n w (hartReq h) = r at *
  refine ⟨hmem, ?_, hasks.trans (m := 0) ?_⟩
  · change _ ≤ (((r.1.dropL1 sharedCache pa).setHart h r.2).hart h).pts
    rw [State.setHart, State.modHart_hart]
    exact hpts
  · refine AsksHome.quiet rfl rfl rfl fun x hx => ?_
    obtain hx | hx := List.mem_append.1 hx
    · obtain ⟨k, -, rfl⟩ := List.mem_map.1 hx
      exact trivial
    · obtain ⟨k, -, rfl⟩ := List.mem_map.1 hx
      exact trivial

/-- R312: a load of a service core whose caches keep no copy of the line returns what stands in memory. -/
theorem State.hartLoad_performs {s : State} {h pa : Nat} (n : Nat) (hown : s.l1Copy (hartCache h) pa = none) (hshared : s.l1Copy sharedCache pa = none) :
    (s.hartLoad h pa n).2 = s.mem.read pa n ∧ (s.hart h).pts ≤ ((s.hartLoad h pa n).1.hart h).pts ∧ AsksHome pa (servicePort h) 1 s (s.hartLoad h pa n).1 := by
  have hlapse : s.leaseLapse (hartCache h) (s.hart h).pts pa = true := by simp [State.leaseLapse, hown]
  have hlapse' : s.leaseLapse sharedCache (s.hart h).pts pa = true := by simp [State.leaseLapse, hshared]
  have hload : s.load (some (hartCache h)) (s.hart h).pts (.phys pa 0) n (hartReq h) = s.loadHome (some (hartCache h)) (s.hart h).pts pa n (hartReq h) := by
    simp [State.load, hlapse]
  have hvalue : (s.loadHome (some (hartCache h)) (s.hart h).pts pa n (hartReq h)).2.1 = s.mem.read pa n :=
    calc (s.loadHome (some (hartCache h)) (s.hart h).pts pa n (hartReq h)).2.1
        = (s.loadHome (some (hartCache h)) (s.hart h).pts pa n (hartReq h)).1.mem.read pa n := rfl
      _ = s.mem.read pa n := by rw [State.loadHome_mem]
  have hpts : (s.hart h).pts ≤ (s.loadHome (some (hartCache h)) (s.hart h).pts pa n (hartReq h)).2.2 := Nat.le_max_left ..
  have hasks : AsksHome pa (servicePort h) 1 s (s.loadHome (some (hartCache h)) (s.hart h).pts pa n (hartReq h)).1 := AsksHome.loadHome ..
  unfold State.hartLoad
  simp only [hlapse, hlapse', hload, Bool.not_true, Bool.false_eq_true, if_false]
  generalize s.loadHome (some (hartCache h)) (s.hart h).pts pa n (hartReq h) = r at *
  have hkept : AsksHome pa (servicePort h) 0 r.1 ((r.1.fillL1 sharedCache pa (r.1.line pa)).setHart h r.2.2) := (AsksHome.fillL1 r.1 sharedCache pa _).trans (m := 0) (.still rfl rfl rfl)
  refine ⟨hvalue, ?_, hasks.trans hkept⟩
  rw [State.setHart, State.modHart_hart]
  exact hpts

/-! ### When it is performed (R119, R289, R290) -/

section
variable (s : State) (h pa n : Nat) (store : Option W64)

/-- R312: a service core has asked for an access. -/
def State.hartAsks : State := s.modHart h fun x => { x with asked := x.asked ++ [(pa, n, store)] }

/-- R312, R322: the state in which the access is performed. -/
def State.hartStart : State := ((s.hartAsks h pa n store).modHart h fun x => { x with granted := none }).noteUse (srcService h) (s.servedBay pa) 1

theorem State.hartStart_region : (s.hartStart h pa n store).region pa = s.region pa := rfl

theorem State.hartStart_pts : ((s.hartStart h pa n store).hart h).pts = (s.hart h).pts := by
  change (((s.hartAsks h pa n store).modHart h fun x => { x with granted := none }).hart h).pts = _
  rw [State.modHart_hart, State.hartAsks, State.modHart_hart]

end

section
variable {s : State} {h pa n : Nat} (hregion : s.region pa = .hbm) (hfree : s.present 7 = false ∨ s.programs = [])
  (hroom : ∀ j, s.standing j (servicePort h) < 64 ∧ s.windowFor (servicePort h) (.request j (servicePort h) (.service h)) = [])
include hregion hfree hroom

/-- R119, R289: an access that no receiver refuses, and whose misses no handler takes, waits for nothing. -/
theorem State.postpone_none_of_asksHome {u : State} (hasks : AsksHome pa (servicePort h) 1 s u) : s.postpone u (.service h) (.hart h) (servicePort h) none = none := by
  have hrefused : s.refusedRequest u (.service h) (servicePort h) none = none := by
    have hnone : (s.requested u (servicePort h)).find? (s.refusedAt u (.service h) (servicePort h) none) = none := List.find?_eq_none.2 fun k _ => by
      obtain ⟨hstanding, hwindow⟩ := hroom k
      have hmore := hasks.standing k
      have hdepth : 64 ≤ depthOf k := by unfold depthOf; split <;> omega
      simp only [State.refusedAt, hwindow, ne_eq, not_true_eq_false, decide_false, Bool.false_and, Bool.or_false, decide_eq_true_eq]
      omega
    unfold State.refusedRequest
    rw [hnone]
    rfl
  have hmisses : s.freshMisses u (.hart h) = [] := by
    obtain ⟨l, hl, honly⟩ := hasks.agenda
    have hhandled : (s.present 7 && decide (s.programs ≠ [])) = false := by rcases hfree with h7 | hp <;> simp [*]
    unfold State.freshMisses
    simp only [hl, List.drop_left, hhandled]
    refine List.filter_eq_nil_iff.2 fun x hx => ?_
    have hx := honly x hx
    split
    · have hplace : _ = pa := hx
      simp [hplace, hregion]
    · simp
  unfold State.postpone
  simp only [hrefused, hmisses]
  rfl

variable (hlow : h < 32) (hasked : (s.hart h).asked = []) (hgranted : (s.hart h).granted = none) (hentry : s.awaitsEntry (.service h) = false) (hheld : s.hodHolds (.hart h) = false)
include hlow hasked hgranted hentry hheld

/-- R312: the access of a service core with none before it is performed at once. -/
theorem State.serviceAccess_performs {store : Option W64}
    (hasks : AsksHome pa (servicePort h) 1 (s.hartStart h pa n store) ((s.hartStart h pa n store).serviceDone h pa n store)) :
    s.serviceAccess h pa n store = ((s.hartStart h pa n store).serviceDone h pa n store).modHart h fun x => { x with asked := [] } := by
  have haccess : s.serviceAccess h pa n store = (s.hartAsks h pa n store).serveHart h := by simp [State.serviceAccess, State.hartAsks, hlow, hasked]
  have hhart : (s.hartAsks h pa n store).hart h = { s.hart h with asked := [(pa, n, store)] } := by
    rw [State.hartAsks, State.modHart_hart, hasked]
    rfl
  have hgoes : ¬((s.hartAsks h pa n store).awaitsEntry (.service h) || (s.hartAsks h pa n store).hodHolds (.hart h)) = true := by
    change ¬(s.awaitsEntry (.service h) || s.hodHolds (.hart h)) = true
    simp [hentry, hheld]
  have hnoted : AsksHome pa (servicePort h) 0 ((s.hartAsks h pa n store).modHart h fun x => { x with granted := none }) (s.hartStart h pa n store) := .still rfl rfl rfl
  have hnone := State.postpone_none_of_asksHome (s := (s.hartAsks h pa n store).modHart h fun x => { x with granted := none }) hregion hfree hroom (hnoted.trans hasks)
  rw [haccess]
  unfold State.serveHart
  simp only [hhart, hgranted, Option.isNone_none, Bool.true_and]
  rw [if_neg hgoes]
  change (match State.postpone ((s.hartAsks h pa n store).modHart h fun x => { x with granted := none }) ((s.hartStart h pa n store).serviceDone h pa n store) (.service h) (.hart h)
    (servicePort h) none with | some y => y.1 | none => _) = _
  rw [hnone]
  rfl

/-- R111, R312: a store of a service core. -/
theorem serviceStore_bytes (v : W64) :
    BytesAt s (s.serviceAccess h pa n (some v)) pa (natBytes n v.toNat) ∧ (s.hart h).pts ≤ ((s.serviceAccess h pa n (some v)).hart h).pts := by
  have hdone : (s.hartStart h pa n (some v)).serviceDone h pa n (some v) = (s.hartStart h pa n (some v)).hartStore h pa n v.toNat := by
    unfold State.serviceDone
    rw [s.hartStart_region, hregion]
  obtain ⟨hmem, hpts, hasks⟩ := (s.hartStart h pa n (some v)).hartStore_performs h pa n v.toNat
  rw [State.serviceAccess_performs hregion hfree hroom hlow hasked hgranted hentry hheld (by rw [hdone]; exact hasks), hdone]
  refine ⟨bytesAt_of_writeBytes (hmem.trans (Memory.write_eq_writeBytes ..)), ?_⟩
  rw [State.modHart_hart]
  rw [State.hartStart_pts] at hpts
  exact hpts

/-- R312: a load of a service core whose caches keep no copy of the line. -/
theorem serviceLoad_answers (hown : s.l1Copy (hartCache h) pa = none) (hshared : s.l1Copy sharedCache pa = none) :
    (s.serviceAccess h pa n none).hostAnswer = BitVec.ofNat 64 (s.mem.read pa n) ∧ (s.hart h).pts ≤ ((s.serviceAccess h pa n none).hart h).pts
      ∧ (s.serviceAccess h pa n none).mem = s.mem := by
  have hdone : (s.hartStart h pa n none).serviceDone h pa n none = { ((s.hartStart h pa n none).hartLoad h pa n).1 with
      hostAnswer := BitVec.ofNat 64 ((s.hartStart h pa n none).hartLoad h pa n).2, answerMarked := (s.hartStart h pa n none).hartMarked h pa n } := by
    unfold State.serviceDone
    rw [s.hartStart_region, hregion]
  obtain ⟨hvalue, hpts, hasks⟩ := State.hartLoad_performs (s := s.hartStart h pa n none) n hown hshared
  have hanswered : AsksHome pa (servicePort h) 1 (s.hartStart h pa n none) ((s.hartStart h pa n none).serviceDone h pa n none) := by
    rw [hdone]
    exact hasks.trans (m := 0) (.still rfl rfl rfl)
  rw [State.serviceAccess_performs hregion hfree hroom hlow hasked hgranted hentry hheld hanswered, hdone]
  refine ⟨congrArg (BitVec.ofNat 64) hvalue, ?_, State.hartLoad_mem ..⟩
  rw [State.modHart_hart]
  rw [State.hartStart_pts] at hpts
  exact hpts

end

end Sys2Proof.Machine
end

section
/-!
O50: the accesses and answers that come from outside.
-/
namespace Sys2Proof.Machine

/-- Settles O50: each event leads to the state that the lemma of its part describes. -/
theorem outsideEvents : Obligations.OutsideEvents := by
  unfold Obligations.OutsideEvents
  intro s u tm th htm hth
  refine ⟨fun pa bytes htop => ⟨⟨_, rfl, hostWrite_bytes htop⟩, fun m hm => ⟨_, rfl, fabricStore_bytes htop hm⟩⟩, ?hostMemory,
    fun pa n hregion => ⟨_, rfl, hostLoad_answers n hregion⟩,
    ?serviceCore, ?snoop, ?poll, ?wake, ?late, ?request, ?marker, ?noMarker, ?link⟩
  case hostMemory =>
    intro pa bytes hregion hline hbytes
    have hmem := hostWrite_own hregion hline hbytes
    exact ⟨fun hheld => ⟨_, rfl, bytesAt_of_writeBytes (by rw [hmem, hheld]; rfl)⟩, fun hheld => ⟨_, rfl, by rw [hmem, hheld]; rfl⟩⟩
  case serviceCore =>
    intro h pa n v hlow hregion _ hasked hgranted hentry hheld hfree hroom
    exact ⟨fun hown hshared => ⟨_, rfl, serviceLoad_answers hregion hfree hroom hlow hasked hgranted hentry hheld hown hshared⟩,
      _, rfl, serviceStore_bytes hregion hfree hroom hlow hasked hgranted hentry hheld v⟩
  case snoop =>
    intro pa line hregion hport hlen
    obtain ⟨hanswer, hmem⟩ := snoop_takes hregion hport hlen
    exact ⟨⟨_, rfl, hanswer, bytesAt_of_writeBytes hmem⟩, _, rfl, snoop_answers hregion hport⟩
  case poll =>
    intro m n word hmonitor hnext hposted hlink htrap hlog hmet
    exact ⟨_, rfl, pollWord_settles hth hmonitor hnext htm hposted hlink htrap hlog hmet⟩
  case wake =>
    intro m n word hmonitor hnext hfabric hcond
    exact ⟨_, rfl, fabricWake_goesOn hth hmonitor hnext hfabric hcond⟩
  case late =>
    intro fab sys n hwait htrap hlog
    exact ⟨fun hsys => ⟨_, rfl, hostLate_traps htm hth htrap hlog hwait hsys⟩, fun hfab => ⟨_, rfl, fabricLate_traps htm hth htrap hlog hwait hfab⟩⟩
  case request =>
    intro pa n fn ty rnd b c hpresent hregion hclean
    exact ⟨⟨_, rfl, fabricLoad_answers n hpresent hregion⟩, _, rfl, fabricAtom_performed n hpresent hregion fn ty rnd b c hclean⟩
  case marker =>
    intro m count hpresent
    obtain ⟨hmem, hanswered, hwaits⟩ := markerArrives_settles m count hpresent
    exact ⟨_, rfl, hmem, fun hstore hchunk => hanswered (State.storesDue_of_none hstore hchunk), fun _ _ hstore => hwaits (State.storesDue_of_store hstore)⟩
  case noMarker =>
    intro m count habsent
    exact congrArg Host.Outcome.next (if_neg (by simp [habsent]))
  case link =>
    intro f port q c hfeature hport hnew hqueue hcontext hheld hroom
    exact ⟨_, rfl, linkLoss_reported hfeature hport hnew hqueue hcontext hheld hroom⟩

end Sys2Proof.Machine
end
